-- ==== Sys2Proof/Word.lean ====
section
/-!
DEFINITION. Sys2Proof/Word.lean: the word types of the KX1 and the field arithmetic of R6 (bit 0 is the least
significant bit, a field [m:l] spans bits m down to l, bytes are little-endian).
-/

namespace Sys2Proof

/-- A byte (R6). -/
abbrev Byte := BitVec 8

/-- A scalar register, a CSR and a LOCAL address while it is computed: 64 bits (R9, R11). -/
abbrev Word := BitVec 64

/-- The field [lo + len - 1 : lo] of `w`, as a number (R6). -/
def field (w lo len : Nat) : Nat := w / 2 ^ lo % 2 ^ len

/-- Bit `i` of `w` (R6). -/
def bitAt (w i : Nat) : Bool := w / 2 ^ i % 2 == 1

/-- The number 1 or 0 a bit stands for. -/
def b2n (b : Bool) : Nat := if b then 1 else 0

/-- A truth value as a 64-bit 0 or 1. -/
def b2w (b : Bool) : Word := if b then 1#64 else 0#64

end Sys2Proof
end

