-- ==== Sys2Proof/Syntax.lean ====
section
/-!
DEFINITION. Sys2Proof/Syntax.lean: the commands of the block, one constructor per row of the opcode table. An instruction
row carries the logical core it runs on and the fields of its word as R110 to R126 lay them out, reserved bits included
(`rsv…`), so that R113 can judge them; an event row carries what comes from outside the block (who writes, which link,
what a sensor reads, what another device answers).
-/

namespace Sys2Proof

/-- R79, R85: the two worlds. -/
inductive World where
  | P | T
  deriving DecidableEq, Repr

/-- Who makes a CSR access: the monitor, or a thread of a core (R10). -/
inductive Agent where
  | monitor
  | thread (c : BitVec 8) (t : BitVec 3)
  deriving DecidableEq, Repr

/-- R252, R276: what a code finds in a word it reads. -/
inductive Finding where
  | clean | corrected | uncorrectable
  deriving DecidableEq, Repr, Inhabited

/-- R267, R276: what the read of a channel word meets: the report of the stack's internal ECC, and the symbols of the KX1's own code that are
in error beyond it (0 to 31: the DQ lanes; 32 to 35: the check symbols). -/
structure WordErr where
  internal : Finding
  symbols : List (BitVec 6)
  deriving DecidableEq, Repr

/-- R304: what the monitor mirrors: a changed descriptor, or an object of this device that it moves. -/
inductive MirrorOf where
  | segment (cx : BitVec 6) (sg : BitVec 4)
  | object (obj : BitVec 32)
  deriving DecidableEq, Repr

/-- R271: who has requests in flight at the LLC halves: a core, the transfer engines or the fabric memory agent of an I/O die (true:
IO-S), or a service cluster (true: SCB). -/
inductive MemUser where
  | core (c : BitVec 8)
  | engines (south : Bool)
  | agent (south : Bool)
  | cluster (b : Bool)
  deriving DecidableEq, Repr

/-- R271, R273: who makes a request at an LLC half, whether the access is a vector gather or scatter element, and whether it is urgent. -/
structure LlcAsk where
  user : MemUser
  elem : Bool
  urgent : Bool
  deriving DecidableEq, Repr

/-- R344: the header flit of a packet and its data bytes. The row that names the packet gives OP; NFL follows from the data. -/
structure Packet where
  tc : BitVec 2
  level : BitVec 4
  replay : Bool
  world : World
  /-- LVL: the requester is at level S. -/
  lvlS : Bool
  cls : BitVec 4
  dest : BitVec 14
  src : BitVec 14
  bytes : BitVec 12
  agent : BitVec 10
  seq : BitVec 22
  lwm : BitVec 22
  plane : Bool
  detour : Bool
  vc : Bool
  hops : BitVec 6
  addr : BitVec 48
  fn : BitVec 16
  operand : Word
  cap : BitVec 256
  data : List Byte
  deriving DecidableEq, Repr

/-- R480: a flit the customer chip sends. -/
structure ExtFlit where
  ty : BitVec 4
  core : BitVec 8
  thread : BitVec 3
  seq : BitVec 8
  result : Word
  lseq : BitVec 8
  ack : BitVec 8
  nak : Bool
  cred : BitVec 12
  deriving DecidableEq, Repr

/-- R450: one thread of a job description. -/
structure ThreadInit where
  c : BitVec 8
  t : BitVec 3
  cx : BitVec 6
  pc : BitVec 18
  dsp : Word
  /-- R396: its default declaration, as 64-bit words. -/
  decl : Option (List Word)
  deriving DecidableEq, Repr

/-- R307: an object that a job description asks the loader to create: number, base, length and the worlds it permits. -/
structure ObjInit where
  obj : BitVec 32
  base : BitVec 48
  len : BitVec 48
  permP : Bool
  permT : Bool
  /-- The rights of its capabilities beside DLG, and the LOCAL addresses at which they are placed. -/
  rights : BitVec 16
  capP : BitVec 48
  capT : BitVec 48
  deriving DecidableEq, Repr

/-- R450: a job description, section by section. -/
structure JobDesc where
  world : World
  /-- Its signature verifies under this owner slot (R450); none where it verifies under no slot. -/
  slot : Option (BitVec 2)
  /-- Contexts with their descriptors: segment number and eight words each. -/
  ctxs : List (BitVec 6 × List (BitVec 4 × List Word))
  streams : List (BitVec 14 × BitVec 6)
  /-- CORE_WORLD and CORE_MODE by core. -/
  cores : List (BitVec 8 × Word × Word)
  /-- Words 0 to 3 of each collective group. -/
  groups : List (BitVec 6 × List Word)
  seeds : List (BitVec 6 × Word)
  objs : List ObjInit
  /-- Code and data to be copied: LOCAL address and bytes. -/
  copies : List (BitVec 48 × List Byte)
  threads : List ThreadInit
  /-- R402: the recovery entry of a context: a thread start. -/
  recovery : List ThreadInit
  /-- R471: job files: number, namespace, first byte, length, OUTPUT. -/
  files : List (BitVec 8 × BitVec 8 × Word × Word × Bool)
  /-- R497: the job asks for boost. -/
  boost : Bool
  /-- What the Strainer runs find beyond the device: reason code and STR_WHERE of each failing check (R458). -/
  env : List (BitVec 8 × Word)
  deriving DecidableEq, Repr

/-- The commands: one constructor per row of the opcode table. -/
inductive Instr where
  /-- R115. Scalar ALU adds Sa and Sb modulo 2^64 into Sd. -/
  | add (c : BitVec 8) (d : BitVec 5) (a : BitVec 5) (b : BitVec 5)
  /-- R115. Scalar ALU subtracts Sb from Sa into Sd. -/
  | sub (c : BitVec 8) (d : BitVec 5) (a : BitVec 5) (b : BitVec 5)
  /-- R115. Scalar bitwise AND of Sa and Sb into Sd. -/
  | andS (c : BitVec 8) (d : BitVec 5) (a : BitVec 5) (b : BitVec 5)
  /-- R115. Scalar bitwise OR of Sa and Sb into Sd. -/
  | orS (c : BitVec 8) (d : BitVec 5) (a : BitVec 5) (b : BitVec 5)
  /-- R115. Scalar bitwise XOR of Sa and Sb into Sd. -/
  | xorS (c : BitVec 8) (d : BitVec 5) (a : BitVec 5) (b : BitVec 5)
  /-- R115. Shifts Sa left by Sb[5:0] into Sd. -/
  | sll (c : BitVec 8) (d : BitVec 5) (a : BitVec 5) (b : BitVec 5)
  /-- R115. Shifts Sa right logically by Sb[5:0] into Sd. -/
  | srl (c : BitVec 8) (d : BitVec 5) (a : BitVec 5) (b : BitVec 5)
  /-- R115. Shifts Sa right arithmetically by Sb[5:0] into Sd. -/
  | sra (c : BitVec 8) (d : BitVec 5) (a : BitVec 5) (b : BitVec 5)
  /-- R115. Rotates Sa right by Sb[5:0] into Sd. -/
  | rotr (c : BitVec 8) (d : BitVec 5) (a : BitVec 5) (b : BitVec 5)
  /-- R115. Writes 1 to Sd if Sa is below Sb signed, else 0. -/
  | slt (c : BitVec 8) (d : BitVec 5) (a : BitVec 5) (b : BitVec 5)
  /-- R115. Writes 1 to Sd if Sa is below Sb unsigned, else 0. -/
  | sltu (c : BitVec 8) (d : BitVec 5) (a : BitVec 5) (b : BitVec 5)
  /-- R115. Writes the signed minimum of Sa and Sb to Sd. -/
  | minS (c : BitVec 8) (d : BitVec 5) (a : BitVec 5) (b : BitVec 5)
  /-- R115. Writes the signed maximum of Sa and Sb to Sd. -/
  | maxS (c : BitVec 8) (d : BitVec 5) (a : BitVec 5) (b : BitVec 5)
  /-- R115. Writes the unsigned minimum of Sa and Sb to Sd. -/
  | minu (c : BitVec 8) (d : BitVec 5) (a : BitVec 5) (b : BitVec 5)
  /-- R115. Writes the unsigned maximum of Sa and Sb to Sd. -/
  | maxu (c : BitVec 8) (d : BitVec 5) (a : BitVec 5) (b : BitVec 5)
  /-- R115. Counts leading zeros of Sa into Sd, 64 for zero. -/
  | clz (c : BitVec 8) (d : BitVec 5) (a : BitVec 5) (b : BitVec 5)
  /-- R115. Counts trailing zeros of Sa into Sd, 64 for zero. -/
  | ctz (c : BitVec 8) (d : BitVec 5) (a : BitVec 5) (b : BitVec 5)
  /-- R115. Counts set bits of Sa into Sd. -/
  | popc (c : BitVec 8) (d : BitVec 5) (a : BitVec 5) (b : BitVec 5)
  /-- R115. Sign-extends Sa[7:0] into Sd. -/
  | sextb (c : BitVec 8) (d : BitVec 5) (a : BitVec 5) (b : BitVec 5)
  /-- R115. Sign-extends Sa[15:0] into Sd. -/
  | sexth (c : BitVec 8) (d : BitVec 5) (a : BitVec 5) (b : BitVec 5)
  /-- R115. Sign-extends Sa[31:0] into Sd. -/
  | sextw (c : BitVec 8) (d : BitVec 5) (a : BitVec 5) (b : BitVec 5)
  /-- R115. Adds the sign-extended IMM16 to Sa into Sd. -/
  | addi (c : BitVec 8) (d : BitVec 5) (a : BitVec 5) (imm16 : BitVec 16)
  /-- R115. ANDs Sa with the zero-extended IMM16 into Sd. -/
  | andi (c : BitVec 8) (d : BitVec 5) (a : BitVec 5) (imm16 : BitVec 16)
  /-- R115. ORs Sa with the zero-extended IMM16 into Sd. -/
  | ori (c : BitVec 8) (d : BitVec 5) (a : BitVec 5) (imm16 : BitVec 16)
  /-- R115. XORs Sa with the zero-extended IMM16 into Sd. -/
  | xori (c : BitVec 8) (d : BitVec 5) (a : BitVec 5) (imm16 : BitVec 16)
  /-- R115. Signed compare of Sa with sign-extended IMM16 into Sd. -/
  | slti (c : BitVec 8) (d : BitVec 5) (a : BitVec 5) (imm16 : BitVec 16)
  /-- R115. Unsigned compare of Sa with sign-extended IMM16 into Sd. -/
  | sltiu (c : BitVec 8) (d : BitVec 5) (a : BitVec 5) (imm16 : BitVec 16)
  /-- R115. Shifts or rotates Sa by an immediate amount and kind into Sd. -/
  | shi (c : BitVec 8) (d : BitVec 5) (a : BitVec 5) (imm16 : BitVec 16)
  /-- R116. Writes the low 64 bits of Sa times Sb to Sd in 8 core clocks. -/
  | mul (c : BitVec 8) (d : BitVec 5) (a : BitVec 5) (b : BitVec 5)
  /-- R116. Writes the signed high 64 bits of the product to Sd. -/
  | mulh (c : BitVec 8) (d : BitVec 5) (a : BitVec 5) (b : BitVec 5)
  /-- R116. Writes the unsigned high 64 bits of the product to Sd. -/
  | mulhu (c : BitVec 8) (d : BitVec 5) (a : BitVec 5) (b : BitVec 5)
  /-- R116. Signed division truncating toward zero, never raising an exception. -/
  | div (c : BitVec 8) (d : BitVec 5) (a : BitVec 5) (b : BitVec 5)
  /-- R116. Unsigned division, all ones on division by zero. -/
  | divu (c : BitVec 8) (d : BitVec 5) (a : BitVec 5) (b : BitVec 5)
  /-- R116. Signed remainder, the dividend on division by zero. -/
  | rem (c : BitVec 8) (d : BitVec 5) (a : BitVec 5) (b : BitVec 5)
  /-- R116. Unsigned remainder, the dividend on division by zero. -/
  | remu (c : BitVec 8) (d : BitVec 5) (a : BitVec 5) (b : BitVec 5)
  /-- R117. Adds the 44-bit long immediate to Sa into Sd. -/
  | addiL (c : BitVec 8) (d : BitVec 5) (a : BitVec 5) (immHi : BitVec 12) (immLo : BitVec 32)
  /-- R117. ANDs Sa with the long immediate into Sd. -/
  | andiL (c : BitVec 8) (d : BitVec 5) (a : BitVec 5) (immHi : BitVec 12) (immLo : BitVec 32)
  /-- R117. ORs Sa with the long immediate into Sd. -/
  | oriL (c : BitVec 8) (d : BitVec 5) (a : BitVec 5) (immHi : BitVec 12) (immLo : BitVec 32)
  /-- R117. XORs Sa with the long immediate into Sd. -/
  | xoriL (c : BitVec 8) (d : BitVec 5) (a : BitVec 5) (immHi : BitVec 12) (immLo : BitVec 32)
  /-- R117. Places IMMLO[19:0] above Sa[43:0] into Sd. -/
  | lihL (c : BitVec 8) (d : BitVec 5) (a : BitVec 5) (immHi : BitVec 12) (immLo : BitVec 32)
  /-- R117. Loads 8 bytes from Sa plus the long immediate into Sd. -/
  | ldL (c : BitVec 8) (d : BitVec 5) (a : BitVec 5) (immHi : BitVec 12) (immLo : BitVec 32)
  /-- R117. Stores Sd as 8 bytes to Sa plus the long immediate. -/
  | stL (c : BitVec 8) (d : BitVec 5) (a : BitVec 5) (immHi : BitVec 12) (immLo : BitVec 32)
  /-- R118. Loads 1 to 8 bytes at Sa plus scaled offset into Sd, switching thread if beyond the scratchpad. -/
  | ld (c : BitVec 8) (d : BitVec 5) (a : BitVec 5) (sz : BitVec 2) (u : Bool) (hint : BitVec 4) (off9 : BitVec 9)
  /-- R118. Stores 1 to 8 bytes of Sd, directly to the scratchpad or posted to the store buffer. -/
  | st (c : BitVec 8) (d : BitVec 5) (a : BitVec 5) (sz : BitVec 2) (u : Bool) (hint : BitVec 4) (off9 : BitVec 9)
  /-- R119. Atomically adds Sb to memory at Sa, returning the old value. -/
  | aadd (c : BitVec 8) (d : BitVec 5) (a : BitVec 5) (b : BitVec 5) (size : BitVec 2) (rsv5 : BitVec 5)
  /-- R119. Atomic AND with Sb at Sa, returning the old value. -/
  | aand (c : BitVec 8) (d : BitVec 5) (a : BitVec 5) (b : BitVec 5) (size : BitVec 2) (rsv5 : BitVec 5)
  /-- R119. Atomic OR with Sb at Sa, returning the old value. -/
  | aor (c : BitVec 8) (d : BitVec 5) (a : BitVec 5) (b : BitVec 5) (size : BitVec 2) (rsv5 : BitVec 5)
  /-- R119. Atomic XOR with Sb at Sa, returning the old value. -/
  | axor (c : BitVec 8) (d : BitVec 5) (a : BitVec 5) (b : BitVec 5) (size : BitVec 2) (rsv5 : BitVec 5)
  /-- R119. Atomically swaps Sb into memory at Sa. -/
  | aswap (c : BitVec 8) (d : BitVec 5) (a : BitVec 5) (b : BitVec 5) (size : BitVec 2) (rsv5 : BitVec 5)
  /-- R119. Atomic compare-and-swap against the prior Sd. -/
  | acas (c : BitVec 8) (d : BitVec 5) (a : BitVec 5) (b : BitVec 5) (size : BitVec 2) (rsv5 : BitVec 5)
  /-- R119. Atomic signed minimum with Sb at Sa. -/
  | amin (c : BitVec 8) (d : BitVec 5) (a : BitVec 5) (b : BitVec 5) (size : BitVec 2) (rsv5 : BitVec 5)
  /-- R119. Atomic signed maximum with Sb at Sa. -/
  | amax (c : BitVec 8) (d : BitVec 5) (a : BitVec 5) (b : BitVec 5) (size : BitVec 2) (rsv5 : BitVec 5)
  /-- R119. Atomic unsigned minimum with Sb at Sa. -/
  | aminu (c : BitVec 8) (d : BitVec 5) (a : BitVec 5) (b : BitVec 5) (size : BitVec 2) (rsv5 : BitVec 5)
  /-- R119. Atomic unsigned maximum with Sb at Sa. -/
  | amaxu (c : BitVec 8) (d : BitVec 5) (a : BitVec 5) (b : BitVec 5) (size : BitVec 2) (rsv5 : BitVec 5)
  /-- R120. Branches relative if Sa equals Sb. -/
  | beq (c : BitVec 8) (a : BitVec 5) (b : BitVec 5) (off16 : BitVec 16)
  /-- R120. Branches relative if Sa differs from Sb. -/
  | bne (c : BitVec 8) (a : BitVec 5) (b : BitVec 5) (off16 : BitVec 16)
  /-- R120. Branches relative if Sa is below Sb signed. -/
  | blt (c : BitVec 8) (a : BitVec 5) (b : BitVec 5) (off16 : BitVec 16)
  /-- R120. Branches relative if Sa is at least Sb signed. -/
  | bge (c : BitVec 8) (a : BitVec 5) (b : BitVec 5) (off16 : BitVec 16)
  /-- R120. Branches relative if Sa is below Sb unsigned. -/
  | bltu (c : BitVec 8) (a : BitVec 5) (b : BitVec 5) (off16 : BitVec 16)
  /-- R120. Branches relative if Sa is at least Sb unsigned. -/
  | bgeu (c : BitVec 8) (a : BitVec 5) (b : BitVec 5) (off16 : BitVec 16)
  /-- R88. Pushes the return address on the hardware return stack and jumps relative, or raises RSOVF. -/
  | call (c : BitVec 8) (off26 : BitVec 26)
  /-- R120. Jumps relative by OFF26 words. -/
  | jmp (c : BitVec 8) (off26 : BitVec 26)
  /-- R106. Waits until every earlier store of the thread is visible everywhere. -/
  | fence (c : BitVec 8)
  /-- R88. Pops the return stack into PC, or raises RSUNF at depth zero. -/
  | ret (c : BitVec 8)
  /-- R121. Jumps to the address in Sa[17:0]. -/
  | jmpr (c : BitVec 8) (a : BitVec 5)
  /-- R121. Pushes PC + 4 and jumps to Sa[17:0]. -/
  | callr (c : BitVec 8) (a : BitVec 5)
  /-- R121. Fences, stops the thread, notifies the monitor and releases the matrix unit, abandoning suspended passes. -/
  | stop (c : BitVec 8)
  /-- R92. Returns from an exception, restoring PC, level and mask and resuming suspended passes. -/
  | xret (c : BitVec 8)
  /-- R89. Level S moves the oldest return-stack entries to memory. -/
  | rsspill (c : BitVec 8) (a : BitVec 5) (b : BitVec 5)
  /-- R89. Level S loads return-stack entries from memory below the oldest. -/
  | rsfill (c : BitVec 8) (a : BitVec 5) (b : BitVec 5)
  /-- R91. Enters level S of the same world with the trap number recorded. -/
  | trap (c : BitVec 8) (n : BitVec 8) (rsv18 : BitVec 18)
  /-- R86. Level S calls a monitor service and waits for its reply in S1; unknown numbers return all ones. -/
  | mcall (c : BitVec 8) (n : BitVec 8) (rsv18 : BitVec 18)
  /-- R311. Monitor service writes a narrowed capability of the same object. -/
  | derive (c : BitVec 8) (t : BitVec 3)
  /-- R312. Monitor service increments an object's epoch, drains old requests and writes a fresh capability or retires the object. -/
  | revoke (c : BitVec 8) (t : BitVec 3)
  /-- R311. Monitor service runs the capability checks without an access. -/
  | check (c : BitVec 8) (t : BitVec 3)
  /-- R472. Monitor service accepts, refuses or defers a job-file read or write request. -/
  | iosubmit (c : BitVec 8) (t : BitVec 3)
  /-- R122. Reads a thread register into Sd. -/
  | mftr (c : BitVec 8) (d : BitVec 5) (trn : BitVec 8) (rsv7 : BitVec 7)
  /-- R122. Writes Sa to a thread register under its access rules. -/
  | mttr (c : BitVec 8) (a : BitVec 5) (trn : BitVec 8) (rsv7 : BitVec 7)
  /-- R373. Applies a SIGNAL to a sync object by its type. -/
  | signal (c : BitVec 8) (d : BitVec 5) (a : BitVec 5) (b : BitVec 5)
  /-- R373. Applies a FETCHADD to a sync object and returns the result. -/
  | fetchadd (c : BitVec 8) (d : BitVec 5) (a : BitVec 5) (b : BitVec 5)
  /-- R377. Tests a sync-object condition and completes or makes a waiter entry with a deadline. -/
  | waits (c : BitVec 8) (d : BitVec 5) (a : BitVec 5) (b : BitVec 5)
  /-- R380. Counts an arrival at a barrier object and waits for the generation. -/
  | barrier (c : BitVec 8) (d : BitVec 5) (a : BitVec 5) (b : BitVec 5)
  /-- R395. Declares a local steep point; with a request pending, latches the declaration and parks the thread. -/
  | steep (c : BitVec 8) (d : BitVec 5) (a : BitVec 5) (imm16 : BitVec 16)
  /-- R160. Vector floating-point add, correctly rounded once. -/
  | vadd (c : BitVec 8) (vd : BitVec 5) (va : BitVec 5) (vb : BitVec 5) (rm : BitVec 3) (mk : BitVec 4) (sf : Bool)
  /-- R160. Vector floating-point subtract. -/
  | vsub (c : BitVec 8) (vd : BitVec 5) (va : BitVec 5) (vb : BitVec 5) (rm : BitVec 3) (mk : BitVec 4) (sf : Bool)
  /-- R160. Vector floating-point multiply. -/
  | vmul (c : BitVec 8) (vd : BitVec 5) (va : BitVec 5) (vb : BitVec 5) (rm : BitVec 3) (mk : BitVec 4) (sf : Bool)
  /-- R161. Vector floating-point divide, correctly rounded at 1/8 rate. -/
  | vdiv (c : BitVec 8) (vd : BitVec 5) (va : BitVec 5) (vb : BitVec 5) (rm : BitVec 3) (mk : BitVec 4) (sf : Bool)
  /-- R161. Vector floating-point square root. -/
  | vsqrt (c : BitVec 8) (vd : BitVec 5) (va : BitVec 5) (vb : BitVec 5) (rm : BitVec 3) (mk : BitVec 4) (sf : Bool)
  /-- R162. Vector IEEE minimum. -/
  | vmin (c : BitVec 8) (vd : BitVec 5) (va : BitVec 5) (vb : BitVec 5) (rm : BitVec 3) (mk : BitVec 4) (sf : Bool)
  /-- R162. Vector IEEE maximum. -/
  | vmax (c : BitVec 8) (vd : BitVec 5) (va : BitVec 5) (vb : BitVec 5) (rm : BitVec 3) (mk : BitVec 4) (sf : Bool)
  /-- R162. Vector IEEE minimumNumber. -/
  | vminnum (c : BitVec 8) (vd : BitVec 5) (va : BitVec 5) (vb : BitVec 5) (rm : BitVec 3) (mk : BitVec 4) (sf : Bool)
  /-- R162. Vector IEEE maximumNumber. -/
  | vmaxnum (c : BitVec 8) (vd : BitVec 5) (va : BitVec 5) (vb : BitVec 5) (rm : BitVec 3) (mk : BitVec 4) (sf : Bool)
  /-- R162. Clears the sign bit of each element. -/
  | vabs (c : BitVec 8) (vd : BitVec 5) (va : BitVec 5) (vb : BitVec 5) (rm : BitVec 3) (mk : BitVec 4) (sf : Bool)
  /-- R162. Flips the sign bit of each element. -/
  | vneg (c : BitVec 8) (vd : BitVec 5) (va : BitVec 5) (vb : BitVec 5) (rm : BitVec 3) (mk : BitVec 4) (sf : Bool)
  /-- R162. Copies the sign of Vb onto Va. -/
  | vcopysign (c : BitVec 8) (vd : BitVec 5) (va : BitVec 5) (vb : BitVec 5) (rm : BitVec 3) (mk : BitVec 4) (sf : Bool)
  /-- R165. Vector integer add, wrapping. -/
  | viadd (c : BitVec 8) (vd : BitVec 5) (va : BitVec 5) (vb : BitVec 5) (rm : BitVec 3) (mk : BitVec 4) (sf : Bool)
  /-- R165. Vector integer subtract, wrapping. -/
  | visub (c : BitVec 8) (vd : BitVec 5) (va : BitVec 5) (vb : BitVec 5) (rm : BitVec 3) (mk : BitVec 4) (sf : Bool)
  /-- R165. Vector integer multiply, low bits. -/
  | vimul (c : BitVec 8) (vd : BitVec 5) (va : BitVec 5) (vb : BitVec 5) (rm : BitVec 3) (mk : BitVec 4) (sf : Bool)
  /-- R165. Vector signed multiply, high bits. -/
  | vimulh (c : BitVec 8) (vd : BitVec 5) (va : BitVec 5) (vb : BitVec 5) (rm : BitVec 3) (mk : BitVec 4) (sf : Bool)
  /-- R165. Vector unsigned multiply, high bits. -/
  | vimulhu (c : BitVec 8) (vd : BitVec 5) (va : BitVec 5) (vb : BitVec 5) (rm : BitVec 3) (mk : BitVec 4) (sf : Bool)
  /-- R165. Vector bitwise AND. -/
  | vand (c : BitVec 8) (vd : BitVec 5) (va : BitVec 5) (vb : BitVec 5) (rm : BitVec 3) (mk : BitVec 4) (sf : Bool)
  /-- R165. Vector bitwise OR. -/
  | vor (c : BitVec 8) (vd : BitVec 5) (va : BitVec 5) (vb : BitVec 5) (rm : BitVec 3) (mk : BitVec 4) (sf : Bool)
  /-- R165. Vector bitwise XOR. -/
  | vxor (c : BitVec 8) (vd : BitVec 5) (va : BitVec 5) (vb : BitVec 5) (rm : BitVec 3) (mk : BitVec 4) (sf : Bool)
  /-- R165. Vector shift left by element amounts. -/
  | vshl (c : BitVec 8) (vd : BitVec 5) (va : BitVec 5) (vb : BitVec 5) (rm : BitVec 3) (mk : BitVec 4) (sf : Bool)
  /-- R165. Vector logical shift right. -/
  | vshr (c : BitVec 8) (vd : BitVec 5) (va : BitVec 5) (vb : BitVec 5) (rm : BitVec 3) (mk : BitVec 4) (sf : Bool)
  /-- R165. Vector arithmetic shift right. -/
  | vsra (c : BitVec 8) (vd : BitVec 5) (va : BitVec 5) (vb : BitVec 5) (rm : BitVec 3) (mk : BitVec 4) (sf : Bool)
  /-- R165. Vector signed integer minimum. -/
  | vimin (c : BitVec 8) (vd : BitVec 5) (va : BitVec 5) (vb : BitVec 5) (rm : BitVec 3) (mk : BitVec 4) (sf : Bool)
  /-- R165. Vector signed integer maximum. -/
  | vimax (c : BitVec 8) (vd : BitVec 5) (va : BitVec 5) (vb : BitVec 5) (rm : BitVec 3) (mk : BitVec 4) (sf : Bool)
  /-- R165. Vector unsigned integer minimum. -/
  | viminu (c : BitVec 8) (vd : BitVec 5) (va : BitVec 5) (vb : BitVec 5) (rm : BitVec 3) (mk : BitVec 4) (sf : Bool)
  /-- R165. Vector unsigned integer maximum. -/
  | vimaxu (c : BitVec 8) (vd : BitVec 5) (va : BitVec 5) (vb : BitVec 5) (rm : BitVec 3) (mk : BitVec 4) (sf : Bool)
  /-- R154. Vector FP equality compare into a mask. -/
  | feq (c : BitVec 8) (vd : BitVec 5) (va : BitVec 5) (vb : BitVec 5) (rm : BitVec 3) (mk : BitVec 4)
  /-- R154. Vector FP inequality compare into a mask. -/
  | fne (c : BitVec 8) (vd : BitVec 5) (va : BitVec 5) (vb : BitVec 5) (rm : BitVec 3) (mk : BitVec 4)
  /-- R154. Vector FP less-than compare into a mask. -/
  | flt (c : BitVec 8) (vd : BitVec 5) (va : BitVec 5) (vb : BitVec 5) (rm : BitVec 3) (mk : BitVec 4)
  /-- R154. Vector FP less-or-equal compare into a mask. -/
  | fle (c : BitVec 8) (vd : BitVec 5) (va : BitVec 5) (vb : BitVec 5) (rm : BitVec 3) (mk : BitVec 4)
  /-- R154. Vector FP greater-than compare into a mask. -/
  | fgt (c : BitVec 8) (vd : BitVec 5) (va : BitVec 5) (vb : BitVec 5) (rm : BitVec 3) (mk : BitVec 4)
  /-- R154. Vector FP greater-or-equal compare into a mask. -/
  | fge (c : BitVec 8) (vd : BitVec 5) (va : BitVec 5) (vb : BitVec 5) (rm : BitVec 3) (mk : BitVec 4)
  /-- R154. Vector FP unordered test into a mask. -/
  | funord (c : BitVec 8) (vd : BitVec 5) (va : BitVec 5) (vb : BitVec 5) (rm : BitVec 3) (mk : BitVec 4)
  /-- R154. Vector integer equality compare into a mask. -/
  | ieq (c : BitVec 8) (vd : BitVec 5) (va : BitVec 5) (vb : BitVec 5) (rm : BitVec 3) (mk : BitVec 4)
  /-- R154. Vector integer inequality compare into a mask. -/
  | ine (c : BitVec 8) (vd : BitVec 5) (va : BitVec 5) (vb : BitVec 5) (rm : BitVec 3) (mk : BitVec 4)
  /-- R154. Vector signed less-than compare into a mask. -/
  | ilt (c : BitVec 8) (vd : BitVec 5) (va : BitVec 5) (vb : BitVec 5) (rm : BitVec 3) (mk : BitVec 4)
  /-- R154. Vector signed less-or-equal compare into a mask. -/
  | ile (c : BitVec 8) (vd : BitVec 5) (va : BitVec 5) (vb : BitVec 5) (rm : BitVec 3) (mk : BitVec 4)
  /-- R154. Vector unsigned less-than compare into a mask. -/
  | iltu (c : BitVec 8) (vd : BitVec 5) (va : BitVec 5) (vb : BitVec 5) (rm : BitVec 3) (mk : BitVec 4)
  /-- R154. Vector unsigned less-or-equal compare into a mask. -/
  | ileu (c : BitVec 8) (vd : BitVec 5) (va : BitVec 5) (vb : BitVec 5) (rm : BitVec 3) (mk : BitVec 4)
  /-- R166. Widening BF16 multiply to FP32, optionally accumulating. -/
  | vwmulBf (c : BitVec 8) (vd : BitVec 5) (va : BitVec 5) (vb : BitVec 5) (rm : BitVec 3) (mk : BitVec 4) (accf : Bool)
  /-- R166. Widening FP32 multiply to FP64, optionally accumulating. -/
  | vwmulS (c : BitVec 8) (vd : BitVec 5) (va : BitVec 5) (vb : BitVec 5) (rm : BitVec 3) (mk : BitVec 4) (accf : Bool)
  /-- R169. Widening INT16 multiply to INT32, optionally accumulating. -/
  | vwmulH (c : BitVec 8) (vd : BitVec 5) (va : BitVec 5) (vb : BitVec 5) (rm : BitVec 3) (mk : BitVec 4) (accf : Bool)
  /-- R167. BF16 pair dot product rounded once to FP32. -/
  | vdot2 (c : BitVec 8) (vd : BitVec 5) (va : BitVec 5) (vb : BitVec 5) (rm : BitVec 3) (mk : BitVec 4) (accf : Bool)
  /-- R167. FP8 quad dot product rounded once to FP32. -/
  | vdot4 (c : BitVec 8) (vd : BitVec 5) (va : BitVec 5) (vb : BitVec 5) (rm : BitVec 3) (mk : BitVec 4) (accf : Bool)
  /-- R168. Block-scaled FP4 octet dot product to FP32. -/
  | vdot8 (c : BitVec 8) (vd : BitVec 5) (va : BitVec 5) (vb : BitVec 5) (rm : BitVec 3) (mk : BitVec 4) (accf : Bool)
  /-- R169. INT8 quad dot product to INT32, wrapping. -/
  | vdoti8 (c : BitVec 8) (vd : BitVec 5) (va : BitVec 5) (vb : BitVec 5) (rm : BitVec 3) (mk : BitVec 4) (accf : Bool)
  /-- R170. Converts elements from VFMT to TFMT, quantising MX blocks. -/
  | vcvt (c : BitVec 8) (vd : BitVec 5) (va : BitVec 5) (tfmt : BitVec 4) (sat : Bool) (rm : BitVec 3) (mk : BitVec 4) (rsv4 : BitVec 4)
  /-- R160. Vector fused multiply-add into Vd with one rounding. -/
  | vfma (c : BitVec 8) (vd : BitVec 5) (va : BitVec 5) (vb : BitVec 5) (rm : BitVec 3) (mk : BitVec 4) (negp : Bool) (negc : Bool) (rsv2 : BitVec 2)
  /-- R171. Permutes elements of Va by indices in Vb. -/
  | vpermute (c : BitVec 8) (vd : BitVec 5) (va : BitVec 5) (vb : BitVec 5) (rm : BitVec 3) (mk : BitVec 4)
  /-- R171. Reverses the first VL elements. -/
  | vrev (c : BitVec 8) (vd : BitVec 5) (va : BitVec 5) (vb : BitVec 5) (rm : BitVec 3) (mk : BitVec 4)
  /-- R171. Interleaves halves of Va and Vb. -/
  | vzip (c : BitVec 8) (vd : BitVec 5) (va : BitVec 5) (vb : BitVec 5) (rm : BitVec 3) (mk : BitVec 4)
  /-- R171. De-interleaves the concatenation of Va and Vb. -/
  | vunzip (c : BitVec 8) (vd : BitVec 5) (va : BitVec 5) (vb : BitVec 5) (rm : BitVec 3) (mk : BitVec 4)
  /-- R171. Packs mask-selected elements to the front. -/
  | vcompress (c : BitVec 8) (vd : BitVec 5) (va : BitVec 5) (vb : BitVec 5) (rm : BitVec 3) (mk : BitVec 4)
  /-- R171. Spreads leading elements into mask-selected places. -/
  | vexpand (c : BitVec 8) (vd : BitVec 5) (va : BitVec 5) (vb : BitVec 5) (rm : BitVec 3) (mk : BitVec 4)
  /-- R172. Exact sum of active elements rounded once into Fd. -/
  | vrsum (c : BitVec 8) (vd : BitVec 5) (va : BitVec 5) (accn : BitVec 5) (rm : BitVec 3) (mk : BitVec 4)
  /-- R173. Minimum of active elements into Fd. -/
  | vrmin (c : BitVec 8) (vd : BitVec 5) (va : BitVec 5) (accn : BitVec 5) (rm : BitVec 3) (mk : BitVec 4)
  /-- R173. Maximum of active elements into Fd. -/
  | vrmax (c : BitVec 8) (vd : BitVec 5) (va : BitVec 5) (accn : BitVec 5) (rm : BitVec 3) (mk : BitVec 4)
  /-- R174. Hands active elements exactly into a reduction-unit accumulator. -/
  | vrsumHo (c : BitVec 8) (vd : BitVec 5) (va : BitVec 5) (accn : BitVec 5) (rm : BitVec 3) (mk : BitVec 4)
  /-- R148. Sets VL to the minimum of Sa and VLMAX and writes Sd. -/
  | vsetvl (c : BitVec 8) (d : BitVec 5) (a : BitVec 5)
  /-- R148. Sets VFMT and clips VL. -/
  | vsetfmt (c : BitVec 8) (a : BitVec 5)
  /-- R155. ANDs two masks over all 1,024 bits. -/
  | mand (c : BitVec 8) (vd : BitVec 5) (va : BitVec 5) (vb : BitVec 5)
  /-- R155. ORs two masks. -/
  | mor (c : BitVec 8) (vd : BitVec 5) (va : BitVec 5) (vb : BitVec 5)
  /-- R155. XORs two masks. -/
  | mxor (c : BitVec 8) (vd : BitVec 5) (va : BitVec 5) (vb : BitVec 5)
  /-- R155. Inverts a mask. -/
  | mnot (c : BitVec 8) (vd : BitVec 5) (va : BitVec 5) (vb : BitVec 5)
  /-- R155. Counts true mask bits below VL into Sd. -/
  | mcount (c : BitVec 8) (d : BitVec 5) (va : BitVec 5)
  /-- R175. Unit-stride or strided vector load. -/
  | vmemLoad (c : BitVec 8) (vd : BitVec 5) (a : BitVec 5) (b : BitVec 5) (hint : BitVec 4) (mk : BitVec 4) (idx64 : Bool) (rsv1 : Bool)
  /-- R175. Unit-stride or strided vector store. -/
  | vmemStore (c : BitVec 8) (vd : BitVec 5) (a : BitVec 5) (b : BitVec 5) (hint : BitVec 4) (mk : BitVec 4) (idx64 : Bool) (rsv1 : Bool)
  /-- R176. Gathers elements at base plus offsets in Vb. -/
  | vgather (c : BitVec 8) (vd : BitVec 5) (a : BitVec 5) (vb : BitVec 5) (hint : BitVec 4) (mk : BitVec 4) (idx64 : Bool) (rsv1 : Bool)
  /-- R177. Scatters elements in ascending order to base plus offsets. -/
  | vscatter (c : BitVec 8) (vd : BitVec 5) (a : BitVec 5) (vb : BitVec 5) (hint : BitVec 4) (mk : BitVec 4) (idx64 : Bool) (rsv1 : Bool)
  /-- R156. The vector unit starts the next queued instruction's pass after the previous pass ends. -/
  | vectorPassStart (c : BitVec 8)
  /-- R157. A pass writes its destination whole at its write clock and clears the scoreboard bit. -/
  | vectorWrite (c : BitVec 8)
  /-- R131. Checks and hands a tile to the loader, which fills the shadow bank. -/
  | mload (c : BitVec 8) (a : BitVec 5) (b : BitVec 5) (fmt : BitVec 4) (sp24 : Bool) (rsv11 : BitVec 11)
  /-- R131. The loader finishes writing the shadow bank and becomes free. -/
  | mloadLoadEnd (c : BitVec 8)
  /-- R184. Checks and queues a matrix pass over M streamed rows. -/
  | mpass (c : BitVec 8) (a : BitVec 5) (b : BitVec 5) (wait : BitVec 7) (sref : Bool) (rsv8 : BitVec 8)
  /-- R195. Queues an exchange of active and shadow banks, checking distances at hand-off. -/
  | mswap (c : BitVec 8) (wait : BitVec 7) (rsv10 : BitVec 10)
  /-- R188. Queues setting every lane-accumulator entry to the OP identity. -/
  | mzero (c : BitVec 8) (wait : BitVec 7) (rsv10 : BitVec 10)
  /-- R189. Reads and checks an 88-byte configuration block and queues it. -/
  | mcfg (c : BitVec 8) (a : BitVec 5) (wait : BitVec 7) (rsv10 : BitVec 10)
  /-- R128. Releases ownership of the matrix unit. -/
  | mrel (c : BitVec 8) (wait : BitVec 7) (rsv10 : BitVec 10)
  /-- R203. Queues a read-out of accumulator entries rounded into Vd. -/
  | mrd (c : BitVec 8) (vd : BitVec 5) (tfmt : BitVec 4) (sat : Bool) (rm : BitVec 3) (wait : BitVec 7) (rsv6 : BitVec 6)
  /-- R129. A queued matrix instruction takes effect at its computed effect clock. -/
  | matrixEffect (c : BitVec 8)
  /-- R192. A pass issues a row in its slots, on the fast or block-replay path. -/
  | matrixRowIssue (c : BitVec 8) (held : BitVec 32) (j : BitVec 12)
  /-- R208. A zero-map check resolves 8 clocks after its read, confirming or correcting a skip. -/
  | skipCheck (c : BitVec 8)
  /-- R265. The LLC half's predictor reply of stored block bits crosses into the core. -/
  | predictorReply (c : BitVec 8)
  /-- R265. At pass end the checked bits replace the predictor entry. -/
  | predictorUpdate (c : BitVec 8)
  /-- R204. The drain reads, clears, rounds and writes one completed entry. -/
  | drainRow (c : BitVec 8)
  /-- R205. After the last drained row, DSO is signalled once and flags ORed. -/
  | drainComplete (c : BitVec 8)
  /-- R215. A pass stops at its next boundary after an interrupt, exception or poison is due and records MXPROG. -/
  | mpassSuspend (c : BitVec 8)
  /-- R128. On ownership passing to the other world, banks and accumulators clear over 64 clocks. -/
  | matrixWorldClear (c : BitVec 8)
  /-- R221. Checks, latches and queues a stream program. -/
  | spass (c : BitVec 8) (a : BitVec 5) (b : BitVec 5) (wait : BitVec 7) (ref : Bool) (rsv8 : BitVec 8)
  /-- R236. Arms a stream program on a local sync object in the arm table. -/
  | sarm (c : BitVec 8) (a : BitVec 5) (b : BitVec 5) (rsv12 : BitVec 12)
  /-- R238. Frees the matching arm of the thread. -/
  | sdisarm (c : BitVec 8) (a : BitVec 5) (b : BitVec 5) (rsv12 : BitVec 12)
  /-- R237. A due firing of an arm enters the stream queue. -/
  | armFiring (c : BitVec 8)
  /-- R134. The stream engine starts the next queued pass at its start clock. -/
  | streamPassStart (c : BitVec 8)
  /-- R235. A pass reads a group of 256 positions and writes them L clocks later. -/
  | streamGroup (c : BitVec 8)
  /-- R235. At the final output write, flags are ORed and the completion SO is signalled. -/
  | streamPassComplete (c : BitVec 8)
  /-- R239. The running pass stops at its next group boundary and records SEPROG. -/
  | streamSuspend (c : BitVec 8)
  /-- R245. Sets an accumulator to canonical zero. -/
  | ruclr (c : BitVec 8) (d : BitVec 5) (a : BitVec 5) (acc6 : BitVec 6) (fmt : BitVec 4) (rm : BitVec 3)
  /-- R245. Adds a register's exact value into an accumulator. -/
  | ruaddv (c : BitVec 8) (d : BitVec 5) (a : BitVec 5) (acc6 : BitVec 6) (fmt : BitVec 4) (rm : BitVec 3)
  /-- R245. Merges an accumulator image from the scratchpad. -/
  | rumrg (c : BitVec 8) (d : BitVec 5) (a : BitVec 5) (acc6 : BitVec 6) (fmt : BitVec 4) (rm : BitVec 3)
  /-- R245. Writes an accumulator's image to the scratchpad. -/
  | ruspill (c : BitVec 8) (d : BitVec 5) (a : BitVec 5) (acc6 : BitVec 6) (fmt : BitVec 4) (rm : BitVec 3)
  /-- R245. Rounds an accumulator once into a register. -/
  | rurd (c : BitVec 8) (d : BitVec 5) (a : BitVec 5) (acc6 : BitVec 6) (fmt : BitVec 4) (rm : BitVec 3)
  /-- R244. Loads RU_CFG and RU_ROIDX, clearing accumulators when KIND changes. -/
  | rucfg (c : BitVec 8) (d : BitVec 5) (a : BitVec 5) (acc6 : BitVec 6) (fmt : BitVec 4) (rm : BitVec 3)
  /-- R244. Monitor changes the reduction unit's world, resetting store and configuration. -/
  | ruCtlWrite (c : BitVec 8) (v : Word)
  /-- R137. Forwards a request to the customer chip and waits for the reply. -/
  | extensionInstruction (c : BitVec 8) (maj2 : BitVec 2) (d : BitVec 5) (a : BitVec 5) (b : BitVec 5) (xfunc : BitVec 11)
  /-- R139. A reply crossing in by the deadline completes the instruction with RESULT. -/
  | extReply (c : BitVec 8) (t : BitVec 3) (seq : BitVec 8) (v : Word)
  /-- R139. At the deadline without reply the instruction raises EXTTO or writes zero. -/
  | extto (c : BitVec 8) (t : BitVec 3) (now : Word)
  /-- R140. A late reply is placed in XLATE and XLATEV or held in the port. -/
  | lateReply (c : BitVec 8) (t : BitVec 3) (seq : BitVec 8) (v : Word)
  /-- R140. Clearing VALID lets a held late reply move into the registers. -/
  | xlateValidClear (c : BitVec 8) (t : BitVec 3)
  /-- R76. A reply to an access beyond the scratchpad crosses in and the thread becomes ready. -/
  | accessReply (c : BitVec 8) (t : BitVec 3) (atc : Word)
  /-- R78. After 1,024 clocks without waiting a thread is switched out. -/
  | timesliceSwitch (c : BitVec 8)
  /-- R79. A 4,096-clock world-share window ends and counting restarts. -/
  | shareWindow (c : BitVec 8)
  /-- R102. A posted store drains from the store buffer in issue order. -/
  | storeDrain (c : BitVec 8) (t : BitVec 3)
  /-- R99. A thread takes the offered interrupt after its in-flight work reaches a boundary. -/
  | interruptEntry (c : BitVec 8) (t : BitVec 3)
  /-- R96. Writing 1 to a bit sets the software interrupt source pending. -/
  | icuSwiWrite (c : BitVec 8) (who : Agent) (v : Word)
  /-- R97. Writing 1 clears a pending source bit. -/
  | icuPendClear (c : BitVec 8) (who : Agent) (v : Word)
  /-- R96. TIME reaches a thread's deadline and its timer source becomes pending. -/
  | timerInterrupt (c : BitVec 8) (t : BitVec 3) (now : Word)
  /-- R96. A monitor message to a world sets its interrupt source pending. -/
  | monitorMessage (c : BitVec 8) (k3 : BitVec 3)
  /-- R484. The low input holds source 48 of every core pending. -/
  | extIntN (low : Bool)
  /-- R87. Monitor writes the world assignment, ignored if shares exceed 256 or running threads change. -/
  | coreWorldWrite (c : BitVec 8) (who : Agent) (v : Word)
  /-- R107. Monitor sets interleave mode, ignored while a thread runs. -/
  | coreModeWrite (c : BitVec 8) (who : Agent) (v : Word)
  /-- R108. In interleave mode the next thread in order runs one instruction or is passed. -/
  | interleaveTurn (c : BitVec 8)
  /-- R7. A store to a register with no behaviour of its own updates its fields under access codes. -/
  | csrWrite (who : Agent) (addr : Word) (v : Word)
  /-- R372. A store to VAL or TGT updates a sync object and evaluates waiters. -/
  | soStore (who : Agent) (so : BitVec 13) (tgt : Bool) (v : Word)
  /-- R371. A level-S store to SO_CFG; a type change ends waiters with result 3. -/
  | soCfgStore (who : Agent) (so : BitVec 13) (v : Word)
  /-- R378. A waiter whose deadline TIME reaches completes TIMEOUT, or a barrier waiter parks HELD. -/
  | waitsTimeout (so : BitVec 13) (idx : BitVec 12) (now : Word)
  /-- R385. CSO reaches CONTRIB and the combine unit merges staged images. -/
  | combineStart (g : BitVec 6)
  /-- R388. A member's exchange ends and the unit writes the result and signals DSO by KIND. -/
  | collectiveDone (g : BitVec 6)
  /-- R302. Broadcasts a range invalidation to all 274 engines. -/
  | cxInval1Write (who : Agent) (cx : BitVec 6) (v : Word)
  /-- R302. An engine drops entries, drains its accesses and signals the acknowledgement SO. -/
  | invalAck (cx : BitVec 6) (eng : BitVec 9)
  /-- R301. A write to a segment descriptor is applied, limited or triggers a Strainer run on EN. -/
  | segmentDescriptorWrite (who : Agent) (cx : BitVec 6) (sg : BitVec 4) (word : BitVec 3) (v : Word) (env : List (BitVec 8 × Word))
  /-- R327. The monitor changes PRESENT with a range invalidation and resumes streams. -/
  | presentChange (cx : BitVec 6) (sg : BitVec 4) (present : Bool)
  /-- R304. The monitor writes changed descriptors to host or remote mappers. `base`: where an object that it moves goes; a descriptor
  has no use for it. -/
  | segmentMirror (what : MirrorOf) (base : BitVec 48)
  /-- R318. Reads the descriptor and starts the stream or faults it. -/
  | tsStart (who : Agent) (ts : BitVec 14) (v : Word)
  /-- R328. Resumes a stream from its fault index, optionally delivering poison as zero. -/
  | tsResume (who : Agent) (ts : BitVec 14) (zpois : Bool)
  /-- R330. Makes a running stream cease issuing. -/
  | tsStop (who : Agent) (ts : BitVec 14)
  /-- R313. Returns a faulted or stopped stream to IDLE. -/
  | tsAbort (who : Agent) (ts : BitVec 14)
  /-- R320. The engine issues an element within the 256-element window. -/
  | elementIssue (ts : BitVec 14)
  /-- R320. An element's write becomes visible and the prefix advances. -/
  | elementDelivery (ts : BitVec 14) (idx48 : BitVec 48)
  /-- R326. Once nothing below the lowest faulting element is in flight, the stream enters FAULTED. -/
  | streamFault (ts : BitVec 14)
  /-- R330. After issued elements complete, the stream enters STOPPED. -/
  | streamStopped (ts : BitVec 14)
  /-- R253. The patrol scrubber reads and corrects one granule. -/
  | scratchpadPatrol (c : BitVec 8) (gran : BitVec 16) (finding : Finding)
  /-- R256. An uncorrectable instruction word at fetch starts a rollback and reload. -/
  | imemUncorrectable (c : BitVec 8)
  /-- R259. An LLC half takes a request, hitting or filling and evicting. -/
  | llcRequest (cx : BitVec 6) (wr : Bool) (la : BitVec 48) (len : BitVec 12) (cls : BitVec 4) (ask : LlcAsk)
      (finding : Finding)
  /-- R259. A pending sector fill completes and waiting hits complete. -/
  | llcFill (half : BitVec 3) (sset : BitVec 14) (way : BitVec 4) (sector : BitVec 2)
  /-- R272. A pseudo-channel scheduler performs its next column access. -/
  | hbmColumnAccess (stack : BitVec 3) (ch : BitVec 5) (pc : Bool) (good : Bool) (err : WordErr)
  /-- R267. A per-bank refresh preempts as timing requires. -/
  | hbmRefresh (stack : BitVec 3) (ch : BitVec 5) (pc : Bool) (bank : BitVec 6)
  /-- R275. After 4 failures a pseudo-channel retrains and retries once, or goes out of service. -/
  | pcRetrain (stack : BitVec 3) (ch : BitVec 5) (pc : Bool) (ok : Bool)
  /-- R280. The scrubber reads a channel word in its patrol. -/
  | hbmScrubRead (stack : BitVec 3) (ch : BitVec 5) (pc : Bool) (err : WordErr)
  /-- R281. A rebuild from full-steep shares writes the word back and releases waiting reads. -/
  | wordRebuild (la : BitVec 48) (bytes : List Byte)
  /-- R282. A corrected word is written back unless a newer write has arrived. -/
  | correctedWriteback (la : BitVec 48)
  /-- R284. A channel retrains one lane under load by rotation. -/
  | laneRetrain (stack : BitVec 3) (ch : BitVec 5) (lane : BitVec 7) (busy75 : Bool) (eye : BitVec 7)
  /-- R285. Every 10 ms a stack temperature is read, triggering retraining on a 10 °C move. -/
  | stackTempRead (stack : BitVec 3) (temp : BitVec 8)
  /-- R286. Maintenance command returns recorded and repaired rows. -/
  | readRepairList
  /-- R286. Maintenance command returns redundant lanes and eye widths. -/
  | readLaneMap
  /-- R286. Maintenance command adds a row for repair at next power-up. -/
  | scheduleRepair (stack : BitVec 3) (rowaddr : BitVec 32)
  /-- R286. Maintenance command returns the last stack temperatures. -/
  | readTemperatures
  /-- R263. Monitor writes memory configuration, ignoring invalid TWAYS. -/
  | memCfgWrite (who : Agent) (v : Word)
  /-- R333. A link trains, exchanges identity and level, and is admitted or stays DOWN. -/
  | linkTraining (l : BitVec 3) (num : BitVec 14) (lvl : BitVec 4) (bad : Option (BitVec 4))
  /-- R339. A receiver takes a retry group, passing good flits or sending NAK. -/
  | groupReceive (l : BitVec 3) (good : Bool) (gseq : BitVec 12) (ack : BitVec 12) (nak : Bool) (spsw : Bool)
  /-- R339. On NAK the sender resends from ACK + 1. -/
  | groupResend (l : BitVec 3) (ack : BitVec 12)
  /-- R340. After three CRC-storm intervals a lane is spared onto lane 16. -/
  | laneSpare (l : BitVec 3) (llane : BitVec 4)
  /-- R340. Both ends switch to lane 16 at the next group boundary. -/
  | spsw (l : BitVec 3)
  /-- R341. A link is declared lost and unacknowledged packets are re-injected by detour. -/
  | linkLoss (l : BitVec 3)
  /-- R343. An idle header flit fills a slot and is not forwarded. -/
  | nop (l : BitVec 3)
  /-- R345. A remote read request is checked and performed at the target. -/
  | rd (l : BitVec 3) (p : Packet)
  /-- R345. A read response completes the requester's read. -/
  | rdr (l : BitVec 3) (p : Packet)
  /-- R345. A remote write is checked, deduplicated and performed. -/
  | wr (l : BitVec 3) (p : Packet)
  /-- R346. A write response completes the requester's store. -/
  | wrr (l : BitVec 3) (p : Packet)
  /-- R345. A remote atomic is checked, deduplicated and performed. -/
  | atom (l : BitVec 3) (p : Packet)
  /-- R346. An atomic response returns the old value. -/
  | atomr (l : BitVec 3) (p : Packet)
  /-- R345. A remote sync-object operation is performed at the owner. -/
  | sync (l : BitVec 3) (p : Packet)
  /-- R346. A sync response returns the result. -/
  | syncr (l : BitVec 3) (p : Packet)
  /-- R387. A combine unit accepts and merges an exchange partial, discarding duplicates. -/
  | comb (l : BitVec 3) (p : Packet)
  /-- R388. A broadcast result is received, passed on and written. -/
  | combr (l : BitVec 3) (p : Packet)
  /-- R345. A monitor message request is received in TC3. -/
  | svc (l : BitVec 3) (p : Packet)
  /-- R345. A monitor message response is received in TC3. -/
  | svcr (l : BitVec 3) (p : Packet)
  /-- R367. A time message between pot masters adjusts TIME. -/
  | tsync (l : BitVec 3) (p : Packet)
  /-- R361. 1 µs after BUSY the requester resends with the same SEQ. -/
  | busyResend (agent : BitVec 10) (seq22 : BitVec 22)
  /-- R359. After 10 µs idle an agent's LWM is sent in TC3. -/
  | lwmUpdate (dev : BitVec 14) (agent : BitVec 10) (seq22 : BitVec 22)
  /-- R360. A TC0 deduplication entry is dropped 4 µs after it was made. -/
  | dedupExpiry (dev : BitVec 14) (agent : BitVec 10) (seq22 : BitVec 22) (now : Word)
  /-- R351. New routing tables from the changed link map are installed. -/
  | routeTableInstall (routes : List (BitVec 14 × BitVec 3))
  /-- R365. A device's monitor signals the vote object for its level. -/
  | levelVote (lvl : BitVec 4)
  /-- R365. The master announces a level and every device activates it at the next full steep. -/
  | levelAnnounce (lvl : BitVec 4)
  /-- R364. Monitor sets N while every link is DOWN, ignoring invalid values. -/
  | fabLevelWrite (who : Agent) (v : Word)
  /-- R368. A device steers its TIME rate toward its parent from measured link delay. -/
  | timeSteer (now : Word) (corr : BitVec 16) (locked : Bool)
  /-- R368. A lost parent link makes the device hold rate and take a new parent. -/
  | timeParentLoss (l : BitVec 3) (parent : BitVec 3)
  /-- R395. Every INTERVAL µs or at a log trigger the monitor raises a steep request. -/
  | steepRequest (now : Word)
  /-- R395. When no thread is ready and unparked the cut begins and markers are injected. -/
  | steepCut
  /-- R396. After WINDOW µs remaining threads are stopped and dumped with default declarations. -/
  | steepForced (now : Word)
  /-- R400. The dump and log tails are written, the slot sealed and threads resume. -/
  | steepSeal
  /-- R401. An action needing a record waits while its log share is full. -/
  | logShareFull (c : BitVec 8)
  /-- R404. A peer's acknowledgement frees message-log entries. -/
  | peerSteepAck (dev : BitVec 14)
  /-- R412. The system master announces a full steep every FULLPER s or on request. -/
  | fullSteepAnnounce (gen : BitVec 32)
  /-- R412. A check member stores a pre-image and applies a received delta. -/
  | deltaApply (la : BitVec 48) (delta : List Byte) (pos : BitVec 3) (isq : Bool)
  /-- R412. With all deltas acknowledged the master commits and records are freed. -/
  | fullSteepCommit (gen : BitVec 32)
  /-- R414. After a commit past ARCHMIN the I/O service writes an archive to NVMe. -/
  | archiveSteep (now : Word)
  /-- R422. A residue or parity check fails, dropping the result and starting rollback. -/
  | computeCheckFail (site : BitVec 9) (now : Word)
  /-- R407. The device restores its latest sealed local steep and replays the epoch. -/
  | localRollback
  /-- R421. A read meeting poison waits while the device recovers the word. -/
  | poisonRecovery (la : BitVec 48) (bytes : List Byte)
  /-- R415. Neighbouring monitors exchange heartbeats every 1 ms. -/
  | heartbeat (dev : BitVec 14) (ok : Bool)
  /-- R415. A device is declared lost after three missed heartbeats and confirmation. -/
  | deviceLoss (dev : BitVec 14) (confirms : BitVec 3)
  /-- R417. A spare assumes the identity, rebuilds lines and the system restarts from the full steep. -/
  | deviceRecovery (dev : BitVec 14) (spare : BitVec 14)
  /-- R418. After resume the spare rebuilds its check lines in TC2. -/
  | checkLineRebuild (la : BitVec 48) (bytes : List Byte)
  /-- R419. A third loss in a set resumes the job from the last archive steep. -/
  | archiveResume
  /-- R424. Every 1 ms a mismatch is injected into each comparator, retiring a pair that misses it. -/
  | injectionTest (cl : Bool) (pair : BitVec 2) (flagged : Bool)
  /-- R425. A comparator mismatch halts the pair and rolls the device back. -/
  | lockstepMismatch (cl : Bool) (pair : BitVec 2) (now : Word)
  /-- R428. A cluster claims or renews the leader token against the expected epoch. -/
  | aonClaim (cl : Bool) (expect : BitVec 32) (now : Word)
  /-- R428. The lease counts to zero and AON's gate closes. -/
  | leaseExpiry (now : Word)
  /-- R429. A cluster's own gate closes 2 ms after its last successful claim. -/
  | clusterGateClose (cl : Bool) (now : Word)
  /-- R432. The monitor writes the field evidence record hourly or at an event. -/
  | evidenceWrite (now : Word)
  /-- R437. Supplies come good and the boot sequence starts. -/
  | suppliesGood (jsel : Bool)
  /-- R437. AON starts, reads fuses and powers the service clusters. -/
  | aonStart (slots : BitVec 4) (secmin : BitVec 6) (serial : BitVec 128)
  /-- R445. AON chooses, reads and verifies a bank and stages sections. -/
  | caddyLoad
  /-- R437. Pairs self-test, firmware starts and the leader token is granted. -/
  | clusterStart (ok : Bool)
  /-- R283. HBM is trained with lane repair and row repair. -/
  | hbmTraining (eyes : List (BitVec 3 × BitVec 5 × BitVec 7 × BitVec 7))
  /-- R457. The monitor sets the boot enable bits and handles refusals. -/
  | bootStrainer (env : List (BitVec 8 × Word))
  /-- R437. The job loader starts at event 8. -/
  | jobLoaderStart
  /-- R438. A device reset reruns the boot sequence from event 2. -/
  | deviceReset
  /-- R507. A recognised low on RESET_N stops the device until it rises. -/
  | resetN (high : Bool)
  /-- R452. Setting runs the Strainer for a world; clearing is limited. -/
  | worldEn (w : World) (en : Bool) (env : List (BitVec 8 × Word))
  /-- R452. Setting runs the link Strainer checks; clearing takes the link DOWN. -/
  | linkEn (l : BitVec 3) (en : Bool) (env : List (BitVec 8 × Word))
  /-- R452. Setting runs the steep configuration checks. -/
  | steepEn (en : Bool) (env : List (BitVec 8 × Word))
  /-- R452. Setting runs the class quota and memory checks. -/
  | classEn (en : Bool) (env : List (BitVec 8 × Word))
  /-- R452. Setting runs the job checks and may raise SECMIN and blow revoke fuses. -/
  | jobEn (w : World) (en : Bool) (env : List (BitVec 8 × Word))
  /-- R452. Setting runs the extension checks; clearing closes extension issue. -/
  | extEn (en : Bool) (env : List (BitVec 8 × Word))
  /-- R452. Setting runs the context Strainer checks. -/
  | ctxEn (who : Agent) (cx : BitVec 6) (en : Bool) (env : List (BitVec 8 × Word))
  /-- R300. Setting runs the Strainer over every enabled segment descriptor. -/
  | segEn (who : Agent) (cx : BitVec 6) (en : Bool) (env : List (BitVec 8 × Word))
  /-- R457. A 0xFE refusal is repeated every 1 s until it passes. -/
  | strainerRetry (env : List (BitVec 8 × Word))
  /-- R450. The loader verifies a job description and enables contexts, streams, code and threads. -/
  | jobLoad (job : JobDesc)
  /-- R460. A planned migration moves a device's state to a spare or back at a commit. -/
  | migration (back : Bool)
  /-- R475. PLDM Type 0 discovery, version and TID requests are answered. -/
  | baseDiscovery (sensor : BitVec 8)
  /-- R475. PLDM Type 2 returns a numeric or state sensor. -/
  | getSensorReading (sensor : BitVec 8)
  /-- R476. Starts a firmware update, or answers ALREADY_IN_UPDATE_MODE. -/
  | requestUpdate
  /-- R436. A transfer of image data is written to the idle bank. -/
  | firmwareDataWrite (off32 : BitVec 32) (bytes : List Byte)
  /-- R461. The written image is checked under R444 and reported or erased. -/
  | verifyComplete
  /-- R461. Resets the device or requests a migration to boot the new bank. -/
  | activateFirmware
  /-- R475. PLDM Type 7 returns the field evidence record. -/
  | evidenceRead
  /-- R475. PLDM Type 7 returns the error log with AON_BOOT. -/
  | errlogRead
  /-- R475. PLDM Type 7 returns the device public key. -/
  | devkeyRead
  /-- R476. A maintenance command is written for the monitor to serve. -/
  | maintReq (cmd8 : BitVec 8) (arg64 : Word)
  /-- R475. Returns the response to the latest maintenance command. -/
  | maintRsp
  /-- R469. The doorbell makes the monitor take commands in ring order. -/
  | mbCmdtailWrite (tail8 : BitVec 8)
  /-- R469. Consuming responses frees room so the monitor resumes reading commands. -/
  | mbRspheadWrite (head8 : BitVec 8)
  /-- R469. Mailbox command loads a job description. -/
  | jobSubmit (tag : BitVec 16) (job : JobDesc)
  /-- R469. Mailbox command returns a world's job state and counts. -/
  | jobStatus (tag : BitVec 16) (w : World)
  /-- R469. Mailbox command applies a descriptor change through the monitor. -/
  | segChange (tag : BitVec 16) (cx : BitVec 6) (sg : BitVec 4) (words : List Word)
  /-- R469. Mailbox command starts mirroring segment tables to the host. -/
  | mirrorSet (tag : BitVec 16) (addr64 : Word)
  /-- R469. Mailbox command submits an I/O request block. -/
  | hostIo (tag : BitVec 16) (cx : BitVec 6) (words : List Word)
  /-- R472. The service writes STATUS and signals the request's SO. -/
  | ioComplete (ioidx : BitVec 8) (status8 : BitVec 8) (bytes : List Byte)
  /-- R470. A command not complete in 2 s is aborted, reset and reissued. -/
  | nvmeTimeout (ctrl : BitVec 4)
  /-- R466. At link-up in root-port mode the hierarchy is enumerated. -/
  | pcieEnumerate (ctrls : List (BitVec 4))
  /-- R466. An inbound TLP is admitted within an open window or answered Unsupported Request. -/
  | inboundTlp (wr : Bool) (addr64 : Word) (bytes : List Byte)
  /-- R467. A host access through BAR2 is translated and checked as a context access. -/
  | hostBarAccess (wr : Bool) (off36 : BitVec 36) (len12 : BitVec 12) (bytes : List Byte)
  /-- R478. JTAG BYPASS instruction. -/
  | bypass
  /-- R478. JTAG IDCODE instruction returns the identification code. -/
  | idcode
  /-- R478. JTAG SAMPLE/PRELOAD instruction. -/
  | samplePreload
  /-- R478. JTAG EXTEST instruction, only with JTAG_SEL high. -/
  | extest
  /-- R478. JTAG CLAMP instruction, only with JTAG_SEL high. -/
  | clamp
  /-- R478. JTAG HIGHZ instruction, only with JTAG_SEL high. -/
  | highz
  /-- R478. IEEE 1149.6 pulse test on AC-coupled lanes. -/
  | extestPulse
  /-- R478. IEEE 1149.6 train test on AC-coupled lanes. -/
  | extestTrain
  /-- R483. The extension link trains, exchanges TRAIN and comes UP. -/
  | extTraining (ok : Bool) (credinit : BitVec 12) (chipid : BitVec 35)
  /-- R481. A received extension flit is checked, sequenced and credits gained, or NAKed. -/
  | extFlitReceive (good : Bool) (flit : ExtFlit)
  /-- R481. On NAK the sender resends from ACK + 1. -/
  | extResend (ack8 : BitVec 8)
  /-- R483. No good flit for 256 flit times takes the link down for retraining or FAILED. -/
  | extLinkDown
  /-- R485. Monitor writes link configuration, ignored unless DOWN or FAILED. -/
  | extLinkcfgWrite (who : Agent) (v : Word)
  /-- R486. An input stays at or above 46 V for 10 ms and becomes good, returning to VIN_A. -/
  | inputGood (isB : Bool)
  /-- R487. The input in use below 44 V for 2 µs switches the module to the other input. -/
  | supplySwitch
  /-- R488. Both inputs below 44 V for 20 µs deassert PWRGD and switch off domains. -/
  | powerLoss
  /-- R488. AON samples both inputs every 10 µs and records minima. -/
  | vinSample (va16 : BitVec 16) (vb16 : BitVec 16)
  /-- R491. Monitor requests domain transitions, refused where conditions fail. -/
  | pwrDomreqWrite (who : Agent) (v : Word)
  /-- R491. The controller wakes one domain at a time until it accepts requests. -/
  | domainWake (dom : BitVec 5)
  /-- R491. The controller sleeps a domain whose conditions hold. -/
  | domainSleep (dom : BitVec 5)
  /-- R494. Loss of the fabric reference declares the device lost. -/
  | fabRefclkLoss
  /-- R494. Loss of the AON reference is held and reported over PLDM. -/
  | aonRefclkLoss
  /-- R494. Loss of the PCIe reference takes the link down. -/
  | pcieRefclkLoss
  /-- R496. An island measures its droop table at full load after 32 qualifying intervals. -/
  | droopMeasure (c : BitVec 8)
  /-- R497. A core island changes between 1.8 and 2.1 GHz. -/
  | boostChange (c : BitVec 8) (up : Bool)
  /-- R27. The power manager adjusts FP64 row issue in 1/256 steps to hold 1,800 W. -/
  | powerCapAdjust (cap9 : BitVec 9)
  /-- R500. Every 10 µs die sensors are sampled and thermal levels updated. -/
  | thermalSample (die : BitVec 3) (temp : BitVec 8)
  /-- R501. 100 °C for 100 µs drives THERMTRIP_N and switches off domains. -/
  | thermalTrip
  /-- R510. In endpoint mode the PCIe fundamental-reset input changes level and resets the PCIe port. -/
  | pciePerstN (high : Bool)
  /-- R507. A low pulse on TRST_N resets the test access port. -/
  | trstN
  /-- R464. The PCIe link retrains, possibly falling back in rate or width, and RETRAIN increments. -/
  | pcieLinkRetrain (rate2 : BitVec 2) (width2 : BitVec 2)
  /-- R474. The I3C bus controller assigns the module its dynamic address. -/
  | entdaa (da7 : BitVec 7)
  /-- R474. The MCTP bus owner assigns the module its endpoint ID. -/
  | eidAssignment (eid8 : BitVec 8)
  /-- R17. An island's clock generator stretches a cycle when its supply droops, using its droop table. -/
  | cycleStretch (island : BitVec 10) (eighths : BitVec 4)
  /-- R494. FAB_REFCLK comes present and within tolerance, releasing a device held at event 2. -/
  | fabRefclkPresent
  /-- R488. After a power loss the hold-up charge runs out and D00 with AON loses power. -/
  | holdUpChargeSpent
  /-- R215. The monitor stops a thread, abandoning its suspended passes and releasing the matrix unit. -/
  | monitorThreadStop (c : BitVec 8) (t : BitVec 3)
  deriving DecidableEq, Repr

end Sys2Proof
end

