-- ==== Sys2Proof/Decode.lean ====
section
/-!
DEFINITION. Sys2Proof/Decode.lean: the instruction words of a core (R110 to R126): which word spells which instruction, and the words that
spell commands of the table.
-/

namespace Sys2Proof

/-- R111: the major opcode of a word. -/
def wMajor (w : BitVec 32) : BitVec 6 := w.extractLsb' 26 6
/-- R111: the fields of five bits that most formats share: d, a and b. -/
def wD (w : BitVec 32) : BitVec 5 := w.extractLsb' 21 5
/-- As above. -/
def wA (w : BitVec 32) : BitVec 5 := w.extractLsb' 16 5
/-- As above. -/
def wB (w : BitVec 32) : BitVec 5 := w.extractLsb' 11 5
/-- R111: FUNC of format A. -/
def wFunc (w : BitVec 32) : BitVec 11 := w.extractLsb' 0 11
/-- R111: IMM16 and OFF16 of formats I and B. -/
def wImm (w : BitVec 32) : BitVec 16 := w.extractLsb' 0 16
/-- R111: RM of format VA. -/
def wRm (w : BitVec 32) : BitVec 3 := w.extractLsb' 8 3
/-- R111: MK of format VA. -/
def wMk (w : BitVec 32) : BitVec 4 := w.extractLsb' 4 4
/-- R111: OP of format VA. -/
def wOp (w : BitVec 32) : BitVec 4 := w.extractLsb' 0 4
/-- R126: WAIT of the matrix and stream layouts that give it [10:4]. -/
def wWait (w : BitVec 32) : BitVec 7 := w.extractLsb' 4 7

/-- R110, R117: the bytes of the instruction that a word begins. -/
def instrBytes (w : BitVec 32) : Nat := if wMajor w = 0x37#6 then 8 else 4

/-- R115: the scalar ALU (major 0x00). -/
def decodeAlu (c : BitVec 8) (w : BitVec 32) : Option Instr :=
  match (wFunc w).toNat with
  | 0x0 => some (.add c (wD w) (wA w) (wB w))
  | 0x1 => some (.sub c (wD w) (wA w) (wB w))
  | 0x2 => some (.andS c (wD w) (wA w) (wB w))
  | 0x3 => some (.orS c (wD w) (wA w) (wB w))
  | 0x4 => some (.xorS c (wD w) (wA w) (wB w))
  | 0x5 => some (.sll c (wD w) (wA w) (wB w))
  | 0x6 => some (.srl c (wD w) (wA w) (wB w))
  | 0x7 => some (.sra c (wD w) (wA w) (wB w))
  | 0x8 => some (.rotr c (wD w) (wA w) (wB w))
  | 0x9 => some (.slt c (wD w) (wA w) (wB w))
  | 0xa => some (.sltu c (wD w) (wA w) (wB w))
  | 0xb => some (.minS c (wD w) (wA w) (wB w))
  | 0xc => some (.maxS c (wD w) (wA w) (wB w))
  | 0xd => some (.minu c (wD w) (wA w) (wB w))
  | 0xe => some (.maxu c (wD w) (wA w) (wB w))
  | 0xf => some (.clz c (wD w) (wA w) (wB w))
  | 0x10 => some (.ctz c (wD w) (wA w) (wB w))
  | 0x11 => some (.popc c (wD w) (wA w) (wB w))
  | 0x12 => some (.sextb c (wD w) (wA w) (wB w))
  | 0x13 => some (.sexth c (wD w) (wA w) (wB w))
  | 0x14 => some (.sextw c (wD w) (wA w) (wB w))
  | _ => none

/-- R116: MULDIV (major 0x08). -/
def decodeMulDiv (c : BitVec 8) (w : BitVec 32) : Option Instr :=
  match (wFunc w).toNat with
  | 0x0 => some (.mul c (wD w) (wA w) (wB w))
  | 0x1 => some (.mulh c (wD w) (wA w) (wB w))
  | 0x2 => some (.mulhu c (wD w) (wA w) (wB w))
  | 0x4 => some (.div c (wD w) (wA w) (wB w))
  | 0x5 => some (.divu c (wD w) (wA w) (wB w))
  | 0x6 => some (.rem c (wD w) (wA w) (wB w))
  | 0x7 => some (.remu c (wD w) (wA w) (wB w))
  | _ => none

/-- R117: LONG (major 0x37) with its second word. -/
def decodeLong (c : BitVec 8) (w : BitVec 32) (lo : BitVec 32) : Option Instr :=
  match (w.extractLsb' 12 4 : BitVec 4).toNat with
  | 0x0 => some (.addiL c (wD w) (wA w) (w.extractLsb' 0 12) lo)
  | 0x1 => some (.andiL c (wD w) (wA w) (w.extractLsb' 0 12) lo)
  | 0x2 => some (.oriL c (wD w) (wA w) (w.extractLsb' 0 12) lo)
  | 0x3 => some (.xoriL c (wD w) (wA w) (w.extractLsb' 0 12) lo)
  | 0x4 => some (.lihL c (wD w) (wA w) (w.extractLsb' 0 12) lo)
  | 0x5 => some (.ldL c (wD w) (wA w) (w.extractLsb' 0 12) lo)
  | 0x6 => some (.stL c (wD w) (wA w) (w.extractLsb' 0 12) lo)
  | _ => none

/-- R119: ATOM (major 0x0E): FUNC[3:0] the operation, FUNC[5:4] the size, FUNC[10:6] reserved. -/
def decodeAtom (c : BitVec 8) (w : BitVec 32) : Option Instr :=
  match (wOp w).toNat with
  | 0x0 => some (.aadd c (wD w) (wA w) (wB w) (w.extractLsb' 4 2) (w.extractLsb' 6 5))
  | 0x1 => some (.aand c (wD w) (wA w) (wB w) (w.extractLsb' 4 2) (w.extractLsb' 6 5))
  | 0x2 => some (.aor c (wD w) (wA w) (wB w) (w.extractLsb' 4 2) (w.extractLsb' 6 5))
  | 0x3 => some (.axor c (wD w) (wA w) (wB w) (w.extractLsb' 4 2) (w.extractLsb' 6 5))
  | 0x4 => some (.aswap c (wD w) (wA w) (wB w) (w.extractLsb' 4 2) (w.extractLsb' 6 5))
  | 0x5 => some (.acas c (wD w) (wA w) (wB w) (w.extractLsb' 4 2) (w.extractLsb' 6 5))
  | 0x6 => some (.amin c (wD w) (wA w) (wB w) (w.extractLsb' 4 2) (w.extractLsb' 6 5))
  | 0x7 => some (.amax c (wD w) (wA w) (wB w) (w.extractLsb' 4 2) (w.extractLsb' 6 5))
  | 0x8 => some (.aminu c (wD w) (wA w) (wB w) (w.extractLsb' 4 2) (w.extractLsb' 6 5))
  | 0x9 => some (.amaxu c (wD w) (wA w) (wB w) (w.extractLsb' 4 2) (w.extractLsb' 6 5))
  | _ => none

/-- R121: SYS (major 0x18). -/
def decodeSys (c : BitVec 8) (w : BitVec 32) : Option Instr :=
  match (wFunc w).toNat with
  | 0x0 => some (.fence c)
  | 0x1 => some (.ret c)
  | 0x2 => some (.jmpr c (wA w))
  | 0x3 => some (.callr c (wA w))
  | 0x4 => some (.stop c)
  | 0x5 => some (.xret c)
  | 0x6 => some (.rsspill c (wA w) (wB w))
  | 0x7 => some (.rsfill c (wA w) (wB w))
  | _ => none

/-- R123: SYNC (major 0x1C). -/
def decodeSync (c : BitVec 8) (w : BitVec 32) : Option Instr :=
  match (wFunc w).toNat with
  | 0x0 => some (.signal c (wD w) (wA w) (wB w))
  | 0x1 => some (.fetchadd c (wD w) (wA w) (wB w))
  | 0x2 => some (.waits c (wD w) (wA w) (wB w))
  | 0x3 => some (.barrier c (wD w) (wA w) (wB w))
  | _ => none

/-- R125: VFP and VFPS (majors 0x20 and 0x21); `sf`: b names a scalar. -/
def decodeVfp (c : BitVec 8) (w : BitVec 32) (sf : Bool) : Option Instr :=
  match (wOp w).toNat with
  | 0x0 => some (.vadd c (wD w) (wA w) (wB w) (wRm w) (wMk w) sf)
  | 0x1 => some (.vsub c (wD w) (wA w) (wB w) (wRm w) (wMk w) sf)
  | 0x2 => some (.vmul c (wD w) (wA w) (wB w) (wRm w) (wMk w) sf)
  | 0x3 => some (.vdiv c (wD w) (wA w) (wB w) (wRm w) (wMk w) sf)
  | 0x4 => some (.vsqrt c (wD w) (wA w) (wB w) (wRm w) (wMk w) sf)
  | 0x5 => some (.vmin c (wD w) (wA w) (wB w) (wRm w) (wMk w) sf)
  | 0x6 => some (.vmax c (wD w) (wA w) (wB w) (wRm w) (wMk w) sf)
  | 0x7 => some (.vminnum c (wD w) (wA w) (wB w) (wRm w) (wMk w) sf)
  | 0x8 => some (.vmaxnum c (wD w) (wA w) (wB w) (wRm w) (wMk w) sf)
  | 0x9 => some (.vabs c (wD w) (wA w) (wB w) (wRm w) (wMk w) sf)
  | 0xa => some (.vneg c (wD w) (wA w) (wB w) (wRm w) (wMk w) sf)
  | 0xb => some (.vcopysign c (wD w) (wA w) (wB w) (wRm w) (wMk w) sf)
  | _ => none

/-- R125: VINT and VINTS (majors 0x22 and 0x23). -/
def decodeVint (c : BitVec 8) (w : BitVec 32) (sf : Bool) : Option Instr :=
  match (wOp w).toNat with
  | 0x0 => some (.viadd c (wD w) (wA w) (wB w) (wRm w) (wMk w) sf)
  | 0x1 => some (.visub c (wD w) (wA w) (wB w) (wRm w) (wMk w) sf)
  | 0x2 => some (.vimul c (wD w) (wA w) (wB w) (wRm w) (wMk w) sf)
  | 0x3 => some (.vimulh c (wD w) (wA w) (wB w) (wRm w) (wMk w) sf)
  | 0x4 => some (.vimulhu c (wD w) (wA w) (wB w) (wRm w) (wMk w) sf)
  | 0x5 => some (.vand c (wD w) (wA w) (wB w) (wRm w) (wMk w) sf)
  | 0x6 => some (.vor c (wD w) (wA w) (wB w) (wRm w) (wMk w) sf)
  | 0x7 => some (.vxor c (wD w) (wA w) (wB w) (wRm w) (wMk w) sf)
  | 0x8 => some (.vshl c (wD w) (wA w) (wB w) (wRm w) (wMk w) sf)
  | 0x9 => some (.vshr c (wD w) (wA w) (wB w) (wRm w) (wMk w) sf)
  | 0xa => some (.vsra c (wD w) (wA w) (wB w) (wRm w) (wMk w) sf)
  | 0xb => some (.vimin c (wD w) (wA w) (wB w) (wRm w) (wMk w) sf)
  | 0xc => some (.vimax c (wD w) (wA w) (wB w) (wRm w) (wMk w) sf)
  | 0xd => some (.viminu c (wD w) (wA w) (wB w) (wRm w) (wMk w) sf)
  | 0xe => some (.vimaxu c (wD w) (wA w) (wB w) (wRm w) (wMk w) sf)
  | _ => none

/-- R125: VCMP (major 0x24). -/
def decodeVcmp (c : BitVec 8) (w : BitVec 32) : Option Instr :=
  match (wOp w).toNat with
  | 0x0 => some (.feq c (wD w) (wA w) (wB w) (wRm w) (wMk w))
  | 0x1 => some (.fne c (wD w) (wA w) (wB w) (wRm w) (wMk w))
  | 0x2 => some (.flt c (wD w) (wA w) (wB w) (wRm w) (wMk w))
  | 0x3 => some (.fle c (wD w) (wA w) (wB w) (wRm w) (wMk w))
  | 0x4 => some (.fgt c (wD w) (wA w) (wB w) (wRm w) (wMk w))
  | 0x5 => some (.fge c (wD w) (wA w) (wB w) (wRm w) (wMk w))
  | 0x6 => some (.funord c (wD w) (wA w) (wB w) (wRm w) (wMk w))
  | 0x8 => some (.ieq c (wD w) (wA w) (wB w) (wRm w) (wMk w))
  | 0x9 => some (.ine c (wD w) (wA w) (wB w) (wRm w) (wMk w))
  | 0xa => some (.ilt c (wD w) (wA w) (wB w) (wRm w) (wMk w))
  | 0xb => some (.ile c (wD w) (wA w) (wB w) (wRm w) (wMk w))
  | 0xc => some (.iltu c (wD w) (wA w) (wB w) (wRm w) (wMk w))
  | 0xd => some (.ileu c (wD w) (wA w) (wB w) (wRm w) (wMk w))
  | _ => none

/-- R125: VWDOT (major 0x27); OP 0x8 + k is form k accumulating into Vd. -/
def decodeVwdot (c : BitVec 8) (w : BitVec 32) : Option Instr :=
  match (wOp w).toNat % 8 with
  | 0x0 => some (.vwmulBf c (wD w) (wA w) (wB w) (wRm w) (wMk w) ((wOp w).getLsbD 3))
  | 0x1 => some (.vwmulS c (wD w) (wA w) (wB w) (wRm w) (wMk w) ((wOp w).getLsbD 3))
  | 0x2 => some (.vwmulH c (wD w) (wA w) (wB w) (wRm w) (wMk w) ((wOp w).getLsbD 3))
  | 0x3 => some (.vdot2 c (wD w) (wA w) (wB w) (wRm w) (wMk w) ((wOp w).getLsbD 3))
  | 0x4 => some (.vdot4 c (wD w) (wA w) (wB w) (wRm w) (wMk w) ((wOp w).getLsbD 3))
  | 0x5 => some (.vdot8 c (wD w) (wA w) (wB w) (wRm w) (wMk w) ((wOp w).getLsbD 3))
  | 0x6 => some (.vdoti8 c (wD w) (wA w) (wB w) (wRm w) (wMk w) ((wOp w).getLsbD 3))
  | _ => none

/-- R125: VPERM (major 0x2A). -/
def decodeVperm (c : BitVec 8) (w : BitVec 32) : Option Instr :=
  match (wOp w).toNat with
  | 0x0 => some (.vpermute c (wD w) (wA w) (wB w) (wRm w) (wMk w))
  | 0x1 => some (.vrev c (wD w) (wA w) (wB w) (wRm w) (wMk w))
  | 0x2 => some (.vzip c (wD w) (wA w) (wB w) (wRm w) (wMk w))
  | 0x3 => some (.vunzip c (wD w) (wA w) (wB w) (wRm w) (wMk w))
  | 0x4 => some (.vcompress c (wD w) (wA w) (wB w) (wRm w) (wMk w))
  | 0x5 => some (.vexpand c (wD w) (wA w) (wB w) (wRm w) (wMk w))
  | _ => none

/-- R125: VRED (major 0x2B); b is ACC. -/
def decodeVred (c : BitVec 8) (w : BitVec 32) : Option Instr :=
  match (wOp w).toNat with
  | 0x0 => some (.vrsum c (wD w) (wA w) (wB w) (wRm w) (wMk w))
  | 0x1 => some (.vrmin c (wD w) (wA w) (wB w) (wRm w) (wMk w))
  | 0x2 => some (.vrmax c (wD w) (wA w) (wB w) (wRm w) (wMk w))
  | 0x3 => some (.vrsumHo c (wD w) (wA w) (wB w) (wRm w) (wMk w))
  | _ => none

/-- R125: VCFG (major 0x2C). -/
def decodeVcfg (c : BitVec 8) (w : BitVec 32) : Option Instr :=
  match (wFunc w).toNat with
  | 0x0 => some (.vsetvl c (wD w) (wA w))
  | 0x1 => some (.vsetfmt c (wA w))
  | 0x2 => some (.mand c (wD w) (wA w) (wB w))
  | 0x3 => some (.mor c (wD w) (wA w) (wB w))
  | 0x4 => some (.mxor c (wD w) (wA w) (wB w))
  | 0x5 => some (.mnot c (wD w) (wA w) (wB w))
  | 0x6 => some (.mcount c (wD w) (wA w))
  | _ => none

/-- R111, R125: VMEM and VGS (majors 0x28 and 0x29): ST tells a store or scatter from a load or gather. -/
def decodeVmem (c : BitVec 8) (w : BitVec 32) (gs : Bool) : Instr :=
  let hint : BitVec 4 := w.extractLsb' 6 4
  let mk : BitVec 4 := w.extractLsb' 2 4
  match gs, w.getLsbD 10 with
  | false, false => .vmemLoad c (wD w) (wA w) (wB w) hint mk (w.getLsbD 1) (w.getLsbD 0)
  | false, true => .vmemStore c (wD w) (wA w) (wB w) hint mk (w.getLsbD 1) (w.getLsbD 0)
  | true, false => .vgather c (wD w) (wA w) (wB w) hint mk (w.getLsbD 1) (w.getLsbD 0)
  | true, true => .vscatter c (wD w) (wA w) (wB w) hint mk (w.getLsbD 1) (w.getLsbD 0)

/-- R126: MCTL (major 0x2F). Bits of a field that the layout of the function does not use are reserved. -/
def decodeMctl (c : BitVec 8) (w : BitVec 32) : Option Instr :=
  match (wOp w).toNat with
  | 0x0 => some (.mswap c (wWait w) (wD w ++ wB w))
  | 0x1 => some (.mzero c (wWait w) (wD w ++ wB w))
  | 0x2 => some (.mcfg c (wA w) (wWait w) (wD w ++ wB w))
  | 0x3 => some (.mrel c (wWait w) (wD w ++ wB w))
  | _ => none

/-- R126: SCTL (major 0x32). -/
def decodeSctl (c : BitVec 8) (w : BitVec 32) : Option Instr :=
  match (wOp w).toNat with
  | 0x0 => some (.sarm c (wA w) (wB w) (wD w ++ wWait w))
  | 0x1 => some (.sdisarm c (wA w) (wB w) (wD w ++ wWait w))
  | _ => none

/-- R126: RU (major 0x33): [15:10] ACC, [9:6] FMT, [5:3] RM, [2:0] OP. -/
def decodeRu (c : BitVec 8) (w : BitVec 32) : Option Instr :=
  match (w.extractLsb' 0 3 : BitVec 3).toNat with
  | 0x0 => some (.ruclr c (wD w) (wA w) (w.extractLsb' 10 6) (w.extractLsb' 6 4) (w.extractLsb' 3 3))
  | 0x1 => some (.ruaddv c (wD w) (wA w) (w.extractLsb' 10 6) (w.extractLsb' 6 4) (w.extractLsb' 3 3))
  | 0x2 => some (.rumrg c (wD w) (wA w) (w.extractLsb' 10 6) (w.extractLsb' 6 4) (w.extractLsb' 3 3))
  | 0x3 => some (.ruspill c (wD w) (wA w) (w.extractLsb' 10 6) (w.extractLsb' 6 4) (w.extractLsb' 3 3))
  | 0x4 => some (.rurd c (wD w) (wA w) (w.extractLsb' 10 6) (w.extractLsb' 6 4) (w.extractLsb' 3 3))
  | 0x5 => some (.rucfg c (wD w) (wA w) (w.extractLsb' 10 6) (w.extractLsb' 6 4) (w.extractLsb' 3 3))
  | _ => none

/-- R111, R114: the instruction of core `c` that a word spells, `lo` being the word after it; none for a word that R113 has raise ILLOP
because its major, FUNC, OP, LOP or CTL is unassigned. What a reserved bit, a TRN or a format code raises is the instruction's own. -/
def decodeInstr (c : BitVec 8) (w lo : BitVec 32) : Option Instr :=
  match (wMajor w).toNat with
  | 0x00 => decodeAlu c w
  | 0x01 => some (.addi c (wD w) (wA w) (wImm w))
  | 0x02 => some (.andi c (wD w) (wA w) (wImm w))
  | 0x03 => some (.ori c (wD w) (wA w) (wImm w))
  | 0x04 => some (.xori c (wD w) (wA w) (wImm w))
  | 0x05 => some (.slti c (wD w) (wA w) (wImm w))
  | 0x06 => some (.sltiu c (wD w) (wA w) (wImm w))
  | 0x07 => some (.shi c (wD w) (wA w) (wImm w))
  | 0x08 => decodeMulDiv c w
  | 0x0C => some (.ld c (wD w) (wA w) (w.extractLsb' 14 2) (w.getLsbD 13) (w.extractLsb' 9 4) (w.extractLsb' 0 9))
  | 0x0D => some (.st c (wD w) (wA w) (w.extractLsb' 14 2) (w.getLsbD 13) (w.extractLsb' 9 4) (w.extractLsb' 0 9))
  | 0x0E => decodeAtom c w
  | 0x10 => some (.beq c (wD w) (wA w) (wImm w))
  | 0x11 => some (.bne c (wD w) (wA w) (wImm w))
  | 0x12 => some (.blt c (wD w) (wA w) (wImm w))
  | 0x13 => some (.bge c (wD w) (wA w) (wImm w))
  | 0x14 => some (.bltu c (wD w) (wA w) (wImm w))
  | 0x15 => some (.bgeu c (wD w) (wA w) (wImm w))
  | 0x16 => some (.call c (w.extractLsb' 0 26))
  | 0x17 => some (.jmp c (w.extractLsb' 0 26))
  | 0x18 => decodeSys c w
  | 0x19 => some (.trap c (w.extractLsb' 0 8) (w.extractLsb' 8 18))
  | 0x1A => some (.mcall c (w.extractLsb' 0 8) (w.extractLsb' 8 18))
  | 0x1B => some (if w.getLsbD 0 then .mttr c (wA w) (w.extractLsb' 8 8) (w.extractLsb' 1 7)
      else .mftr c (wD w) (w.extractLsb' 8 8) (w.extractLsb' 1 7))
  | 0x1C => decodeSync c w
  | 0x1D => some (.steep c (wD w) (wA w) (wImm w))
  | 0x20 => decodeVfp c w false
  | 0x21 => decodeVfp c w true
  | 0x22 => decodeVint c w false
  | 0x23 => decodeVint c w true
  | 0x24 => decodeVcmp c w
  | 0x25 => some (.vcvt c (wD w) (wA w) (w.extractLsb' 12 4) (w.getLsbD 11) (wRm w) (wMk w) (wOp w))
  | 0x26 => some (.vfma c (wD w) (wA w) (wB w) (wRm w) (wMk w) (w.getLsbD 3) (w.getLsbD 2) (w.extractLsb' 0 2))
  | 0x27 => decodeVwdot c w
  | 0x28 => some (decodeVmem c w false)
  | 0x29 => some (decodeVmem c w true)
  | 0x2A => decodeVperm c w
  | 0x2B => decodeVred c w
  | 0x2C => decodeVcfg c w
  | 0x2D => some (.mload c (wA w) (wB w) (w.extractLsb' 7 4) (w.getLsbD 6) (wD w ++ (w.extractLsb' 0 6 : BitVec 6)))
  | 0x2E => some (.mpass c (wA w) (wB w) (wWait w) (w.getLsbD 3) (wD w ++ (w.extractLsb' 0 3 : BitVec 3)))
  | 0x2F => decodeMctl c w
  | 0x30 => some (.mrd c (wD w) (w.extractLsb' 12 4) (w.getLsbD 11) (wRm w) (w.extractLsb' 1 7)
      (wA w ++ (w.extractLsb' 0 1 : BitVec 1)))
  | 0x31 => some (.spass c (wA w) (wB w) (wWait w) (w.getLsbD 3) (wD w ++ (w.extractLsb' 0 3 : BitVec 3)))
  | 0x32 => decodeSctl c w
  | 0x33 => decodeRu c w
  | 0x37 => decodeLong c w lo
  | 0x38 => some (.extensionInstruction c 0#2 (wD w) (wA w) (wB w) (wFunc w))
  | 0x39 => some (.extensionInstruction c 1#2 (wD w) (wA w) (wB w) (wFunc w))
  | 0x3A => some (.extensionInstruction c 2#2 (wD w) (wA w) (wB w) (wFunc w))
  | 0x3B => some (.extensionInstruction c 3#2 (wD w) (wA w) (wB w) (wFunc w))
  | _ => none

/-- The command that a word spells. The opcode table gives no row bits; a word of 32 bits, or the two of a long form, spells an instruction
by the formats of R111, which here is one of core 0 (DESIGN CHOICE, entry 8). -/
def decodeTableWord (nbits w : Nat) : Option Instr :=
  let w0 : BitVec 32 := BitVec.ofNat 32 w
  let w1 : BitVec 32 := BitVec.ofNat 32 (w / 2 ^ 32)
  if nbits = 32 || (nbits = 64 && instrBytes w0 = 8) then decodeInstr 0#8 w0 w1 else none

end Sys2Proof
end

