-- ==== Sys2Proof/Machine/Cmac.lean ====
section
/-!
DEFINITION. Sys2Proof/Machine/Cmac.lean: the seal of a capability (R306): the AES-CMAC of NIST SP 800-38B with AES-256 (FIPS 197), over
24 bytes. Bytes are numbers below 256, blocks are lists of sixteen bytes, a column of four after the other.
-/

namespace Sys2Proof.Machine

/-- FIPS 197: a byte times x in GF(2^8), modulo x^8 + x^4 + x^3 + x + 1. -/
def aesDouble (a : Nat) : Nat := if a < 128 then 2 * a else (2 * a) ^^^ 0x11B

/-- FIPS 197: a product in GF(2^8), over the low n bits of b. -/
def aesMul (a : Nat) : Nat → Nat → Nat
  | 0, _ => 0
  | n + 1, b => (if b % 2 = 1 then a else 0) ^^^ aesMul (aesDouble a) n (b / 2)

/-- FIPS 197: a^(2^(n+1) − 2): the inverse of a non-zero byte for n = 7, and 0 for 0. -/
def aesInv (a : Nat) : Nat → Nat
  | 0 => 1
  | n + 1 => let r := aesInv a n; let p := aesMul r 8 a; aesMul p 8 p

/-- FIPS 197: S-box: the inverse in the field, then the affine map. -/
def aesSbox (a : Nat) : Nat :=
  let b := if a = 0 then 0 else aesInv a 7
  let d := b * 257
  b ^^^ (d / 16 % 256) ^^^ (d / 32 % 256) ^^^ (d / 64 % 256) ^^^ (d / 128 % 256) ^^^ 0x63

/-- The sum of two byte strings. -/
def xorBytes (a b : List Nat) : List Nat := List.zipWith (· ^^^ ·) a b

/-- FIPS 197: the words of the key schedule after the n given ones, newest first; `rcon` is the round constant of the next one. -/
def aesSchedule : Nat → Nat → Nat → List (List Nat) → List (List Nat)
  | 0, _, _, ws => ws
  | m + 1, i, rcon, ws =>
    let last := ws.headD []
    let t :=
      if i % 8 = 0 then xorBytes (((last.drop 1) ++ (last.take 1)).map aesSbox) [rcon, 0, 0, 0]
      else if i % 8 = 4 then last.map aesSbox
      else last
    aesSchedule m (i + 1) (if i % 8 = 0 then aesDouble rcon else rcon) (xorBytes (ws.getD 7 []) t :: ws)

/-- FIPS 197: the 15 round keys of a key of 32 bytes. -/
def aesKeys (key : List Nat) : List (List Nat) :=
  let first := (List.range 8).map fun i => (key.drop (4 * i)).take 4
  let ws := (aesSchedule 52 8 1 first.reverse).reverse
  (List.range 15).map fun r => ((ws.drop (4 * r)).take 4).flatten

/-- FIPS 197: SubBytes and ShiftRows. -/
def aesSubShift (b : List Nat) : List Nat :=
  (List.range 16).map fun i => aesSbox (b.getD (i % 4 + 4 * ((i / 4 + i % 4) % 4)) 0)

/-- FIPS 197: MixColumns of one column. -/
def aesColumn (c : List Nat) : List Nat :=
  (List.range 4).map fun i =>
    let x (j : Nat) : Nat := c.getD ((i + j) % 4) 0
    aesDouble (x 0) ^^^ (aesDouble (x 1) ^^^ x 1) ^^^ x 2 ^^^ x 3

/-- FIPS 197: MixColumns. -/
def aesMix (b : List Nat) : List Nat := ((List.range 4).map fun c => aesColumn ((b.drop (4 * c)).take 4)).flatten

/-- FIPS 197: the rounds that follow the first round key; the last one mixes no columns. -/
def aesRounds : List (List Nat) → List Nat → List Nat
  | [], b => b
  | [k], b => xorBytes (aesSubShift b) k
  | k :: ks, b => aesRounds ks (xorBytes (aesMix (aesSubShift b)) k)

/-- FIPS 197: a block of 16 bytes enciphered. -/
def aesBlock (keys : List (List Nat)) (b : List Nat) : List Nat := aesRounds keys.tail (xorBytes b (keys.headD []))

/-- SP 800-38B: a block shifted left by one bit, and reduced where a bit falls out. -/
def cmacDouble (b : List Nat) : List Nat :=
  let v := b.foldl (fun a x => a * 256 + x) 0
  let w := if v < 2 ^ 127 then 2 * v else (2 * v - 2 ^ 128) ^^^ 0x87
  (List.range 16).map fun i => w / 2 ^ (8 * (15 - i)) % 256

/-- SP 800-38B: the CMAC of 24 bytes: one whole block, and one of 8 bytes that is padded. -/
def cmac24 (keys : List (List Nat)) (msg : List Nat) : List Nat :=
  let k2 := cmacDouble (cmacDouble (aesBlock keys (List.replicate 16 0)))
  let last := xorBytes (msg.drop 16 ++ 0x80 :: List.replicate 7 0) k2
  aesBlock keys (xorBytes (aesBlock keys (msg.take 16)) last)

/-- The n bytes of a number, the least significant first. -/
def byteList : Nat → Nat → List Nat
  | 0, _ => []
  | n + 1, v => v % 256 :: byteList n (v / 256)

/-- R306: the seal of bits [191:0] of a capability under a system key: the first 8 bytes of the CMAC, in memory order (DEDUCED, entry 95: the
key's bytes and the seal's lie in memory order too). -/
def cmacSeal (key body : Nat) : BitVec 64 :=
  let mac := cmac24 (aesKeys (byteList 32 key)) (byteList 24 body)
  BitVec.ofNat 64 ((mac.take 8).foldr (fun x v => x + 256 * v) 0)

end Sys2Proof.Machine
end

