-- ==== Sys2Proof/Machine/Table.lean ====
section
/-!
DEFINITION. Sys2Proof/Machine/Table.lean: sparse tables. A table lists (number, value) pairs by rising number; a
number it does not list holds the table's default, which the reader of the table names.
-/

namespace Sys2Proof.Machine

/-- A sparse table from numbers to values. -/
abbrev Tab (α : Type) := List (Nat × α)

/-- The value at `k`, `d` where the table lists none. -/
def tabGet {α : Type} (d : α) : Tab α → Nat → α
  | [], _ => d
  | (k', v) :: t, k => if k' = k then v else tabGet d t k

/-- The table with `v` at `k`, and every other number as before. -/
def tabSet {α : Type} : Tab α → Nat → α → Tab α
  | [], k, v => [(k, v)]
  | (k', v') :: t, k, v =>
    if k = k' then (k, v) :: t
    else if k < k' then (k, v) :: (k', v') :: t
    else (k', v') :: tabSet t k v

/-- The table with the value at `k` changed by `f`. -/
def tabMod {α : Type} (d : α) (t : Tab α) (k : Nat) (f : α → α) : Tab α :=
  tabSet t k (f (tabGet d t k))

/-- The table without an entry at `k`: it reads as the default again. -/
def tabErase {α : Type} (t : Tab α) (k : Nat) : Tab α := t.filter fun e => e.1 != k

/-- Every value listed, changed by `f`, which sees its number. -/
def tabMap {α : Type} (t : Tab α) (f : Nat → α → α) : Tab α := t.map fun e => (e.1, f e.1 e.2)

/-- The first number listed whose value satisfies `p`. -/
def tabFind {α : Type} (t : Tab α) (p : Nat → α → Bool) : Option (Nat × α) := t.find? fun e => p e.1 e.2

end Sys2Proof.Machine
end

