-- ==== Sys2Proof/Machine/Num.lean ====
section
/-!
DEFINITION. Sys2Proof/Machine/Num.lean: the number formats, their exact values, the one rounding of R36, the narrow
conversions of R37 and R38, stochastic rounding and the keyed rounding generator (R29 to R45).
-/

namespace Sys2Proof.Machine

/-- The element formats of R29; code 0xF is none of them. -/
inductive Fmt where
  | fp64 | fp32 | fp16 | bf16 | e4m3 | e5m2 | mx8e4m3 | mx8e5m2 | mxfp4 | e8m0
  | int8 | int16 | int32 | int64 | uint8
  deriving DecidableEq, Repr

/-- R29: the 4-bit format code. -/
def fmtOfCode (c : Nat) : Option Fmt :=
  match c with
  | 0 => some .fp64 | 1 => some .fp32 | 2 => some .fp16 | 3 => some .bf16
  | 4 => some .e4m3 | 5 => some .e5m2 | 6 => some .mx8e4m3 | 7 => some .mx8e5m2
  | 8 => some .mxfp4 | 9 => some .e8m0 | 10 => some .int8 | 11 => some .int16
  | 12 => some .int32 | 13 => some .int64 | 14 => some .uint8
  | _ => none

/-- R29: the code of a format. -/
def fmtCode : Fmt → Nat
  | .fp64 => 0 | .fp32 => 1 | .fp16 => 2 | .bf16 => 3 | .e4m3 => 4 | .e5m2 => 5
  | .mx8e4m3 => 6 | .mx8e5m2 => 7 | .mxfp4 => 8 | .e8m0 => 9 | .int8 => 10
  | .int16 => 11 | .int32 => 12 | .int64 => 13 | .uint8 => 14

/-- R29: the element width in bits, without the shared scale byte. -/
def fmtBits : Fmt → Nat
  | .fp64 | .int64 => 64
  | .fp32 | .int32 => 32
  | .fp16 | .bf16 | .int16 => 16
  | .e4m3 | .e5m2 | .mx8e4m3 | .mx8e5m2 | .e8m0 | .int8 | .uint8 => 8
  | .mxfp4 => 4

/-- R27, R33: an MX format, whose elements share one E8M0 scale per 32. -/
def fmtIsMx : Fmt → Bool
  | .mx8e4m3 | .mx8e5m2 | .mxfp4 => true
  | _ => false

/-- An integer format of R29. -/
def fmtIsInt : Fmt → Bool
  | .int8 | .int16 | .int32 | .int64 | .uint8 => true
  | _ => false

/-- FP64, FP32, FP16 or BF16, the formats that follow IEEE 754-2019 overflow (R37). -/
def fmtIsIeee : Fmt → Bool
  | .fp64 | .fp32 | .fp16 | .bf16 => true
  | _ => false

/-- A floating-point format with a sign (R30), the block scale left out. -/
def fmtIsFloat (f : Fmt) : Bool := !(fmtIsInt f) && f != .e8m0

/-- R30: how a binary format treats infinities and NaNs. `ieee`: all ones in the exponent encodes them. `e4m3`: the one
pattern S.1111.111 is NaN and there is no infinity. `e2m1`: neither. -/
inductive FKind where
  | ieee | e4m3 | e2m1
  deriving DecidableEq, Repr

/-- R30: the parameters of a binary format. -/
structure FloatFmt where
  ebits : Nat
  fbits : Nat
  bias : Nat
  kind : FKind
  /-- R37: conversions to it follow IEEE 754-2019 overflow, and SAT does not apply. -/
  ieeeOvf : Bool
  deriving DecidableEq, Repr

/-- R30: FP64, FP32, FP16, BF16, E4M3, E5M2 and E2M1. -/
def ffFp64 : FloatFmt := ⟨11, 52, 1023, .ieee, true⟩
/-- R30. -/
def ffFp32 : FloatFmt := ⟨8, 23, 127, .ieee, true⟩
/-- R30. -/
def ffFp16 : FloatFmt := ⟨5, 10, 15, .ieee, true⟩
/-- R30. -/
def ffBf16 : FloatFmt := ⟨8, 7, 127, .ieee, true⟩
/-- R30. -/
def ffE4m3 : FloatFmt := ⟨4, 3, 7, .e4m3, false⟩
/-- R30. -/
def ffE5m2 : FloatFmt := ⟨5, 2, 15, .ieee, false⟩
/-- R30. -/
def ffE2m1 : FloatFmt := ⟨2, 1, 1, .e2m1, false⟩

/-- The binary format of an element (an MX format's elements are E4M3, E5M2 and E2M1: R29). The integer formats and E8M0
have none; FP64 stands in and is never used for them. -/
def fmtFloat : Fmt → FloatFmt
  | .fp32 => ffFp32 | .fp16 => ffFp16 | .bf16 => ffBf16
  | .e4m3 | .mx8e4m3 => ffE4m3
  | .e5m2 | .mx8e5m2 => ffE5m2
  | .mxfp4 => ffE2m1
  | .fp64 | .e8m0 | .int8 | .int16 | .int32 | .int64 | .uint8 => ffFp64

/-- The five IEEE 754-2019 exceptions as R50 names them. -/
structure FFlags where
  nof : Bool := false
  nuf : Bool := false
  nnx : Bool := false
  nnv : Bool := false
  ndz : Bool := false
  deriving DecidableEq, Repr

/-- No flag. -/
def noFlags : FFlags := {}

/-- The flags set in either. -/
def flagsOr (a b : FFlags) : FFlags :=
  ⟨a.nof || b.nof, a.nuf || b.nuf, a.nnx || b.nnx, a.nnv || b.nnv, a.ndz || b.ndz⟩

/-- Invalid alone. -/
def flagNv : FFlags := { nnv := true }

/-- An exact value. `fin s n e` is (−1)^s × n × 2^e; a zero keeps its sign in `s`. A NaN keeps its sign, whether it is
signalling, its fraction field and that field's width (R56). -/
inductive FVal where
  | nan (sign signalling : Bool) (payload width : Nat)
  | inf (sign : Bool)
  | fin (sign : Bool) (n : Nat) (e : Int)
  deriving DecidableEq, Repr, Inhabited

/-- Positive zero. -/
def fZero : FVal := .fin false 0 0

/-- A NaN of either kind. -/
def fIsNan : FVal → Bool
  | .nan _ _ _ _ => true
  | _ => false

/-- A signalling NaN (R31). -/
def fIsSnan : FVal → Bool
  | .nan _ s _ _ => s
  | _ => false

/-- An infinity. -/
def fIsInf : FVal → Bool
  | .inf _ => true
  | _ => false

/-- A zero of either sign. -/
def fIsZero : FVal → Bool
  | .fin _ n _ => n == 0
  | _ => false

/-- The sign bit of a value. -/
def fSign : FVal → Bool
  | .nan s _ _ _ => s
  | .inf s => s
  | .fin s _ _ => s

/-- The value with its sign replaced. -/
def fSetSign (s : Bool) : FVal → FVal
  | .nan _ q p w => .nan s q p w
  | .inf _ => .inf s
  | .fin _ n e => .fin s n e

/-- R30: the exact value of the pattern `bits` of a binary format. -/
def floatVal (ff : FloatFmt) (bits : Nat) : FVal :=
  let s := bitAt bits (ff.ebits + ff.fbits)
  let e := field bits ff.fbits ff.ebits
  let f := field bits 0 ff.fbits
  let special := match ff.kind with
    | .ieee => e == 2 ^ ff.ebits - 1
    | .e4m3 => e == 2 ^ ff.ebits - 1 && f == 2 ^ ff.fbits - 1
    | .e2m1 => false
  if special then
    if ff.kind == .ieee && f == 0 then .inf s
    -- R31: every E4M3 and E5M2 NaN is quiet
    else .nan s (ff.ieeeOvf && !(bitAt f (ff.fbits - 1))) f ff.fbits
  else if e == 0 then .fin s f (1 - (ff.bias : Int) - ff.fbits)
  else .fin s (f + 2 ^ ff.fbits) ((e : Int) - ff.bias - ff.fbits)

/-- The two's-complement number of the low `w` bits of `bits` (R32). -/
def sint (w bits : Nat) : Int :=
  let b := bits % 2 ^ w
  if bitAt b (w - 1) then (b : Int) - 2 ^ w else (b : Int)

/-- The low `w` bits of an integer (R32). -/
def wrapInt (w : Nat) (v : Int) : Nat := (v % (2 ^ w : Int)).toNat

/-- The value of an integer as an exact value. -/
def fOfInt (v : Int) : FVal := .fin (v < 0) v.natAbs 0

/-- The integer an element pattern of an integer format stands for (R29). -/
def intVal (f : Fmt) (bits : Nat) : Int :=
  match f with
  | .uint8 => ((bits % 256 : Nat) : Int)
  | _ => sint (fmtBits f) bits

/-- R30: the exact value of an E8M0 scale byte. -/
def scaleVal (sc : Nat) : FVal :=
  if sc % 256 = 255 then .nan false false 0 0 else .fin false 1 ((sc % 256 : Nat) - 127 : Int)

/-- The exact value of an element of format `f`; `sc` is the block scale of an MX format (R34) and unused otherwise. DESIGN CHOICE
(entry 119): the NaN that an element of a block with scale 0xFF is has no sign or payload in the spec; the model takes it positive,
quiet, with payload 0, so that it reads out canonical. -/
def elemVal (f : Fmt) (sc bits : Nat) : FVal :=
  if fmtIsInt f then fOfInt (intVal f bits)
  else if f == .e8m0 then scaleVal bits
  else if fmtIsMx f then
    if sc % 256 = 255 then .nan false false 0 0
    else match floatVal (fmtFloat f) bits with
      | .fin s n e => .fin s n (e + (sc % 256 : Nat) - 127)
      | v => v
  else floatVal (fmtFloat f) bits

/-- R31: the canonical NaN pattern (E2M1 has none: R37 makes the block NaN). -/
def canonNan (ff : FloatFmt) : Nat :=
  match ff.kind with
  | .ieee => (2 ^ ff.ebits - 1) * 2 ^ ff.fbits + 2 ^ (ff.fbits - 1)
  | .e4m3 => 0x7F
  | .e2m1 => 0

/-- The largest finite pattern without its sign (R30). -/
def maxFinite (ff : FloatFmt) : Nat :=
  match ff.kind with
  | .ieee => (2 ^ ff.ebits - 1) * 2 ^ ff.fbits - 1
  | .e4m3 => 0x7E
  | .e2m1 => 0x7

/-- The pattern of an infinity without its sign, where the format has one. -/
def infBits (ff : FloatFmt) : Nat := (2 ^ ff.ebits - 1) * 2 ^ ff.fbits

/-- The sign bit in place. -/
def signBit (ff : FloatFmt) (s : Bool) : Nat := b2n s * 2 ^ (ff.ebits + ff.fbits)

/-- R39: a rounding mode after DYN has been resolved. -/
inductive Rm where
  | rne | rtz | rup | rdn | sr12 | sr8 | sr16
  deriving DecidableEq, Repr

/-- R39: the mode a 3-bit encoding selects, `dyn` being the issuing thread's NUM_CTL.RM; a NUM_CTL.RM that itself holds
DYN selects RNE. -/
def resolveRm (code dyn : Nat) : Rm :=
  let c := if code % 8 = 7 then (if dyn % 8 = 7 then 0 else dyn % 8) else code % 8
  match c with
  | 1 => .rtz | 2 => .rup | 3 => .rdn | 4 => .sr12 | 5 => .sr8 | 6 => .sr16 | _ => .rne

/-- R39: the 3-bit encoding of a mode, as a pass latches it (R45). -/
def rmCode : Rm → Nat
  | .rne => 0 | .rtz => 1 | .rup => 2 | .rdn => 3 | .sr12 => 4 | .sr8 => 5 | .sr16 => 6

/-- R41: the number of random bits of a stochastic mode. -/
def rmBits : Rm → Option Nat
  | .sr12 => some 12 | .sr8 => some 8 | .sr16 => some 16 | _ => none

/-- What one rounding takes: the mode, SAT, and the 16 bits the keyed rounding generator gives this element (R41, R42). -/
structure RoundCtx where
  rm : Rm
  sat : Bool
  draw : Nat
  deriving DecidableEq, Repr

/-- R40, R41: whether a magnitude q + r / d (0 < r < d) with sign `s` rounds to q + 1. -/
def roundsUp (rc : RoundCtx) (s : Bool) (q r d : Nat) : Bool :=
  match rc.rm with
  | .rne => decide (2 * r > d) || (2 * r == d && q % 2 == 1)
  | .rtz => false
  | .rup => r != 0 && !s
  | .rdn => r != 0 && s
  | .sr12 => decide (rc.draw / 16 < r * 4096 / d)
  | .sr8 => decide (rc.draw / 256 < r * 256 / d)
  | .sr16 => decide (rc.draw < r * 65536 / d)

/-- The exponent of the leading bit of n / d × 2^e: 2^(lead) ≤ n / d × 2^e < 2^(lead + 1), for n and d above 0. -/
def leadExp (n d : Nat) (e : Int) : Int :=
  let k : Int := (Nat.log2 n : Int) - Nat.log2 d
  -- n / d lies in (2^(k-1), 2^(k+1))
  let below := if k ≥ 0 then decide (n < d * 2 ^ k.toNat) else decide (n * 2 ^ (-k).toNat < d)
  if below then k - 1 + e else k + e

/-- Quotient, remainder and divisor of n / d × 2^e counted in units of 2^u. -/
def inUnits (n d : Nat) (e u : Int) : Nat × Nat × Nat :=
  let sh := e - u
  let n' := if sh ≥ 0 then n * 2 ^ sh.toNat else n
  let d' := if sh ≥ 0 then d else d * 2 ^ (-sh).toNat
  (n' / d', n' % d', d')

/-- R37, R41 and IEEE 754-2019: the pattern and flags of an overflow of a finite value with sign `s` (the bits without
sign beyond `maxFinite`). -/
def overflowTo (ff : FloatFmt) (rc : RoundCtx) (s : Bool) : Nat × FFlags :=
  let ofnx : FFlags := { nof := true, nnx := true }
  if ff.ieeeOvf then
    -- IEEE 754-2019 7.4: the carried infinity, or the largest finite number where the mode rounds toward zero
    let big := match rc.rm with
      | .rtz => false
      | .rup => !s
      | .rdn => s
      | _ => true
    (signBit ff s + (if big then infBits ff else maxFinite ff), ofnx)
  else match ff.kind with
    | .e2m1 => (signBit ff s + maxFinite ff, ofnx)
    | .e4m3 => (signBit ff s + (if rc.sat then maxFinite ff else 0x7F), ofnx)
    | .ieee => (signBit ff s + (if rc.sat then maxFinite ff else infBits ff), ofnx)

/-- R37: a mode that never carries a finite value of this sign beyond the largest finite magnitude of an 8-bit or 4-bit
format. -/
def modeNeverOverflows (rm : Rm) (s : Bool) : Bool :=
  match rm with
  | .rtz => true
  | .rdn => !s
  | .rup => s
  | _ => false

/-- R36, R37, R40, R41, R50: n / d × 2^e (n, d above 0) with sign `s`, rounded once. The first part is the pattern, the
second the flags OF, UF and NX. -/
def roundMag (ff : FloatFmt) (rc : RoundCtx) (s : Bool) (n d : Nat) (e : Int) : Nat × FFlags :=
  let lead := leadExp n d e
  let emin : Int := 1 - (ff.bias : Int)
  let u := (if lead < emin then emin else lead) - ff.fbits
  let (q, r, d') := inUnits n d e u
  let up := r != 0 && roundsUp rc s q r d'
  let q' := if up then q + 1 else q
  let enc (x : Nat) : Nat := ((u + ff.fbits + ff.bias - 1).toNat) * 2 ^ ff.fbits + x
  if enc q > maxFinite ff && !(ff.ieeeOvf) && modeNeverOverflows rc.rm s then
    -- R37: RTZ, and a directed mode toward zero, give the largest finite value and no overflow
    (signBit ff s + maxFinite ff, { nnx := true })
  else if enc q' > maxFinite ff then overflowTo ff rc s
  else if r == 0 then (signBit ff s + enc q, noFlags)
  else
    -- R50: tininess after rounding, as if the exponent range were unbounded
    let tiny :=
      if lead ≥ emin then false
      else if lead < emin - 1 then true
      else
        let (p, r2, d2) := inUnits n d e (lead - ff.fbits)
        let p' := if r2 != 0 && roundsUp rc s p r2 d2 then p + 1 else p
        decide (p' < 2 ^ (ff.fbits + 1))
    (signBit ff s + enc q', { nnx := true, nuf := tiny })

/-- R56: a NaN quieted, its payload aligned to the top of the target's fraction. -/
def quietTo (ff : FloatFmt) (s : Bool) (payload width : Nat) : Nat :=
  let p := if width ≤ ff.fbits then payload * 2 ^ (ff.fbits - width) else payload / 2 ^ (width - ff.fbits)
  let hi := 2 ^ (ff.fbits - 1)
  signBit ff s + infBits ff + (if bitAt p (ff.fbits - 1) then p else p + hi)

/-- A NaN delivered to a format: kept as R56 states where `keep` is set and the target is FP16 or wider, canonical
otherwise (R31, R37, R55). NV is set for a signalling NaN. -/
def nanTo (ff : FloatFmt) (keep : Bool) (s sig : Bool) (payload width : Nat) : Nat × FFlags :=
  (if keep && ff.ieeeOvf then quietTo ff s payload width else canonNan ff, { nnv := sig })

/-- R37: an infinity converted to a binary format. -/
def infTo (ff : FloatFmt) (rc : RoundCtx) (s : Bool) : Nat × FFlags :=
  if ff.ieeeOvf then (signBit ff s + infBits ff, noFlags)
  else match ff.kind with
    | .e4m3 => (signBit ff s + (if rc.sat then maxFinite ff else 0x7F), flagNv)
    | .e2m1 => (signBit ff s + maxFinite ff, flagNv)
    | .ieee => if rc.sat then (signBit ff s + maxFinite ff, flagNv) else (signBit ff s + infBits ff, noFlags)

/-- R36, R37: an exact value delivered to a binary format with one rounding. -/
def toFloat (ff : FloatFmt) (rc : RoundCtx) (keepNan : Bool) : FVal → Nat × FFlags
  | .nan s sig p w => nanTo ff keepNan s sig p w
  | .inf s => infTo ff rc s
  | .fin s n e => if n = 0 then (signBit ff s, noFlags) else roundMag ff rc s n 1 e

/-- The least and greatest number of an integer format (R29). -/
def intRange : Fmt → Int × Int
  | .uint8 => (0, 255)
  | f => (-(2 ^ (fmtBits f - 1) : Int), 2 ^ (fmtBits f - 1) - 1)

/-- An exact finite value rounded to an integer in a mode (R38), and whether it was exact. -/
def roundInt (rc : RoundCtx) (s : Bool) (n : Nat) (e : Int) : Int × Bool :=
  let (q, r, d) := inUnits n 1 e 0
  let q' := if r != 0 && roundsUp rc s q r d then q + 1 else q
  (if s then -(q' : Int) else (q' : Int), r == 0)

/-- R38: floating point to an integer format: saturation and NaN set `sat` flags. `satFlag` is what a saturation sets:
NV in a conversion (R38), OF in a tensor engine's read-out (R32, R64). DESIGN CHOICE (entry 118): whether a saturating read-out
sets NX beside OF is open; the model sets OF alone, as R32 names it alone. -/
def toIntSat (f : Fmt) (rc : RoundCtx) (satFlag : FFlags) : FVal → Nat × FFlags
  | .nan _ _ _ _ => (0, flagNv)
  | .inf s => (wrapInt (fmtBits f) (if s then (intRange f).1 else (intRange f).2), flagNv)
  | .fin s n e =>
    let (v, exact) := roundInt rc s n e
    let (lo, hi) := intRange f
    if v < lo then (wrapInt (fmtBits f) lo, satFlag)
    else if v > hi then (wrapInt (fmtBits f) hi, satFlag)
    else (wrapInt (fmtBits f) v, { nnx := !exact })

/-- R38: the same for a conversion, where a result outside the range sets NV. -/
def toInt (f : Fmt) (rc : RoundCtx) (v : FVal) : Nat × FFlags := toIntSat f rc flagNv v

/-- R36, R37, R38: an exact value delivered to an unscaled element format. E8M0 as a plain target does not arise. -/
def toElem (f : Fmt) (rc : RoundCtx) (keepNan : Bool) (v : FVal) : Nat × FFlags :=
  if fmtIsInt f then toInt f rc v else toFloat (fmtFloat f) rc keepNan v

/-- R35: emax, the unbiased exponent of the element format's largest normal. -/
def mxEmax : Fmt → Int
  | .mx8e4m3 => 8
  | .mx8e5m2 => 15
  | _ => 2

/-- R35: the exponent floor(log2 |x|) of a finite nonzero value, none for the others. -/
def fLog2 : FVal → Option Int
  | .fin _ n e => if n = 0 then none else some ((Nat.log2 n : Int) + e)
  | _ => none

/-- R35: the largest floor(log2 |x|) of a block's finite nonzero values. -/
def blockLog2 : List FVal → Option Int
  | [] => none
  | v :: vs =>
    match fLog2 v, blockLog2 vs with
    | some a, some b => some (if a < b then b else a)
    | some a, none => some a
    | none, r => r

/-- R35: the scaling exponent of a block. -/
def blockSexp (f : Fmt) (vs : List FVal) : Int :=
  match blockLog2 vs with
  | none => -127
  | some l => max (-127) (min 127 (l - mxEmax f))

/-- R35: an MX block quantised: the scale byte, the elements and the flags. `rcs` holds one rounding context per
element. -/
def quantiseBlock (f : Fmt) (rcs : List RoundCtx) (vs : List FVal) : Nat × List Nat × FFlags :=
  let sat := match rcs with | rc :: _ => rc.sat | [] => true
  if vs.any fIsNan then (0xFF, vs.map fun _ => 0, { nnv := vs.any fIsSnan })
  else if vs.any fIsInf && !(f == .mx8e5m2 || sat) then (0xFF, vs.map fun _ => 0, flagNv)
  else
    let sexp := blockSexp f vs
    let outs := (List.zip rcs vs).map fun p =>
      match p.2 with
      | .fin s n e => toFloat (fmtFloat f) p.1 false (.fin s n (e - sexp))
      | v => toFloat (fmtFloat f) p.1 false v
    ((sexp + 127).toNat, outs.map (·.1), outs.foldl (fun a o => flagsOr a o.2) noFlags)

/-- R42: 64-bit left rotation. -/
def rotl64 (x : Word) (k : Nat) : Word := x.rotateLeft k

/-- R42: one round of the keyed rounding generator. -/
def krgRound (p : Word × Word) : Word × Word :=
  let x := p.1 ^^^ p.2
  let x := x * 0x9E3779B97F4A7C15#64
  let x := x ^^^ (x >>> 29)
  (x, rotl64 p.2 17 + 0x6A09E667F3BCC909#64)

/-- R42: the 16-bit output of the keyed rounding generator for a seed, an element index and a stage key. -/
def krg (seed : Word) (index stage : Nat) : Nat :=
  let x0 : Word := BitVec.ofNat 64 ((stage % 256) * 2 ^ 48 + index % 2 ^ 48)
  let p := krgRound (krgRound (krgRound (krgRound (krgRound (krgRound (x0, seed))))))
  (p.1 >>> 48).toNat

end Sys2Proof.Machine
end

