-- ==== Sys2Proof/Machine/Arith.lean ====
section
/-!
DEFINITION. Sys2Proof/Machine/Arith.lean: exact arithmetic on values (R40, R55, R58), the exact accumulators LA16 and LA64
(R59 to R65), and the read-out that rounds them once (R64).
-/

namespace Sys2Proof.Machine

/-- The signed number a finite value is, counted in units of 2^u (u at most its exponent). -/
def finUnits (s : Bool) (n : Nat) (e u : Int) : Int :=
  let m : Int := (n : Int) * 2 ^ (e - u).toNat
  if s then -m else m

/-- The lesser of two exponents. -/
def minExp (a b : Int) : Int := if a < b then a else b

/-- The NaN that an invalid operation delivers: it reads out canonical in every format (R31). -/
def defaultNan : FVal := .nan false false 0 0

/-- IEEE 754-2019 addition of two values that are no NaN, exact; `rm` gives the sign of an exact zero sum. -/
def addVal (rm : Rm) (a b : FVal) : FVal × FFlags :=
  match a, b with
  | .inf s, .inf t => if s = t then (.inf s, noFlags) else (defaultNan, flagNv)
  | .inf s, _ => (.inf s, noFlags)
  | _, .inf t => (.inf t, noFlags)
  | .fin s n e, .fin t m f =>
    let u := minExp e f
    let v := finUnits s n e u + finUnits t m f u
    if v = 0 then
      (.fin (if n = 0 ∧ m = 0 ∧ s = t then s else rm == .rdn) 0 0, noFlags)
    else (.fin (v < 0) v.natAbs u, noFlags)
  | a, _ => (a, noFlags)

/-- IEEE 754-2019 multiplication of two values that are no NaN, exact. -/
def mulVal (a b : FVal) : FVal × FFlags :=
  let s := xor (fSign a) (fSign b)
  match a, b with
  | .inf _, .inf _ => (.inf s, noFlags)
  | .inf _, .fin _ m _ => if m = 0 then (defaultNan, flagNv) else (.inf s, noFlags)
  | .fin _ n _, .inf _ => if n = 0 then (defaultNan, flagNv) else (.inf s, noFlags)
  | .fin _ n e, .fin _ m f => (.fin s (n * m) (e + f), noFlags)
  | a, _ => (a, noFlags)

/-- The value negated. -/
def negVal (a : FVal) : FVal := fSetSign (!fSign a) a

/-- The first NaN of a list of operands (R56). -/
def firstNan : List FVal → Option FVal
  | [] => none
  | v :: vs => if fIsNan v then some v else firstNan vs

/-- A binary operation with R56's NaN rule around the exact operation `op`: the first NaN operand quieted, NV for a
signalling one. DESIGN CHOICE (entry 120): IEEE 754-2019 leaves open whether a fused multiply-add of 0 × ∞ with a quiet NaN
addend signals invalid; the model returns the NaN and sets no NV. -/
def withNans (vs : List FVal) (op : FVal × FFlags) : FVal × FFlags :=
  match firstNan vs with
  | some v => (v, { nnv := vs.any fIsSnan })
  | none => op

/-- The order of two values that are no NaN, zeros of either sign equal. -/
def cmpVal (a b : FVal) : Ordering :=
  match a, b with
  | .inf s, .inf t => if s = t then .eq else if s then .lt else .gt
  | .inf s, _ => if s then .lt else .gt
  | _, .inf t => if t then .gt else .lt
  | .fin s n e, .fin t m f =>
    let u := minExp e f
    compare (finUnits s n e u) (finUnits t m f u)
  | _, _ => .eq

/-- R58: the order in which −0 lies below +0. -/
def cmpTotal (a b : FVal) : Ordering :=
  if fIsZero a && fIsZero b then
    (if fSign a = fSign b then .eq else if fSign a then .lt else .gt)
  else cmpVal a b

/-- The lesser of two values in R58's order. -/
def minVal (a b : FVal) : FVal := if cmpTotal b a == .lt then b else a

/-- The greater of two values in R58's order. -/
def maxVal (a b : FVal) : FVal := if cmpTotal b a == .gt then b else a

/-- The largest r with r × r ≤ n, searched bit by bit from bit `k` down. -/
def isqrtFrom (n : Nat) : Nat → Nat → Nat
  | 0, r => if (r + 1) * (r + 1) ≤ n then r + 1 else r
  | k + 1, r => isqrtFrom n k (if (r + 2 ^ (k + 1)) * (r + 2 ^ (k + 1)) ≤ n then r + 2 ^ (k + 1) else r)

/-- The integer square root. -/
def isqrt (n : Nat) : Nat := isqrtFrom n (Nat.log2 n / 2 + 1) 0

/-- a / b, both finite and nonzero or the special cases of IEEE 754-2019, delivered with one rounding. Division of a finite
nonzero number by zero gives the signed infinity with DZ. -/
def divTo (ff : FloatFmt) (rc : RoundCtx) (a b : FVal) : Nat × FFlags :=
  let s := xor (fSign a) (fSign b)
  match a, b with
  | .inf _, .inf _ => (canonNan ff, flagNv)
  | .inf _, _ => infTo ff rc s
  | _, .inf _ => (signBit ff s, noFlags)
  | .fin _ n e, .fin _ m f =>
    if m = 0 then
      if n = 0 then (canonNan ff, flagNv)
      else
        let (p, g) := infTo ff rc s
        (p, flagsOr g { ndz := true })
    else if n = 0 then (signBit ff s, noFlags)
    else roundMag ff rc s n m (e - f)
  | _, _ => (canonNan ff, noFlags)

/-- The square root of n × 2^e as a dyadic number that rounds like it in every mode of R39: the root to at least 40 bits
below the target's last place, and one sticky bit below that. -/
def sqrtDyadic (n : Nat) (e : Int) : Nat × Int :=
  -- scale so that the exponent is even and the root has at least 112 bits
  let k : Nat := if (e % 2 : Int) = 0 then 224 else 225
  let N := n * 2 ^ k
  let r := isqrt N
  if r * r = N then (r, (e - k) / 2) else (2 * r + 1, (e - k) / 2 - 1)

/-- The square root of a value that is no NaN, delivered with one rounding (IEEE 754-2019: √−0 = −0). -/
def sqrtTo (ff : FloatFmt) (rc : RoundCtx) (a : FVal) : Nat × FFlags :=
  match a with
  | .inf s => if s then (canonNan ff, flagNv) else infTo ff rc false
  | .fin s n e =>
    if n = 0 then (signBit ff s, noFlags)
    else if s then (canonNan ff, flagNv)
    else
      let (r, f) := sqrtDyadic n e
      roundMag ff rc false r 1 f
  | _ => (canonNan ff, noFlags)

/-- 1 / √a of a value above 0, delivered with one rounding: 1 / √(n 2^e) = √(2^(2k) / n) / 2^k … to at least 112 bits with a
sticky bit. -/
def rsqrtTo (ff : FloatFmt) (rc : RoundCtx) (n : Nat) (e : Int) : Nat × FFlags :=
  -- 1/(n 2^e) scaled by an even power of two, then its integer square root
  let k : Nat := 2 * (Nat.log2 n + 1) + (if (e % 2 : Int) = 0 then 256 else 257)
  let N := 2 ^ k / n
  let exact := N * n == 2 ^ k
  let r := isqrt N
  let f := (-(e + k)) / 2
  if exact && r * r == N then roundMag ff rc false r 1 f else roundMag ff rc false (2 * r + 1) 1 (f - 1)

/-- The two kinds of exact accumulator. -/
inductive AccKind where
  | la16 | la64
  deriving DecidableEq, Repr

/-- The weight of bit 0 of MAG is 2^(−lsb) (R59, R60). -/
def accLsb : AccKind → Nat
  | .la16 => 540
  | .la64 => 2148

/-- The number of MAG bits (R59, R60). -/
def accMagBits : AccKind → Nat
  | .la16 => 1080
  | .la64 => 4280

/-- The number of 64-bit limbs (R65). -/
def accLimbs : AccKind → Nat
  | .la16 => 17
  | .la64 => 67

/-- An exact accumulator (R59 to R61): its signed magnitude, counted in units of the bit-0 weight, and its status bits. A zero
has no sign, so each value is held once (R61). -/
structure Acc where
  mag : Int := 0
  anan : Bool := false
  pinf : Bool := false
  ninf : Bool := false
  inv : Bool := false
  deriving DecidableEq, Repr

/-- The canonical zero (R59, R60). -/
def accZero : Acc := {}

/-- R61: an accumulator with a value added. A value finer than the bit-0 weight does not arise for the formats the kind
accumulates (R59, R60); its lower bits would be dropped toward −∞. -/
def accAdd (k : AccKind) (a : Acc) (v : FVal) : Acc :=
  match v with
  | .nan _ sig _ _ => if sig then { a with inv := true } else { a with anan := true }
  | .inf s => if s then { a with ninf := true } else { a with pinf := true }
  | .fin s n e =>
    let sh := e + accLsb k
    let m : Int := if sh ≥ 0 then (n : Int) * 2 ^ sh.toNat else ((n / 2 ^ (-sh).toNat : Nat) : Int)
    { a with mag := a.mag + (if s then -m else m) }

/-- R61: an accumulator with a product added: 0 × ∞ and a signalling NaN set INV, a quiet NaN sets NAN. -/
def accAddProd (k : AccKind) (a : Acc) (x y : FVal) : Acc :=
  if fIsSnan x || fIsSnan y then { a with inv := true }
  else if fIsNan x || fIsNan y then { a with anan := true }
  else
    let (p, g) := mulVal x y
    if g.nnv then { a with inv := true } else accAdd k a p

/-- R62: two accumulators of one kind merged. DESIGN CHOICE (entry 121): R63 says that no job's additions overflow MAG and not what
images written by hand give when their sum does; the model keeps the sum exact and an image of it holds its low MAG bits
(accBits). -/
def accMerge (a b : Acc) : Acc :=
  ⟨a.mag + b.mag, a.anan || b.anan, a.pinf || b.pinf, a.ninf || b.ninf, a.inv || b.inv⟩

/-- R59, R60: the bits of an accumulator. -/
def accBits (k : AccKind) (a : Acc) : Nat :=
  let m := accMagBits k
  a.mag.natAbs % 2 ^ m + b2n (decide (a.mag < 0)) * 2 ^ m + b2n a.anan * 2 ^ (m + 1) + b2n a.pinf * 2 ^ (m + 2)
    + b2n a.ninf * 2 ^ (m + 3) + b2n a.inv * 2 ^ (m + 4)

/-- R59 to R61: the accumulator that bits stand for. A set SIGN over a zero magnitude reads as the one zero (R61), and the
reserved bits are ignored (R8). -/
def accOfBits (k : AccKind) (w : Nat) : Acc :=
  let m := accMagBits k
  let mag : Int := (field w 0 m : Nat)
  ⟨if bitAt w m then -mag else mag, bitAt w (m + 1), bitAt w (m + 2), bitAt w (m + 3), bitAt w (m + 4)⟩

/-- R65: limb `j` of an accumulator. -/
def accLimb (k : AccKind) (a : Acc) (j : Nat) : Nat := field (accBits k a) (64 * j) 64

/-- R64: the exact value of an accumulator that holds no status bit. -/
def accVal (k : AccKind) (a : Acc) : FVal :=
  if a.mag = 0 then fZero else .fin (a.mag < 0) a.mag.natAbs (-(accLsb k : Int))

/-- R64: an accumulator's value with its status bits, as a value: an invalid one is the default NaN. -/
def accToVal (k : AccKind) (a : Acc) : FVal × FFlags :=
  if a.inv || (a.pinf && a.ninf) then (defaultNan, flagNv)
  else if a.anan then (defaultNan, noFlags)
  else if a.pinf then (.inf false, noFlags)
  else if a.ninf then (.inf true, noFlags)
  else (accVal k a, noFlags)

/-- R64: an accumulator read out to an element format, rounded once. Integer targets saturate with OF (R32). -/
def accReadOut (k : AccKind) (a : Acc) (f : Fmt) (rc : RoundCtx) : Nat × FFlags :=
  let (v, g) := accToVal k a
  let (p, g') :=
    if fmtIsInt f then toIntSat f rc { nof := true } v else toFloat (fmtFloat f) rc false v
  (p, flagsOr g g')

end Sys2Proof.Machine
end

