-- ==== Sys2Proof/Machine/State.lean ====
section
/-!
DEFINITION. Sys2Proof/Machine/State.lean: the state of one KX1 device as plain data, the reasons a command can stop, and the
state right after reset. Default values are the reset values of the spec's tables (R7), or the values that the assumption
log names where the spec gives none.
-/

namespace Sys2Proof.Machine

/-- Why a command ends without a next state although it is well formed. -/
inductive Fault where
  /-- R289: a LOCAL address outside every range of the map, which holds nothing. Raised by the commands that take a LOCAL
  address from outside the block (LLC_REQUEST, WORD_REBUILD, CORRECTED_WRITEBACK, DELTA_APPLY, CHECK_LINE_REBUILD,
  POISON_RECOVERY). Safe: no program's access ends so, since a thread's address is translated and checked first. -/
  | voidAddress (la : Nat)
  deriving DecidableEq, Repr

/-- Why a command is not taken. -/
inductive Refusal where
  /-- The command has no meaning yet. Raised by Dispatch's arms only. Safe: nothing is claimed of it. -/
  | notModelled (mnemonic : String)
  /-- The term stands for no command of the block: an operand breaks the bounds of WellFormed. Raised by every command
  whose operands are lists of data. Safe: the hardware has no such command. -/
  | illFormed
  deriving DecidableEq, Repr

/-- R1: the orderable parts. -/
inductive Part where
  | a512 | a384 | h512
  deriving DecidableEq, Repr

/-- R441: what LINKMAP holds for one device: its number, its board, its part, and the far end of each link that it has, by link
number (an up-link ends at a KS1 plane). -/
structure DevImg where
  num : BitVec 14
  board : Nat
  part : Part
  far : List (Nat × BitVec 14)
  deriving DecidableEq, Repr

/-- R441: what a LINKMAP section holds: the devices, the spares by KS1 plane port with their parts, the system master, and the pot
time masters that it names. -/
structure LinkmapImg where
  devs : List DevImg
  spares : List (BitVec 14 × Part)
  master : BitVec 14
  potMasters : List (BitVec 14)
  deriving DecidableEq, Repr, Inhabited

/-- R441: what a WORLDS section holds: the world enables, the contexts that it gives to each world, whether it gives URG to world T,
CORE_WORLD and CORE_MODE by core, the cores whose RU_CTL names world T, and the interrupt sources (core and number) of world T. -/
structure WorldsImg where
  enP : Bool
  enT : Bool
  ctxP : List Nat
  ctxT : List Nat
  urgT : Bool
  cores : List (Nat × BitVec 64 × BitVec 64)
  ruT : List Nat
  srcT : List (Nat × Nat)
  deriving DecidableEq, Repr, Inhabited

/-- R84: the levels of a thread. -/
inductive Level where
  | U | S
  deriving DecidableEq, Repr

/-- R82: the states of a thread; ready includes running. -/
inductive ThState where
  | ready | waiting | stopped
  deriving DecidableEq, Repr

/-- R81: a register that carries a scoreboard bit, and S0, which has none. -/
inductive Reg where
  | s (n : BitVec 5)
  | v (n : BitVec 5)
  | m (n : BitVec 4)
  deriving DecidableEq, Repr

/-- R104: one aligned part of an access, after its translation. -/
structure Half where
  /-- The virtual address of its first byte. -/
  va : Nat
  /-- Its length in bytes. -/
  len : Nat
  /-- The physical address (R289). -/
  pa : Word
  /-- R94: the half met a fault under mask: it reads zero, or is dropped. -/
  bad : Bool
  /-- R305: the capability of the segment, carried when the access leaves the device. -/
  cap : BitVec 256
  /-- R352: its segment grants URG. -/
  urg : Bool
  /-- R260: its tensor class. -/
  cls : BitVec 4
  /-- The bytes a remote device has returned for it. -/
  data : Option (List Byte)
  /-- R346: the cause that a remote device's refusal of it raises; 0 for none. -/
  err : Nat := 0
  deriving DecidableEq, Repr

/-- The ten read-modify-write operations of R119. -/
inductive AtomOp where
  | aadd | aand | aor | axor | aswap | acas | amin | amax | aminu | amaxu
  deriving DecidableEq, Repr

/-- The four operations of R123. -/
inductive SyncOp where
  | signal | fetchadd | waits | barrier
  deriving DecidableEq, Repr


/-- R175, R176: one element (or scale byte) that a vector memory instruction moves: `bits` bits at bit `pos` of the register
and at bit `sub` of the first byte of its memory parts. -/
structure VElem where
  /-- The element number (a scale byte carries its block's lowest active element). -/
  i : Nat
  pos : Nat
  bits : Nat
  sub : Nat
  halves : List Half
  deriving DecidableEq, Repr

/-- R157: where a vector instruction writes. -/
inductive VDst where
  | none
  | v (n : BitVec 5) (val : BitVec 8192)
  | m (n : BitVec 4) (val : BitVec 1024)
  | s (n : BitVec 5) (val : Word)
  deriving DecidableEq, Repr

/-- What a queued vector instruction does at its pass. -/
inductive VKind where
  /-- Register operands only: the registers it will write; its pass computes the result (R157). -/
  | op (dst : List Reg)
  /-- A result that the pass has computed, to be written at its write clock. -/
  | reg (dst : VDst)
  /-- A load of the elements into a V register. -/
  | load (d : BitVec 5) (fills : List (Nat × Nat × Nat)) (elems : List VElem)
  /-- A store of a register's value, which the pass reads anew (R157), in ascending element order (R177). -/
  | store (val : BitVec 8192) (elems : List VElem)
  /-- R174: values handed to reduction-unit accumulator `acc`, for the LA64 kind or not; the pass reads them anew (R157). -/
  | ho (acc : Nat) (wide : Bool) (vals : List FVal)
  deriving DecidableEq, Repr

/-- R156: one entry of the vector queue: the thread, its PC when it handed off, and the flags it will OR (R164). -/
structure VEnt where
  t : Nat
  pc : BitVec 18
  kind : VKind
  flags : BitVec 5
  /-- The instruction, and the clock at which its hand-off was complete. -/
  instr : Option Instr := none
  hand : Nat := 0
  /-- R45, R150: what the instruction latched when it handed off: VL, VFMT, NUM_CTL, NUM_KBASE and CX_KRGSEED; and whether the
  thread took exceptions then (DESIGN CHOICE, entry 128). -/
  vl : Nat := 0
  vfmt : BitVec 4 := 0#4
  rm : BitVec 3 := 0#3
  sat : Bool := false
  te : BitVec 5 := 0#5
  kstage : BitVec 8 := 0#8
  kbase : BitVec 48 := 0#48
  seed : Word := 0#64
  exm : Bool := true
  /-- R157: the clock at which its result is written, once its pass has run. -/
  wclk : Nat := 0
  deriving DecidableEq, Repr

/-- R76: what a thread waits to have answered. -/
inductive Req where
  /-- A scalar load into `d` (R118). -/
  | load (d : BitVec 5) (size : Nat) (u : Bool) (halves : List Half) (len : Nat)
  /-- A store that is not posted (R102). -/
  | store (bytes : List Byte) (halves : List Half) (len : Nat)
  /-- An atomic (R119). -/
  | atom (op : AtomOp) (d : BitVec 5) (size : Nat) (b : Word) (half : Half)
  /-- R89: RSSPILL of n entries, whose number goes to Sb. -/
  | spill (b : BitVec 5) (n : Nat) (halves : List Half)
  /-- R89: RSFILL of n entries. -/
  | fill (b : BitVec 5) (n : Nat) (halves : List Half)
  /-- A sync-object operation on another device (R123). -/
  | rsync (op : SyncOp) (d : BitVec 5) (v : Word) (half : Half)
  /-- R123, R376: a sync-object operation of this device that has been performed: its result is on its way. -/
  | synced (d : BitVec 5) (v : Word)
  /-- A WAITS or BARRIER that holds a waiter entry in a sync store (R377, R380). -/
  | syncWait (d : BitVec 5) (so : Nat)
  /-- R178: a vector memory instruction with an element beyond the scratchpad. -/
  | vec (e : VEnt)
  /-- A monitor service (R86). -/
  | mcall (n : BitVec 8)
  /-- An extension request with its SEQ and deadline (R137, R139). -/
  | ext (d : BitVec 5) (seq : BitVec 8) (deadline : Nat)
  deriving DecidableEq, Repr

/-- Why a waiting thread waits. -/
inductive Wait where
  /-- It does not wait. -/
  | none
  /-- R76: for the reply to an access beyond the scratchpad. -/
  | reply (r : Req)
  /-- R81: for scoreboard bits to clear. -/
  | score (regs : List Reg)
  /-- R75: for a unit to accept its hand-off. -/
  | unit
  /-- R106: for its store buffer to drain. -/
  | drain
  /-- R102: for a free store-buffer entry. -/
  | sbuf
  /-- R80: for one of the core's 64 outstanding accesses to complete. -/
  | slot
  /-- R355: for one of the core's 4 TC0 requests to complete. -/
  | tc0
  /-- R159: for its vector memory instructions to complete. -/
  | vecmem
  /-- R53, R92, R179: for the start of a queued vector instruction of its own that may still take an exception. -/
  | vecpass
  /-- R421: for a poisoned word to be recovered. -/
  | poison
  /-- R401: for room in a log. -/
  | log
  /-- R140: for the late reply held in the port. -/
  | late
  /-- R395: parked at a steep. -/
  | parked
  /-- R92: for its earlier vector instructions to complete before it enters the exception: XCAUSE, XADDR, the resume address and the
  offset of the vector. -/
  | entry (cause : Nat) (addr : Word) (resume off : BitVec 18)
  deriving DecidableEq, Repr

/-- R102: a posted store. -/
structure SBuf where
  pa : Nat
  bytes : List Byte
  deriving DecidableEq, Repr

/-- R82: one thread context. Fields that a manual register holds are read and written through Csr.lean's views. -/
structure Thread where
  /-- S1 to S31; S0 is never listed and reads zero (R11). -/
  s : Tab Word := []
  /-- R82: byte offset into the instruction memory. -/
  pc : BitVec 18 := 0#18
  dsp : Word := 0#64
  /-- R83: THR. -/
  exm : Bool := true
  pexm : Bool := true
  umask : Bool := false
  st : ThState := .stopped
  /-- R84: WLD. -/
  lvl : Level := .S
  plvl : Level := .S
  cx : BitVec 6 := 0#6
  /-- R95: the exception registers. -/
  xpc : BitVec 18 := 0#18
  xcause : BitVec 30 := 0#30
  xaddr : Word := 0#64
  xvec : BitVec 12 := 0#12
  xdrop : BitVec 32 := 0#32
  /-- R133: XEXP's KIND and SHORT. -/
  xexpKind : BitVec 3 := 0#3
  xexpShort : BitVec 8 := 0#8
  /-- R140: XLATE and XLATEV, and the late replies held in the port, oldest first. -/
  xlSeq : BitVec 8 := 0#8
  xlValid : Bool := false
  xlateV : Word := 0#64
  xlPort : List (BitVec 8 × Word) := []
  /-- R88: the return stack, newest entry first. -/
  rs : List (BitVec 18) := []
  /-- R102: the store buffer, oldest entry first. -/
  sb : List SBuf := []
  /-- R46 to R48. -/
  rm : BitVec 3 := 0#3
  sat : Bool := true
  te : BitVec 5 := 0#5
  kstage : BitVec 8 := 0#8
  nflags : BitVec 20 := 0#20
  kbase : BitVec 48 := 0#48
  /-- R142 to R147: VL, VFMT, the vector and the mask registers; M0 is all true and never listed. -/
  vl : Nat := 128
  vfmt : BitVec 4 := 0#4
  v : Tab (BitVec 8192) := []
  m : Tab (BitVec 1024) := []
  /-- R81: the scoreboard. -/
  sbS : BitVec 32 := 0#32
  sbV : BitVec 32 := 0#32
  sbM : BitVec 16 := 0#16
  wait : Wait := .none
  /-- R215, R239: an exception has been taken and a pass of the thread is due to stop at its next boundary. -/
  excDue : Bool := false
  /-- R218, R241, R245: the cause of the exception that a unit's read for the thread has met and that it is still to take; 0 for none. -/
  unitDue : Nat := 0
  /-- R85: the TIME at which the thread's job was started. -/
  jobStart : Nat := 0
  /-- R137: SEQ of the next extension request, and the requests whose late reply is awaited. -/
  extSeq : BitVec 8 := 0#8
  extLate : List (BitVec 8) := []
  /-- R403: instructions completed, counted below the architecture. -/
  icount : Nat := 0
  deriving DecidableEq, Repr

/-- R293: a segment descriptor. -/
structure Seg where
  vbase : BitVec 48 := 0#48
  len : BitVec 48 := 0#48
  pbase : Word := 0#64
  rights : BitVec 16 := 0#16
  policy : BitVec 2 := 0#2
  cls : BitVec 4 := 0#4
  hash : Bool := false
  present : Bool := true
  en : Bool := false
  /-- R305: SG_CAP. -/
  cap : BitVec 256 := 0#256
  deriving DecidableEq, Repr

/-- R302: an invalidation in progress: its range, its acknowledgement object and the engines still to answer. -/
structure Inval where
  lo : Nat
  hi : Nat
  so : BitVec 13
  waitFor : List Nat
  /-- R327: the segment whose streams the monitor resumes once it is complete. -/
  resume : Option Nat
  /-- R304: the owner that the monitor answers once it is complete, and the segment whose base it has rewritten. -/
  ackTo : Option (Nat × Nat)
  deriving DecidableEq, Repr

/-- R291, R292: one context. -/
structure Ctx where
  ctxEn : Bool := false
  segEn : Bool := false
  world : World := .P
  multi : BitVec 32 := 0#32
  inval0 : BitVec 48 := 0#48
  /-- R303: at most 4 invalidations in progress. -/
  invals : List Inval := []
  /-- R303: invalidations that wait until one of those completes, oldest first. -/
  queued : List Inval := []
  /-- R49: CX_KRGSEED. -/
  seed : Word := 0#64
  /-- R263: LLC_CXQ.PINQ. -/
  pinq : BitVec 16 := 0#16
  segs : Tab Seg := []
  /-- R455: STR_REASON and STR_WHERE of the context's latest Strainer run. -/
  strReason : Word := 0#64
  strWhere : Word := 0#64
  deriving DecidableEq, Repr

/-- R299: an entry of a segment buffer. -/
structure SegBuf where
  cx : Nat
  sg : Nat
  seg : Seg
  deriving DecidableEq, Repr

/-- R307: an entry of the object table. -/
structure Obj where
  valid : Bool := false
  objHi : BitVec 16 := 0#16
  base : Nat := 0
  len : Nat := 0
  epoch : BitVec 16 := 0#16
  permP : Bool := false
  permT : Bool := false
  deriving DecidableEq, Repr

/-- R313: the states of a transfer stream. -/
inductive TsState where
  | idle | running | faulted | stopped | done
  deriving DecidableEq, Repr

/-- R314: a latched stream descriptor. -/
structure TsDesc where
  ndim : Nat := 0
  gather : Bool := false
  conv : Bool := false
  esz : Nat := 0
  sfmt : Nat := 0
  dfmt : Nat := 0
  rm : Nat := 0
  sat : Bool := false
  scls : Nat := 0
  dcls : Nat := 0
  glw : Bool := false
  key : Nat := 0
  markn : Nat := 0
  minc : Nat := 0
  ibase : Nat := 0
  sva : Nat := 0
  dva : Nat := 0
  glva : Nat := 0
  markva : Nat := 0
  counts : List Nat := []
  sstr : List Int := []
  dstr : List Int := []
  deriving DecidableEq, Repr

/-- R325: where an element met its fault. -/
structure TsFault where
  idx : Nat
  cause : BitVec 8
  side : BitVec 3
  /-- R327: the absent segment, for a fault that goes to the monitor. -/
  absent : Option Nat
  deriving DecidableEq, Repr

/-- R320: an element issued and not yet delivered. -/
structure TsElem where
  idx : Nat
  /-- The bytes to write, once its source has been read. -/
  data : Option (List Byte)
  /-- R316: the flags of its conversion. -/
  fl : BitVec 4
  /-- R329: its source was poisoned and is delivered as zero. -/
  zero : Bool
  /-- R320: its write has left for another device and awaits the acknowledgement. -/
  sent : Bool
  deriving DecidableEq, Repr

/-- R313: one transfer stream. -/
structure Ts where
  ownCx : BitVec 6 := 0#6
  ownValid : Bool := false
  st : TsState := .idle
  cause : BitVec 8 := 0#8
  side : BitVec 3 := 0#3
  flags : BitVec 4 := 0#4
  drops : BitVec 16 := 0#16
  fidx : BitVec 48 := 0#48
  /-- R313: TS_FDIM0 to TS_FDIM2. -/
  fdim : List Nat := []
  /-- The descriptor's address, and the descriptor once it has been read (NDIM 0: not yet). -/
  dva : Nat := 0
  desc : TsDesc := {}
  /-- The bytes of a descriptor on another device that have come, by offset, and the gather entries read, by number. -/
  dbuf : Tab (List Byte) := []
  gl : Tab Int := []
  /-- R45: the seed latched at TS_START; R294: the level of the store that started the stream. -/
  seed : Word := 0#64
  lvlS : Bool := false
  /-- R320: the prefix P, the next element to issue, and the elements delivered at or above P. -/
  pre : Nat := 0
  nxt : Nat := 0
  above : List Nat := []
  inflight : List TsElem := []
  /-- R321: the number of marks signalled. -/
  marks : Nat := 0
  /-- R325: the lowest fault so far. -/
  fault : Option TsFault := none
  /-- R330: a STOP is pending. -/
  stopping : Bool := false
  /-- R329: the latest RESUME carried ZPOIS. -/
  zpois : Bool := false
  deriving DecidableEq, Repr

/-- R377, R380: who a waiter entry belongs to. -/
inductive Waiter where
  | thread (c t : Nat)
  | remote (dev agent seq : Nat) (tc : BitVec 2) (world : World)
  deriving DecidableEq, Repr

/-- R377: one waiter entry of a sync object. -/
structure WaitEnt where
  who : Waiter
  /-- R380: the generation a BARRIER or a barrier WAITS waits for; none for a WAITS condition. -/
  gen : Option Nat
  /-- R380: the entry is a BARRIER's own. -/
  isBarrier : Bool
  deadline : Option Nat
  deriving DecidableEq, Repr

/-- R380, R381: one parked entry, and whether it holds a second arrival for the next generation. -/
structure Parked where
  who : Waiter
  gen : Nat
  deriving DecidableEq, Repr

/-- R371: one sync object. -/
structure SyncObj where
  val : Word := 0#64
  tgt : Word := 0#64
  ty : BitVec 2 := 0#2
  grp : Bool := false
  parts : BitVec 12 := 1#12
  waiters : List WaitEnt := []
  parked : List Parked := []
  /-- R381: threads whose second arrival waits for the open generation to complete, with the deadline of each. -/
  early : List WaitEnt := []
  deriving DecidableEq, Repr

/-- R387: a part of a partial that a combine unit has merged: its operation, sender, phase, direction, number, and the number of
parts. -/
structure CombRec where
  op : Nat
  sender : Nat
  phase : Nat
  dir : Bool
  part : Nat
  parts : Nat
  deriving DecidableEq, Repr

/-- R383, R385, R387: one collective group. -/
structure Group where
  word0 : Word := 0#64
  arg : Word := 0#64
  stage : BitVec 48 := 0#48
  result : BitVec 48 := 0#48
  /-- R383: COLL_SEQ.DONE, as a count. -/
  doneN : Nat := 0
  /-- R385: the number of operations to which this device has contributed. -/
  started : Nat := 0
  /-- R386: for operations k and k + 1, by (k mod 2) × 4 + phase: what has been merged in each phase, the device's own
  contribution with phase X. -/
  acc : Tab Acc := []
  /-- R386: by k mod 2, the phases whose partial this device has sent. -/
  phases : Tab Nat := []
  merged : List CombRec := []
  /-- R388: by k mod 2, the image that a BCAST has brought. -/
  image : Tab Acc := []
  deriving DecidableEq, Repr

/-- R131, R194: one MLOAD into a bank: its format, the bytes it has written of its stream (tile, metadata, scales) as one
little-endian number, and the clocks at which it wrote bytes 512 i to 512 i + 511, by i. -/
structure BankLoad where
  fmt : BitVec 4
  sp24 : Bool
  data : Nat
  clks : List Nat
  deriving DecidableEq, Repr

/-- R194, R195: one stationary bank: the loads whose bytes it can still show, the latest first; none: no MLOAD has loaded it since
reset or a change of world (R191). -/
structure Bank where
  loads : List BankLoad := []
  deriving DecidableEq, Repr

/-- R189: the eleven configuration words. -/
structure MxCfg where
  passcfg : Word := 0#64
  sstride : Word := 0#64
  sscale : Word := 0#64
  rladdr : Word := 0#64
  rlrows : Word := 0#64
  zmap : Word := 0#64
  roidx : Word := 0#64
  rdcfg : Word := 0#64
  drain : Word := 0#64
  daddr : Word := 0#64
  dstride : Word := 0#64
  deriving DecidableEq, Repr

/-- What a queued matrix instruction does (R129). -/
inductive MxKind where
  | mpass (sa : Word) (rows : Nat) (sref : Bool) (drains : Bool)
  | mswap
  | mzero
  | mcfg (cfg : MxCfg)
  | mrel
  /-- R203: the destination, target format and saturation; the rounding mode as resolved at hand-off (R45). -/
  | mrd (d : BitVec 5) (tfmt : BitVec 4) (sat : Bool) (rm : Rm)
  deriving DecidableEq, Repr

/-- R129: an entry of the matrix queue. -/
structure MxEnt where
  t : Nat
  kind : MxKind
  wait : Nat
  handoff : Nat
  /-- R45: what a drain or read-out latches: the seed, and the thread's RM, which DYN names. -/
  seed : Word
  dyn : Nat
  /-- R134: the final output write of the latest SPASS handed off earlier, as its place in the stream order. -/
  spass : Option Nat
  /-- R265: the predicted block bits of a SKIP pass, once the reply has crossed. -/
  pred : Option Nat
  deriving DecidableEq, Repr

/-- R192: an issued row whose contribution has not yet reached its entry. -/
structure MxRow where
  /-- The pass and the thread it belongs to. -/
  id : Nat
  t : Nat
  m : Nat
  /-- R187, R204: its entry and its drained row. -/
  e : Nat
  d : Nat
  first : Nat
  last : Nat
  final : Nat
  /-- The streamed elements and their block scales, as exact values. -/
  vals : List FVal
  /-- R198: the bank active at the pass's row 0. -/
  bank0 : Bool
  cfg : MxCfg
  /-- R207: the row block of a SKIP pass. -/
  blk : Option Nat
  /-- R200: the row takes the block-replay path. -/
  replay : Bool
  /-- R197: it is known whether the row met values that left its window; `final` is settled. -/
  judged : Bool
  deriving DecidableEq, Repr

/-- R208: a zero-map check that has been read and not yet resolved. -/
structure MxChk where
  /-- The clock at which it resolves. -/
  clk : Nat
  blk : Nat
  predZero : Bool
  bit : Bool
  deriving DecidableEq, Repr

/-- R215: a row of which some issue slots have passed and which goes on at the pass's next slot. -/
structure MxPart where
  row : MxRow
  /-- The issue slots still to come. -/
  left : Nat
  /-- R204: its drain follows. -/
  drain : Bool
  /-- R208: a clock before which no row issues after it. -/
  after : Nat
  deriving DecidableEq, Repr

/-- R184, R192: the pass that issues. -/
structure MxPass where
  id : Nat
  t : Nat
  cfg : MxCfg
  sa : Word
  rows : Nat
  start : Nat
  /-- The next issue clock, and the issue slots used (R215). -/
  slot : Nat
  slots : Nat
  /-- R101: the slot of the last row issued. -/
  lastSlot : Nat
  next : Nat
  /-- R215: the row that a boundary divides. -/
  part : Option MxPart
  /-- R210: route entries already issued or refused. -/
  taken : List Nat
  /-- R210: gathered rows that came from another device, by route entry. -/
  got : Tab (List Byte)
  /-- R207: the predicted block bits, once the reply has crossed. -/
  pred : Option Nat
  /-- R208: rows of corrected blocks still to issue, and checks under way. -/
  fix : List Nat
  chks : List MxChk
  /-- R208: blocks whose map bit was 1. -/
  dropped : List Nat
  /-- R265: the bits the checks have read. -/
  readBits : Nat
  drains : Bool
  dyn : Nat
  seed : Word
  /-- R215: stopped at a boundary; R101: the lead. -/
  susp : Bool
  lead : Nat
  poisoned : Bool
  bank0 : Bool
  deriving DecidableEq, Repr

/-- R204: a row of a draining pass that waits to be drained. -/
structure MxDrain where
  id : Nat
  m : Nat
  e : Nat
  d : Nat
  due : Nat
  t : Nat
  dyn : Nat
  seed : Word
  deriving DecidableEq, Repr

/-- R52, R205: a pass that has started and whose outputs are not yet all visible: its thread, its M, whether it drains (its DSO signal
is then still to be sent), and the flags that its rows and drains have collected so far; an abandoned pass is quiet (R215). -/
structure MxEnd where
  id : Nat
  t : Nat
  m : Nat
  drains : Bool
  flags : BitVec 4
  quiet : Bool
  deriving DecidableEq, Repr

/-- R132, R203: a read-out that has taken effect and whose Vd is still to be written. -/
structure MxRead where
  due : Nat
  t : Nat
  d : BitVec 5
  val : BitVec 8192
  flags : BitVec 4
  deriving DecidableEq, Repr

/-- R128, R181 to R220: the matrix unit of one core. -/
structure Matrix where
  owner : Option Nat := none
  /-- R128: the world of the latest owner, and whether a clear is under way for the new owner. -/
  world : Option World := none
  clearing : Bool := false
  bankA : Bank := {}
  bankB : Bank := {}
  /-- R195: which bank is active now (false: bankA), and the clocks at which it changed. -/
  act : Bool := false
  swaps : List Nat := []
  /-- R131: the bank being loaded and the clock at which its load ends; the latest load's end stays for R132's kind 2. -/
  loading : Option Bool := none
  loadEnd : Nat := 0
  /-- R131: what the load has still to read: LOCAL address and length of each piece. -/
  loadSrc : List (Nat × Nat) := []
  /-- R131, R218: the thread of the load and whether it read poison. -/
  loadT : Nat := 0
  loadPoison : Bool := false
  /-- R191: the configuration and the active role as the handed-off instructions leave them. -/
  hcfg : MxCfg := {}
  hact : Bool := false
  cfg : MxCfg := {}
  rdptr : Nat := 0
  kcount : Nat := 0
  hkcount : Nat := 0
  /-- R186, R188: the entries: number e × 128 + lane; an entry not listed holds the identity `ident`. -/
  acc : Tab Acc := []
  ident : Acc := {}
  q : List MxEnt := []
  /-- R129: the end of the previous queued instruction and the last row of the latest MPASS since the unit was acquired. -/
  lastEnd : Option Nat := none
  lastRow : Option Nat := none
  /-- R132: an MPASS has been handed off since the unit was acquired. -/
  passHanded : Bool := false
  pass : Option MxPass := none
  rows : List MxRow := []
  drains : List MxDrain := []
  ends : List MxEnd := []
  /-- R132: the read-out whose Vd is still to be written. -/
  read : Option MxRead := none
  /-- R193, R204: the clock at which each entry was last drained, and the clock of the latest drain. -/
  drainedAt : Tab Nat := []
  lastDrain : Nat := 0
  /-- R27: the latest window of 256 row-issue slots in which a slot was used, and how many of it were. -/
  capWin : Nat := 0
  capUsed : Nat := 0
  /-- The number of the next pass. -/
  passNo : Nat := 0
  /-- R265: the bits that a finished pass's checks read: context, zero-map address, bits and blocks. -/
  upd : Option (Nat × Nat × Nat × Nat) := none
  /-- R216: MXU_MULTI. -/
  multi : BitVec 32 := 0#32
  deriving DecidableEq, Repr

/-- R223: a stream geometry. -/
structure SGeom where
  addr : Nat := 0
  scale : Nat := 0
  rowlen : Nat := 0
  rowstride : Nat := 0
  fmt : Nat := 0
  en : Bool := false
  bcol : Bool := false
  deriving DecidableEq, Repr

/-- R225: a stage word. -/
structure SStage where
  op : Nat := 0
  src1 : Nat := 0
  src2 : Nat := 0
  src3 : Nat := 0
  fmt : Nat := 0
  rm : Rm := .rne
  /-- R39, R45: RM names DYN, which a firing resolves as it enters the queue. -/
  dyn : Bool := false
  carry : Bool := false
  sat : Bool := false
  key : Nat := 0
  base1 : Nat := 0
  base2 : Nat := 0
  deriving DecidableEq, Repr

/-- R222: a latched pass descriptor. -/
structure SDesc where
  n : Nat := 0
  ibase : Nat := 0
  kfmt : Nat := 0
  ga : SGeom := {}
  gb : SGeom := {}
  gc : SGeom := {}
  go : SGeom := {}
  ks : List Nat := []
  stages : List SStage := []
  /-- R222, R236: the words read only for armed programs. -/
  aref : Bool := false
  cso : Nat := 0
  csoen : Bool := false
  thresh : Nat := 0
  step : Nat := 0
  repeats : Nat := 0
  advA : Int := 0
  advB : Int := 0
  advC : Int := 0
  advO : Int := 0
  idxadv : Nat := 0
  deriving DecidableEq, Repr

/-- R134: an entry of the stream queue. -/
structure SeEnt where
  t : Nat
  prog : List SDesc
  ref : Bool
  wait : Nat
  /-- The completion sync object, if any. -/
  so : Option Nat
  armed : Bool
  handoff : Nat
  /-- R45: the seed latched at hand-off. -/
  seed : Word
  /-- Its place among the core's stream passes. -/
  id : Nat
  deriving DecidableEq, Repr

/-- R235: the pass that runs. -/
structure SeRun where
  ent : SeEnt
  /-- R240: the current descriptor and the next position. -/
  desc : Nat
  pos : Nat
  /-- The clock of the next group's read. -/
  clk : Nat
  /-- R235: writes made L clocks after their read: due clock, LOCAL address and bytes. -/
  writes : List (Nat × Nat × List Byte)
  lastRead : Nat
  flags : BitVec 4
  susp : Bool
  lead : Nat
  poisoned : Bool
  deriving DecidableEq, Repr

/-- R236, R237: an arm. -/
structure Arm where
  t : Nat
  sa : Word
  so : Nat
  prog : List SDesc
  /-- The next firing to enter the queue, and the number of firings due so far. -/
  k : Nat
  due : Nat
  deriving DecidableEq, Repr

/-- R221 to R242: the stream engine of one core. -/
structure StreamEng where
  q : List SeEnt := []
  run : Option SeRun := none
  /-- R235: passes whose last input has been read and whose final output write is to come. -/
  ending : List SeRun := []
  arms : Tab Arm := []
  /-- R134: the last input read and the final output write of the previous pass. -/
  lastRead : Option Nat := none
  lastWrite : Option Nat := none
  nextId : Nat := 0
  /-- R129: the final output writes of finished passes, by their place. -/
  doneAt : Tab Nat := []
  deriving DecidableEq, Repr

/-- R245: a reduction-unit operation in its order (R247). -/
inductive RuOp where
  | clr (acc : Nat)
  | addv (acc : Nat) (fmt : BitVec 4) (v : FVal)
  /-- The image lies at virtual address `va`; `wide`: it is an LA64 image. -/
  | mrg (acc : Nat) (va : Nat) (wide : Bool)
  | spill (acc : Nat) (va : Nat)
  | rd (acc : Nat) (fmt : BitVec 4) (d : BitVec 5) (rm : Rm) (sat : Bool) (seed : Word)
  | cfg (w0 w1 : Word)
  /-- R244: a change of RU_CTL.WORLD that waits for a pass that has started. -/
  | ctl (w : World)
  /-- R174: the place of a VRSUM.HO, whose values come with its vector pass. -/
  | ho
  deriving DecidableEq, Repr

/-- R247: an instruction in the reduction unit's order. -/
structure RuEnt where
  t : Nat
  op : RuOp
  deriving DecidableEq, Repr

/-- R243, R244: the reduction unit of one core. -/
structure RedUnit where
  /-- R244: RU_CTL.WORLD, which hand-offs are checked against and which a read returns. -/
  world : World := .P
  /-- R244: the world whose accumulators the unit holds: RU_CTL.WORLD once its change has been carried out. -/
  held : World := .P
  /-- RU_CFG.KIND and RU_ROIDX as they act. -/
  kind : Bool := false
  ibase : BitVec 48 := 0#48
  key : BitVec 8 := 0#8
  /-- R246: the current kind, which hand-offs are checked against. -/
  hkind : Bool := false
  acc : Tab Acc := []
  q : List RuEnt := []
  /-- R247: a stream pass with ROWRED holds the unit. -/
  busy : Bool := false
  deriving DecidableEq, Repr

/-- R14, R87, R97, R107, R138: one logical core. -/
structure Core where
  /-- R75: core clocks since reset. -/
  clk : Nat := 0
  /-- R77: the current thread; in interleave mode, the thread whose turn it is (R108). -/
  cur : Nat := 0
  /-- R78: clocks the current thread has run without waiting. -/
  ran : Nat := 0
  /-- R79: the window of 4,096 clocks to which the counts belong, and the clocks used by each world in it. -/
  win : Nat := 0
  usedP : Nat := 0
  usedT : Nat := 0
  /-- R101: the clock at which each thread's last instruction issued. -/
  issued : Tab Nat := []
  th : Tab Thread := []
  /-- R87: CORE_WORLD. -/
  pShare : BitVec 8 := 0#8
  tShare : BitVec 8 := 0#8
  imSplit : BitVec 5 := 16#5
  threadT : BitVec 8 := 0#8
  /-- R107: CORE_MODE.ILV. -/
  ilv : Bool := false
  /-- R138: EXT_CTL. -/
  tmoP : BitVec 10 := 0x3E8#10
  tmoT : BitVec 10 := 0x3E8#10
  enP : Bool := false
  enT : Bool := false
  /-- R97: ICU_SRCn, ICU_PEND, ICU_MULTI and ICU_TMRt. -/
  icuSrc : Tab (BitVec 30) := []
  icuPend : BitVec 64 := 0#64
  icuMulti : BitVec 32 := 0#32
  icuTmr : Tab Word := []
  /-- R156: the vector queue, oldest first, and the instructions whose pass has run and whose write is to come. -/
  vq : List VEnt := []
  vrun : List VEnt := []
  /-- R156: the last clock of the vector unit's latest pass. -/
  vend : Nat := 0
  /-- R250: bytes of inbound reads and of inbound writes that the inbound buffer holds. -/
  inRd : Nat := 0
  inWr : Nat := 0
  /-- R128: the matrix unit. -/
  mx : Matrix := {}
  /-- R221: the stream engine. -/
  se : StreamEng := {}
  /-- R243: the reduction unit. -/
  ru : RedUnit := {}
  deriving DecidableEq, Repr

/-- R342: the states of a fabric link. -/
inductive LinkSt where
  | down | training | up | upSpare | failed
  deriving DecidableEq, Repr

/-- R345: a packet with its operation code, as it leaves. -/
abbrev Sent := Nat × Packet

/-- R338, R339, R342: one link of the device. -/
structure Link where
  st : LinkSt := .down
  splane : BitVec 4 := 0#4
  /-- R333: the far end that the link map names. -/
  expect : BitVec 14 := 0#14
  nbr : BitVec 14 := 0#14
  nlvl : BitVec 4 := 0#4
  retry : BitVec 16 := 0#16
  storm : BitVec 8 := 0#8
  /-- R339: the GSEQ of the next group to send, the unacknowledged groups (one packet each) and packets that wait for room. -/
  txSeq : BitVec 12 := 0#12
  unacked : List (BitVec 12 × Sent) := []
  waiting : List Sent := []
  /-- R339: the GSEQ expected next, and whether a NAK has been sent and its resend has not arrived. -/
  rxSeq : BitVec 12 := 0#12
  nakSent : Bool := false
  /-- R339: a NAK has come: the ACK it carries. -/
  resend : Option (BitVec 12) := none
  /-- R340: the lane being trained onto lane 16. -/
  sparing : Option (BitVec 4) := none
  /-- R340: the millisecond of TIME of the latest resend, the groups resent in it, and the milliseconds that were CRC-storm intervals,
  newest first. -/
  stormMs : Nat := 0
  stormN : Nat := 0
  storms : List Nat := []
  deriving DecidableEq, Repr

/-- R359: who waits for the response to a request. -/
inductive ReqOwner where
  /-- Part `part` of the access thread t of core c waits for. -/
  | thread (c t part : Nat)
  /-- R210: the row of route entry j of core c's pass. -/
  | mxRow (c j : Nat)
  /-- The source read, destination write, or mark of an element of a stream. -/
  | tsRead (n idx : Nat)
  | tsWrite (n idx : Nat)
  | tsMark (n : Nat)
  /-- R467: a host access through BAR2, of which a read returns `n` bytes. -/
  | host (n : Nat)
  /-- R311: the service that thread t of core c waits for, at thread count `ic`: its argument bytes at `va`. -/
  | svc (c t ic va : Nat)
  deriving DecidableEq, Repr

/-- R359, R361: a request without its response. -/
structure Outst where
  agent : Nat
  seq : Nat
  sent : Sent
  owner : ReqOwner
  /-- R361: answered BUSY and due to be sent again. -/
  busy : Bool
  /-- R379: TIME of the first send. -/
  since : Nat
  deriving DecidableEq, Repr

/-- R360: an entry of the deduplication table. -/
structure Dedup where
  /-- The I/O die whose fabric memory agent made it: false IO-N, true IO-S. -/
  die : Bool
  src : Nat
  agent : Nat
  seq : Nat
  tc0 : Bool
  status : BitVec 16
  operand : Word
  made : Nat
  deriving DecidableEq, Repr

/-- R304: a segment of another device that maps memory of this one, as its monitor has registered it. -/
structure Mapper where
  dev : Nat
  cx : Nat
  sg : Nat
  pbase : Word
  cap : BitVec 256
  deriving DecidableEq, Repr

/-- R335, R354, R364, R369: the fabric of the device. -/
structure Fabric where
  links : Tab Link := []
  x : BitVec 3 := 0#3
  y : BitVec 3 := 0#3
  z : BitVec 3 := 0#3
  pot : BitVec 5 := 0#5
  devnum : BitVec 14 := 0#14
  lvlN : BitVec 4 := 3#4
  active : BitVec 4 := 2#4
  /-- R365: the level announced for the next full steep boundary, and the votes the system master holds. -/
  nextLevel : Option (BitVec 4) := none
  votes : Tab Nat := []
  /-- R365, R441: the system master and the number of devices that the link map gives. -/
  master : BitVec 14 := 0#14
  count : Nat := 0
  recov : Bool := false
  /-- R351: routes installed from the changed link map: destination and link. -/
  routes : Tab Nat := []
  seqs : Tab Nat := []
  lwms : Tab Nat := []
  /-- R359: agents and the devices that may hold deduplication entries for them. -/
  touched : List (Nat × Nat) := []
  outst : List Outst := []
  dedup : List Dedup := []
  /-- R355: TC0 quotas toward each destination, and requests that wait in the I/O die for a slot. -/
  quota : Tab Nat := []
  tc0Wait : List Outst := []
  /-- R369: FAB_TSYNC. -/
  role : BitVec 2 := 0#2
  parent : BitVec 3 := 0#3
  locked : Bool := false
  corr : BitVec 16 := 0#16
  /-- Monitor messages received in TC3 (R345), oldest first. -/
  svc : List (BitVec 14 × List Byte) := []
  /-- R366, R387: devices the monitor treats as failed for what they sent. -/
  suspects : List (BitVec 14) := []
  /-- R408: inbound requests that arrived before their turn in a replay, oldest first: the link, OP and packet. -/
  held : List (Nat × Sent) := []
  /-- R304: the registered mappers of this device's memory. -/
  mappers : List Mapper := []
  deriving DecidableEq, Repr

/-- R401, R402: an undo record: the 256-byte line at byte offset `line` of local HBM, its old contents, and the tiers it serves. -/
structure UndoRec where
  line : Nat
  old : List Byte
  localTier : Bool
  fullTier : Bool
  /-- R412: made before the cut of the full steep under way. -/
  oldGen : Bool
  deriving DecidableEq, Repr

/-- R403: an outcome-log record: its type, its key and its recorded outcome. -/
structure OutRec where
  ty : Nat
  key : List Nat
  val : Word
  deriving DecidableEq, Repr

/-- R404: a message-log entry: the peer and the packet kept for it. -/
structure MsgRec where
  peer : Nat
  sent : Sent
  deriving DecidableEq, Repr

/-- R397: a live-state declaration. -/
structure Decl where
  vlive : BitVec 32 := 0#32
  mlive : BitVec 15 := 0#15
  banka : Bool := false
  banks : Bool := false
  afirst : Nat := 0
  acount : Nat := 0
  rulive : Word := 0#64
  /-- Offset and length of each scratchpad range. -/
  ranges : List (Nat × Nat) := []
  deriving DecidableEq, Repr

/-- R399: what a sealed local steep holds. -/
structure Snap where
  cores : Tab Core := []
  /-- The declaration of each thread, by core × 8 + thread. -/
  decls : Tab Decl := []
  /-- The declared scratchpad bytes: LOCAL address and contents. -/
  spads : List (Nat × List Byte) := []
  so : Tab SyncObj := []
  ts : Tab Ts := []
  groups : Tab Group := []
  dedup : List Dedup := []
  seqs : Tab Nat := []
  /-- R404: the low-water marks that rise when this steep seals; the requests outstanding at the cut; R403: the number of outcome
  records made before it. -/
  lwms : Tab Nat := []
  outst : List Outst := []
  outLen : Nat := 0
  /-- R124, R432: the steep identifier. -/
  ident : Nat := 0
  deriving DecidableEq, Repr

/-- R414: an archive steep: its generation, and the protected memory, its poison and the full slot as of the cut. -/
structure Archive where
  gen : Nat := 0
  mem : List Host.Cell := []
  poison : List Nat := []
  snap : Snap := {}
  deriving DecidableEq, Repr

/-- R124, R432: an event of the evidence ring; `gen` is the full steep it concerns, `ident` the identifier of the latest local steep. -/
structure EvEvent where
  time : Nat
  kind : Nat
  place : Nat
  gen : Nat
  ident : Nat
  deriving DecidableEq, Repr

/-- R393 to R433: failure hiding. -/
structure Steep where
  /-- R394: STEEP_CTL. -/
  ctl : BitVec 58 := 0x81e64a06400c8#58
  /-- R395: a request is pending, since when; R396: it was forced; R399: the cut has begun. -/
  pending : Bool := false
  reqAt : Nat := 0
  forced : Bool := false
  cutting : Option Snap := none
  /-- R395: the declarations latched by parked threads, by core × 8 + thread, and R396's defaults. -/
  decls : Tab Decl := []
  /-- R124: the steep identifier latched last. -/
  ident : Nat := 0
  defaults : Tab Decl := []
  undo : List UndoRec := []
  /-- R402: the local-tier records of the epoch whose steep is being written, newest first. -/
  prevUndo : List UndoRec := []
  outcome : List OutRec := []
  /-- R412: the number of outcome records freed. -/
  outBase : Nat := 0
  /-- R408: the outcomes that replay returns, oldest first. -/
  replay : List OutRec := []
  /-- R408: by agent, the request number from which on requests are no longer repeats of the lost epoch's. -/
  replayTo : Tab Nat := []
  msgs : List MsgRec := []
  snap : Option Snap := none
  /-- R412: the full slot, its generation, and the generation announced. -/
  full : Option Snap := none
  fullNext : Option Snap := none
  gen : Nat := 0
  announced : Option Nat := none
  /-- R412: the announced steep's cut has been taken. -/
  cutTaken : Bool := false
  /-- R412: pre-images of check lines, by LOCAL address. -/
  preimg : List (Nat × List Byte) := []
  /-- R409: the members of the device's partner set in the Caddy's order. -/
  partners : List (BitVec 14) := []
  /-- R441: the partner sets of the system, as the loaded STEEP section gives them. -/
  sets : Option (List (List (BitVec 14))) := none
  /-- R416: spare devices by plane port. -/
  spares : List (BitVec 14) := []
  /-- R415: heartbeats missed in a row, by device, and devices declared lost. -/
  missed : Tab Nat := []
  lost : List (BitVec 14) := []
  /-- R417, R419: recovery under way; the device waits halted. -/
  halted : Bool := false
  /-- R418: the losses of the recovery window. -/
  window : List (BitVec 14) := []
  /-- R414: generations archived, newest first, and the TIME of the latest. -/
  archives : List Nat := []
  archAt : Nat := 0
  archive : Option Archive := none
  /-- R402: the recovery entries of the job's RECOMPUTE contexts, and the threads (core × 8 + thread) that run one now. -/
  recovery : List ThreadInit := []
  recovering : List Nat := []
  /-- R408: the instructions each thread (core × 8 + thread) had completed at the fault. -/
  faultAt : Tab Nat := []
  /-- R141: the threads (core × 8 + thread) whose extension request was outstanding at the rollback and is to be sent again. -/
  extAgain : List Nat := []
  /-- R256: the job's code image, which the job loader keeps in monitor memory: the instruction memories' bytes. -/
  code : List Host.Cell := []
  /-- R431: FH_WCNT_P and FH_WCNT_T. -/
  wcntP : Word := 0#64
  wcntT : Word := 0#64
  /-- R423: TIMEs of compute-check failures by site; sites retired; the site each core is bound to. -/
  fails : Tab (List Nat) := []
  retired : List Nat := []
  sites : Tab Nat := []
  /-- R407: a rollback has been started and waits to be carried out; R408: replay is under way. -/
  rollback : Bool := false
  replaying : Bool := false
  /-- R425: halted and retired pairs: cluster × 4 + pair, and the TIME of each pair's latest mismatch. -/
  haltedPairs : List Nat := []
  retiredPairs : List Nat := []
  mismatchAt : Tab Nat := []
  /-- R427, R428: the leader token; LEASE as the TIME at which it reaches zero. -/
  holder : BitVec 2 := 0#2
  epoch : BitVec 32 := 0#32
  leaseEnd : Nat := 0
  /-- R429: AON's gate and each cluster's own gate with the TIME of its last successful claim. -/
  aonGate : Bool := false
  gateA : Bool := false
  gateB : Bool := false
  claimA : Nat := 0
  claimB : Nat := 0
  /-- R432: lifetime counts by item, and the event ring, newest first. -/
  counts : Tab Nat := []
  ring : List EvEvent := []
  /-- R432: the record as the flash holds it: events, counts, the lowest VIN_A and VIN_B, and the TIME of its latest write. -/
  evidence : List EvEvent := []
  evCounts : Tab Nat := []
  evMinA : Option Nat := none
  evMinB : Option Nat := none
  evidenceAt : Nat := 0
  deriving DecidableEq, Repr

/-- R437: the events of the boot sequence, as far as it has come. -/
inductive BootPhase where
  | off | supplies | aon | loaded | clusters | hbm | links | strained | loader | refused
  deriving DecidableEq, Repr

/-- R441: what the accepted image holds, section by section, as the model keeps it. -/
structure Image where
  seq : Nat := 0
  secver : Nat := 0
  revoke : BitVec 4 := 0#4
  version : Nat := 0
  role : Bool := false
  fabId : Word := 0#64
  level : BitVec 4 := 0#4
  memcfg : Word := 0#64
  overrides : List Word := []
  hasExt : Bool := false
  extCtl : Word := 0#64
  extLink : Word := 0#64
  /-- R440: the image offset of the EXT section. -/
  extOff : Nat := 0
  /-- R449: staged sections by type. -/
  sections : List (Nat × List Byte) := []
  deriving DecidableEq, Repr

/-- R434 to R461: flash, boot and the Strainer. -/
structure Boot where
  phase : BootPhase := .off
  /-- The flash (R434, R435): bytes by offset; an offset not listed reads 0xFF (erased). -/
  flash : Tab Byte := []
  flashOk : Bool := true
  /-- R446: AON_BOOT. -/
  bank : Bool := false
  fallback : Bool := false
  causeA : BitVec 8 := 0xFF#8
  causeB : BitVec 8 := 0xFF#8
  strfail : BitVec 2 := 0#2
  secmin : BitVec 6 := 0#6
  slots : BitVec 4 := 0#4
  boots : BitVec 16 := 0#16
  /-- R442, R447: fuses: the owner key digests, revoked slots, serial number and device key. -/
  slotDigest : Tab Nat := []
  revoked : BitVec 4 := 0#4
  serial : Nat := 0
  devKey : Nat := 0
  /-- R306, R442: the system key, and whether it is held. -/
  sysKey : Option Nat := none
  image : Image := {}
  /-- R441, R448: LINKMAP and WORLDS as loaded. -/
  linkmap : Option LinkmapImg := none
  worlds : Option WorldsImg := none
  /-- R447: a JOB_EN run has passed under the booted image. -/
  jobRan : Bool := false
  /-- R445: booted but admitted to no job. -/
  barred : Bool := false
  /-- R457: runs refused with 0xFE, to be repeated: DEV_EN bit. -/
  retry : List Nat := []
  /-- R451: DEV_EN. -/
  devEn : BitVec 15 := 0#15
  /-- R455: the device copies of STR_REASON and STR_WHERE. -/
  strReason : Word := 0#64
  strWhere : Word := 0#64
  /-- R443: FAB_RMULTI. -/
  rmulti : BitVec 32 := 0#32
  /-- R474 to R476: firmware update under way, and whether the written image verified. -/
  updating : Bool := false
  verified : Bool := false
  /-- R460: the identity's state has moved to a spare, or a migration is requested. -/
  migrated : Bool := false
  migWanted : Bool := false
  resetN : Bool := true
  deriving DecidableEq, Repr

/-- R258, R259, R264: a line of an LLC half; the data itself is kept in memory, where the half and its stack agree. -/
structure LlcLine where
  tag : Nat
  /-- R258: valid, dirty and pending-fill bits of the four sectors. -/
  valid : BitVec 4
  dirty : BitVec 4
  fill : BitVec 4
  cls : Nat
  world : World
  cx : Nat
  /-- R261: the set's fill count when the line was last filled or hit, and its place in the order of use. -/
  stamp : Nat
  used : Nat
  deriving DecidableEq, Repr

/-- R261: one set of an LLC half. -/
structure LlcSet where
  ways : Tab LlcLine := []
  fills : Nat := 0
  clock : Nat := 0
  deriving DecidableEq, Repr

/-- R270: where a request stands: in its half's miss store, in a general slot, or in one of the 8 reserved ones. -/
inductive ReqSlot where
  | none | general | kept
  deriving DecidableEq, Repr

/-- R270: a request in a channel controller's slots or in the half's miss store. -/
structure HbmReq where
  pc : Bool
  bank : Nat
  row : Nat
  col : Nat
  write : Bool
  /-- R270: urgent or service. -/
  urgent : Bool
  at_ : Nat
  slot : ReqSlot
  /-- R271: whose request it is; none for a write-back, and for the further words of a request. -/
  user : Option MemUser
  /-- R275: an attempt at it has failed, and it is repeated before anything else. -/
  again : Bool
  deriving DecidableEq, Repr

/-- R270, R275, R280: one channel controller, by stack × 32 + channel. -/
structure Chan where
  reqs : List HbmReq := []
  /-- Open row by pseudo-channel × 64 + bank. -/
  openRow : Tab Nat := []
  /-- R275: failed attempts of the access under way, by pseudo-channel, and pseudo-channels out of service. -/
  tries : Tab Nat := []
  outOfService : BitVec 2 := 0#2
  /-- R280: the scrubber's place, by pseudo-channel. -/
  scrub0 : Nat := 0
  scrub1 : Nat := 0
  /-- R283, R284: eye widths in 1/100 UI by lane, lanes retrained since the last training, those of them measured at full load, and
  redundant lanes in use. -/
  eyes : Tab Nat := []
  retrained : List Nat := []
  loaded : List Nat := []
  redundant : Nat := 0
  deriving DecidableEq, Repr

/-- R265: a predictor entry. -/
structure PredEnt where
  cx : Nat
  gran : Nat
  bits : BitVec 512
  deriving DecidableEq, Repr

/-- R249 to R287: the device's shared memory hierarchy. -/
structure MemSys where
  /-- R263: MEM_CFG without STKMASK. -/
  eccmode : BitVec 2 := 3#2
  scrubh : BitVec 8 := 0x18#8
  tways : BitVec 4 := 0#4
  /-- R279: the error mode in force since the last power-up. -/
  eccNow : BitVec 2 := 3#2
  /-- R287. -/
  ecntP : Word := 0#64
  ecntT : Word := 0#64
  /-- R258: sets by half × 16384 + set. -/
  llc : Tab LlcSet := []
  /-- R265: predictor entries of each half and world (half × 2 + world), most recently used first. -/
  pred : Tab (List PredEnt) := []
  chans : Tab Chan := []
  /-- R282: corrected words whose write-back is still to come. -/
  writebacks : List Nat := []
  /-- R285: stack temperatures: latest, and at the last training; stacks at 7.2 Gb/s. -/
  temps : Tab Int := []
  trainTemps : Tab Int := []
  slow : List Nat := []
  /-- R286: rows recorded for repair and rows repaired, by stack. -/
  repair : List (Nat × Nat) := []
  /-- R286: the corrected errors of the last 24 hours: stack, row and TIME. -/
  corrAt : List (Nat × Nat × Nat) := []
  repaired : List (Nat × Nat) := []
  /-- R436: the monitor's error log: kind and address, newest first; and the log areas of banks A and B of the flash. -/
  errlog : List (Nat × Nat) := []
  logA : List (Nat × Nat) := []
  logB : List (Nat × Nat) := []
  /-- R253: the patrol's next granule, by core. -/
  patrol : Tab Nat := []
  deriving DecidableEq, Repr

/-- R483, R485: the states of the extension link. -/
inductive ExtSt where
  | down | training | up | failed
  deriving DecidableEq, Repr

/-- R137: an extension request as it travels. -/
structure ExtReq where
  func : BitVec 13
  opa : Word
  opb : Word
  core : BitVec 8
  thread : BitVec 3
  world : World
  seq : BitVec 8
  replay : Bool
  deriving DecidableEq, Repr

/-- R479 to R485: the extension link and its port. -/
structure ExtLink where
  st : ExtSt := .down
  en : Bool := false
  rate : BitVec 2 := 0#2
  txeq : BitVec 4 := 5#4
  credinit : BitVec 12 := 0#12
  chipid : BitVec 35 := 0#35
  retry : BitVec 16 := 0#16
  unmatched : BitVec 16 := 0#16
  downs : BitVec 8 := 0#8
  credits : Nat := 0
  /-- R481: the next LSEQ, the unacknowledged flits, and the next LSEQ expected. -/
  txSeq : BitVec 8 := 0#8
  unacked : List (BitVec 8 × ExtReq) := []
  rxSeq : BitVec 8 := 0#8
  nakSent : Bool := false
  /-- R482: requests that wait for credit or room, oldest first, and every request without its reply. -/
  waiting : List ExtReq := []
  outst : List ExtReq := []
  /-- R483: failed retrainings in a row. -/
  tries : Nat := 0
  intN : Bool := true
  deriving DecidableEq, Repr

/-- R472: an I/O request the service holds. -/
structure IoReq where
  key : List Nat
  cx : Nat
  op : Nat
  file : Nat
  so : Nat
  off : Nat
  va : Nat
  len : Nat
  blk : Nat
  done : Option Nat
  /-- R470: issued again once. -/
  retried : Bool
  /-- R469: submitted through the mailbox: its data and its block lie in host memory. -/
  host : Bool
  deriving DecidableEq, Repr

/-- R471: a job file. -/
structure JobFile where
  ns : Nat
  base : Nat
  len : Nat
  output : Bool
  deriving DecidableEq, Repr

/-- R469: a mailbox command, and its response: TAG, STATUS, CODE, STR_WHERE and result. -/
structure MbRsp where
  tag : BitVec 16
  status : BitVec 8
  code : BitVec 8
  wher : Word
  result : List Word
  deriving DecidableEq, Repr

/-- R478: what the test access port's instruction register selects. -/
inductive TapInstr where
  | bypass | idcode | samplePreload | extest | clamp | highz | extestPulse | extestTrain
  deriving DecidableEq, Repr

/-- R311: a piece of a service's argument on another device, which the monitor has asked for or has sent: the thread and its count, the
piece's address, whether it is written, and the response. -/
structure SvcPart where
  c : Nat
  t : Nat
  ic : Nat
  va : Nat
  wr : Bool
  got : Option (BitVec 16 × List Byte)
  deriving DecidableEq, Repr

/-- R311, R312: a service that has had its effect and is still to reply: the object and the LOCAL range whose earlier accesses it waits
for, what it still writes and where, and its result code. -/
structure SvcEnd where
  c : Nat
  t : Nat
  ic : Nat
  obj : Nat
  lo : Nat
  hi : Nat
  out : Option (Nat × List Byte)
  code : Nat
  deriving DecidableEq, Repr

/-- R462 to R485: the board interfaces. -/
structure Board where
  /-- R464: PCIE_STAT. -/
  endpoint : Bool := false
  rate : BitVec 2 := 0#2
  width : BitVec 2 := 0#2
  retrain : BitVec 16 := 0#16
  perstN : Bool := true
  /-- R466, R470: NVMe controllers found, and failed ones. -/
  ctrls : List Nat := []
  failed : List Nat := []
  /-- R468: the mailbox. -/
  cmdBase : Word := 0#64
  rspBase : Word := 0#64
  cmdTail : BitVec 8 := 0#8
  rspHead : BitVec 8 := 0#8
  cmdHead : BitVec 8 := 0#8
  rspTail : BitVec 8 := 0#8
  ready : Bool := false
  /-- The responses written to the host's ring, newest first, and MSI-X messages sent. -/
  rsps : List MbRsp := []
  msix : Nat := 0
  /-- R304: host address of the mirror copy, its sequence word, and what has been written to it, newest first. -/
  mirror : Option Word := none
  mirrorSeq : Word := 0#64
  mirrored : List (Nat × Nat × Seg) := []
  /-- R467: the host context and virtual base of BAR2. -/
  hostCx : Nat := 0
  hostBase : Nat := 0
  /-- The latest completion returned to the host or to an inbound TLP. -/
  hostData : List Byte := []
  files : Tab JobFile := []
  io : List IoReq := []
  lostNs : List Nat := []
  /-- R311, R312: what the capability services have on other devices, and services that are still to reply. -/
  svcParts : List SvcPart := []
  svcEnds : List SvcEnd := []
  /-- R474: the I3C dynamic address and the endpoint ID. -/
  dynAddr : BitVec 7 := 0#7
  eid : BitVec 8 := 0#8
  tid : BitVec 8 := 0#8
  /-- R475: the latest PLDM answer: its completion code and its data. -/
  answer : Nat × List Nat := (0, [])
  /-- R476: the command in service, the next one, and the latest response. -/
  maintRsp : List Nat := []
  /-- R478: the instruction selected, and what the latest data-register capture took, where the spec gives it. -/
  tap : TapInstr := .idcode
  tapDr : Option (BitVec 32) := none
  jtagSel : Bool := false
  ext : ExtLink := {}
  deriving DecidableEq, Repr

/-- R486 to R502: supplies, domains, clocks and temperatures. -/
structure Power where
  /-- R489: PWR_SUPPLY. -/
  inuseB : Bool := false
  agood : Bool := false
  bgood : Bool := false
  vina : BitVec 16 := 0#16
  vinb : BitVec 16 := 0#16
  switches : BitVec 16 := 0#16
  /-- R488: the lowest VIN_A and VIN_B seen, none before the first sample. -/
  minA : Option Nat := none
  minB : Option Nat := none
  pwrgd : Bool := false
  /-- R492. -/
  domOn : BitVec 20 := 1#20
  domWake : BitVec 20 := 0#20
  domSleep : BitVec 20 := 0#20
  domReq : BitVec 20 := 1#20
  /-- R494. -/
  fabRef : Bool := false
  aonRef : Bool := true
  pcieRef : Bool := true
  /-- R498. -/
  boostEn : Bool := false
  /-- R495, R496: islands measured at full load: cores by number. -/
  measured : List Nat := []
  intervals : Tab Nat := []
  measTemp : Tab Int := []
  /-- R497: core islands at 2.1 GHz. -/
  boosted : List Nat := []
  /-- R17: stretched cycles by island, in eighths of a cycle. -/
  stretched : Tab Nat := []
  /-- R27: row-issue slots of 256 that the power manager allows. -/
  cap : Nat := 256
  /-- R502: thermal levels of C0 to C3, IO-N and IO-S, the trip, the hottest sensor and the temperature of each die. -/
  lvls : Tab Nat := []
  trip : Bool := false
  tmax : BitVec 8 := 0#8
  temps : Tab Int := []
  thermtripN : Bool := true
  deriving DecidableEq, Repr

/-- The state of one device. -/
structure State where
  part : Part := .a512
  /-- R11, R367: TIME in ns. -/
  time : Nat := 0
  /-- The model's own: how many free values have been drawn. -/
  draws : Nat := 0
  cores : Tab Core := []
  /-- R289: HBM, scratchpads and instruction memories by LOCAL address. -/
  mem : List Host.Cell := []
  /-- R252, R278: the first LOCAL address of each poisoned word. -/
  poison : List Nat := []
  /-- R252, R256: words of scratchpads and instruction memories with a single-bit error that no read has met yet, and poisoned words
  whose double-bit error no read has met yet, by first LOCAL address. -/
  flaws : List Nat := []
  unseen : List Nat := []
  ctxs : Tab Ctx := []
  /-- R299: segment buffers by engine, most recently used first: cores 0 to 255, transfer-engine groups 256 to 271, fabric
  memory agents 272 and 273. -/
  segbuf : Tab (List SegBuf) := []
  objs : Tab Obj := []
  /-- R310: the verified capabilities of each fabric memory agent, most recently used first. -/
  vercaps : Tab (List (BitVec 256)) := []
  ts : Tab Ts := []
  /-- R323: the stream that each transfer-engine group (256 to 271) served last. -/
  tsTurn : Tab Nat := []
  so : Tab SyncObj := []
  groups : Tab Group := []
  /-- R85: the TIME at which each world was enabled, and WORLD_STAT.DROPPED of each. -/
  startP : Nat := 0
  startT : Nat := 0
  droppedP : Bool := false
  droppedT : Bool := false
  memsys : MemSys := {}
  fab : Fabric := {}
  steep : Steep := {}
  boot : Boot := {}
  board : Board := {}
  power : Power := {}
  /-- The commands that wait, first in, first out. -/
  pending : List Instr := []
  deriving DecidableEq, Repr

/-- The device right after reset: every field at its reset value, no command waiting. -/
def State.reset : State := {}

end Sys2Proof.Machine
end

