-- ==== Sys2Proof/Config.lean ====
section
/-!
DEFINITION. Sys2Proof/Config.lean: what the spec leaves open or takes from a standard it does not retell. Each is an opaque
constant: nothing in Lean can evaluate it or prove a value of it, so a statement that holds holds whatever it is. The
assumption log names each one.
-/

namespace Sys2Proof.Machine

/-- R441: what an IDENTITY section holds: the serial number, ROLE, the FAB_ID image and the protocol level. -/
structure IdentityImg where
  serial : Nat
  role : Bool
  fabId : BitVec 64
  level : BitVec 4
  deriving DecidableEq, Repr, Inhabited

/-- R441: what a CONTEXTS section holds for one context: its descriptors (number and words), LLC_CXQ and CX_KRGSEED. -/
structure ContextImg where
  cx : Nat
  segs : List (Nat × List (BitVec 64))
  pinq : BitVec 16
  seed : BitVec 64
  deriving DecidableEq, Repr, Inhabited

/-- R441: what a STEEP section holds: STEEP_CTL and the partner sets of the system, the members of each in the Caddy's order. -/
structure SteepImg where
  ctl : BitVec 64
  sets : List (List (BitVec 14))
  deriving DecidableEq, Repr, Inhabited

/-- R441, R467, R470: what an IO section holds: the PCIe mode, the host context and virtual base, and the controller of each namespace. -/
structure IoImg where
  endpoint : Bool
  hostCx : Nat
  hostBase : Nat
  nsCtrl : List (Nat × Nat)
  deriving DecidableEq, Repr, Inhabited

end Sys2Proof.Machine

namespace Sys2Proof.Config

open Sys2Proof.Machine

/-- R219, R398: what an undeclared V register holds after a rollback, by draw. -/
opaque deadV : Nat → BitVec 8192

/-- R219, R398: what an undeclared M register holds after a rollback, by draw. -/
opaque deadM : Nat → BitVec 1024

/-- R229: the value y of an approximate function, by its OP and the FP32 bits of its operand: the sign, and the magnitude as
a number of units of 2 to the power given. The spec bounds it and does not give its bits; approxIn takes it where it keeps the bound. -/
opaque approx : Nat → Nat → FVal

/-- R439, R444: SHA-384 of a byte string. -/
opaque sha384 : List Byte → Nat

/-- R439, R444: whether an ECDSA P-384 signature (third) over SHA-384 of a byte string (second) verifies with a public key
(first). -/
opaque ecdsaOk : List Byte → List Byte → List Byte → Bool

/-- R441, R444: whether Gelvan's own signature at the start of the FIRMWARE section verifies. -/
opaque firmwareOk : List Byte → Bool

/-- R442: the system key unwrapped from the KEY section with the device's private key; none when the wrap's integrity check
fails. -/
opaque unwrapKey : List Byte → Nat → Option Nat

/-- R441: the contents of IDENTITY, whose byte layout the spec does not give. -/
opaque identityOf : List Byte → IdentityImg

/-- R441: the contents of LINKMAP. -/
opaque linkmapOf : List Byte → LinkmapImg

/-- R441: the contents of WORLDS. -/
opaque worldsOf : List Byte → WorldsImg

/-- R441: the contents of CONTEXTS. -/
opaque contextsOf : List Byte → List ContextImg

/-- R441: the contents of CLASSES: first and last destination, and quota. -/
opaque classesOf : List Byte → List (Nat × Nat × Nat)

/-- R441: the contents of STEEP. -/
opaque steepOf : List Byte → SteepImg

/-- R441: the contents of IO. -/
opaque ioOf : List Byte → IoImg

/-- R442, R447: the fuses: the digest of the owner key of each slot, and the device private key. -/
opaque fuseDigest : Nat → Nat

/-- R442. -/
opaque fuseDevKey : Nat

/-- R286: whether a stack has a repair resource left for a row: the stack and the row. -/
opaque rowRepairable : Nat → Nat → Bool

/-- R432: the lot of the module. -/
opaque lot : Nat

/-- R432: the power-on hours that the field evidence record holds, by TIME. -/
opaque powerHours : Nat → Nat

/-- R432: the cause, outcome and duration of an event, whose form the spec does not give: by its TIME, kind and place. -/
opaque eventRest : Nat → Nat → Nat → List Nat

/-- R478: Gelvan's JEP106 code, in the manufacturer field of IDCODE. -/
opaque jep106 : BitVec 11

/-- R442: the public key of a device private key. -/
opaque publicKey : Nat → List Nat

/-- R276: what the decoder makes of a word with errors in more than three symbols, which the code promises nothing about. -/
opaque symbolDecode : List (BitVec 6) → Finding

/-- R252, R253: which of the eight words of a granule the patrol finds uncorrectable, by draw. -/
opaque patrolWord : Nat → BitVec 3

/-- R252, R256: the words of scratchpads and instruction memories that upsets hit while a nanosecond passes, by draw: with one bit wrong,
and with two. -/
opaque upsets : Nat → List Nat × List Nat

/-- R284: the redundant lanes of a channel, which the stack of R267 has and the spec does not number. -/
opaque redundantLanes : Nat

/-- R456, R458: what the devices that a Strainer run asks answer, by draw: reason code and STR_WHERE of each check that fails
there. It stands for them where the run is started by a store to CSR space, which carries no such answers. -/
opaque peerVerdict : Nat → List (BitVec 8 × BitVec 64)

/-- R13: field-spare sites of a die beyond the four that factory fusing always leaves. -/
opaque extraSpares : Nat → Nat

/-- R475: what DSP0240 has an endpoint answer to a Base request whose content the spec leaves to it, by request. -/
opaque pldmBase : Nat → List Nat

/-- R475: the input power of the module, in watts, by draw. -/
opaque inputPower : Nat → Nat

/-- R465, R466: the address of the interrupt window, of 4 KiB. -/
opaque intWindow : Nat

/-- R471: the GiB that the archive namespaces hold, by the STEEP section that names them and the namespaces lost. -/
opaque archiveGiB : List Byte → List Nat → Nat

/-- R434: whether the flash's SFDP table is valid, by the flash's contents. -/
opaque sfdpOk : List (Nat × Byte) → Bool

/-- R367: the rate correction that a pot master takes from a time message, given TIME and the message's OPERAND: the spec states the
bounds that it keeps, and no law. -/
opaque tsyncCorr : Nat → Word → BitVec 16

/-- R455: where the field that fails a check lies in a section of the active image, by reason code and section: ADDR, LSB and MSB of
STR_WHERE. The spec gives no byte layout of these sections. -/
opaque placeIn : Nat → List Byte → BitVec 60

/-- R455: where it lies in a job description, by reason code and draw. -/
opaque jobPlace : Nat → Nat → BitVec 60

end Sys2Proof.Config
end

