-- ==== Sys2Proof/Machine/Mem.lean ====
section
/-!
DEFINITION. Sys2Proof/Machine/Mem.lean: the LOCAL address map (R289) and the bytes behind it: reading, writing, poison
(R252, R278) and the canonical form of memory.
-/

namespace Sys2Proof.Machine

/-- R289: the regions of the local map. -/
inductive Region where
  | hbm
  | spad (c : Nat)
  | imem (c : Nat)
  | so (n : Nat)
  | csr
  | void
  deriving DecidableEq, Repr

/-- R21: the number of fitted stacks. -/
def stacksOf : Part → Nat
  | .a384 => 6
  | _ => 8

/-- R289: the end of the HBM range. -/
def hbmTop (p : Part) : Nat := stacksOf p * 0x1000000000

/-- R249: the first LOCAL address of core c's scratchpad. -/
def spadBase (c : Nat) : Nat := 0x010000000000 + c * 0x400000

/-- R254: the first LOCAL address of core c's instruction memory. -/
def imemBase (c : Nat) : Nat := 0x014000000000 + c * 0x40000

/-- R371: the first LOCAL address of sync object n. -/
def soBase (n : Nat) : Nat := 0x01E000000000 + n * 0x20

/-- R289: the region a LOCAL address lies in. -/
def regionOf (p : Part) (a : Nat) : Region :=
  if a < hbmTop p then .hbm
  else if 0x010000000000 ≤ a && a < 0x010040000000 then .spad ((a - 0x010000000000) / 0x400000)
  else if 0x014000000000 ≤ a && a < 0x014004000000 then .imem ((a - 0x014000000000) / 0x40000)
  else if 0x01E000000000 ≤ a && a < 0x01E000040000 then .so ((a - 0x01E000000000) / 0x20)
  else if 0x01F000000000 ≤ a && a < 0x020000000000 then .csr
  else .void

/-- What a byte of memory that nothing has written reads as (DESIGN CHOICE: the spec gives no contents after power-on). -/
def unlisted : Byte := 0#8

/-- The byte at a LOCAL address. -/
def readByte : List Host.Cell → Nat → Byte
  | [], _ => unlisted
  | (k, v) :: m, a => if k = a then v else readByte m a

/-- The memory with an entry at `a` in its place. -/
def insertCell : List Host.Cell → Nat → Byte → List Host.Cell
  | [], a, b => [(a, b)]
  | (k, v) :: m, a, b =>
    if a = k then (a, b) :: m
    else if a < k then (a, b) :: (k, v) :: m
    else (k, v) :: insertCell m a b

/-- The memory with byte `b` at `a`; writing what an unlisted address reads as removes the entry. -/
def writeByte (m : List Host.Cell) (a : Nat) (b : Byte) : List Host.Cell :=
  if b = unlisted then m.filter fun e => e.1 != a else insertCell m a b

/-- The canonical form: addresses strictly rising, no entry equal to what an unlisted address reads as. -/
def memWf : List Host.Cell → Bool
  | [] => true
  | (a, b) :: m => b != unlisted && (m.all fun e => decide (a < e.1)) && memWf m

/-- The memory that holds the bytes of a list of cells, in canonical form. -/
def normMem (l : List Host.Cell) : List Host.Cell := l.foldr (fun e m => writeByte m e.1 e.2) []

/-- The bytes `bs` written from `a` on, where `ok` allows the address. -/
def writeOk (ok : Nat → Bool) : List Host.Cell → Nat → List Byte → List Host.Cell
  | m, _, [] => m
  | m, a, b :: bs => writeOk ok (if ok a then writeByte m a b else m) (a + 1) bs

/-- The `n` bytes from `a` on. -/
def readList (m : List Host.Cell) : Nat → Nat → List Byte
  | _, 0 => []
  | a, n + 1 => readByte m a :: readList m (a + 1) n

/-- R6: the number that bytes stand for, the first the least significant. -/
def leNat : List Byte → Nat
  | [] => 0
  | b :: bs => b.toNat + 256 * leNat bs

/-- R6: the `n` bytes of a number, the least significant first. -/
def natLe : Nat → Nat → List Byte
  | 0, _ => []
  | n + 1, v => BitVec.ofNat 8 v :: natLe n (v / 256)

/-- R252, R256, R278: the size of the word that a code covers: 8 bytes in a scratchpad, 4 in an instruction memory, 32 in HBM. -/
def poisonWord (p : Part) (a : Nat) : Nat :=
  match regionOf p a with
  | .hbm => 32
  | .imem _ => 4
  | _ => 8

/-- The first address of the poison word of `a`. -/
def poisonBase (p : Part) (a : Nat) : Nat := a - a % poisonWord p a

/-- Whether the word of `a` is poisoned. -/
def isPoisoned (s : State) (a : Nat) : Bool := s.poison.contains (poisonBase s.part a)

/-- Whether any of the `n` bytes from `a` on is poisoned. -/
def anyPoison (s : State) (a n : Nat) : Bool :=
  s.poison.any fun p => decide (p < a + n) && decide (a < p + poisonWord s.part p)

/-- R252, R278: whether a write of `n` bytes at `a` covers the whole word that holds `x`. -/
def coversWord (p : Part) (a n x : Nat) : Bool :=
  decide (a ≤ poisonBase p x) && decide (poisonBase p x + poisonWord p x ≤ a + n)

/-- R252, R278: bytes stored: a write covering a whole poisoned word clears its poison, a partial write to a poisoned word
is discarded. -/
def storeBytes (s : State) (a : Nat) (bs : List Byte) : State :=
  { s with
    mem := writeOk (fun x => !(isPoisoned s x) || coversWord s.part a bs.length x) s.mem a bs
    poison := s.poison.filter fun p => !(coversWord s.part a bs.length p)
    flaws := s.flaws.filter fun p => !(coversWord s.part a bs.length p)
    unseen := s.unseen.filter fun p => !(coversWord s.part a bs.length p) }

/-- R289: whether an enabled segment lies over the local byte `a`: by a LOCAL address, or by this device's own number. -/
def segOver (s : State) (g : Seg) (a : Nat) : Bool :=
  let p := g.pbase.toNat
  g.en && (field p 62 2 == 0 || (field p 62 2 == 1 && field p 48 14 == s.fab.devnum.toNat)) &&
    decide (field p 0 48 ≤ a) && decide (a < field p 0 48 + g.len.toNat)

/-- The bytes at a LOCAL address. -/
def loadBytes (s : State) (a n : Nat) : List Byte := readList s.mem a n

/-- The bytes of a poisoned word read as zero (R218, R241). -/
def loadZeroPoison (s : State) (a n : Nat) : List Byte :=
  (loadBytes s a n).zipIdx.map fun e => if isPoisoned s (a + e.2) then 0#8 else e.1

/-- R281: a word marked poisoned. -/
def poisonAdd (s : State) (a : Nat) : State :=
  if s.poison.contains (poisonBase s.part a) then s else { s with poison := poisonBase s.part a :: s.poison }

/-- R281: the poison of a word cleared. -/
def poisonClear (s : State) (a : Nat) : State :=
  { s with poison := s.poison.filter fun p => p != poisonBase s.part a }

/-- R20, R411: the log-area size in GiB. -/
def undoGiB (s : State) : Nat := field s.steep.ctl.toNat 48 10

/-- R411: ceil(0.255 × J) GiB. -/
def reserveGiB (j : Nat) : Nat := (255 * j + 999) / 1000

/-- R411: the largest J, searched down from `n`. -/
def jobGiBFrom (fitted undo : Nat) : Nat → Nat
  | 0 => 0
  | n + 1 => if n + 1 + reserveGiB (n + 1) + undo + 2 ≤ fitted then n + 1 else jobGiBFrom fitted undo n

/-- R411: J, the job-visible capacity in GiB. -/
def jobGiB (s : State) : Nat := jobGiBFrom (stacksOf s.part * 64) (undoGiB s) 512

/-- R20: the first byte of the parity reserve. -/
def parityBase (s : State) : Nat := jobGiB s * 2 ^ 30

/-- R20: the first byte of the log area. -/
def logBase (s : State) : Nat := (jobGiB s + reserveGiB (jobGiB s)) * 2 ^ 30

/-- R20: the first byte of the dump area. -/
def dumpBase (s : State) : Nat := logBase s + undoGiB s * 2 ^ 30

/-- R7: a saturating increment of a 16-bit field at bit `lo` of a counter register. -/
def satAdd (w : Word) (lo len : Nat) : Word :=
  let v := field w.toNat lo len
  if v + 1 < 2 ^ len then w + BitVec.ofNat 64 (2 ^ lo) else w

/-- The low `n` bytes of a word (R6). -/
def wordBytes (n : Nat) (w : Word) : List Byte := natLe n w.toNat

end Sys2Proof.Machine
end

