-- ==== Sys2Proof/Machine/Ops.lean ====
section
/-!
DEFINITION. Sys2Proof/Machine/Ops.lean: the named operations on cores and threads: registers and scoreboard, thread
selection and waiting (R75 to R81), issuing an instruction, taking an exception and returning from one (R92 to R95), and
stores with their undo records (R402).
-/

namespace Sys2Proof.Machine

/-- R516: core c. -/
def coreOf (s : State) (c : Nat) : Core := tabGet {} s.cores c

/-- The state with core c replaced. -/
def setCore (s : State) (c : Nat) (k : Core) : State := { s with cores := tabSet s.cores c k }

/-- R82: thread t of a core. -/
def threadOf (k : Core) (t : Nat) : Thread := tabGet {} k.th t

/-- R82: thread t of core c. -/
def thOf (s : State) (c t : Nat) : Thread := threadOf (coreOf s c) t

/-- The state with thread t of core c replaced. -/
def setTh (s : State) (c t : Nat) (x : Thread) : State :=
  setCore s c { coreOf s c with th := tabSet (coreOf s c).th t x }

/-- R291: context n. -/
def ctxOf (s : State) (n : Nat) : Ctx := tabGet {} s.ctxs n

/-- The state with context n replaced. -/
def setCtx (s : State) (n : Nat) (x : Ctx) : State := { s with ctxs := tabSet s.ctxs n x }

/-- R84, R87: the world of thread t, which CORE_WORLD.THREAD_T gives. -/
def worldOf (k : Core) (t : Nat) : World := if k.threadT.getLsbD t then .T else .P

/-- R11, R112: scalar register `r`; S0 reads zero. -/
def getS (x : Thread) (r : BitVec 5) : Word := if r = 0#5 then 0#64 else tabGet 0#64 x.s r.toNat

/-- R112: scalar register `r` written; a write to S0 is discarded. -/
def putS (x : Thread) (r : BitVec 5) (v : Word) : Thread :=
  if r = 0#5 then x else { x with s := tabSet x.s r.toNat v }

/-- R142: vector register `r`. -/
def getV (x : Thread) (r : BitVec 5) : BitVec 8192 := tabGet 0#8192 x.v r.toNat

/-- R142: vector register `r` written. -/
def putV (x : Thread) (r : BitVec 5) (v : BitVec 8192) : Thread := { x with v := tabSet x.v r.toNat v }

/-- R152: mask register `r`; M0 reads all ones. -/
def getM (x : Thread) (r : BitVec 4) : BitVec 1024 :=
  if r = 0#4 then BitVec.allOnes 1024 else tabGet 0#1024 x.m r.toNat

/-- R152: mask register `r` written; a write to M0 is discarded. -/
def putM (x : Thread) (r : BitVec 4) (v : BitVec 1024) : Thread :=
  if r = 0#4 then x else { x with m := tabSet x.m r.toNat v }

/-- R81: whether the scoreboard bit of a register is set; S0 has none. -/
def regBusy (x : Thread) : Reg → Bool
  | .s r => r != 0#5 && x.sbS.getLsbD r.toNat
  | .v r => x.sbV.getLsbD r.toNat
  | .m r => x.sbM.getLsbD r.toNat

/-- R81: whether any register of a list has its bit set. -/
def anyBusy (x : Thread) (regs : List Reg) : Bool := regs.any (regBusy x)

/-- R81: the scoreboard bit of a register set. -/
def markBusy (x : Thread) : Reg → Thread
  | .s r => if r = 0#5 then x else { x with sbS := x.sbS ||| (1#32 <<< r.toNat) }
  | .v r => { x with sbV := x.sbV ||| (1#32 <<< r.toNat) }
  | .m r => { x with sbM := x.sbM ||| (1#16 <<< r.toNat) }

/-- R81: the scoreboard bit of a register cleared. -/
def clearBusy (x : Thread) : Reg → Thread
  | .s r => { x with sbS := x.sbS &&& ~~~(1#32 <<< r.toNat) }
  | .v r => { x with sbV := x.sbV &&& ~~~(1#32 <<< r.toNat) }
  | .m r => { x with sbM := x.sbM &&& ~~~(1#16 <<< r.toNat) }

/-- R79: the counts of clocks used, of the window in which a core clock lies: a new window begins with none. -/
def rollWindow (k : Core) (clk : Nat) : Core :=
  if k.win = clk / 4096 then k else { k with win := clk / 4096, usedP := 0, usedT := 0 }

/-- R75, R79: n core clocks spent on thread t; those after the border of a window count in the new window. -/
def spend (k : Core) (t n : Nat) : Core :=
  let r := rollWindow k (k.clk + n)
  let m := if k.clk / 4096 = (k.clk + n) / 4096 then n else min n ((k.clk + n) % 4096)
  match worldOf k t with
  | .P => { r with clk := k.clk + n, ran := k.ran + n, usedP := r.usedP + m }
  | .T => { r with clk := k.clk + n, ran := k.ran + n, usedT := r.usedT + m }

/-- Whether thread t is ready. -/
def isReady (k : Core) (t : Nat) : Bool := (threadOf k t).st == .ready

/-- R79: world w has used less than its share of the window and has a ready thread. -/
def wantsShare (k : Core) (w : World) : Bool :=
  let below := match w with
    | .P => decide ((rollWindow k k.clk).usedP < k.pShare.toNat * 16)
    | .T => decide ((rollWindow k k.clk).usedT < k.tShare.toNat * 16)
  below && (List.range 8).any fun t => isReady k t && worldOf k t == w

/-- R77: the threads in the order of selection, from the current one on. -/
def searchOrder (k : Core) : List Nat := (List.range 8).map fun i => (k.cur + 1 + i) % 8

/-- R77, R79: the thread that is selected when the current one must wait. Where both worlds are below their share, neither
has priority (DEDUCED). -/
def nextThread (k : Core) : Option Nat :=
  let p := wantsShare k .P
  let t := wantsShare k .T
  if p && !t then (searchOrder k).find? fun i => isReady k i && worldOf k i == .P
  else if t && !p then (searchOrder k).find? fun i => isReady k i && worldOf k i == .T
  else (searchOrder k).find? (isReady k)

/-- R77: the core switched to the next thread; it idles when none is ready. -/
def switchThread (k : Core) : Core :=
  match nextThread k with
  | some t => { k with cur := t, ran := 0 }
  | none => { k with ran := 0 }

/-- R77, R108: after thread t has had the core: in interleave mode the turn passes on; otherwise the thread keeps the core
while it is ready. -/
def afterTurn (k : Core) (t : Nat) : Core :=
  if k.ilv then { k with cur := (t + 1) % 8, ran := 0 }
  else if isReady k k.cur then k else switchThread k

/-- R77: an idle core takes the first thread to become ready, the lowest-numbered of those that become ready at once. -/
def settle (k : Core) : Core :=
  if k.ilv || isReady k k.cur then k
  else match (List.range 8).find? (isReady k) with
    | some t => { k with cur := t, ran := 0 }
    | none => k

/-- R80: accesses beyond the scratchpad outstanding on a core, posted stores included. -/
def outstanding (k : Core) : Nat :=
  (k.th.map fun e => e.2.sb.length + (match e.2.wait with | .reply _ => 1 | _ => 0)).sum

/-- R159: the thread has a vector memory instruction that has not completed. -/
def vecMemPending (k : Core) (t : Nat) : Bool :=
  (k.vq ++ k.vrun).any fun e => e.t == t && (match e.kind with | .load _ _ _ => true | .store _ _ => true | _ => false)

/-- R401: the number of records each log share holds, per the size of the log area. -/
def undoCap (s : State) : Nat := undoGiB s * 2 ^ 30 * 3 / 4 / 264
/-- R401: the message log. -/
def msgCap (s : State) : Nat := undoGiB s * 2 ^ 30 * 5 / 32
/-- R401: the outcome log. -/
def outCap (s : State) : Nat := undoGiB s * 2 ^ 30 / 32 / 32

/-- R401: bytes of the message log in use, each entry its header flit and its data. -/
def msgUsed (s : State) : Nat := (s.steep.msgs.map fun m => 64 + m.sent.2.data.length).sum

/-- R401: the undo share's records in use: undo records and the pre-images of check lines. -/
def undoUsed (s : State) : Nat := s.steep.undo.length + s.steep.prevUndo.length + s.steep.preimg.length

/-- R401: a log share is full. -/
def logFull (s : State) : Bool :=
  decide (undoCap s ≤ undoUsed s) || decide (msgCap s ≤ msgUsed s) || decide (outCap s ≤ s.steep.outcome.length)

/-- R355: TC0 requests of an agent without their response. -/
def tc0Of (s : State) (agent : Nat) : Nat :=
  ((s.fab.outst ++ s.fab.tc0Wait).filter fun o => o.agent == agent && o.sent.2.tc == 0#2).length

/-- R92: the registers of a thread after exception entry: `cause` is XCAUSE whole, `offset` 0x00 for faults and numeric
traps, 0x40 for interrupts and 0x80 for TRAP. -/
def entered (x : Thread) (cause : Nat) (addr : Word) (resume : BitVec 18) (offset : BitVec 18) : Thread :=
  { x with
    xpc := resume &&& 0x3FFFC#18
    xcause := BitVec.ofNat 30 cause
    xaddr := addr
    pexm := x.exm
    plvl := x.lvl
    exm := true
    lvl := .S
    pc := (x.xvec.zeroExtend 18 <<< 6) + offset
    sb := []
    st := .ready
    wait := .none
    excDue := true }

/-- R92: the thread has no vector instruction that has not completed. -/
def vecDone (k : Core) (t : Nat) : Bool := !((k.vq ++ k.vrun).any fun e => e.t == t)

/-- R53, R92, R158, R179: thread t has a vector instruction in the queue that may still take an exception when its pass starts: a
load, whose words may be poisoned by then, or one with a trap enabled. No later instruction of the thread issues before that
(DEDUCED, entry 128: every exception is precise). -/
def vecMayFault (k : Core) (t : Nat) : Bool :=
  k.vq.any fun e => e.t == t && !e.exm && (match e.kind with
    | .load _ _ _ => true
    | .op _ => e.te != 0#5
    | _ => false)

/-- Whether what a waiting thread waits for is over, for the waits that make it try its instruction again. -/
def waitOver (s : State) (c : Nat) (k : Core) (t : Nat) (x : Thread) : Bool :=
  match x.wait with
  | .score regs => !(anyBusy x regs)
  | .unit => true
  | .drain => x.sb.isEmpty && !(vecMemPending k t)
  | .sbuf => decide (x.sb.length < 8)
  | .slot => decide (outstanding k < 64)
  | .tc0 => decide (tc0Of s c < 4)
  | .vecmem => !(vecMemPending k t)
  | .vecpass => !(vecMayFault k t)
  | .late => x.xlPort.isEmpty
  | .log => !(logFull s)
  | .entry _ _ _ _ => vecDone k t
  | _ => false

/-- A thread whose wait is over: ready, to try its instruction again, or at the first instruction of its handler (R92). -/
def awakened (x : Thread) : Thread :=
  match x.wait with
  | .entry cause addr resume off => entered x cause addr resume off
  | _ => { x with st := .ready, wait := .none }

/-- Every thread of core c whose wait is over becomes ready, and an idle core takes the first of them (R77). -/
def wake (s : State) (c : Nat) : State :=
  let k := coreOf s c
  let th := tabMap k.th fun t x =>
    if x.st == .waiting && waitOver s c k t x then awakened x else x
  setCore s c (settle { k with th := th })

/-- R400, R402: the parked threads of every core ready again. -/
def resumeParked (s : State) : State :=
  { s with cores := tabMap s.cores fun _ k =>
      settle { k with th := tabMap k.th fun _ x =>
        if x.st == .waiting && x.wait == .parked then { x with st := .ready, wait := .none } else x } }

/-- R402: a thread that runs a recovery entry has stopped; when the last one has, the other threads resume. -/
def recoveryDone (s : State) (c t : Nat) : State :=
  if s.steep.recovering.contains (c * 8 + t) then
    let l := s.steep.recovering.erase (c * 8 + t)
    let s1 := { s with steep := { s.steep with recovering := l } }
    if l.isEmpty then resumeParked s1 else s1
  else s

/-- Thread t of core c replaced by `x` without holding the core; an idle core takes it when it is ready (R77). -/
def putTh (s : State) (c t : Nat) (x : Thread) : State :=
  let k := coreOf s c
  setCore s c (settle { k with th := tabSet k.th t x })

/-- A waiting thread's instruction completes outside its turn: the thread becomes ready at `pc`. -/
def finishWait (s : State) (c t : Nat) (x : Thread) (pc : BitVec 18) : State :=
  putTh s c t { x with pc := pc, icount := x.icount + 1, st := .ready, wait := .none }

/-- R404, R430, R436: the monitor's error log gains an entry, kind and place, which is also written to the idle bank's log area. -/
def notify (s : State) (kind wher : Nat) : State :=
  let m := s.memsys
  { s with memsys := { m with
    errlog := (kind, wher) :: m.errlog
    logA := if s.boot.bank then (kind, wher) :: m.logA else m.logA
    logB := if s.boot.bank then m.logB else (kind, wher) :: m.logB } }

/-- R85, R94: WORLD_STAT.DROPPED of a world set. -/
def setDropped (s : State) (w : World) : State :=
  match w with
  | .P => { s with droppedP := true }
  | .T => { s with droppedT := true }

/-- R95: XDROP.COUNT incremented by n, saturating. -/
def addDrop (x : Thread) (n : Nat) : Thread :=
  { x with xdrop := BitVec.ofNat 32 (min (x.xdrop.toNat + n) 0xFFFFFFFF) }

/-- R402: the POLICY of an enabled segment of any context that maps the local HBM byte `a`. -/
def policiesAt (s : State) (a : Nat) : List (BitVec 2) :=
  (s.ctxs.map fun e => (e.2.segs.filter fun g => e.2.segEn && segOver s g.2 a).map fun g => g.2.policy).flatten

/-- The world that a LOCAL address belongs to: that of the lowest-numbered context with an enabled segment over it (R281, R287); none for
memory outside every segment. -/
def worldAt (s : State) (a : Nat) : Option World :=
  (s.ctxs.find? fun e => e.2.segEn && e.2.segs.any fun g => segOver s g.2 a).map fun e => e.2.world

/-- R287: a count of MEM_ECNT of a world: CORR at bit 0, UNCORR at 16, REBUILT at 32, RETRY at 48. -/
def countMem (s : State) (w : World) (lo : Nat) : State :=
  match w with
  | .P => { s with memsys := { s.memsys with ecntP := satAdd s.memsys.ecntP lo 16 } }
  | .T => { s with memsys := { s.memsys with ecntT := satAdd s.memsys.ecntT lo 16 } }

/-- R281, R287: a count for the owner of a LOCAL address: its world's register, or the monitor's log. -/
def countAt (s : State) (a lo : Nat) : State :=
  match worldAt s a with
  | some w => countMem s w lo
  | none => notify s (16 + lo) a

/-- R281 steps 1 and 2: an uncorrectable word poisoned, counted for its owner and logged. -/
def poisonFound (s : State) (a : Nat) : State := notify (countAt (poisonAdd s a) a 16) 5 a

/-- R252, R256: an address is the first of a whole word of a scratchpad or an instruction memory. -/
def codedWord (s : State) (a : Nat) : Bool :=
  a % poisonWord s.part a == 0 && (match regionOf s.part a with
    | .spad _ => true
    | .imem _ => true
    | _ => false)

/-- R252, R256: the words that upsets hit while the device's time passes: a word with one bit wrong still reads as it should, and one with
two is poisoned; no read has met them yet. Which words they are is a free value (DESIGN CHOICE, entry 132). -/
def strike (s : State) : State :=
  let hit := Config.upsets s.draws
  let two := (hit.2.filter fun a => codedWord s a && !(isPoisoned s a)).eraseDups
  let one := (hit.1.filter fun a => codedWord s a && !(isPoisoned s a) && !(two.contains a) && !(s.flaws.contains a)).eraseDups
  { s with
    draws := s.draws + 1
    flaws := (s.flaws.filter fun a => !(two.contains a)) ++ one
    unseen := s.unseen ++ two
    poison := s.poison ++ two }

/-- R252: one word of a scratchpad decoded by a read, a merge or the patrol: a single-bit error is corrected and counted; a double-bit
error, whose word reads as poisoned already, is counted and logged when it is first met. -/
def decodeWord (s : State) (a : Nat) : State :=
  let s1 := if s.flaws.contains a then countAt { s with flaws := s.flaws.filter (· != a) } a 0 else s
  if s.unseen.contains a then notify (countAt { s1 with unseen := s1.unseen.filter (· != a) } a 16) 5 a else s1

/-- R252: the words of scratchpads and instruction memories that n bytes from `a` on touch, decoded where they hold an error. -/
def decodeRead (s : State) (a n : Nat) : State :=
  ((s.flaws ++ s.unseen).filter fun p => decide (p < a + n) && decide (a < p + poisonWord s.part p)).foldl decodeWord s

/-- R451: STEEP_EN, full failure protection. -/
def steepEn (s : State) : Bool := s.boot.devEn.getLsbD 10

/-- R252: the words with an error that a write of n bytes at `a` covers only in part. -/
def mergeWords (s : State) (a n : Nat) : List Nat :=
  (s.flaws ++ s.unseen).filter fun p => decide (p < a + n) && decide (a < p + poisonWord s.part p) && !(coversWord s.part a n p)

/-- R278: under full failure protection a write that merges into a word which its decode finds uncorrectable waits for the recovery. -/
def mergeWaits (s : State) (a n : Nat) : Bool := steepEn s && (mergeWords s a n).any fun p => s.unseen.contains p

/-- R252, R278, R421: the words that a write of n bytes at `a` covers only in part are decoded first; the recovery of a scratchpad word
for which the write must wait is a rollback, after which the write comes again (entry 132). -/
def decodeMerge (s : State) (a n : Nat) : State :=
  let s1 := (mergeWords s a n).foldl decodeWord s
  if mergeWaits s a n then { s1 with steep := { s1.steep with rollback := true } } else s1

/-- R402: the undo record that the first write of an epoch to a LOGGED line makes. -/
def undoLine (s : State) (line : Nat) : State :=
  if steepEn s && (policiesAt s line).contains 0#2 then
    let hasLocal := s.steep.undo.any fun r => r.line == line && r.localTier
    let hasFull := s.steep.undo.any fun r => r.line == line && r.fullTier && !r.oldGen
    if hasLocal && hasFull then s
    else { s with steep := { s.steep with undo :=
      { line := line, old := loadBytes s line 256, localTier := !hasLocal, fullTier := !hasFull, oldGen := false }
        :: s.steep.undo } }
  else s

/-- R402: the undo records of every 256-byte line that n bytes from `a` on touch. -/
def undoLines (s : State) (a n : Nat) : State :=
  (List.range ((a + n - 1) / 256 + 1 - a / 256)).foldl (fun s i => undoLine s ((a / 256 + i) * 256)) s

/-- A write to local memory: the undo records of HBM lines first (R402), then the bytes (R252, R278). -/
def memStore (s : State) (a : Nat) (bs : List Byte) : State :=
  if a < hbmTop s.part then storeBytes (undoLines s a bs.length) a bs else storeBytes (decodeMerge s a bs.length) a bs

/-- R102: posted stores drained in order of issue. -/
def applyStores (s : State) (sb : List SBuf) : State := sb.foldl (fun s e => memStore s e.pa e.bytes) s

/-- The state with core c's matrix unit replaced. -/
def setMx (s : State) (c : Nat) (m : Matrix) : State := setCore s c { coreOf s c with mx := m }

/-- The state with core c's stream engine replaced. -/
def setSe (s : State) (c : Nat) (e : StreamEng) : State := setCore s c { coreOf s c with se := e }

/-- The state with core c's reduction unit replaced. -/
def setRu (s : State) (c : Nat) (r : RedUnit) : State := setCore s c { coreOf s c with ru := r }

/-- A write of a stream pass put in its place by clock, after those of the same clock. -/
def insertWrite (e : Nat × Nat × List Byte) : List (Nat × Nat × List Byte) → List (Nat × Nat × List Byte)
  | [] => [e]
  | f :: l => if e.1 < f.1 then e :: f :: l else f :: insertWrite e l

/-- R134, R235: the writes that the stream passes of a core make before a clock, in order. -/
def writesBefore (e : StreamEng) (clk : Nat) : List (Nat × Nat × List Byte) :=
  ((((e.ending ++ e.run.toList).map (·.writes)).flatten).filter fun w => decide (w.1 < clk)).foldl (fun l w => insertWrite w l) []

/-- R134, R235, R251: the writes that stream passes of core c make before a clock have been made. -/
def streamWrites (s : State) (c clk : Nat) : State :=
  let e := (coreOf s c).se
  match writesBefore e clk with
  | [] => s
  | ws =>
    let later (r : SeRun) : SeRun := { r with writes := r.writes.filter fun w => !(decide (w.1 < clk)) }
    setSe (ws.foldl (fun s w => memStore s w.2.1 w.2.2) s) c { e with run := e.run.map later, ending := e.ending.map later }

/-- The pieces that make up the next n bytes of a list of address and length pieces, and what is left after them. -/
def takeSrc : Nat → List (Nat × Nat) → List (Nat × Nat) × List (Nat × Nat)
  | _, [] => ([], [])
  | n, (a, k) :: more =>
    if n = 0 then ([], (a, k) :: more)
    else if k ≤ n then ((a, k) :: (takeSrc (n - k) more).1, (takeSrc (n - k) more).2)
    else ([(a, n)], (a + n, k - n) :: more)

/-- R131: the load clocks that the loader of a matrix unit still needs. -/
def loadLeft (m : Matrix) : Nat := ((m.loadSrc.map (·.2)).sum + 511) / 512

/-- R131: the clock in which the loader reads its next 512 bytes. -/
def nextLoad (m : Matrix) : Nat := m.loadEnd + 1 - loadLeft m

/-- R131, R194: one group of 512 bytes written into a bank in a clock, after those its latest load has written. -/
def bankWrite (b : Bank) (v clk : Nat) : Bank :=
  match b.loads with
  | [] => b
  | l :: ls => { loads := { l with data := l.data + v * 2 ^ (4096 * l.clks.length), clks := l.clks ++ [clk] } :: ls }

/-- R24, R131, R218, R421: the loader reads its next group and writes it into the bank: poisoned bytes as zero, or, under full failure
protection, no byte until the poisoned word has been recovered. -/
def loadGroup (s : State) (c clk : Nat) : State :=
  let m := (coreOf s c).mx
  match m.loading with
  | none => s
  | some b =>
    let p := takeSrc 512 m.loadSrc
    let bad := p.1.any fun e => anyPoison s e.1 e.2
    let s := p.1.foldl (fun s e => decodeRead s e.1 e.2) s
    if bad && steepEn s then setMx s c { m with loadEnd := clk + loadLeft m - 1 }
    else
      let v := leNat ((p.1.map fun e => loadZeroPoison s e.1 e.2).flatten)
      let n := { m with loadSrc := p.2, loadPoison := m.loadPoison || bad }
      setMx s c (if b then { n with bankB := bankWrite m.bankB v (nextLoad m) } else { n with bankA := bankWrite m.bankA v (nextLoad m) })

/-- R131, R134: the reads of core c's loader and the writes of its stream passes before a clock, in order of clock; a read comes before
the writes of its own clock (R251). At most `fuel` groups are read. -/
def catchUpFrom (c clk : Nat) : Nat → State → State
  | 0, s => streamWrites s c clk
  | n + 1, s =>
    let m := (coreOf s c).mx
    if !m.loadSrc.isEmpty && decide (nextLoad m < clk) then
      catchUpFrom c clk n (loadGroup (streamWrites s c (nextLoad m)) c clk)
    else streamWrites s c clk

/-- R131, R134: what core c's loader and stream passes do before a clock, of the state they find; a load has 128 groups at most. -/
def catchUpTo (s : State) (c clk : Nat) : State := catchUpFrom c clk 128 s

/-- R131, R134: what core c's loader and stream passes do before its clock. -/
def catchUp (s : State) (c : Nat) : State := catchUpTo s c (coreOf s c).clk

/-- R101: the clock at which thread t's last instruction issued, when it leaves the core as `x`: this one's, unless it waits to issue
again, or a pass is still to record the lead of the instruction before an exception. -/
def noteIssue (k : Core) (t : Nat) (x : Thread) : Core :=
  let again := match x.wait with
    | .none => false
    | .reply _ => false
    | _ => true
  if again || (threadOf k t).excDue then k else { k with issued := tabSet k.issued t k.clk }

/-- Thread t of core c replaced by `x` after it has held the core for n clocks. -/
def held (s : State) (c t : Nat) (x : Thread) (n : Nat) : State :=
  let k := noteIssue (coreOf s c) t x
  setCore s c (afterTurn (spend { k with th := tabSet k.th t x } t n) t)

/-- Thread t of core c replaced by `x` after it has held the core for n clocks, in which the core's loader and stream passes have gone
on (R131, R134). -/
def place (s : State) (c t : Nat) (x : Thread) (n : Nat) : State := catchUp (held s c t x n) c

/-- R107, R109: a core in interleave mode parks a thread at the end of a turn that completes an instruction while a steep
request is pending, once the vector queue holds none of its instructions. -/
def parksAtTurn (s : State) (c t : Nat) : Bool :=
  (coreOf s c).ilv && s.steep.pending && !((coreOf s c).vq.any fun e => e.t == t)

/-- An instruction of thread t completes: its registers are those of `x`, it continues at `pc`, and it took n clocks. -/
def retire (s : State) (c t : Nat) (x : Thread) (pc : BitVec 18) (n : Nat) : State :=
  let y := { x with pc := pc, icount := x.icount + 1 }
  place s c t (if parksAtTurn s c t then { y with st := .waiting, wait := .parked } else y) n

/-- R76, R81: thread t waits for `w`; it held the core for n clocks and the switch takes one more. -/
def goWait (s : State) (c t : Nat) (x : Thread) (w : Wait) (n : Nat) : State :=
  place s c t { x with st := .waiting, wait := w } (n + 1)

/-- R94: the cause codes. -/
def cSegf : Nat := 0x01
/-- R94. -/
def cSegmm : Nat := 0x02
/-- R94. -/
def cCapf : Nat := 0x03
/-- R94. -/
def cAlignf : Nat := 0x04
/-- R94. -/
def cPoison : Nat := 0x05
/-- R94. -/
def cExpose : Nat := 0x06
/-- R94. -/
def cExtto : Nat := 0x07
/-- R94. -/
def cRsovf : Nat := 0x08
/-- R94. -/
def cRsunf : Nat := 0x09
/-- R94. -/
def cIllop : Nat := 0x0A
/-- R94. -/
def cNumtrap : Nat := 0x0B
/-- R94. -/
def cTrap : Nat := 0x10
/-- R94. -/
def cIntr : Nat := 0x20

/-- R92, R106: exception entry of thread t: its posted stores drain, then `enter`; entry takes 4 core clocks after the `n`
the instruction took. A thread with vector instructions in flight enters once they have completed. -/
def enter (s : State) (c t : Nat) (x : Thread) (cause : Nat) (addr : Word) (resume offset : BitVec 18) (n : Nat) :
    State :=
  place (applyStores s x.sb) c t
    (if vecDone (coreOf s c) t then entered x cause addr resume offset
     else { x with sb := [], st := .waiting, wait := .entry cause addr resume offset }) (n + 4)

/-- R93, R94: a fault of the instruction at `x.pc`: taken when EXM = 0, with XPC at the instruction; otherwise it has its
masked outcome. -/
def raise (s : State) (c t : Nat) (x : Thread) (cause : Nat) (addr : Word) (n : Nat) (onMask : State) : State :=
  if x.exm then onMask else enter s c t x cause addr x.pc 0#18 n

/-- R94: the masked outcome "does nothing, counted": the instruction of `len` bytes is passed. -/
def dropIt (s : State) (c t : Nat) (x : Thread) (len : BitVec 18) (n : Nat) : State :=
  retire (setDropped s (worldOf (coreOf s c) t)) c t (addDrop x 1) (x.pc + len) n

/-- R113, R94: ILLOP at the instruction, or nothing and counted under mask. -/
def illop (s : State) (c t : Nat) (x : Thread) (len : BitVec 18) (n : Nat) : State :=
  raise s c t x cIllop 0#64 n (dropIt s c t x len n)

/-- R87: whether an instruction-memory offset lies in a world's part. -/
def inPart (k : Core) (w : World) (pc : BitVec 18) : Bool :=
  match w with
  | .P => decide (pc.toNat < k.imSplit.toNat * 0x4000)
  | .T => decide (k.imSplit.toNat * 0x4000 ≤ pc.toNat)

/-- R238: the arms of a thread that stops are freed. -/
def freeArms (s : State) (c t : Nat) : State :=
  let k := coreOf s c
  setCore s c { k with se := { k.se with arms := k.se.arms.filter fun e => e.2.t != t } }

/-- R87, R94: a fetch outside the world's part of instruction memory: SEGF with XADDR the fetch offset; under mask the thread
stops, the monitor is notified and the outcome is counted. -/
def fetchFault (s : State) (c t : Nat) (x : Thread) (off : BitVec 18) : State :=
  raise s c t x cSegf (off.zeroExtend 64) 0
    (place (notify (setDropped (freeArms s c t) (worldOf (coreOf s c) t)) 1 (c * 8 + t)) c t
      { addDrop x 1 with st := .stopped } 0)

/-- R417, R507: the device waits halted, or RESET_N holds it. -/
def deviceHalted (s : State) : Bool := s.steep.halted || !s.boot.resetN

/-- R96: the condition of a level source: a thread's timer, or the extension link's notification line. -/
def icuLevel (s : State) (k : Core) (n : Nat) : Bool :=
  if decide (32 ≤ n) && decide (n < 40) then
    let d := tabGet 0#64 k.icuTmr (n - 32)
    d != 0#64 && decide (d.toNat ≤ s.time)
  else n == 48 && !s.board.ext.intN

/-- R96: whether source n is pending. -/
def icuPending (s : State) (k : Core) (n : Nat) : Bool := decide (n < 49) && (k.icuPend.getLsbD n || icuLevel s k n)

/-- R98: whether source n is pending, enabled and routed to thread t. -/
def icuEligible (s : State) (k : Core) (t n : Nat) : Bool :=
  let w := tabGet 0#30 k.icuSrc n
  icuPending s k n && w.getLsbD 0 && field w.toNat 5 3 == t

/-- R97: PRIO of a source. -/
def icuPrio (k : Core) (n : Nat) : Nat := field (tabGet 0#30 k.icuSrc n).toNat 1 4

/-- R98: the source a thread is offered: the highest PRIO, the lowest number among equals; and whether more than one was
eligible at that PRIO. -/
def icuOffer (s : State) (k : Core) (t : Nat) : Option (Nat × Bool) :=
  let el := (List.range 49).filter (icuEligible s k t)
  let top := el.foldl (fun m n => max m (icuPrio k n)) 0
  match el.filter fun n => icuPrio k n == top with
  | [] => none
  | n :: more => some (n, !more.isEmpty)

/-- R403, R408: the record of the interrupt that thread t of core c took at its next instruction, in the log that replay follows. -/
def loggedIntr (s : State) (c t : Nat) : Option OutRec :=
  s.steep.replay.find? fun r => r.ty == 3 && r.key == [c, t, (thOf s c t).icount]

/-- R408: thread t of core c has not yet come to the place where the fault found it, so that replay gives its interrupts. -/
def replaysIntr (s : State) (c t : Nat) : Bool :=
  s.steep.replaying && decide ((thOf s c t).icount < tabGet 0 s.steep.faultAt (c * 8 + t))

/-- R98, R408: whether thread t is to take an interrupt: replay takes one where its log holds one. -/
def icuDue (s : State) (c t : Nat) : Bool :=
  let x := thOf s c t
  !x.exm && x.st != .stopped &&
    (if replaysIntr s c t then (loggedIntr s c t).isSome else (icuOffer s (coreOf s c) t).isSome)

/-- R99, R218: thread t is to enter level S from outside its turn, for an interrupt or for poison that a unit read; a thread that is
entering an exception takes that first. -/
def asyncDue (s : State) (c t : Nat) : Bool :=
  let x := thOf s c t
  let entering := match x.wait with
    | .entry _ _ _ _ => true
    | _ => false
  !entering && (icuDue s c t || (x.unitDue != 0 && !x.exm && x.st != .stopped))

/-- The thread that runs on core c, when the core does not idle; a thread that is to take an interrupt stops issuing at once
(R99). -/
def running (s : State) (c : Nat) : Option Nat :=
  if !(deviceHalted s) && isReady (coreOf s c) (coreOf s c).cur && !(asyncDue s c (coreOf s c).cur) then some (coreOf s c).cur
  else none

/-- R256: whether the words of an instruction of `len` bytes hold a single-bit error, or one that cannot be corrected. -/
def fetchFlaws (c : Nat) (pc len : BitVec 18) (l : List Nat) : List Nat :=
  l.filter fun p => decide (imemBase c + pc.toNat ≤ p) && decide (p < imemBase c + pc.toNat + len.toNat)

/-- R256: the words of an instruction fetched for world w: single-bit errors are corrected and counted. -/
def fetchDecode (s : State) (c : Nat) (w : World) (pc len : BitVec 18) : State :=
  (fetchFlaws c pc len s.flaws).foldl (fun s p => countMem { s with flaws := s.flaws.filter (· != p) } w 0) s

/-- The bytes of a range put back as a list of cells has them. -/
def restoreCells (s : State) (l : List Host.Cell) (lo hi : Nat) : State :=
  let outside (a : Nat) : Bool := !(decide (lo ≤ a) && decide (a < hi))
  { s with
    mem := (l.filter fun e => !(outside e.1)).foldl (fun m e => writeByte m e.1 e.2) (s.mem.filter fun e => outside e.1)
    poison := s.poison.filter outside
    flaws := s.flaws.filter outside
    unseen := s.unseen.filter outside }

/-- R256, R423: core c's instruction memory reloaded from the job's code image in monitor memory, where one is kept. -/
def reloadImem (s : State) (c : Nat) : State :=
  if s.steep.code.isEmpty then s else restoreCells s s.steep.code (imemBase c) (imemBase c + 0x40000)

/-- R93, R256: an uncorrectable instruction word met at fetch: logged, the instruction memory is reloaded, and the device rolls back to
its last local steep. -/
def imemFault (s : State) (c : Nat) : State :=
  let s1 := reloadImem (notify s 7 c) c
  { s1 with steep := { s1.steep with rollback := true } }

/-- R75, R81, R87, R110: an instruction of `len` bytes issued by core c's running thread. An idle core issues nothing. The
fetch is checked and decoded word by word; an instruction that reads or writes a register whose scoreboard bit is set waits, and so does one
behind a vector instruction that may still take an exception. -/
def issue (c : BitVec 8) (len : BitVec 18) (regs : List Reg) (body : Nat → Thread → State → State) (s : State) :
    State :=
  match running s c.toNat with
  | none => s
  | some t =>
    let k := coreOf s c.toNat
    let x := threadOf k t
    let w := worldOf k t
    if vecMayFault k t then goWait s c.toNat t x .vecpass 0
    else if !(inPart k w x.pc) then fetchFault s c.toNat t x x.pc
    else if len = 8#18 && !(inPart k w (x.pc + 4#18)) then fetchFault s c.toNat t x (x.pc + 4#18)
    else if !(fetchFlaws c.toNat x.pc len s.unseen).isEmpty then imemFault s c.toNat
    else if anyBusy x regs then goWait (fetchDecode s c.toNat w x.pc len) c.toNat t x (.score regs) 0
    else body t x (fetchDecode s c.toNat w x.pc len)

/-- R106: an operation that begins with a FENCE waits until the thread's store buffer has drained and its vector memory
instructions have completed (R159). -/
def fenced (c t : Nat) (x : Thread) (s : State) (body : State → State) : State :=
  if x.sb.isEmpty && !(vecMemPending (coreOf s c) t) then body s else goWait s c t x .drain 2

/-- R159: a scalar access waits until every earlier vector memory instruction of its thread has completed. -/
def afterVec (c t : Nat) (x : Thread) (s : State) (body : State → State) : State :=
  if vecMemPending (coreOf s c) t then goWait s c t x .vecmem 2 else body s

/-- R403, R408: the outcome of a nondeterministic event: replay returns the recorded outcome, otherwise the hardware's stands;
it is recorded either way. -/
def outcome (s : State) (ty : Nat) (key : List Nat) (dflt : Word) : Word × State :=
  match s.steep.replay.find? fun r => r.ty == ty && r.key == key with
  | some r =>
    (r.val, { s with steep := { s.steep with
      replay := s.steep.replay.eraseP fun q => q.ty == ty && q.key == key
      outcome := s.steep.outcome ++ [{ ty := ty, key := key, val := r.val }] } })
  | none =>
    if steepEn s then
      (dflt, { s with steep := { s.steep with outcome := s.steep.outcome ++ [{ ty := ty, key := key, val := dflt }] } })
    else (dflt, s)

/-- The sign extension of the low `w` bits of a number to 64 bits. -/
def sext (w : Nat) (v : Nat) : Word := BitVec.ofInt 64 (sint w v)

end Sys2Proof.Machine
end

