-- ==== Sys2Proof/Machine/Segments.lean ====
section
/-!
DEFINITION. Sys2Proof/Machine/Segments.lean: translation through segments and segment buffers (R289, R293 to R299), and the
checks of capabilities (R305 to R310).
-/

namespace Sys2Proof.Machine

/-- R294: the bit numbers of the rights. -/
def rRD : Nat := 0
/-- R294. -/
def rWR : Nat := 1
/-- R294. -/
def rAT : Nat := 2
/-- R294. -/
def rSIG : Nat := 3
/-- R294. -/
def rWAIT : Nat := 4
/-- R294. -/
def rDLG : Nat := 5
/-- R294. -/
def rSXM : Nat := 6
/-- R294. -/
def rIMW : Nat := 7
/-- R294. -/
def rURG : Nat := 8
/-- R294. -/
def rSUP : Nat := 9

/-- R294: whether rights grant every right of a list, and SUP is met by the requester's level. -/
def grants (rights : BitVec 16) (need : List Nat) (lvlS : Bool) : Bool :=
  (need.all fun r => rights.getLsbD r) && (!(rights.getLsbD rSUP) || lvlS)

/-- R293: descriptor n of a context. -/
def segOf (x : Ctx) (n : Nat) : Seg := tabGet {} x.segs n

/-- R299: the descriptor an engine uses for segment n of a context: its buffered copy, or the second level's. -/
def engSeg (s : State) (eng cx n : Nat) : Seg :=
  match (tabGet [] s.segbuf eng).find? fun e => e.cx == cx && e.sg == n with
  | some e => e.seg
  | none => segOf (ctxOf s cx) n

/-- R295: whether a descriptor translates a virtual address. -/
def segHit (g : Seg) (va : Nat) : Bool :=
  g.en && decide (g.vbase.toNat ≤ va) && decide (va < g.vbase.toNat + g.len.toNat)

/-- R295, R297: the segments of a context that translate a virtual address for an engine, lowest number first. A context whose
SEG_EN is 0 translates nothing (DEDUCED). -/
def segHits (s : State) (eng cx va : Nat) : List (Nat × Seg) :=
  if (ctxOf s cx).segEn && decide (va < 2 ^ 48) then
    ((List.range 16).map fun n => (n, engSeg s eng cx n)).filter fun e => segHit e.2 va
  else []

/-- R299: the engine's buffer with the entry of a segment made most recent, 16 entries at most. -/
def touchBuf (s : State) (eng cx n : Nat) (g : Seg) : State :=
  let old := tabGet [] s.segbuf eng
  let rest := old.filter fun e => !(e.cx == cx && e.sg == n)
  { s with segbuf := tabSet s.segbuf eng (({ cx := cx, sg := n, seg := g } : SegBuf) :: rest.take 15) }

/-- R299: whether the engine's buffer holds the segment. -/
def bufHit (s : State) (eng cx n : Nat) : Bool :=
  (tabGet [] s.segbuf eng).any fun e => e.cx == cx && e.sg == n

/-- R292, R297: CX_MULTI incremented, saturating. -/
def bumpMulti (s : State) (cx : Nat) : State :=
  let x := ctxOf s cx
  setCtx s cx { x with multi := if x.multi = BitVec.allOnes 32 then x.multi else x.multi + 1#32 }

/-- What translation and its checks give (R298). -/
inductive Trans where
  /-- The physical address, the segment, whether more than one segment matched, and whether the buffer missed. -/
  | ok (pa : Word) (sg : Nat) (g : Seg) (multi miss : Bool)
  /-- The cause of R94, whether the segment was absent (R327), whether more than one segment matched, and whether the buffer missed. -/
  | bad (code : Nat) (absent multi miss : Bool)
  deriving DecidableEq, Repr

/-- R289: the fields of a physical address. -/
def paSpace (pa : Word) : Nat := field pa.toNat 62 2
/-- R289. -/
def paDev (pa : Word) : Nat := field pa.toNat 48 14
/-- R289. -/
def paLocal (pa : Word) : Nat := field pa.toNat 0 48

/-- R289: whether the address names another device. -/
def isRemote (s : State) (pa : Word) : Bool := paSpace pa == 1 && paDev pa != s.fab.devnum.toNat

/-- R298 steps 1 to 3: a virtual address translated for an engine, with the rights an access needs. An address that no segment
translates is a buffer miss too: only the second level can tell (R299, DEDUCED). -/
def translate (s : State) (eng cx va : Nat) (need : List Nat) (lvlS : Bool) : Trans × State :=
  match segHits s eng cx va with
  | [] => (.bad cSegf false false true, s)
  | (n, g) :: more =>
    let multi := !more.isEmpty
    let miss := !(bufHit s eng cx n)
    let s1 := touchBuf (if multi then bumpMulti s cx else s) eng cx n g
    let pa := g.pbase + BitVec.ofNat 64 (va - g.vbase.toNat)
    if !g.present then (.bad cSegf true multi miss, s1)
    else if !(grants g.rights need lvlS) then (.bad cSegf false multi miss, s1)
    else if !(isRemote s pa) && (match regionOf s.part (paLocal pa) with
        | .so k => decide (8128 ≤ k)
        | .void => true
        | _ => false) then (.bad cSegf false multi miss, s1)
    else (.ok pa n g multi miss, s1)

/-- R305: the fields of a capability. -/
def capBase (k : BitVec 256) : Nat := field k.toNat 0 48
/-- R305. -/
def capLen (k : BitVec 256) : Nat := field k.toNat 48 48
/-- R305. -/
def capRights (k : BitVec 256) : BitVec 16 := BitVec.ofNat 16 (field k.toNat 96 16)
/-- R305. -/
def capObj (k : BitVec 256) : Nat := field k.toNat 112 32
/-- R305. -/
def capEpoch (k : BitVec 256) : Nat := field k.toNat 144 16
/-- R305. -/
def capOwner (k : BitVec 256) : Nat := field k.toNat 160 14
/-- R305. -/
def capWorld (k : BitVec 256) : World := if bitAt k.toNat 174 then .T else .P
/-- R305. -/
def capSeal (k : BitVec 256) : Nat := field k.toNat 192 64

/-- R305: the 192 bits a seal covers. -/
def capBody (base len : Nat) (rights : BitVec 16) (obj epoch owner : Nat) (w : World) : Nat :=
  base % 2 ^ 48 + len % 2 ^ 48 * 2 ^ 48 + rights.toNat * 2 ^ 96 + obj % 2 ^ 32 * 2 ^ 112 + epoch % 2 ^ 16 * 2 ^ 144
    + owner % 2 ^ 14 * 2 ^ 160 + (match w with | .P => 0 | .T => 2 ^ 174)

/-- R306: a sealed capability; a device without the system key seals nothing and writes zero. -/
def sealCap (s : State) (body : Nat) : BitVec 256 :=
  match s.boot.sysKey with
  | some k => BitVec.ofNat 256 (body + (cmacSeal k body).toNat * 2 ^ 192)
  | none => BitVec.ofNat 256 body

/-- R306: whether a capability's seal is that of this system, which any device of it can tell, since all hold the system key. -/
def sealOk (s : State) (k : BitVec 256) : Bool :=
  match s.boot.sysKey with
  | some key => (cmacSeal key (field k.toNat 0 192)).toNat == capSeal k
  | none => false

/-- R308: the first failing check of a capability, 1 to 7, or 0 when it passes. `need` are the rights of the operation. -/
def capCheck (s : State) (k : BitVec 256) (w : World) (need : List Nat) (lvlS : Bool) (la n : Nat) : Nat :=
  let o := tabGet {} s.objs (capObj k % 65536)
  if !(sealOk s k) then 1
  else if capOwner k != s.fab.devnum.toNat then 2
  else if capWorld k != w then 3
  else if !(o.valid && o.objHi.toNat == capObj k / 65536 && (match w with | .P => o.permP | .T => o.permT)) then 4
  else if capEpoch k != o.epoch.toNat then 5
  else if !(grants (capRights k) need lvlS) then 6
  else if !(decide (capBase k ≤ la) && decide (la + n ≤ capBase k + capLen k) && decide (o.base ≤ la)
      && decide (la + n ≤ o.base + o.len)) then 7
  else 0

/-- R309, R431: a capability refusal counted for a world. -/
def countCapRef (s : State) (w : World) : State :=
  match w with
  | .P => { s with steep := { s.steep with wcntP := satAdd s.steep.wcntP 40 16 } }
  | .T => { s with steep := { s.steep with wcntT := satAdd s.steep.wcntT 40 16 } }

/-- R289: a local access through an address that names this device's own number is checked under R308 all the same. -/
def ownCheck (s : State) (pa : Word) (g : Seg) (w : World) (need : List Nat) (lvlS : Bool) (n : Nat) : Bool :=
  paSpace pa != 1 || capCheck s g.cap w need lvlS (paLocal pa) n == 0

end Sys2Proof.Machine
end

