-- ==== Sys2Proof/Machine/Fabric.lean ====
section
/-!
DEFINITION. Sys2Proof/Machine/Fabric.lean: packets on their way: routing (R348, R349, R351), the sending side of a link (R339),
requests with their numbers and low-water marks (R355, R359), responses and the message log (R404).
-/

namespace Sys2Proof.Machine

/-- R345: the operation codes. -/
def opNop : Nat := 0x00
/-- R345. -/
def opRd : Nat := 0x01
/-- R345. -/
def opRdr : Nat := 0x02
/-- R345. -/
def opWr : Nat := 0x03
/-- R345. -/
def opWrr : Nat := 0x04
/-- R345. -/
def opAtom : Nat := 0x05
/-- R345. -/
def opAtomr : Nat := 0x06
/-- R345. -/
def opSync : Nat := 0x07
/-- R345. -/
def opSyncr : Nat := 0x08
/-- R345. -/
def opComb : Nat := 0x09
/-- R345. -/
def opCombr : Nat := 0x0A
/-- R345. -/
def opSvc : Nat := 0x0B
/-- R345. -/
def opSvcr : Nat := 0x0C
/-- R345. -/
def opTsync : Nat := 0x0D

/-- R346: the status codes. -/
def stOk : BitVec 16 := 0#16
/-- R346. -/
def stCapf : BitVec 16 := 1#16
/-- R346. -/
def stAlignf : BitVec 16 := 2#16
/-- R346. -/
def stPoison : BitVec 16 := 3#16
/-- R346. -/
def stBusy : BitVec 16 := 4#16

/-- R290: the coordinate of a device number in dimension 0 (x), 1 (y) or 2 (z). -/
def coordOf (dev dim : Nat) : Nat := dev / 8 ^ dim % 8

/-- R290: the pot of a device number. -/
def potOf (dev : Nat) : Nat := dev / 512

/-- R342: link n of the device. -/
def linkOf (s : State) (n : Nat) : Link := tabGet {} s.fab.links n

/-- The state with link n replaced. -/
def setLink (s : State) (n : Nat) (k : Link) : State :=
  { s with fab := { s.fab with links := tabSet s.fab.links n k } }

/-- R342: a link that is UP, with or without its spare in use. -/
def linkUp (s : State) (n : Nat) : Bool :=
  match (linkOf s n).st with
  | .up | .upSpare => true
  | _ => false

/-- R332: the link of a dimension in the + or − direction. -/
def torusLink (dim : Nat) (plus : Bool) : Nat := if plus then dim else dim + 4

/-- R332: the link of up-link plane p. -/
def upLink (p : Nat) : Nat := if p = 0 then 3 else 7

/-- R332: the device at the far end of a torus link; none for an up-link. -/
def farEnd (dev link : Nat) : Option Nat :=
  let dim := link % 4
  if dim = 3 then none
  else
    let x := coordOf dev dim
    let y := if link < 4 then (x + 1) % 8 else (x + 7) % 8
    some (dev - x * 8 ^ dim + y * 8 ^ dim)

/-- R441: this device's entry in the loaded LINKMAP. -/
def mapEntry (s : State) (num : Nat) : Option DevImg :=
  s.boot.linkmap.bind fun m => m.devs.find? fun d => d.num.toNat == num

/-- R334, R441: whether the loaded LINKMAP gives this device a link; a spare, which holds no number, has its up-links. -/
def linkPresent (s : State) (l : Nat) : Bool :=
  if s.boot.linkmap.isNone then true
  else if s.boot.image.role then l % 4 == 3
  else match mapEntry s s.fab.devnum.toNat with
    | some d => d.far.any fun e => e.1 == l
    | none => false

/-- R367: the time master of a device's pot: the one that LINKMAP names there, or else the device at coordinates (0, 0, 0). -/
def potMaster (m : LinkmapImg) (dev : Nat) : Nat :=
  match m.potMasters.find? fun x => potOf x.toNat == potOf dev with
  | some x => x.toNat
  | none => potOf dev * 512

/-- R367, R369: the parent link of a device toward its pot master; that of a pot master is U0. -/
def parentLink (dev mast : Nat) : Nat :=
  match (List.range 3).find? fun k => coordOf dev k != coordOf mast k with
  | none => 3
  | some k => torusLink k (!(decide ((coordOf dev k + 8 - coordOf mast k) % 8 ≤ 4)))

/-- R367, R369: ROLE of a device. -/
def timeRole (m : LinkmapImg) (dev : Nat) : BitVec 2 :=
  if dev = m.master.toNat then 2#2 else if dev = potMaster m dev then 1#2 else 0#2

/-- R333, R367, R441: what LINKMAP gives a device number: the far end that admission expects of each link, TIME's role and its parent
link, the system master and the number of devices. -/
def mapIdentity (s : State) : State :=
  match s.boot.linkmap with
  | none => s
  | some m =>
    let me := s.fab.devnum.toNat
    let far := match mapEntry s me with
      | some d => d.far
      | none => []
    let s1 := far.foldl (fun s e => setLink s e.1 { linkOf s e.1 with expect := e.2 }) s
    { s1 with fab := { s1.fab with
      role := timeRole m me
      parent := BitVec.ofNat 3 (parentLink me (potMaster m me))
      master := m.master
      count := m.devs.length } }

/-- R348: the direction along a ring from `cur` to `dst`, for a packet whose source lies at `src` in this dimension: the
shorter one, and where both are 4 hops + from an even source coordinate and − from an odd one. -/
def ringPlus (cur dst src : Nat) : Bool :=
  let d := (dst + 8 - cur) % 8
  if d = 4 then src % 2 == 0 else decide (d < 4)

/-- R348: the first dimension in which two devices of a pot differ. -/
def firstDim (a b : Nat) : Option Nat := (List.range 3).find? fun k => coordOf a k != coordOf b k

/-- R443: the fields of an override entry: DMIN, DMAX, LINK and PRIO. -/
def overrideFits (w : Word) (dst : Nat) : Bool := decide (field w.toNat 0 14 ≤ dst) && decide (dst ≤ field w.toNat 16 14)

/-- R443: the override entries of the booted image that match a destination at the highest PRIO among those that match, the
lowest-numbered first. -/
def overridesFor (s : State) (dst : Nat) : List Word :=
  let ms := s.boot.image.overrides.filter fun w => overrideFits w dst
  let top := ms.foldl (fun m w => max m (field w.toNat 36 4)) 0
  ms.filter fun w => field w.toNat 36 4 == top

/-- R443: a routing decided among several override entries is counted. -/
def countMultiRoute (s : State) (p : Packet) : State :=
  if 1 < (overridesFor s p.dest.toNat).length then
    { s with boot := { s.boot with rmulti := if s.boot.rmulti = BitVec.allOnes 32 then s.boot.rmulti else s.boot.rmulti + 1#32 } }
  else s

/-- R351: the link that the installed tables name for a destination. -/
def tableLink (s : State) (dst : Nat) : Option Nat := (s.fab.routes.find? fun e => e.1 == dst).map fun e => e.2

/-- R443, R351: the link that an override entry names, unless it is lost, and otherwise the one an installed route names. -/
def namedLink (s : State) (dst : Nat) : Option Nat :=
  match overridesFor s dst with
  | w :: _ => if linkUp s (field w.toNat 32 3) then some (field w.toNat 32 3) else tableLink s dst
  | [] => tableLink s dst

/-- R348, R349, R351, R443: the link on which this device sends a packet, and whether it takes a detour there. None: no link leads
there. -/
def route (s : State) (p : Packet) : Option (Nat × Bool) :=
  let me := s.fab.devnum.toNat
  let dst := p.dest.toNat
  match namedLink s dst with
  | some l => if linkUp s l then some (l, false) else none
  | none =>
    if potOf me = potOf dst then
      match firstDim me dst with
      | none => none
      | some k =>
        let l := torusLink k (ringPlus (coordOf me k) (coordOf dst k) (coordOf p.src.toNat k))
        if linkUp s l then some (l, false)
        else
          -- R351: one hop in the next dimension, in the + direction
          let f := torusLink ((k + 1) % 3) true
          if linkUp s f then some (f, true) else none
    else
      let pl := (p.src.toNat + dst) % 2
      if linkUp s (upLink pl) then some (upLink pl, false)
      else if linkUp s (upLink (1 - pl)) then some (upLink (1 - pl), false)
      else if linkUp s 0 then some (0, false) else none

/-- R348, R351: the virtual channel of the hop on `out`, for a packet that came in on `inn`. -/
def hopVc (s : State) (p : Packet) (inn : Option Nat) (out : Nat) (detour : Bool) : Bool :=
  if detour || p.detour then true
  else match inn with
    | none => false
    | some i =>
      if i % 4 != out % 4 || out % 4 == 3 then false
      else
        let x := coordOf s.fab.devnum.toNat (i % 4)
        -- arriving on a − port means travelling +, and the wrap from 7 to 0 has just been crossed at coordinate 0
        p.vc || (if i < 4 then x == 7 else x == 0)

/-- R339: a packet handed to a link: its group leaves while fewer than 64 groups are unacknowledged, and otherwise the packet
waits. -/
def linkSend (k : Link) (p : Sent) : Link :=
  if k.unacked.length < 64 && k.waiting.isEmpty then
    { k with unacked := k.unacked ++ [(k.txSeq, p)], txSeq := k.txSeq + 1#12 }
  else { k with waiting := k.waiting ++ [p] }

/-- R348: a packet sent on its way from this device; `inn` is the link it came in on. A packet for which no link is UP waits on
the link of its first hop; so does one of another class than TC3 while a spare holds this device's identity (R460). -/
def emit (s0 : State) (inn : Option Nat) (op : Nat) (p : Packet) : State :=
  let s := countMultiRoute s0 p
  match if s.boot.migrated && p.tc != 3#2 then none else route s p with
  | some (l, det) =>
    let q := { p with
      detour := p.detour || det
      vc := hopVc s p inn l det
      plane := if l % 4 = 3 then l == 7 else p.plane }
    setLink s l (linkSend (linkOf s l) (op, q))
  | none =>
    let l := match firstDim s.fab.devnum.toNat p.dest.toNat with
      | some k => torusLink k (ringPlus (coordOf s.fab.devnum.toNat k) (coordOf p.dest.toNat k) (coordOf p.src.toNat k))
      | none => upLink ((p.src.toNat + p.dest.toNat) % 2)
    setLink s l { linkOf s l with waiting := (linkOf s l).waiting ++ [(op, p)] }

/-- R341: a link is lost, or taken down: the packets of its unacknowledged groups are re-injected in their order, and those that wait
there after them. -/
def loseLink (s : State) (l : Nat) (st : LinkSt) : State :=
  let k := linkOf s l
  let s1 := setLink s l { k with
    st := st, sparing := none, resend := none, nakSent := false, unacked := [], waiting := [], storms := [] }
  (k.unacked.map (·.2) ++ k.waiting).foldl (fun s p => emit s none p.1 p.2) s1

/-- R348, R349: the I/O die whose fabric memory agent serves a device's requests: that of the link on which they arrive while no link
is lost (DEDUCED from the worked case of R362). -/
def agentDie (s : State) (src : Nat) : Bool :=
  let me := s.fab.devnum.toNat
  if potOf src != potOf me then (src + me) % 2 == 1
  else match [2, 1, 0].find? fun d => coordOf src d != coordOf me d with
    | some d => ringPlus (coordOf src d) (coordOf me d) (coordOf src d)
    | none => false

/-- R404: the packets that the message log keeps: WR, ATOM, SYNC and COMB in TC0 or TC1, and the data of every RDR; a
request made through a capability with SXM is not logged. -/
def loggable (op : Nat) (p : Packet) : Bool :=
  (op == opRdr) || ((op == opWr || op == opAtom || op == opSync || op == opComb) && (p.tc == 0#2 || p.tc == 1#2)
    && !((capRights p.cap).getLsbD rSXM && p.cap != 0#256))

/-- R404: an outbound packet kept in the message log while full failure protection is enabled; a repeat of one that is kept is not
kept again. -/
def logMsg (s : State) (op : Nat) (p : Packet) : State :=
  let kept := s.steep.msgs.any fun m =>
    m.peer == p.dest.toNat && m.sent.1 == op && m.sent.2.agent == p.agent && m.sent.2.seq == p.seq && m.sent.2.fn == p.fn
  if steepEn s && loggable op p && !(p.replay && kept) then
    { s with steep := { s.steep with msgs := s.steep.msgs ++ [{ peer := p.dest.toNat, sent := (op, p) }] } }
  else s

/-- R359: the lowest request number of an agent without its response; the next one to be given when none is outstanding. -/
def lowestOpen (s : State) (agent : Nat) : Nat :=
  ((s.fab.outst ++ s.fab.tc0Wait).filter fun o => o.agent == agent).foldl (fun m o => min m o.seq)
    (tabGet 0 s.fab.seqs agent)

/-- R359, R404: the low-water mark of an agent; under full failure protection it rises only at a local steep seal. -/
def lwmOf (s : State) (agent : Nat) : Nat :=
  if steepEn s then min (lowestOpen s agent) (tabGet 0 s.fab.lwms agent) else lowestOpen s agent

/-- R355: TC0 requests of the device outstanding toward every destination, and toward one. -/
def tc0Out (s : State) : List Outst := s.fab.outst.filter fun o => o.sent.2.tc == 0#2

/-- R355: whether the device's slots and its quota toward a destination admit one more TC0 request. -/
def tc0Room (s : State) (dest : Nat) : Bool :=
  decide ((tc0Out s).length < 64) &&
    decide (((tc0Out s).filter fun o => o.sent.2.dest.toNat == dest).length < tabGet 0 s.fab.quota dest)

/-- What the issuer of a request gives for its header flit (R344). -/
structure ReqHead where
  tc : BitVec 2
  world : World
  lvlS : Bool
  cls : BitVec 4
  dest : Nat
  bytes : Nat
  addr : Nat
  fn : BitVec 16
  operand : Word
  cap : BitVec 256
  data : List Byte
  deriving DecidableEq, Repr

/-- R352: the class a request travels in: a packet of world T never travels in TC0. -/
def sendTc (h : ReqHead) : BitVec 2 := if h.tc == 0#2 && h.world == .T then 1#2 else h.tc

/-- R344, R359, R408: the packet of an agent's request number `seq`. -/
def reqPacket (s : State) (agent seq : Nat) (h : ReqHead) : Packet :=
  { tc := sendTc h, level := s.fab.active, replay := decide (seq < tabGet 0 s.steep.replayTo agent), world := h.world,
    lvlS := h.lvlS, cls := h.cls, dest := BitVec.ofNat 14 h.dest, src := s.fab.devnum, bytes := BitVec.ofNat 12 h.bytes,
    agent := BitVec.ofNat 10 agent, seq := BitVec.ofNat 22 seq, lwm := BitVec.ofNat 22 (lwmOf s agent), plane := false,
    detour := false, vc := false, hops := 0#6, addr := BitVec.ofNat 48 h.addr, fn := h.fn, operand := h.operand,
    cap := h.cap, data := h.data }

/-- R355, R359: a request of an agent leaves: it takes the agent's next number and waits for its response. A TC0 request waits in
its I/O die for its slots; a repeat of a TC0 request is not sent again (R408). -/
def submit (s : State) (agent op : Nat) (h : ReqHead) (owner : ReqOwner) : State :=
  let seq := tabGet 0 s.fab.seqs agent
  let p := reqPacket s agent seq h
  let o : Outst := { agent := agent, seq := seq, sent := (op, p), owner := owner, busy := false, since := s.time }
  let pair := (agent, p.dest.toNat)
  let touch := (op == opWr || op == opAtom || op == opSync) && !(s.fab.touched.contains pair)
  let s1 := { s with fab := { s.fab with
    seqs := tabSet s.fab.seqs agent (seq + 1)
    touched := if touch then pair :: s.fab.touched else s.fab.touched } }
  let same := fun (q : Outst) => q.agent == agent && q.seq == seq
  if p.tc = 0#2 && p.replay then
    if s1.fab.tc0Wait.any same then
      { s1 with fab := { s1.fab with tc0Wait := s1.fab.tc0Wait.map fun q => if same q then { q with owner := owner } else q } }
    else { s1 with fab := { s1.fab with outst := (s1.fab.outst.filter fun q => !(same q)) ++ [o] } }
  else if p.tc = 0#2 && !(tc0Room s p.dest.toNat) then
    { s1 with fab := { s1.fab with tc0Wait := s1.fab.tc0Wait ++ [o] } }
  else emit (logMsg { s1 with fab := { s1.fab with outst := s1.fab.outst ++ [o] } } op p) none op p

/-- R355: the first waiting TC0 request that finds its slots is admitted. -/
def admitTc0 (s : State) : State :=
  match s.fab.tc0Wait.find? fun o => tc0Room s o.sent.2.dest.toNat with
  | some o =>
    let s1 := { s with fab := { s.fab with
      tc0Wait := s.fab.tc0Wait.filter fun q => !(q.agent == o.agent && q.seq == o.seq)
      outst := s.fab.outst ++ [o] } }
    emit (logMsg s1 o.sent.1 o.sent.2) none o.sent.1 o.sent.2
  | none => s

/-- R344: the response to a request: AGENT, SEQ, TC and WORLD are copied, SRC and DEST swapped. -/
def responseTo (s : State) (p : Packet) (status : BitVec 16) (operand : Word) (data : List Byte) : Packet :=
  { tc := p.tc, level := s.fab.active, replay := p.replay, world := p.world, lvlS := p.lvlS, cls := 0#4, dest := p.src,
    src := s.fab.devnum, bytes := BitVec.ofNat 12 data.length, agent := p.agent, seq := p.seq, lwm := 0#22,
    plane := false, detour := false, vc := false, hops := 0#6, addr := 0#48, fn := status, operand := operand,
    cap := 0#256, data := data }

/-- R344, R404: a response leaves. -/
def respond (s : State) (op : Nat) (p : Packet) (status : BitVec 16) (operand : Word) (data : List Byte) : State :=
  let r := responseTo s p status operand data
  emit (logMsg s op r) none op r

/-- R345: a monitor message to another device. -/
def sendSvc (s : State) (agent : Nat) (dest : Nat) (data : List Byte) : State :=
  let h : ReqHead :=
    { tc := 3#2, world := .P, lvlS := true, cls := 0#4, dest := dest, bytes := data.length, addr := 0, fn := 0#16,
      operand := 0#64, cap := 0#256, data := data }
  emit s none opSvc (reqPacket s agent 0 h)

/-- R365, R408: the other devices of the system that the link map gives. -/
def otherDevices (s : State) : List Nat := (List.range s.fab.count).filter fun d => d != s.fab.devnum.toNat

/-- R426, R427: the agent number of the cluster that does the monitor's work. -/
def monitorAgent (s : State) : Nat := if s.steep.holder = 2#2 then 273 else 272

/-- R407, R408: the monitor message that asks a peer to send again what its message log keeps for this device (its form is a DESIGN
CHOICE). -/
def replayAsk : List Byte := [0x03#8]

/-- R407 step 5: replay requests to the peers. -/
def askPeers (s : State) : State := (otherDevices s).foldl (fun s d => sendSvc s (monitorAgent s) d replayAsk) s

/-- R404, R408: what the message log keeps for a peer sent again, in TC2 with REPLAY = 1. -/
def resendLog (s : State) (peer : Nat) : State :=
  (s.steep.msgs.filter fun m => m.peer == peer && m.sent.1 != opRdr).foldl
    (fun s m => emit s none m.sent.1 { m.sent.2 with tc := 2#2, replay := true }) s

/-- R362: the outstanding request a response answers, if any. -/
def findOutst (s : State) (agent seq22 : Nat) : Option Outst :=
  s.fab.outst.find? fun o => o.agent == agent && o.seq % 2 ^ 22 == seq22

/-- R359: a request that has received its response. -/
def dropOutst (s : State) (o : Outst) : State :=
  admitTc0 { s with fab := { s.fab with outst := s.fab.outst.filter fun q => !(q.agent == o.agent && q.seq == o.seq) } }

end Sys2Proof.Machine
end

