-- ==== Sys2Proof/Machine/Scalar.lean ====
section
/-!
DEFINITION. Sys2Proof/Machine/Scalar.lean: the scalar ALU, multiply and divide, long immediates, branches, jumps, calls and
returns (R88, R115 to R117, R120, R121), with the occupancy of R75.
-/

namespace Sys2Proof.Machine

/-- The outcome every meaning ends in. -/
abbrev Out := Host.Outcome State Fault Refusal

/-- R75, R115: an instruction that computes Sd from Sa and Sb in n clocks. -/
def aluRR (c : BitVec 8) (d a b : BitVec 5) (n : Nat) (f : Word → Word → Word) (s : State) : State :=
  issue c 4#18 [.s d, .s a, .s b]
    (fun t x s => retire s c.toNat t (putS x d (f (getS x a) (getS x b))) (x.pc + 4#18) n) s

/-- R75, R115: an instruction that computes Sd from Sa and a value its word holds; `len` is its length in bytes. -/
def aluRI (c : BitVec 8) (d a : BitVec 5) (len : BitVec 18) (n : Nat) (f : Word → Word) (s : State) : State :=
  issue c len [.s d, .s a] (fun t x s => retire s c.toNat t (putS x d (f (getS x a))) (x.pc + len) n) s

/-- R115: 1 if the relation holds, else 0. -/
def flagWord (p : Bool) : Word := if p then 1#64 else 0#64

/-- R115: the number of leading zeros of the low n bits of `v`. -/
def clzFrom (v : Nat) : Nat → Nat
  | 0 => 0
  | n + 1 => if bitAt v n then 0 else 1 + clzFrom v n

/-- R115: the number of trailing zeros from bit `i` on, n bits at most. -/
def ctzFrom (v : Nat) : Nat → Nat → Nat
  | 0, _ => 0
  | n + 1, i => if bitAt v i then 0 else 1 + ctzFrom v n (i + 1)

/-- R115: the number of ones among the low n bits. -/
def popFrom (v : Nat) : Nat → Nat
  | 0 => 0
  | n + 1 => b2n (bitAt v n) + popFrom v n

/-- R115: ADD. -/
def execAdd (c : BitVec 8) (d a b : BitVec 5) (s : State) : Out := .next (aluRR c d a b 3 (· + ·) s)
/-- R115: SUB. -/
def execSub (c : BitVec 8) (d a b : BitVec 5) (s : State) : Out := .next (aluRR c d a b 3 (· - ·) s)
/-- R115: AND. -/
def execAndS (c : BitVec 8) (d a b : BitVec 5) (s : State) : Out := .next (aluRR c d a b 3 (· &&& ·) s)
/-- R115: OR. -/
def execOrS (c : BitVec 8) (d a b : BitVec 5) (s : State) : Out := .next (aluRR c d a b 3 (· ||| ·) s)
/-- R115: XOR. -/
def execXorS (c : BitVec 8) (d a b : BitVec 5) (s : State) : Out := .next (aluRR c d a b 3 (· ^^^ ·) s)
/-- R115: SLL. -/
def execSll (c : BitVec 8) (d a b : BitVec 5) (s : State) : Out :=
  .next (aluRR c d a b 3 (fun x y => x <<< (y.toNat % 64)) s)
/-- R115: SRL. -/
def execSrl (c : BitVec 8) (d a b : BitVec 5) (s : State) : Out :=
  .next (aluRR c d a b 3 (fun x y => x >>> (y.toNat % 64)) s)
/-- R115: SRA. -/
def execSra (c : BitVec 8) (d a b : BitVec 5) (s : State) : Out :=
  .next (aluRR c d a b 3 (fun x y => x.sshiftRight (y.toNat % 64)) s)
/-- R115: ROTR. -/
def execRotr (c : BitVec 8) (d a b : BitVec 5) (s : State) : Out :=
  .next (aluRR c d a b 3 (fun x y => x.rotateRight (y.toNat % 64)) s)
/-- R115: SLT. -/
def execSlt (c : BitVec 8) (d a b : BitVec 5) (s : State) : Out :=
  .next (aluRR c d a b 3 (fun x y => flagWord (x.slt y)) s)
/-- R115: SLTU. -/
def execSltu (c : BitVec 8) (d a b : BitVec 5) (s : State) : Out :=
  .next (aluRR c d a b 3 (fun x y => flagWord (x.ult y)) s)
/-- R115: MIN. -/
def execMinS (c : BitVec 8) (d a b : BitVec 5) (s : State) : Out :=
  .next (aluRR c d a b 3 (fun x y => if x.slt y then x else y) s)
/-- R115: MAX. -/
def execMaxS (c : BitVec 8) (d a b : BitVec 5) (s : State) : Out :=
  .next (aluRR c d a b 3 (fun x y => if x.slt y then y else x) s)
/-- R115: MINU. -/
def execMinu (c : BitVec 8) (d a b : BitVec 5) (s : State) : Out :=
  .next (aluRR c d a b 3 (fun x y => if x.ult y then x else y) s)
/-- R115: MAXU. -/
def execMaxu (c : BitVec 8) (d a b : BitVec 5) (s : State) : Out :=
  .next (aluRR c d a b 3 (fun x y => if x.ult y then y else x) s)
/-- R115: CLZ; Sb is not read. -/
def execClz (c : BitVec 8) (d a _b : BitVec 5) (s : State) : Out :=
  .next (aluRI c d a 4#18 3 (fun x => BitVec.ofNat 64 (clzFrom x.toNat 64)) s)
/-- R115: CTZ. -/
def execCtz (c : BitVec 8) (d a _b : BitVec 5) (s : State) : Out :=
  .next (aluRI c d a 4#18 3 (fun x => BitVec.ofNat 64 (ctzFrom x.toNat 64 0)) s)
/-- R115: POPC. -/
def execPopc (c : BitVec 8) (d a _b : BitVec 5) (s : State) : Out :=
  .next (aluRI c d a 4#18 3 (fun x => BitVec.ofNat 64 (popFrom x.toNat 64)) s)
/-- R115: SEXTB. -/
def execSextb (c : BitVec 8) (d a _b : BitVec 5) (s : State) : Out :=
  .next (aluRI c d a 4#18 3 (fun x => (x.truncate 8).signExtend 64) s)
/-- R115: SEXTH. -/
def execSexth (c : BitVec 8) (d a _b : BitVec 5) (s : State) : Out :=
  .next (aluRI c d a 4#18 3 (fun x => (x.truncate 16).signExtend 64) s)
/-- R115: SEXTW. -/
def execSextw (c : BitVec 8) (d a _b : BitVec 5) (s : State) : Out :=
  .next (aluRI c d a 4#18 3 (fun x => (x.truncate 32).signExtend 64) s)

/-- R115: ADDI, the immediate sign-extended. -/
def execAddi (c : BitVec 8) (d a : BitVec 5) (imm16 : BitVec 16) (s : State) : Out :=
  .next (aluRI c d a 4#18 3 (· + imm16.signExtend 64) s)
/-- R115: ANDI, the immediate zero-extended. -/
def execAndi (c : BitVec 8) (d a : BitVec 5) (imm16 : BitVec 16) (s : State) : Out :=
  .next (aluRI c d a 4#18 3 (· &&& imm16.zeroExtend 64) s)
/-- R115: ORI, the immediate zero-extended. -/
def execOri (c : BitVec 8) (d a : BitVec 5) (imm16 : BitVec 16) (s : State) : Out :=
  .next (aluRI c d a 4#18 3 (· ||| imm16.zeroExtend 64) s)
/-- R115: XORI, the immediate zero-extended. -/
def execXori (c : BitVec 8) (d a : BitVec 5) (imm16 : BitVec 16) (s : State) : Out :=
  .next (aluRI c d a 4#18 3 (· ^^^ imm16.zeroExtend 64) s)
/-- R115: SLTI, the immediate sign-extended. -/
def execSlti (c : BitVec 8) (d a : BitVec 5) (imm16 : BitVec 16) (s : State) : Out :=
  .next (aluRI c d a 4#18 3 (fun x => flagWord (x.slt (imm16.signExtend 64))) s)
/-- R115: SLTIU, the immediate sign-extended. -/
def execSltiu (c : BitVec 8) (d a : BitVec 5) (imm16 : BitVec 16) (s : State) : Out :=
  .next (aluRI c d a 4#18 3 (fun x => flagWord (x.ult (imm16.signExtend 64))) s)

/-- R115: the shift of SHI by its kind, IMM16[7:6], and its amount, IMM16[5:0]. -/
def shiBy (imm16 : BitVec 16) (x : Word) : Word :=
  let n := imm16.toNat % 64
  match imm16.toNat / 64 % 4 with
  | 0 => x <<< n
  | 1 => x >>> n
  | 2 => x.sshiftRight n
  | _ => x.rotateRight n

/-- R113, R115: SHI; a one in the reserved bits IMM16[15:8] raises ILLOP. -/
def execShi (c : BitVec 8) (d a : BitVec 5) (imm16 : BitVec 16) (s : State) : Out :=
  .next (if imm16.toNat / 256 = 0 then aluRI c d a 4#18 3 (shiBy imm16) s
    else issue c 4#18 [] (fun t x s => illop s c.toNat t x 4#18 3) s)

/-- R116: signed division truncating toward zero: by zero all ones, and −2^63 by −1 gives −2^63. -/
def divS (x y : Word) : Word := if y = 0#64 then BitVec.allOnes 64 else x.sdiv y
/-- R116: unsigned division. -/
def divU (x y : Word) : Word := if y = 0#64 then BitVec.allOnes 64 else x / y
/-- R116: the signed remainder; by zero the dividend. -/
def remS (x y : Word) : Word := if y = 0#64 then x else x.srem y
/-- R116: the unsigned remainder. -/
def remU (x y : Word) : Word := if y = 0#64 then x else x % y

/-- The bit length of a magnitude. -/
def bitLen (n : Nat) : Nat := if n = 0 then 0 else Nat.log2 n + 1

/-- R75: the clocks of a division by the magnitudes of dividend and divisor. -/
def divClocks (p q : Nat) : Nat := 8 + (min 64 (bitLen p + 1 - bitLen q) + 1) / 2

/-- R75, R116: a division of the signed (`sg`) or unsigned values. -/
def divRR (c : BitVec 8) (d a b : BitVec 5) (sg : Bool) (f : Word → Word → Word) (s : State) : State :=
  issue c 4#18 [.s d, .s a, .s b] (fun t x s =>
    let p := getS x a
    let q := getS x b
    retire s c.toNat t (putS x d (f p q)) (x.pc + 4#18)
      (if sg then divClocks p.toInt.natAbs q.toInt.natAbs else divClocks p.toNat q.toNat)) s

/-- R116: MUL. -/
def execMul (c : BitVec 8) (d a b : BitVec 5) (s : State) : Out := .next (aluRR c d a b 8 (· * ·) s)
/-- R116: MULH. -/
def execMulh (c : BitVec 8) (d a b : BitVec 5) (s : State) : Out :=
  .next (aluRR c d a b 10 (fun x y => BitVec.ofInt 64 (x.toInt * y.toInt / 2 ^ 64)) s)
/-- R116: MULHU. R75 names the class "MULH (high 64 bits)" and no other for it: 10 clocks (DEDUCED). -/
def execMulhu (c : BitVec 8) (d a b : BitVec 5) (s : State) : Out :=
  .next (aluRR c d a b 10 (fun x y => BitVec.ofNat 64 (x.toNat * y.toNat / 2 ^ 64)) s)
/-- R116: DIV. -/
def execDiv (c : BitVec 8) (d a b : BitVec 5) (s : State) : Out := .next (divRR c d a b true divS s)
/-- R116: DIVU. -/
def execDivu (c : BitVec 8) (d a b : BitVec 5) (s : State) : Out := .next (divRR c d a b false divU s)
/-- R116: REM. -/
def execRem (c : BitVec 8) (d a b : BitVec 5) (s : State) : Out := .next (divRR c d a b true remS s)
/-- R116: REMU. -/
def execRemu (c : BitVec 8) (d a b : BitVec 5) (s : State) : Out := .next (divRR c d a b false remU s)

/-- R117: IMM44, sign-extended from bit 43. -/
def imm44 (immHi : BitVec 12) (immLo : BitVec 32) : Word := (immHi ++ immLo).signExtend 64

/-- R117: ADDI.L. -/
def execAddiL (c : BitVec 8) (d a : BitVec 5) (immHi : BitVec 12) (immLo : BitVec 32) (s : State) : Out :=
  .next (aluRI c d a 8#18 4 (· + imm44 immHi immLo) s)
/-- R117: ANDI.L. -/
def execAndiL (c : BitVec 8) (d a : BitVec 5) (immHi : BitVec 12) (immLo : BitVec 32) (s : State) : Out :=
  .next (aluRI c d a 8#18 4 (· &&& imm44 immHi immLo) s)
/-- R117: ORI.L. -/
def execOriL (c : BitVec 8) (d a : BitVec 5) (immHi : BitVec 12) (immLo : BitVec 32) (s : State) : Out :=
  .next (aluRI c d a 8#18 4 (· ||| imm44 immHi immLo) s)
/-- R117: XORI.L. -/
def execXoriL (c : BitVec 8) (d a : BitVec 5) (immHi : BitVec 12) (immLo : BitVec 32) (s : State) : Out :=
  .next (aluRI c d a 8#18 4 (· ^^^ imm44 immHi immLo) s)
/-- R117: LIH.L: Sa[43:0] + IMMLO[19:0] × 2^44. -/
def execLihL (c : BitVec 8) (d a : BitVec 5) (_immHi : BitVec 12) (immLo : BitVec 32) (s : State) : Out :=
  .next (aluRI c d a 8#18 4
    (fun x => (x.truncate 44).zeroExtend 64 + ((immLo.truncate 20).zeroExtend 64 <<< 44)) s)

/-- R120: the target of a relative transfer. -/
def relTarget (pc off : BitVec 18) : BitVec 18 := pc + off * 4#18

/-- R120: a branch that compares Sa with Sb: 3 clocks, taken or not. -/
def branch (c : BitVec 8) (a b : BitVec 5) (off16 : BitVec 16) (p : Word → Word → Bool) (s : State) : State :=
  issue c 4#18 [.s a, .s b] (fun t x s =>
    retire s c.toNat t x
      (if p (getS x a) (getS x b) then relTarget x.pc (off16.signExtend 18) else x.pc + 4#18) 3) s

/-- R120: BEQ. -/
def execBeq (c : BitVec 8) (a b : BitVec 5) (off16 : BitVec 16) (s : State) : Out :=
  .next (branch c a b off16 (fun x y => x == y) s)
/-- R120: BNE. -/
def execBne (c : BitVec 8) (a b : BitVec 5) (off16 : BitVec 16) (s : State) : Out :=
  .next (branch c a b off16 (fun x y => x != y) s)
/-- R120: BLT. -/
def execBlt (c : BitVec 8) (a b : BitVec 5) (off16 : BitVec 16) (s : State) : Out :=
  .next (branch c a b off16 (fun x y => x.slt y) s)
/-- R120: BGE. -/
def execBge (c : BitVec 8) (a b : BitVec 5) (off16 : BitVec 16) (s : State) : Out :=
  .next (branch c a b off16 (fun x y => !(x.slt y)) s)
/-- R120: BLTU. -/
def execBltu (c : BitVec 8) (a b : BitVec 5) (off16 : BitVec 16) (s : State) : Out :=
  .next (branch c a b off16 (fun x y => x.ult y) s)
/-- R120: BGEU. -/
def execBgeu (c : BitVec 8) (a b : BitVec 5) (off16 : BitVec 16) (s : State) : Out :=
  .next (branch c a b off16 (fun x y => !(x.ult y)) s)

/-- R88: the return-stack limit of a level. -/
def rsLimit : Level → Nat
  | .U => 496
  | .S => 512

/-- R88, R94: a call to `target`: the address of the next instruction is pushed; at the level's limit RSOVF, whose masked
outcome discards the oldest entry and pushes. -/
def call (c t : Nat) (x : Thread) (target : BitVec 18) (s : State) : State :=
  if x.rs.length < rsLimit x.lvl then retire s c t { x with rs := (x.pc + 4#18) :: x.rs } target 3
  else raise s c t x cRsovf 0#64 3
    (retire (setDropped s (worldOf (coreOf s c) t)) c t
      (addDrop { x with rs := (x.pc + 4#18) :: x.rs.take (x.rs.length - 1) } 1) target 3)

/-- R88, R120: CALL. -/
def execCall (c : BitVec 8) (off26 : BitVec 26) (s : State) : Out :=
  .next (issue c 4#18 [] (fun t x s => call c.toNat t x (relTarget x.pc (off26.truncate 18)) s) s)
/-- R120: JMP. -/
def execJmp (c : BitVec 8) (off26 : BitVec 26) (s : State) : Out :=
  .next (issue c 4#18 [] (fun t x s => retire s c.toNat t x (relTarget x.pc (off26.truncate 18)) 3) s)

/-- R88, R94: RET; with RSD = 0 RSUNF, whose masked outcome continues at the next instruction. -/
def execRet (c : BitVec 8) (s : State) : Out :=
  .next (issue c 4#18 [] (fun t x s =>
    match x.rs with
    | pc :: rest => retire s c.toNat t { x with rs := rest } pc 3
    | [] => raise s c.toNat t x cRsunf 0#64 3 (dropIt s c.toNat t x 4#18 3)) s)

/-- R121: the target of JMPR and CALLR: Sa[17:0] with [1:0] zero. -/
def regTarget (v : Word) : BitVec 18 := v.truncate 18 &&& 0x3FFFC#18

/-- R121: JMPR. -/
def execJmpr (c : BitVec 8) (a : BitVec 5) (s : State) : Out :=
  .next (issue c 4#18 [.s a] (fun t x s => retire s c.toNat t x (regTarget (getS x a)) 3) s)
/-- R88, R121: CALLR. -/
def execCallr (c : BitVec 8) (a : BitVec 5) (s : State) : Out :=
  .next (issue c 4#18 [.s a] (fun t x s => call c.toNat t x (regTarget (getS x a)) s) s)

end Sys2Proof.Machine
end

