-- ==== Sys2Proof/Machine/Access.lean ====
section
/-!
DEFINITION. Sys2Proof/Machine/Access.lean: scalar loads, stores and atomics (R102 to R105, R118, R119): the parts of an access,
their translation and checks, the store buffer, and the hand-off of accesses beyond the scratchpad (R76).
-/

namespace Sys2Proof.Machine

/-- R104: the aligned parts of an access of `size` bytes: virtual address and length of each. -/
def splitAccess (ea size : Nat) : List (Nat × Nat) :=
  if ea % size = 0 then [(ea, size)]
  else
    let b := (ea / size + 1) * size
    [(ea, b - ea), (b % 2 ^ 64, ea + size - b)]

/-- R260: the class an access carries: its hint, or the segment's where the hint names none. -/
def classOf (hint : BitVec 4) (g : Seg) : BitVec 4 :=
  if hint = 0#4 || decide (0xC ≤ hint.toNat) then g.cls else hint

/-- What kind of access is checked. -/
inductive AccKindOf where
  | read | write | atomic
  deriving DecidableEq, Repr

/-- The outcome of checking one part: the part, the cause code of R94 (0: none), whether segments multi-matched, and whether the
segment buffer missed. -/
structure Checked where
  half : Half
  code : Nat
  multi : Bool
  miss : Bool
  deriving DecidableEq, Repr

/-- R254, R371, R9, R289: what the region of a translated part forbids; `word8` says that the whole access is an aligned 8-byte
one. -/
def regionCode (s : State) (pa : Word) (kind : AccKindOf) (word8 : Bool) : Nat :=
  if decide (2 ≤ paSpace pa) then cSegf
  else match regionOf s.part (paLocal pa) with
    | .imem _ => cSegf
    | .so _ => if isRemote s pa then 0 else if kind = .atomic then cSegf else if word8 then 0 else cAlignf
    | .csr => if isRemote s pa then 0 else if kind = .atomic || !word8 then cAlignf else 0
    | .void => if isRemote s pa then 0 else cSegf
    | _ => 0

/-- R9, R298, R308: one part of an access of engine `eng` translated and checked; a register needs its physical address aligned too. -/
def checkPart (s : State) (eng cx : Nat) (w : World) (lvlS : Bool) (need : List Nat) (hint : BitVec 4)
    (kind : AccKindOf) (word8 : Bool) (va len : Nat) : Checked × State :=
  match translate s eng cx va need lvlS with
  | (.bad code _ multi miss, s1) =>
    ({ half := { va := va, len := len, pa := 0#64, bad := true, cap := 0#256, urg := false, cls := 0#4, data := none },
       code := code, multi := multi, miss := miss }, s1)
  | (.ok pa _ g multi miss, s1) =>
    let own := ownCheck s1 pa g w need lvlS len || isRemote s1 pa
    let code := if own then regionCode s1 pa kind (word8 && paLocal pa % 8 == 0) else cCapf
    ({ half := { va := va, len := len, pa := pa, bad := code != 0, cap := g.cap, urg := g.rights.getLsbD rURG,
                 cls := classOf hint g, data := none },
       code := code, multi := multi, miss := miss },
     if own then s1 else countCapRef s1 w)

/-- Every part of an access checked, in order. -/
def checkParts (s : State) (eng cx : Nat) (w : World) (lvlS : Bool) (need : List Nat) (hint : BitVec 4)
    (kind : AccKindOf) (word8 : Bool) : List (Nat × Nat) → List Checked × State
  | [] => ([], s)
  | (va, len) :: more =>
    let (r, s1) := checkPart s eng cx w lvlS need hint kind word8 va len
    let (rs, s2) := checkParts s1 eng cx w lvlS need hint kind word8 more
    (r :: rs, s2)

/-- R104, R297: the first fault among checked parts, as XCAUSE and XADDR, when the thread takes faults: SEGMM for a part that more
than one segment matched, else its own code; SPLIT for the second half. -/
def firstFault : List Checked → Bool → Option (Nat × Nat)
  | [], _ => none
  | r :: rs, second =>
    let code := if r.multi then cSegmm else r.code
    if code != 0 then some (code + (if second then 0x2000 else 0), r.half.va) else firstFault rs true

/-- R94: how many parts have a masked outcome that counts. -/
def dropCount (rs : List Checked) : Nat := (rs.filter fun r => r.code != 0).length

/-- R299: the clocks that segment-buffer misses add. -/
def missClocks (rs : List Checked) : Nat := 10 * (rs.filter fun r => r.miss).length

/-- The level S of a thread. -/
def isS (x : Thread) : Bool := x.lvl == .S

/-- R76: a part lies in the issuing core's scratchpad. -/
def inOwnSpad (s : State) (c : Nat) (h : Half) : Bool :=
  !(isRemote s h.pa) && regionOf s.part (paLocal h.pa) == .spad c

/-- R102: a part whose access is never posted: on another device, in CSR space or in sync-object space. -/
def neverPosted (s : State) (h : Half) : Bool :=
  isRemote s h.pa || match regionOf s.part (paLocal h.pa) with
    | .so _ => true
    | .csr => true
    | _ => false

/-- R93, R94: the masked outcomes of n parts counted. -/
def countDrops (s : State) (c t : Nat) (x : Thread) (n : Nat) : Thread × State :=
  if n = 0 then (x, s) else (addDrop x n, setDropped s (worldOf (coreOf s c) t))

/-- R103: the bytes of memory as thread `x` sees them: each from the youngest of its buffered stores that covers it. -/
def sbByte (sb : List SBuf) (a : Nat) (m : Byte) : Byte :=
  sb.foldl (fun b e => if decide (e.pa ≤ a) && decide (a < e.pa + e.bytes.length) then e.bytes.getD (a - e.pa) b else b) m

/-- R103: n bytes at a LOCAL address as a thread with store buffer `sb` reads them. -/
def readMerged (s : State) (sb : List SBuf) (a n : Nat) : List Byte :=
  (List.range n).map fun i => sbByte sb (a + i) (readByte s.mem (a + i))

/-- R103: whether a read of n bytes meets a poisoned word whose bytes it does not take from the store buffer. -/
def readPoison (s : State) (sb : List SBuf) (a n : Nat) : Bool :=
  (List.range n).any fun i => isPoisoned s (a + i) &&
    !(sb.any fun e => decide (e.pa ≤ a + i) && decide (a + i < e.pa + e.bytes.length))

/-- R118: a loaded value zero- or sign-extended. -/
def extendLoad (size : Nat) (u : Bool) (bytes : List Byte) : Word :=
  if u then BitVec.ofNat 64 (leNat bytes) else sext (8 * size) (leNat bytes)

/-- R359: the request a part on another device sends. -/
def submitHalf (s : State) (c t i op : Nat) (w : World) (lvlS : Bool) (h : Half) (fn : BitVec 16) (operand : Word)
    (data : List Byte) : State :=
  submit s c op
    { tc := if h.urg && decide (h.len ≤ 256) then 0#2 else 1#2, world := w, lvlS := lvlS, cls := h.cls, dest := paDev h.pa,
      bytes := h.len, addr := paLocal h.pa, fn := fn, operand := operand, cap := h.cap, data := data }
    (.thread c t i)

/-- R359: the read requests of the parts on other devices; part numbers count on from `i`. -/
def submitReads (s : State) (c t : Nat) (w : World) (lvlS : Bool) : Nat → List Half → State
  | _, [] => s
  | i, h :: hs =>
    submitReads (if isRemote s h.pa && !h.bad then submitHalf s c t i opRd w lvlS h 0#16 0#64 [] else s) c t w lvlS
      (i + 1) hs

/-- R359: the write requests of the parts on other devices, with their bytes. -/
def submitWrites (s : State) (c t : Nat) (w : World) (lvlS : Bool) : Nat → List Byte → List Half → State
  | _, _, [] => s
  | i, bs, h :: hs =>
    submitWrites (if isRemote s h.pa && !h.bad then
        submitHalf s c t i opWr w lvlS h 0#16 0#64 (bs.take h.len) else s) c t w lvlS (i + 1) (bs.drop h.len) hs

/-- R80, R355: what keeps an access beyond the scratchpad from leaving: no free place among the core's 64, or among its 4 TC0
requests. -/
def sendBlock (s : State) (c : Nat) (hs : List Half) (need : Nat) : Option Wait :=
  if decide (64 < outstanding (coreOf s c) + need) then some .slot
  else if (hs.any fun h => h.urg && isRemote s h.pa) && decide (4 ≤ tc0Of s c) then some .tc0
  else none

/-- R401: the message log has no room for a request that it would keep. -/
def msgLogFull (s : State) (hs : List Half) : Bool :=
  steepEn s && (hs.any fun h => isRemote s h.pa) && decide (msgCap s ≤ msgUsed s)

/-- R401: the undo share has no room for the record of a write to local HBM. -/
def undoLogFull (s : State) (hs : List Half) : Bool :=
  steepEn s && (hs.any fun h => !(isRemote s h.pa) && decide (paLocal h.pa < hbmTop s.part)) &&
    decide (undoCap s ≤ undoUsed s)

/-- R421: a read that meets poison waits while full failure protection is enabled; otherwise POISON, whose masked outcome `k`
completes the access with zeros. -/
def onPoison (s : State) (c t : Nat) (x : Thread) (va : Nat) (second : Bool) (n : Nat) (k : State) : State :=
  if steepEn s then goWait s c t x .poison 2
  else raise s c t x (cPoison + (if second then 0x2000 else 0)) (BitVec.ofNat 64 va) n k

/-- The bytes that local memory parts give a read: zero for a part with a masked fault. -/
def readParts (s : State) (sb : List SBuf) (hs : List Half) : List Byte :=
  (hs.map fun h => if h.bad then List.replicate h.len 0#8
    else (readMerged s sb (paLocal h.pa) h.len).zipIdx.map fun e =>
      if readPoison s sb (paLocal h.pa + e.2) 1 then 0#8 else e.1).flatten

/-- R94, R104: how many local memory parts of a read meet poison. -/
def poisonCount (s : State) (sb : List SBuf) (hs : List Half) : Nat :=
  (hs.filter fun h => !h.bad && readPoison s sb (paLocal h.pa) h.len).length

/-- R252: the words that the local memory parts of a read touch, decoded. -/
def decodeHalves (s : State) (hs : List Half) : State :=
  hs.foldl (fun s h => if h.bad || isRemote s h.pa then s else decodeRead s (paLocal h.pa) h.len) s

/-- The first local memory part that meets poison, and whether it is the second half. -/
def poisonedPart (s : State) (sb : List SBuf) (hs : List Half) : Option (Half × Bool) :=
  (hs.zipIdx.find? fun e => !e.1.bad && readPoison s sb (paLocal e.1.pa) e.1.len).map fun e => (e.1, e.2 != 0)

/-- R102, R104, R118: a load of `size` bytes at Sa + off into Sd; the instruction has `len` bytes and takes `extra` clocks more
than R75's figure. -/
def loadInstr (c : BitVec 8) (d a : BitVec 5) (len : BitVec 18) (extra size : Nat) (u : Bool) (hint : BitVec 4)
    (off : Word) (s : State) : State :=
  issue c len [.s d, .s a] (fun t x s => afterVec c.toNat t x s fun s =>
    let ea := (getS x a + off).toNat
    let w := worldOf (coreOf s c.toNat) t
    let (rs, s1) := checkParts s c.toNat x.cx.toNat w (isS x) [rRD] hint .read (size == 8 && ea % 8 == 0)
      (splitAccess ea size)
    let hs := rs.map (·.half)
    let good := hs.filter fun h => !h.bad
    let n := missClocks rs + extra
    match if x.exm then none else firstFault rs false with
    | some (cause, va) => enter s1 c.toNat t x cause (BitVec.ofNat 64 va) x.pc 0#18 (2 + n)
    | none =>
      if good.all (inOwnSpad s1 c.toNat) then
        let (x1, s2) := countDrops (decodeHalves s1 hs) c.toNat t x (dropCount rs)
        let v := extendLoad size u (readParts s2 x.sb hs)
        match poisonedPart s2 x.sb hs with
        | none => retire s2 c.toNat t (putS x1 d v) (x.pc + len) (4 + n)
        | some (h, second) =>
          onPoison s2 c.toNat t x h.va second (4 + n)
            (retire (setDropped s2 w) c.toNat t (putS (addDrop x1 (poisonCount s2 x.sb hs)) d v) (x.pc + len) (4 + n))
      else match sendBlock s1 c.toNat good 1 with
        | some wt => goWait s1 c.toNat t x wt (2 + n)
        | none =>
          goWait (submitReads s1 c.toNat t w (isS x) 0 hs) c.toNat t (markBusy x (.s d))
            (.reply (.load d size u hs len.toNat)) (2 + n)) s

/-- R105: the buffered stores of a thread up to the last one that overlaps n bytes at `a`, and those after it. -/
def overlapSplit (sb : List SBuf) (a n : Nat) : List SBuf × List SBuf :=
  match sb with
  | [] => ([], [])
  | e :: es =>
    let (p, q) := overlapSplit es a n
    if p.isEmpty && !(decide (e.pa < a + n) && decide (a < e.pa + e.bytes.length)) then ([], e :: q) else (e :: p, q)

/-- R106: the thread's buffered stores up to the last one that overlaps a part of an access have reached memory; the rest stay. -/
def drainOver (s : State) (sb : List SBuf) (hs : List Half) : State × List SBuf :=
  hs.foldl (fun st h =>
    if h.bad || isRemote st.1 h.pa then st
    else
      let p := overlapSplit st.2 (paLocal h.pa) h.len
      (applyStores st.1 p.1, p.2)) (s, sb)

/-- The parts of an access with their own bytes. -/
def partBytes : List Half → List Byte → List (Half × List Byte)
  | [], _ => []
  | h :: hs, bs => (h, bs.take h.len) :: partBytes hs (bs.drop h.len)

/-- R102: a store's good parts take effect: those in the own scratchpad at once, the others through the store buffer. -/
def postStore (s : State) (c : Nat) (sb : List SBuf) : List (Half × List Byte) → State × List SBuf
  | [] => (s, sb)
  | (h, bs) :: more =>
    if h.bad then postStore s c sb more
    else if inOwnSpad s c h then postStore (memStore s (paLocal h.pa) bs) c sb more
    else postStore s c (sb ++ [{ pa := paLocal h.pa, bytes := bs }]) more

/-- R102, R104, R118: a store of the low `size` bytes of Sd at Sa + off. -/
def storeInstr (c : BitVec 8) (d a : BitVec 5) (len : BitVec 18) (extra size : Nat) (hint : BitVec 4) (off : Word)
    (s : State) : State :=
  issue c len [.s d, .s a] (fun t x s => afterVec c.toNat t x s fun s =>
    let ea := (getS x a + off).toNat
    let w := worldOf (coreOf s c.toNat) t
    let (rs, s1) := checkParts s c.toNat x.cx.toNat w (isS x) [rWR] hint .write (size == 8 && ea % 8 == 0)
      (splitAccess ea size)
    let hs := rs.map (·.half)
    let good := hs.filter fun h => !h.bad
    let bytes := wordBytes size (getS x d)
    let n := missClocks rs + extra
    match if x.exm then none else firstFault rs false with
    | some (cause, va) => enter s1 c.toNat t x cause (BitVec.ofNat 64 va) x.pc 0#18 (2 + n)
    | none =>
      if good.any (neverPosted s1) then
        match sendBlock s1 c.toNat good 1 with
        | some wt => goWait s1 c.toNat t x wt (2 + n)
        | none =>
          if msgLogFull s1 good then goWait s1 c.toNat t x .log (2 + n)
          else
            let (s2, sb) := drainOver s1 x.sb hs
            goWait (submitWrites s2 c.toNat t w (isS x) 0 bytes hs) c.toNat t { x with sb := sb }
              (.reply (.store bytes hs len.toNat)) (2 + n)
      else
        let posted := (good.filter fun h => !(inOwnSpad s1 c.toNat h)).length
        if decide (8 < x.sb.length + posted) then goWait s1 c.toNat t x .sbuf (2 + n)
        else if decide (64 < outstanding (coreOf s1 c.toNat) + posted) then goWait s1 c.toNat t x .slot (2 + n)
        else if undoLogFull s1 good then goWait s1 c.toNat t x .log (2 + n)
        else if good.any fun h => inOwnSpad s1 c.toNat h && mergeWaits s1 (paLocal h.pa) h.len then
          goWait (good.foldl (fun s h => decodeMerge s (paLocal h.pa) h.len) s1) c.toNat t x .poison (2 + n)
        else
          let (x1, s2) := countDrops s1 c.toNat t x (dropCount rs)
          let (s3, sb) := postStore s2 c.toNat x.sb (partBytes hs bytes)
          retire s3 c.toNat t { x1 with sb := sb } (x.pc + len) (3 + n)) s

/-- R118: LD. -/
def execLd (c : BitVec 8) (d a : BitVec 5) (sz : BitVec 2) (u : Bool) (hint : BitVec 4) (off9 : BitVec 9) (s : State) :
    Out :=
  .next (loadInstr c d a 4#18 0 (2 ^ sz.toNat) u hint (off9.signExtend 64 * BitVec.ofNat 64 (2 ^ sz.toNat)) s)

/-- R113, R118: ST; U = 1 raises ILLOP. -/
def execSt (c : BitVec 8) (d a : BitVec 5) (sz : BitVec 2) (u : Bool) (hint : BitVec 4) (off9 : BitVec 9) (s : State) :
    Out :=
  .next (if u then issue c 4#18 [] (fun t x s => illop s c.toNat t x 4#18 3) s
    else storeInstr c d a 4#18 0 (2 ^ sz.toNat) hint (off9.signExtend 64 * BitVec.ofNat 64 (2 ^ sz.toNat)) s)

/-- R117: LD.L. -/
def execLdL (c : BitVec 8) (d a : BitVec 5) (immHi : BitVec 12) (immLo : BitVec 32) (s : State) : Out :=
  .next (loadInstr c d a 8#18 1 8 true 0#4 (imm44 immHi immLo) s)

/-- R117: ST.L. -/
def execStL (c : BitVec 8) (d a : BitVec 5) (immHi : BitVec 12) (immLo : BitVec 32) (s : State) : Out :=
  .next (storeInstr c d a 8#18 1 8 0#4 (imm44 immHi immLo) s)

/-- R119: the new value of an atomic on `old`, for values of `bits` bits; `prior` is what Sd held. -/
def atomNew (op : AtomOp) (bits old b prior : Nat) : Nat :=
  match op with
  | .aadd => (old + b) % 2 ^ bits
  | .aand => old &&& b
  | .aor => old ||| b
  | .axor => old ^^^ b
  | .aswap => b
  | .acas => if old = prior then b else old
  | .amin => if sint bits b < sint bits old then b else old
  | .amax => if sint bits old < sint bits b then b else old
  | .aminu => if b < old then b else old
  | .amaxu => if old < b then b else old

/-- R119, R403: an atomic of `size` bytes performed at a LOCAL address: the old value, recorded in the outcome log, and the
state. -/
def doAtom (s : State) (op : AtomOp) (size a : Nat) (b prior : Word) : Word × State :=
  let m := 2 ^ (8 * size)
  let (old, s1) := outcome s 4 [a / 8] (BitVec.ofNat 64 (leNat (loadBytes s a size)))
  (old, memStore s1 a (natLe size (atomNew op (8 * size) (old.toNat % m) (b.toNat % m) (prior.toNat % m))))

/-- R119: FUNC[5:0] of an atomic, as a packet's FN carries it (R345). -/
def atomFn (op : AtomOp) (size : Nat) : BitVec 16 :=
  let k := match op with
    | .aadd => 0 | .aand => 1 | .aor => 2 | .axor => 3 | .aswap => 4 | .acas => 5 | .amin => 6 | .amax => 7
    | .aminu => 8 | .amaxu => 9
  BitVec.ofNat 16 (k + (if size = 8 then 0x30 else 0x20))

/-- R105, R119: an atomic of 2^(size) bytes at Sa; sizes 0 and 1 and a one in FUNC[10:6] raise ILLOP. -/
def atomInstr (op : AtomOp) (c : BitVec 8) (d a b : BitVec 5) (size : BitVec 2) (rsv5 : BitVec 5) (s : State) : State :=
  issue c 4#18 [.s d, .s a, .s b] (fun t x s =>
    if decide (size.toNat < 2) || rsv5 != 0#5 then illop s c.toNat t x 4#18 3
    else afterVec c.toNat t x s fun s =>
      let n := 2 ^ size.toNat
      let ea := (getS x a).toNat
      let w := worldOf (coreOf s c.toNat) t
      let none' (s : State) (clk : Nat) : State :=
        retire (setDropped s w) c.toNat t (putS (addDrop x 1) d 0#64) (x.pc + 4#18) clk
      if ea % n != 0 then raise s c.toNat t x cAlignf (BitVec.ofNat 64 ea) 6 (none' s 6)
      else
        let (r, s1) := checkPart s c.toNat x.cx.toNat w (isS x) [rAT] 0#4 .atomic (n == 8) ea n
        let k := missClocks [r]
        if r.multi && !x.exm then enter s1 c.toNat t x cSegmm (BitVec.ofNat 64 ea) x.pc 0#18 (2 + k)
        else if r.code != 0 then raise s1 c.toNat t x r.code (BitVec.ofNat 64 ea) (2 + k) (none' s1 (6 + k))
        else if inOwnSpad s1 c.toNat r.half then
          let s1 := decodeHalves s1 [r.half]
          if anyPoison s1 (paLocal r.half.pa) n then onPoison s1 c.toNat t x ea false (6 + k) (none' s1 (6 + k))
          else
            let (old, s2) := doAtom s1 op n (paLocal r.half.pa) (getS x b) (getS x d)
            retire s2 c.toNat t (putS x d old) (x.pc + 4#18) (6 + k)
        else match sendBlock s1 c.toNat [r.half] 1 with
          | some wt => goWait s1 c.toNat t x wt (2 + k)
          | none =>
            if msgLogFull s1 [r.half] || undoLogFull s1 [r.half] then goWait s1 c.toNat t x .log (2 + k)
            else
              let (s2, rest) := drainOver s1 x.sb [r.half]
              let s3 := if isRemote s2 r.half.pa then
                  submitHalf s2 c.toNat t 0 opAtom w (isS x) r.half (atomFn op n) (getS x b)
                    (if op = .acas then wordBytes 8 (getS x d) else [])
                else s2
              goWait s3 c.toNat t (markBusy { x with sb := rest } (.s d)) (.reply (.atom op d n (getS x b) r.half)) (2 + k)) s

/-- R119: AADD. -/
def execAadd (c : BitVec 8) (d a b : BitVec 5) (size : BitVec 2) (rsv5 : BitVec 5) (s : State) : Out :=
  .next (atomInstr .aadd c d a b size rsv5 s)
/-- R119: AAND. -/
def execAand (c : BitVec 8) (d a b : BitVec 5) (size : BitVec 2) (rsv5 : BitVec 5) (s : State) : Out :=
  .next (atomInstr .aand c d a b size rsv5 s)
/-- R119: AOR. -/
def execAor (c : BitVec 8) (d a b : BitVec 5) (size : BitVec 2) (rsv5 : BitVec 5) (s : State) : Out :=
  .next (atomInstr .aor c d a b size rsv5 s)
/-- R119: AXOR. -/
def execAxor (c : BitVec 8) (d a b : BitVec 5) (size : BitVec 2) (rsv5 : BitVec 5) (s : State) : Out :=
  .next (atomInstr .axor c d a b size rsv5 s)
/-- R119: ASWAP. -/
def execAswap (c : BitVec 8) (d a b : BitVec 5) (size : BitVec 2) (rsv5 : BitVec 5) (s : State) : Out :=
  .next (atomInstr .aswap c d a b size rsv5 s)
/-- R119: ACAS. -/
def execAcas (c : BitVec 8) (d a b : BitVec 5) (size : BitVec 2) (rsv5 : BitVec 5) (s : State) : Out :=
  .next (atomInstr .acas c d a b size rsv5 s)
/-- R119: AMIN. -/
def execAmin (c : BitVec 8) (d a b : BitVec 5) (size : BitVec 2) (rsv5 : BitVec 5) (s : State) : Out :=
  .next (atomInstr .amin c d a b size rsv5 s)
/-- R119: AMAX. -/
def execAmax (c : BitVec 8) (d a b : BitVec 5) (size : BitVec 2) (rsv5 : BitVec 5) (s : State) : Out :=
  .next (atomInstr .amax c d a b size rsv5 s)
/-- R119: AMINU. -/
def execAminu (c : BitVec 8) (d a b : BitVec 5) (size : BitVec 2) (rsv5 : BitVec 5) (s : State) : Out :=
  .next (atomInstr .aminu c d a b size rsv5 s)
/-- R119: AMAXU. -/
def execAmaxu (c : BitVec 8) (d a b : BitVec 5) (size : BitVec 2) (rsv5 : BitVec 5) (s : State) : Out :=
  .next (atomInstr .amaxu c d a b size rsv5 s)

/-- R102: STORE_DRAIN: the oldest buffered store of a thread reaches memory; it is held while its undo record finds no room
(R401). -/
def execStoreDrain (c : BitVec 8) (t : BitVec 3) (s : State) : Out :=
  let x := thOf s c.toNat t.toNat
  match x.sb with
  | [] => .next s
  | e :: rest =>
    .next (if steepEn s && decide (e.pa < hbmTop s.part) && decide (undoCap s ≤ undoUsed s) then s
      else wake (setTh (memStore s e.pa e.bytes) c.toNat t.toNat { x with sb := rest }) c.toNat)

end Sys2Proof.Machine
end

