-- ==== Sys2Proof/Machine/Sync.lean ====
section
/-!
DEFINITION. Sys2Proof/Machine/Sync.lean: sync objects: their operations by type (R373), waiters, barriers and parked entries (R377
to R381), and the notifications an update sends (R376).
-/

namespace Sys2Proof.Machine

/-- R370: sync object n. -/
def soOf (s : State) (n : Nat) : SyncObj := tabGet {} s.so n

/-- The state with sync object n replaced. -/
def setSo (s : State) (n : Nat) (o : SyncObj) : State := { s with so := tabSet s.so n o }

/-- R370: the objects that belong to the monitor. -/
def soMon (n : Nat) : Bool := decide (8128 ≤ n)

/-- R373: TAIL of a queue-head object. -/
def soTail (v : Word) : Nat := field v.toNat 0 32
/-- R373: HEAD of a queue-head object. -/
def soHead (v : Word) : Nat := field v.toNat 32 32
/-- R380: COUNT of a barrier object. -/
def soCount (v : Word) : Nat := field v.toNat 0 32
/-- R380: GEN of a barrier object. -/
def soGen (v : Word) : Nat := field v.toNat 32 31
/-- R380: PEND of a barrier object. -/
def soPend (v : Word) : Bool := v.getLsbD 63

/-- R373: a queue-head value. -/
def soQueue (tail head : Nat) : Word := BitVec.ofNat 64 (tail % 2 ^ 32 + head % 2 ^ 32 * 2 ^ 32)

/-- R380: a barrier value. -/
def soBarrier (count gen : Nat) (pend : Bool) : Word :=
  BitVec.ofNat 64 (count % 2 ^ 32 + gen % 2 ^ 31 * 2 ^ 32 + b2n pend * 2 ^ 63)

/-- R373: TAIL − HEAD. -/
def soFill (v : Word) : Nat := (soTail v + 2 ^ 32 - soHead v) % 2 ^ 32

/-- R373: the WAITS condition of a counter, flag or queue-head object. -/
def soCond (o : SyncObj) : Bool :=
  match o.ty.toNat with
  | 0 => decide (o.tgt.toNat ≤ o.val.toNat)
  | 1 => o.val &&& o.tgt != 0#64
  | 3 => decide (field o.tgt.toNat 0 32 ≤ soFill o.val)
  | _ => false

/-- R373: SIGNAL: the new value, none where it is refused. -/
def soSignal (o : SyncObj) (v : Word) : Option Word :=
  match o.ty.toNat with
  | 0 => some (o.val + v)
  | 1 => some (o.val ||| v)
  | 3 => some (soQueue (soTail o.val + field v.toNat 0 32) (soHead o.val))
  | _ => none

/-- R373: FETCHADD: the result and the new value. -/
def soFetchadd (o : SyncObj) (v : Word) : Word × Option Word :=
  match o.ty.toNat with
  | 0 => (o.val, some (o.val + v))
  | 1 => (o.val, some (o.val &&& ~~~v))
  | 3 =>
    if field v.toNat 0 32 ≤ soFill o.val then
      (BitVec.ofNat 64 (soHead o.val), some (soQueue (soTail o.val) (soHead o.val + field v.toNat 0 32)))
    else (BitVec.allOnes 64, none)
  | _ => (BitVec.allOnes 64, none)

/-- R237: the number of firings of an arm that a value makes due. -/
def armDue (a : Arm) (v : Word) : Nat :=
  match a.prog with
  | [] => 0
  | d :: _ => ((List.range d.repeats).filter fun k => decide (d.thresh + k * d.step ≤ v.toNat)).length

/-- R96, R376: a core's interrupt sources 8 to 23 bound to object n become pending. BIND has 14 bits and objects end at 8191: a larger
BIND names none (DESIGN CHOICE, entry 131: the spec does not say). -/
def notifySources (k : Core) (n : Nat) : Core :=
  { k with icuPend := (List.range 16).foldl (fun p i =>
      let src := tabGet 0#30 k.icuSrc (8 + i)
      if src.getLsbD 0 && field src.toNat 16 14 == n then p ||| (1#64 <<< (8 + i)) else p) k.icuPend }

/-- R237, R376: the firings of a core's arms on object n that a value makes due. -/
def notifyArms (k : Core) (n : Nat) (v : Word) : Core :=
  { k with se := { k.se with arms := tabMap k.se.arms fun _ a =>
      if a.so = n then { a with due := max a.due (armDue a v) } else a } }

/-- R376: the notification that an update of object n sends to the cores that subscribe to it. -/
def notifySo (s : State) (n : Nat) : State :=
  { s with cores := tabMap s.cores fun _ k => notifyArms (notifySources k n) n (soOf s n).val }

/-- R374, R376, R392: a waiter completes with a result: the reply is on its way to a thread, or leaves as SYNCR. -/
def finishWaiter (s : State) (n : Nat) (w : Waiter) (code : Word) : State :=
  match w with
  | .thread c t =>
    let x := thOf s c t
    match x.wait with
    | .reply (.syncWait d m) =>
      if m = n then
        let (v, s1) := outcome s 1 [c, t, x.icount] code
        setTh s1 c t { x with wait := .reply (.synced d v) }
      else s
    | _ => s
  | .remote dev agent seq tc world =>
    let p : Packet :=
      { tc := tc, level := s.fab.active, replay := false, world := world, lvlS := false, cls := 0#4,
        dest := BitVec.ofNat 14 dev, src := s.fab.devnum, bytes := 0#12, agent := BitVec.ofNat 10 agent,
        seq := BitVec.ofNat 22 seq, lwm := 0#22, plane := false, detour := false, vc := false, hops := 0#6, addr := 0#48,
        fn := stOk, operand := code, cap := 0#256, data := [] }
    let s1 := { s with fab := { s.fab with dedup := s.fab.dedup ++
      [{ die := agentDie s dev, src := dev, agent := agent, seq := seq, tc0 := tc == 0#2, status := stOk, operand := code,
         made := s.time }] } }
    emit s1 none opSyncr p

/-- R380, R381: one generation of a barrier object completed on this device: COUNT returns to 0, GEN advances, and the second
arrivals held for the next generation are added. -/
def nextGen (o : SyncObj) : SyncObj :=
  { o with
    val := soBarrier o.early.length (soGen o.val + 1) false
    waiters := o.waiters ++ o.early.map fun w => { w with gen := some ((soGen o.val + 1) % 2 ^ 31), isBarrier := true }
    early := [] }

/-- R380: a barrier object whose count has reached PARTS: the generation ends, or PEND hands one arrival to the group. -/
def evalBarrier (o : SyncObj) : SyncObj :=
  if o.ty = 2#2 && decide (o.parts.toNat ≤ soCount o.val) then
    if o.grp then { o with val := soBarrier (soCount o.val) (soGen o.val) true } else nextGen o
  else o

/-- R378, R380: whether a waiter entry's condition holds. -/
def waiterDone (o : SyncObj) (w : WaitEnt) : Bool :=
  match w.gen with
  | some g => g != soGen o.val
  | none => soCond o

/-- R378: every waiter of object n whose condition holds completes ARRIVED. -/
def releaseWaiters (s : State) (n : Nat) : State :=
  let o := soOf s n
  (o.waiters.filter (waiterDone o)).foldl (fun s w => finishWaiter s n w.who 0#64)
    (setSo s n { o with waiters := o.waiters.filter fun w => !(waiterDone o w) })

/-- R372, R376, R378: object n after an update: its barrier generation, its waiters and its notifications. Second arrivals can
complete a further generation at once. -/
def soUpdate (s : State) (n : Nat) (o : SyncObj) : State :=
  notifySo (releaseWaiters (setSo s n (evalBarrier (evalBarrier o))) n) n

/-- R371: a store that changes TYPE ends every waiter and parked entry with result 3. -/
def endWaiters (s : State) (n : Nat) : State :=
  let o := soOf s n
  (o.waiters ++ o.early).foldl (fun s w => finishWaiter s n w.who 3#64)
    (setSo s n { o with waiters := [], early := [], parked := [] })

/-- R373: SIGNAL on object n: its result and the state. -/
def doSignal (s : State) (n : Nat) (v : Word) : Word × State :=
  match soSignal (soOf s n) v with
  | some w => (0#64, soUpdate s n { soOf s n with val := w })
  | none => (3#64, s)

/-- R373: FETCHADD on object n. -/
def doFetchadd (s : State) (n : Nat) (v : Word) : Word × State :=
  match soFetchadd (soOf s n) v with
  | (r, some w) => (r, soUpdate s n { soOf s n with val := w })
  | (r, none) => (r, s)

/-- R373: the SIGNAL a unit of the device sends. -/
def signalSo (s : State) (n : Nat) (v : Word) : State := (doSignal s n v).2

/-- R381: the parked entry of a thread at object n. -/
def parkedAt (s : State) (n : Nat) (w : Waiter) : Option Parked := (soOf s n).parked.find? fun p => p.who == w

/-- R381: every parked entry of a thread removed. -/
def unpark (s : State) (w : Waiter) : State :=
  { s with so := tabMap s.so fun _ o => { o with parked := o.parked.filter fun p => p.who != w } }

/-- R380, R381: a thread's entry parked at object n for a generation; a new one replaces the old. -/
def park (s : State) (n : Nat) (w : Waiter) (gen : Nat) : State :=
  let s1 := unpark s w
  setSo s1 n { soOf s1 n with parked := (soOf s1 n).parked ++ [{ who := w, gen := gen }] }

/-- R377: the deadline that a timeout names: `some none` never, `none` at once. -/
def deadlineOf (s : State) (v : Word) : Option (Option Nat) :=
  if v = 0#64 then none
  else if v = BitVec.allOnes 64 then some none
  else some (some (s.time + v.toNat))

/-- A waiter entry added to object n. -/
def addWaiter (s : State) (n : Nat) (w : WaitEnt) : State :=
  setSo s n { soOf s n with waiters := (soOf s n).waiters ++ [w] }

/-- R377, R381: WAITS on object n: the result when it completes at once, and the state. -/
def doWaits (s : State) (n : Nat) (w : Waiter) (v : Word) : Option Word × State :=
  let o := soOf s n
  if o.ty = 2#2 then
    match w, parkedAt s n w with
    | .thread _ _, none => (some 0#64, s)
    | .thread _ _, some p =>
      if p.gen != soGen o.val then (some 0#64, unpark s w)
      else match deadlineOf s v with
        | none => (some 1#64, s)
        | some dl => (none, addWaiter s n { who := w, gen := some p.gen, isBarrier := false, deadline := dl })
    | .remote _ _ _ _ _, _ => (some 3#64, s)
  else if soCond o then (some 0#64, s)
  else match deadlineOf s v with
    | none => (some 1#64, s)
    | some dl => (none, addWaiter s n { who := w, gen := none, isBarrier := false, deadline := dl })

/-- R380, R381: BARRIER on object n by a thread of this device: the result when it completes at once, and the state. -/
def doBarrier (s : State) (n : Nat) (w : Waiter) (v : Word) : Option Word × State :=
  let o := soOf s n
  if o.ty != 2#2 then (some 3#64, s)
  else
    let gen := soGen o.val
    let again := match parkedAt s n w with
      | some p => p.gen == gen
      | none => false
    if again then
      -- the second arrival is held for the next generation
      match deadlineOf s v with
      | none =>
        let s1 := setSo s n { o with early := o.early ++ [{ who := w, gen := none, isBarrier := true, deadline := none }] }
        (some 2#64, park s1 n w ((gen + 1) % 2 ^ 31))
      | some dl =>
        let s1 := unpark s w
        (none, setSo s1 n { soOf s1 n with
          early := (soOf s1 n).early ++ [{ who := w, gen := none, isBarrier := true, deadline := dl }] })
    else
      let counted := soBarrier (soCount o.val + 1) gen (soPend o.val)
      match deadlineOf s v with
      | none =>
        -- the arrival counts, and the wait ends at once
        let done := decide (o.parts.toNat ≤ soCount counted) && !o.grp
        let s1 := soUpdate s n { o with val := counted }
        if done then (some 0#64, s1) else (some 2#64, park s1 n w gen)
      | some dl =>
        let ent : WaitEnt := { who := w, gen := some gen, isBarrier := true, deadline := dl }
        if decide (o.parts.toNat ≤ soCount counted) && !o.grp then (some 0#64, soUpdate s n { o with val := counted })
        else (none, soUpdate s n { o with val := counted, waiters := o.waiters ++ [ent] })

/-- R380: the HELD of a waiting BARRIER: its arrival stays counted and its entry is parked. -/
def holdBarrier (s : State) (n : Nat) (w : WaitEnt) : State :=
  let o := soOf s n
  let gen := match w.gen with
    | some g => g
    | none => (soGen o.val + 1) % 2 ^ 31
  let s1 := finishWaiter (setSo s n { o with waiters := o.waiters.filter fun e => e.who != w.who || e.gen != w.gen })
    n w.who 2#64
  park s1 n w.who gen

/-- R378, R380: a waiter whose deadline has passed: TIMEOUT for WAITS, HELD for BARRIER. -/
def expireWaiter (s : State) (n : Nat) (w : WaitEnt) : State :=
  if w.isBarrier then holdBarrier s n w
  else
    let o := soOf s n
    finishWaiter (setSo s n { o with waiters := o.waiters.filter fun e => e.who != w.who }) n w.who 1#64

/-- R379: waiter entries held for other devices in a traffic class, TC0 or not. -/
def remoteWaiters (s : State) (tc0 : Bool) : Nat :=
  (s.so.map fun e => (e.2.waiters.filter fun w => match w.who with
    | .remote _ _ _ tc _ => (tc == 0#2) == tc0
    | .thread _ _ => false).length).sum

/-- R99, R379, R395: the waiter entries of a thread dropped: its WAITS is abandoned. -/
def dropWaits (s : State) (w : Waiter) : State :=
  { s with so := tabMap s.so fun _ o => { o with
      waiters := o.waiters.filter fun e => e.who != w } }

end Sys2Proof.Machine
end

