-- ==== Sys2Proof/Machine/UnitMem.lean ====
section
/-!
DEFINITION. Sys2Proof/Machine/UnitMem.lean: how the matrix unit, the stream engine and the reduction unit reach memory: ranges
translated under a thread's segments (R131, R184, R223), read and written piece by piece.
-/

namespace Sys2Proof.Machine

/-- R298: what n bytes at `va` give a unit of core c that works for thread t: the cause that translation, rights, capability or region
(R9, R254, R371) refuses them for, or 0, and the physical address. -/
def unitCode (s : State) (c t : Nat) (need : List Nat) (va n : Nat) : Nat × Word :=
  let x := thOf s c t
  match (translate s c x.cx.toNat va need (isS x)).1 with
  | .ok pa _ g _ _ =>
    if ownCheck s pa g (worldOf (coreOf s c) t) need (isS x) n || isRemote s pa then (regionCode s pa .read false, pa)
    else (cCapf, pa)
  | .bad code _ _ _ => (code, 0#64)

/-- The physical address of n bytes at `va` for a unit, where nothing refuses them. -/
def unitPa (s : State) (c t : Nat) (need : List Nat) (va n : Nat) : Option Word :=
  match unitCode s c t need va n with
  | (0, pa) => some pa
  | _ => none

/-- The physical address of n bytes at `va`, where they lie in core c's scratchpad. -/
def unitSpad (s : State) (c t : Nat) (need : List Nat) (va n : Nat) : Option Nat :=
  match unitPa s c t need va n with
  | some pa => if !(isRemote s pa) && regionOf s.part (paLocal pa) == .spad c then some (paLocal pa) else none
  | none => none

/-- R293, R345: n bytes from `va` on, cut where a request must end, at 2 KiB; a segment ends at 4 KiB. -/
def piecesFrom : Nat → Nat → Nat → List (Nat × Nat)
  | 0, _, _ => []
  | f + 1, va, n =>
    if n = 0 then []
    else
      let k := min n (2048 - va % 2048)
      (va % 2 ^ 64, k) :: piecesFrom f (va + k) (n - k)

/-- R293: the pieces of n bytes from `va` on. -/
def pieces (va n : Nat) : List (Nat × Nat) := piecesFrom (n / 2048 + 2) va n

/-- The first address of a range whose piece fails a test. -/
def rangeFailFrom (ok : Nat → Nat → Bool) : Nat → Nat → Nat → Option Nat
  | 0, _, _ => none
  | f + 1, va, n =>
    if n = 0 then none
    else
      let k := min n (4096 - va % 4096)
      if ok (va % 2 ^ 64) k then rangeFailFrom ok f (va + k) (n - k) else some (va % 2 ^ 64)

/-- The first address of n bytes from `va` on that does not lie in core c's scratchpad with the rights needed. -/
def spadFail (s : State) (c t : Nat) (need : List Nat) (va n : Nat) : Option Nat :=
  rangeFailFrom (fun v k => (unitSpad s c t need v k).isSome) (n / 4096 + 2) va n

/-- R9, R184, R254: the cause for which a unit's read of n bytes from `va` on fails: ALIGNF where the first bytes it may not read lie
in CSR or sync-object space, else SEGF. -/
def readFail (s : State) (c t : Nat) (va n : Nat) : Option Nat :=
  (rangeFailFrom (fun v k => (unitPa s c t [rRD] v k).isSome) (n / 4096 + 2) va n).map fun a =>
    if (unitCode s c t [rRD] a 1).1 = cAlignf then cAlignf else cSegf

/-- The first failing address of several ranges in order. -/
def firstRangeFail (s : State) (c t : Nat) (need : List Nat) : List (Nat × Nat) → Option Nat
  | [] => none
  | (va, n) :: more =>
    match spadFail s c t need va n with
    | some a => some a
    | none => firstRangeFail s c t need more

/-- R299, R309: one address translated by core c's buffer for thread t: its entry made recent, 10 core clocks where it missed, and a
refusal by a capability of this device counted. -/
def touchAt (s : State) (c t : Nat) (need : List Nat) (va n : Nat) : State :=
  let x := thOf s c t
  match segHits s c x.cx.toNat va with
  | [] => s
  | (k, g) :: _ =>
    let s1 := touchBuf s c x.cx.toNat k g
    let s2 := if bufHit s c x.cx.toNat k then s1 else setCore s1 c (spend (coreOf s1 c) t 10)
    if (unitCode s c t need va n).1 = cCapf then countCapRef s2 (worldOf (coreOf s c) t) else s2

/-- The addresses at which n bytes from `va` on are translated: segments end at 4 KiB. -/
def touchFrom (c t : Nat) (need : List Nat) : Nat → Nat → Nat → State → State
  | 0, _, _, s => s
  | f + 1, va, n, s =>
    if n = 0 then s
    else
      let k := min n (4096 - va % 4096)
      touchFrom c t need f (va + k) (n - k) (touchAt s c t need (va % 2 ^ 64) k)

/-- R299: what the translation of a unit's ranges does to core c's segment buffer and its clock (DEDUCED, entry 34). -/
def unitTouch (s : State) (c t : Nat) (need : List Nat) (rs : List (Nat × Nat)) : State :=
  rs.foldl (fun s r => touchFrom c t need (r.2 / 4096 + 2) r.1 r.2 s) s

/-- R297: the first address of several ranges that more than one segment translates. -/
def firstMulti (s : State) (c t : Nat) : List (Nat × Nat) → Option Nat
  | [] => none
  | (va, n) :: more =>
    match rangeFailFrom (fun v _ => decide ((segHits s c (thOf s c t).cx.toNat v).length < 2)) (n / 4096 + 2) va n with
    | some a => some a
    | none => firstMulti s c t more

/-- R297: operands that more than one segment translates: CX_MULTI counts, and SEGMM unless masked. -/
def multiOr (s : State) (c t : Nat) (x : Thread) (rs : List (Nat × Nat)) (go : State → State) : State :=
  match firstMulti s c t rs with
  | none => go s
  | some va =>
    let s1 := bumpMulti s x.cx.toNat
    if x.exm then go s1 else enter s1 c t x cSegmm (BitVec.ofNat 64 va) x.pc 0#18 2

/-- The bytes a unit reads from local memory: poisoned bytes, and bytes it can no longer reach, as zero (R218, R241). -/
def unitRead (s : State) (c t : Nat) (va n : Nat) : List Byte :=
  ((pieces va n).map fun p => match unitPa s c t [rRD] p.1 p.2 with
    | some pa => if isRemote s pa then List.replicate p.2 0#8 else loadZeroPoison s (paLocal pa) p.2
    | none => List.replicate p.2 0#8).flatten

/-- R218, R241: whether a unit's read meets poison. -/
def unitPoison (s : State) (c t : Nat) (va n : Nat) : Bool :=
  (pieces va n).any fun p => match unitPa s c t [rRD] p.1 p.2 with
    | some pa => !(isRemote s pa) && anyPoison s (paLocal pa) p.2
    | none => false

/-- R252: the words that a unit's read touches, decoded. -/
def unitDecode (s : State) (c t : Nat) (va n : Nat) : State :=
  (pieces va n).foldl (fun s p => match unitPa s c t [rRD] p.1 p.2 with
    | some pa => if isRemote s pa then s else decodeRead s (paLocal pa) p.2
    | none => s) s

/-- The bytes a unit writes to the scratchpad; a byte it can no longer reach is dropped. -/
def unitWrite (s : State) (c t : Nat) (va : Nat) (bs : List Byte) : State :=
  ((pieces va bs.length).foldl (fun st p =>
    ((match unitSpad st.1 c t [rWR] p.1 p.2 with
      | some a => memStore st.1 a (st.2.take p.2)
      | none => st.1), st.2.drop p.2)) (s, bs)).1

/-- R127: the thread has a vector store or scatter that has not been written. -/
def vecStorePending (k : Core) (t : Nat) : Bool :=
  (k.vq ++ k.vrun).any fun e => e.t == t && (match e.kind with | .store _ _ => true | _ => false)

/-- The 64-bit words of a byte list. -/
def wordsOf : Nat → List Byte → List Word
  | 0, _ => []
  | n + 1, bs => BitVec.ofNat 64 (leNat (bs.take 8)) :: wordsOf n (bs.drop 8)

/-- R94: n masked outcomes of thread t counted. -/
def countMasked (s : State) (c t n : Nat) : State :=
  if n = 0 then s else setTh (setDropped s (worldOf (coreOf s c) t)) c t (addDrop (thOf s c t) n)

/-- R94, R218: a poisoned read of a unit under mask counted once. -/
def countOnce (s : State) (c t : Nat) : State := countMasked s c t 1

/-- R94, R218: a unit's read for a thread has met a fault: counted once under mask; otherwise the thread is to take it, in the way an
interrupt is taken, at its next boundary (DEDUCED, entry 125: EXM is judged at the read, and a thread whose EXM is 1 again at its
boundary takes it when EXM is next 0). -/
def unitFault (s : State) (c t cause : Nat) : State :=
  let x := thOf s c t
  if x.exm then countOnce s c t else setTh s c t { x with unitDue := if x.unitDue = 0 then cause else x.unitDue }

/-- R218, R241, R245: a unit has read poison for a thread. -/
def unitPoisoned (s : State) (c t : Nat) : State := unitFault s c t cPoison

end Sys2Proof.Machine
end

