-- ==== Sys2Proof/Machine/Interrupt.lean ====
section
/-!
DEFINITION. Sys2Proof/Machine/Interrupt.lean: the interrupt controller (R96 to R98), the boundaries of a thread's work in flight
(R99), and exception entry from outside a thread's turn.
-/

namespace Sys2Proof.Machine

/-- R81: the registers whose scoreboard bits an access in flight holds. -/
def reqDst : Req → List Reg
  | .load d _ _ _ _ => [.s d]
  | .atom _ d _ _ _ => [.s d]
  | .rsync _ d _ _ => [.s d]
  | .synced d _ => [.s d]
  | .syncWait d _ => [.s d]
  | .ext d _ _ => [.s d]
  | .vec e => match e.kind with
    | .load d _ _ => [.v d]
    | _ => []
  | _ => []

/-- R99: whether an access in flight is abandoned at once. -/
def reqAbandons : Req → Bool
  | .load _ _ _ _ _ => true
  | .vec _ => true
  | .rsync op _ _ _ => op == .waits
  | .syncWait _ _ => true
  | _ => false

/-- R99, R100, R362: requests whose thread no longer waits for them: their responses are discarded. -/
def orphan (s : State) (c t : Nat) : State :=
  let f (o : Outst) : Outst := match o.owner with
    | .thread c' t' p => if c' = c && t' = t then { o with owner := .thread c' t' (p % 65536 + 65536) } else o
    | _ => o
  { s with fab := { s.fab with outst := s.fab.outst.map f, tc0Wait := s.fab.tc0Wait.map f } }

/-- R380: whether the waiter entry of a thread at object n is a BARRIER's own. -/
def barrierEntry (s : State) (n : Nat) (w : Waiter) : Option WaitEnt :=
  ((soOf s n).waiters ++ (soOf s n).early).find? fun e => e.who == w && e.isBarrier

/-- R215: a pass of thread t is to stop at its next boundary: an exception has been taken, or an interrupt or poison is due. -/
def stopDue (s : State) (c t : Nat) : Bool := (thOf s c t).excDue || asyncDue s c t

/-- R99: the work of thread t that a boundary holds up: a vector instruction, or a pass that has not stopped. -/
def workInFlight (s : State) (c t : Nat) : Bool :=
  let k := coreOf s c
  ((k.vq ++ k.vrun).any fun e => e.t == t)
    || (match k.mx.pass with | some p => p.t == t && !p.susp | none => false)
    || (match k.se.run with | some r => r.ent.t == t && !r.susp | none => false)

/-- R99: whether thread t has reached the boundary at which it can enter an exception from outside its turn. -/
def atEntryBoundary (s : State) (c t : Nat) : Bool :=
  !(workInFlight s c t) && match (thOf s c t).wait with
    | .reply r => reqAbandons r
    | .parked => false
    | _ => true

/-- R99: thread t with what it waits for abandoned; a waiting BARRIER completes HELD first (R380). The thread's next
instruction is at its pc. -/
def abandonWait (s : State) (c t : Nat) : State :=
  let x := thOf s c t
  match x.wait with
  | .reply (.syncWait d n) =>
    match barrierEntry s n (.thread c t) with
    | some e =>
      let s1 := holdBarrier s n e
      let y := thOf s1 c t
      match y.wait with
      | .reply (.synced _ v) =>
        setTh s1 c t { clearBusy (putS y d v) (.s d) with pc := y.pc + 4#18, icount := y.icount + 1, wait := .none }
      | _ => s1
    | none =>
      setTh (dropWaits s (.thread c t)) c t { clearBusy x (.s d) with wait := .none }
  | .reply r => setTh (orphan s c t) c t { (reqDst r).foldl clearBusy x with wait := .none }
  | _ => setTh s c t { x with wait := .none }

/-- R92, R106: exception entry of thread t from outside its turn, in 4 clocks: its posted stores drain, and its vector instructions in
flight complete first. -/
def enterOutside (s : State) (c t : Nat) (cause : Nat) (addr : Word) (resume offset : BitVec 18) : State :=
  let s1 := applyStores s (thOf s c t).sb
  let x := thOf s1 c t
  let k := coreOf s1 c
  let y := if vecDone k t then entered x cause addr resume offset
    else { x with sb := [], st := .waiting, wait := .entry cause addr resume offset }
  setCore s1 c (settle (spend { k with th := tabSet k.th t y } t 4))

/-- R92, R99: exception entry of thread t from outside its turn: XPC holds its next instruction. -/
def asyncEnter (s : State) (c t : Nat) (cause : Nat) (offset : BitVec 18) : State :=
  let s1 := abandonWait s c t
  enterOutside s1 c t cause 0#64 (thOf s1 c t).pc offset

/-- R96: a delivered edge source is cleared. -/
def icuTake (k : Core) (n : Nat) (multi : Bool) : Core :=
  { k with
    icuPend := k.icuPend &&& ~~~(1#64 <<< n)
    icuMulti := if multi && k.icuMulti != BitVec.allOnes 32 then k.icuMulti + 1#32 else k.icuMulti }

/-- R96 to R99, R403, R408: the interrupt thread t takes: the source it is offered, or the one that replay's log holds. -/
def takeInterrupt (s : State) (c t : Nat) : State :=
  let offer := icuOffer s (coreOf s c) t
  let (v, s1) := outcome s 3 [c, t, (thOf s c t).icount] (BitVec.ofNat 64 ((offer.map (·.1)).getD 0))
  let s2 := setCore s1 c (icuTake (coreOf s1 c) (v.toNat % 64) ((offer.map (·.2)).getD false))
  asyncEnter s2 c t (cIntr + v.toNat % 64 * 2 ^ 16) 0x40#18

/-- R96 to R99, R218: INTERRUPT_ENTRY: thread t, due an interrupt or poison and at its boundary, takes it; poison comes first (DESIGN
CHOICE, entry 125). -/
def execInterruptEntry (c : BitVec 8) (t : BitVec 3) (s : State) : Host.Outcome State Fault Refusal :=
  let x := thOf s c.toNat t.toNat
  .next (if asyncDue s c.toNat t.toNat && atEntryBoundary s c.toNat t.toNat then
      if x.unitDue != 0 then
        asyncEnter (setTh s c.toNat t.toNat { x with unitDue := 0 }) c.toNat t.toNat x.unitDue 0#18
      else takeInterrupt s c.toNat t.toNat
    else s)

end Sys2Proof.Machine
end

