-- ==== Sys2Proof/Machine/Flags.lean ====
section
/-!
DEFINITION. Sys2Proof/Machine/Flags.lean: the flag computations: the vector conditions and the four flags of each tensor engine as
bits of NUM_FLAGS, TS_STAT and XCAUSE (R47, R50, R51, R95, R313).
-/

namespace Sys2Proof.Machine

/-- R47, R95: the five vector conditions, OF at bit 0, then UF, NX, NV and DZ. -/
def vecBits (f : FFlags) : BitVec 5 :=
  BitVec.ofNat 5 (b2n f.nof + b2n f.nuf * 2 + b2n f.nnx * 4 + b2n f.nnv * 8 + b2n f.ndz * 16)

/-- R51: the four flags of a tensor engine, OF at bit 0, then UF, NX and NV; division by zero sets NV. -/
def engBits (f : FFlags) : BitVec 4 :=
  BitVec.ofNat 4 (b2n f.nof + b2n f.nuf * 2 + b2n f.nnx * 4 + b2n (f.nnv || f.ndz) * 8)

/-- R47: the tensor engines with flags in NUM_FLAGS. -/
inductive FlagEngine where
  | matrix | stream | reduction
  deriving DecidableEq, Repr

/-- R47: the bit of an engine's OF. -/
def flagBase : FlagEngine → Nat
  | .matrix => 8
  | .stream => 12
  | .reduction => 16

/-- R47, R52: NUM_FLAGS with an engine's flags ORed in. -/
def orEngine (nf : BitVec 20) (e : FlagEngine) (g : BitVec 4) : BitVec 20 := nf ||| (g.zeroExtend 20 <<< flagBase e)

/-- R47, R164: NUM_FLAGS with vector conditions ORed in. -/
def orVector (nf : BitVec 20) (g : BitVec 5) : BitVec 20 := nf ||| g.zeroExtend 20

/-- R50: the flags of a list of results. -/
def allFlags (l : List FFlags) : FFlags := l.foldl flagsOr noFlags

end Sys2Proof.Machine
end

