-- ==== Sys2Proof/Machine/Operands.lean ====
section
/-!
DEFINITION. Sys2Proof/Machine/Operands.lean: the operand forms of the vector unit: elements and block scales in a register (R143 to
R145, R168), lengths (R147), masks and active elements (R152, R153), rounding (R39, R43) and results written element by
element.
-/

namespace Sys2Proof.Machine

/-- R143: element i of width w of a register. -/
def elemAt (v : BitVec 8192) (w i : Nat) : Nat := field v.toNat (w * i) w

/-- R144: the scale byte of block k of an MX register. -/
def scaleAt (v : BitVec 8192) (k : Nat) : Nat := elemAt v 8 (512 + k)

/-- Values of width w packed, the first in the lowest bits. -/
def packElems (w : Nat) : List Nat → Nat
  | [] => 0
  | x :: xs => x % 2 ^ w + 2 ^ w * packElems w xs

/-- R153: a register of elements of width w: element i is `f i` where that is given, else the old element. -/
def buildV (old : BitVec 8192) (w : Nat) (f : Nat → Option Nat) : BitVec 8192 :=
  BitVec.ofNat 8192 (packElems w ((List.range (8192 / w)).map fun i => (f i).getD (elemAt old w i)))

/-- R145: element 0 of width w written, the rest of the register unchanged. -/
def setElem0 (old : BitVec 8192) (w x : Nat) : BitVec 8192 := buildV old w fun i => if i = 0 then some x else none

/-- R147: VLMAX of a format. -/
def vlMax : Fmt → Nat
  | .fp64 | .int64 => 128
  | .fp32 | .int32 => 256
  | .fp16 | .bf16 | .int16 => 512
  | .e4m3 | .e5m2 | .int8 | .uint8 | .e8m0 => 1024
  | .mx8e4m3 | .mx8e5m2 => 512
  | .mxfp4 => 1024

/-- R146: the format VFMT names; code 0xF never stands in VFMT (R148). -/
def vfmtOf (x : Thread) : Fmt := (fmtOfCode x.vfmt.toNat).getD .fp64

/-- R34, R144: the exact value of element i of a register read in a format. -/
def vecVal (f : Fmt) (v : BitVec 8192) (i : Nat) : FVal :=
  elemVal f (if fmtIsMx f then scaleAt v (i / 32) else 0) (elemAt v (fmtBits f) i)

/-- R152, R153: whether element i is active: below the count n, and its mask bit is 1. -/
def activeAt (m : BitVec 1024) (n i : Nat) : Bool := decide (i < n) && m.getLsbD i

/-- The active elements below n, lowest first. -/
def actives (m : BitVec 1024) (n : Nat) : List Nat := (List.range n).filter (activeAt m n)

/-- R39, R43, R45, R150: the rounding of element i of a vector instruction, its inputs latched at hand-off. -/
def vecRound (x : Thread) (seed : Word) (rm : BitVec 3) (sat : Bool) (i : Nat) : RoundCtx :=
  { rm := resolveRm rm.toNat x.rm.toNat, sat := sat,
    draw := krg seed ((x.kbase.toNat + i) % 2 ^ 48) x.kstage.toNat }

/-- R49: CX_KRGSEED of a thread's context. -/
def seedOf (s : State) (x : Thread) : Word := (ctxOf s x.cx.toNat).seed

/-- R81, R152: the scoreboard entry of a mask register. Every M register carries a bit, M0 too: of all registers S0 alone has none, and
an instruction that writes M0 runs in full but for the discarded write. -/
def maskReg (m : BitVec 4) : List Reg := [.m m]

/-- R145, R160, R165: the second operand of a vector instruction: element i of Vb, or element 0 of Vb for every element. -/
def bIndex (scalar : Bool) (i : Nat) : Nat := if scalar then 0 else i

/-- R129, R156: the vector queue takes 4 entries. -/
def vecRoom (k : Core) : Bool := decide (k.vq.length < 4)

/-- R45, R150: a queue entry with what instruction `i` latches at its hand-off. -/
def latchVec (s : State) (c : Nat) (x : Thread) (i : Instr) (e : VEnt) : VEnt :=
  { e with
    instr := some i, hand := (coreOf s c).clk + 2, vl := x.vl, vfmt := x.vfmt, rm := x.rm, sat := x.sat, te := x.te,
    kstage := x.kstage, kbase := x.kbase, seed := seedOf s x, exm := x.exm }

/-- R150: a thread's registers as the pass of a queue entry sees them: VL, VFMT, NUM_CTL and NUM_KBASE as they were latched. -/
def asLatched (e : VEnt) (x : Thread) : Thread :=
  { x with vl := e.vl, vfmt := e.vfmt, rm := e.rm, sat := e.sat, te := e.te, kstage := e.kstage, kbase := e.kbase }

/-- R150: the state as the pass of a queue entry sees it: CX_KRGSEED of its context as it was latched. -/
def seedLatched (s : State) (c : Nat) (e : VEnt) : State :=
  let cx := (thOf s c e.t).cx.toNat
  setCtx s cx { ctxOf s cx with seed := e.seed }

/-- R75, R81, R156: vector instruction `i` handed off: its entry joins the queue and its destination's scoreboard bit is set; a full
queue makes the thread wait. Segment-buffer misses of its operands add `late` clocks (R299). -/
def handVec (s : State) (c t : Nat) (x : Thread) (dst : List Reg) (i : Instr) (e : VEnt) (late : Nat) : State :=
  let k := coreOf s c
  if !(vecRoom k) then goWait s c t x .unit 2
  else retire (setCore s c { k with vq := k.vq ++ [latchVec s c x i e] }) c t (dst.foldl markBusy x) (x.pc + 4#18) (2 + late)

end Sys2Proof.Machine
end

