-- ==== Sys2Proof/Machine/MatrixData.lean ====
section
/-!
DEFINITION. Sys2Proof/Machine/MatrixData.lean: what the matrix unit computes (R181 to R214): operand classes, banks and their
layout, the products of a row, the window of the block-replay path, accumulator entries, and read-out.
-/

namespace Sys2Proof.Machine

/-- R182: the operand classes. -/
inductive MClass where
  | h | e | x8 | x4 | i8 | s | d
  deriving DecidableEq, Repr

/-- R182: the class of a format code; none where MLOAD does not accept it. -/
def classOfFmt (f : Nat) : Option MClass :=
  match fmtOfCode f with
  | some .bf16 => some .h
  | some .fp16 => some .h
  | some .e4m3 => some .e
  | some .e5m2 => some .e
  | some .mx8e4m3 => some .x8
  | some .mx8e5m2 => some .x8
  | some .mxfp4 => some .x4
  | some .int8 => some .i8
  | some .fp32 => some .s
  | some .fp64 => some .d
  | _ => none

/-- R182: P. -/
def classP : MClass → Nat
  | .h => 1 | .e => 2 | .x8 => 2 | .x4 => 4 | .i8 => 2 | .s => 1 | .d => 1

/-- R182: q, the issue slots of a row. -/
def classQ : MClass → Nat
  | .s => 4 | .d => 32 | _ => 1

/-- R182: K of a dense row. -/
def classK (c : MClass) : Nat := 64 * classP c

/-- R182: the element width. -/
def classW : MClass → Nat
  | .h => 16 | .e => 8 | .x8 => 8 | .x4 => 4 | .i8 => 8 | .s => 32 | .d => 64

/-- R182: an MX class. -/
def classMx (c : MClass) : Bool := c == .x8 || c == .x4

/-- R182: the packed bytes of a streamed row, its scales left out. -/
def rowBytes (c : MClass) (sp : Bool) : Nat := classK c * classW c / 8 * (if sp then 2 else 1)

/-- R182, R184: the scale bytes of a streamed row. -/
def rowScales (c : MClass) (sp : Bool) : Nat := if classMx c then classK c / 32 * (if sp then 2 else 1) else 0

/-- R131: the bytes of a tile. -/
def tileBytes (c : MClass) : Nat := classK c * 128 * classW c / 8
/-- R131, R206: the bytes of the metadata. -/
def metaBytes (c : MClass) (sp : Bool) : Nat := if sp then classK c * 32 else 0
/-- R131: the bytes of the stationary scales. -/
def scaleBytes (c : MClass) (sp : Bool) : Nat := if classMx c then classK c * 4 * (if sp then 2 else 1) else 0
/-- R131: the load time in core clocks. -/
def loadClocks (c : MClass) (sp : Bool) : Nat := (tileBytes c + metaBytes c sp + scaleBytes c sp + 511) / 512

/-- R189: the fields of the configuration. -/
def cMode (k : MxCfg) : Bool := k.passcfg.getLsbD 0
/-- R189. -/
def cOp (k : MxCfg) : Nat := field k.passcfg.toNat 1 3
/-- R189. -/
def cOrd (k : MxCfg) : Bool := k.passcfg.getLsbD 4
/-- R189. -/
def cSkip (k : MxCfg) : Bool := k.passcfg.getLsbD 5
/-- R189. -/
def cRoute (k : MxCfg) : Bool := k.passcfg.getLsbD 6
/-- R189. -/
def cSfmt (k : MxCfg) : Nat := field k.passcfg.toNat 8 4
/-- R189. -/
def cAccbase (k : MxCfg) : Nat := field k.passcfg.toNat 12 8
/-- R189. -/
def cStride (k : MxCfg) : Nat := field k.sstride.toNat 0 24
/-- R189. -/
def cRows (k : MxCfg) : Nat := field k.rlrows.toNat 0 20
/-- R189. -/
def cIbase (k : MxCfg) : Nat := field k.roidx.toNat 0 48
/-- R189. -/
def cKey (k : MxCfg) : Nat := field k.roidx.toNat 48 8
/-- R189. -/
def cRdptr (k : MxCfg) : Nat := field k.rdcfg.toNat 0 8
/-- R189. -/
def cRstride (k : MxCfg) : Nat := field k.rdcfg.toNat 8 24
/-- R189. -/
def cKsteps (k : MxCfg) : Nat := field k.drain.toNat 0 8
/-- R189. -/
def cDfmt (k : MxCfg) : Nat := field k.drain.toNat 8 4
/-- R189. -/
def cDrm (k : MxCfg) : Nat := field k.drain.toNat 12 3
/-- R189. -/
def cDsat (k : MxCfg) : Bool := k.drain.getLsbD 15
/-- R189. -/
def cDso (k : MxCfg) : Nat := field k.drain.toNat 16 13
/-- R189. -/
def cDstride (k : MxCfg) : Nat := field k.dstride.toNat 0 24

/-- The class of a configuration's SFMT; an SFMT that names no class (it stands in no configuration that MCFG accepts) counts as
class D, the format of the reset value. -/
def cClass (k : MxCfg) : MClass := (classOfFmt (cSfmt k)).getD .d

/-- R27: FP64 vector work is active in a core: an instruction of its vector queue, or one whose write is to come, computes in FP64. -/
def fp64Vec (k : Core) : Bool :=
  (k.vq ++ k.vrun).any fun e => fmtOfCode e.vfmt.toNat == some .fp64 && (match e.kind with
    | .load _ _ _ => false
    | .store _ _ => false
    | _ => true)

/-- R27: FP64 matrix work is active in a core. -/
def fp64Mat (k : Core) : Bool :=
  match k.mx.pass with
  | some p => cSfmt p.cfg == 0
  | none => false

/-- R186: the accumulator form. -/
def cForm (k : MxCfg) : AccKind := if cSfmt k = 0 then .la64 else .la16

/-- R186: the capacity cap. -/
def formCap : AccKind → Nat
  | .la16 => 256
  | .la64 => 64

/-- R188, R202: the identity of an operation. -/
def opIdent (op : Nat) : Acc :=
  if op = 1 then { pinf := true } else if op = 2 then { ninf := true } else {}

/-- R195: the bank that is active at a clock: the roles now, with every later swap undone. -/
def activeBank (x : Matrix) (clk : Nat) : Bool := xor x.act ((x.swaps.filter fun s => decide (clk < s)).length % 2 == 1)

/-- One of the two banks. -/
def bankOf (x : Matrix) (b : Bool) : Bank := if b then x.bankB else x.bankA

/-- R191: the format of the latest MLOAD into a bank; none: no MLOAD has loaded it. -/
def bankFmt (b : Bank) : Option (BitVec 4) := b.loads.head?.map (·.fmt)

/-- R206: the latest MLOAD into a bank was SP24. -/
def bankSp (b : Bank) : Bool := (b.loads.head?.map (·.sp24)).getD false

/-- R195: the latest load of a bank that has begun writing it by a clock. -/
def loadAt (b : Bank) (clk : Nat) : Option BankLoad :=
  b.loads.find? fun l => match l.clks with
    | k :: _ => decide (k ≤ clk)
    | [] => false

/-- R131: a load has written the group of 512 bytes that holds bit `pos` by a clock. -/
def wroteBit (l : BankLoad) (pos clk : Nat) : Bool :=
  match l.clks[pos / 4096]? with
  | some k => decide (k ≤ clk)
  | none => false

/-- R131, R195: `len` bits from bit `pos` of a bank as they stand at a clock: of the latest load that has written them; the bits lie
within one group that one load clock writes. -/
def bankBits (b : Bank) (clk pos len : Nat) : Nat :=
  match b.loads.find? fun l => wroteBit l pos clk with
  | some l => field l.data pos len
  | none => 0

/-- R195: an older load's bytes seen past those that a newer one has written, as one load. -/
def mergeLoad (a b : BankLoad) : BankLoad :=
  let n := 4096 * a.clks.length
  { a with data := a.data + b.data / 2 ^ n * 2 ^ n, clks := a.clks ++ b.clks.drop a.clks.length }

/-- A bank whose earlier states no row can meet any more: one load that shows what it holds now. -/
def packBank (b : Bank) : Bank :=
  match b.loads with
  | [] => {}
  | l :: ls => { loads := [ls.foldl mergeLoad l] }

/-- R183, R206: the value that cell position `j` (stored value j of column n) holds at a clock, and the place of its streamed
element; `l` is the load whose format the bank then has. -/
def stationary (b : Bank) (l : BankLoad) (n j clk : Nat) : FVal × Nat :=
  let c := (classOfFmt l.fmt.toNat).getD .d
  let k := classK c
  let w := classW c
  let fm := (fmtOfCode l.fmt.toNat).getD .fp64
  let bits := bankBits b clk ((n * k + j) * w) w
  let t8 := tileBytes c * 8
  if l.sp24 then
    let lp := 4 * (j / 2) + bankBits b clk (t8 + 2 * (n * k + j)) 2
    let sc := if classMx c then bankBits b clk (t8 + metaBytes c true * 8 + 8 * (n * (2 * k / 32) + lp / 32)) 8 else 0
    (elemVal fm sc bits, lp)
  else
    let sc := if classMx c then bankBits b clk (t8 + 8 * (n * (k / 32) + j / 32)) 8 else 0
    (elemVal fm sc bits, j)

/-- R195: the pairs that positions `js` of a bank form in lane n at a clock with the elements of a row of class `cls`: none where
they contribute exact zero. -/
def bankPairs (b : Bank) (cls : MClass) (vals : List FVal) (n clk : Nat) (js : List Nat) : List (Option (FVal × FVal)) :=
  match loadAt b clk with
  | none => js.map fun _ => none
  | some l =>
    if classOfFmt l.fmt.toNat = some cls then
      js.map fun j =>
        let (w, e) := stationary b l n j clk
        some (vals.getD e fZero, w)
    else js.map fun _ => none

/-- R195: what cell row k meets in lane n for a row that begins at clock `first`: pairs of a streamed element and a stationary
value. -/
def cellPairs (x : Matrix) (cls : MClass) (vals : List FVal) (n k clk : Nat) : List (Option (FVal × FVal)) :=
  bankPairs (bankOf x (activeBank x clk)) cls vals n clk ((List.range (classP cls)).map fun p => classP cls * k + p)

/-- R195: every pair of a row in lane n, in element order. -/
def rowPairs (x : Matrix) (r : MxRow) (n : Nat) : List (Option (FVal × FVal)) :=
  ((List.range 64).map fun k => cellPairs x (cClass r.cfg) r.vals n k (r.first + k)).flatten

/-- R212, R213: the term of L1 or L2. -/
def distTerm (sq : Bool) (a w : FVal) : FVal × Bool :=
  if fIsSnan a || fIsSnan w then (fZero, true)
  else if fIsNan a || fIsNan w then (defaultNan, false)
  else
    let (d, g) := addVal .rne a (negVal w)
    if g.nnv then (fZero, true)
    else if sq then ((mulVal d d).1, false) else (fSetSign false d, false)

/-- R213: the term of MINPLUS or MAXPLUS. -/
def plusTerm (a w : FVal) : FVal × Bool :=
  if fIsSnan a || fIsSnan w then (fZero, true)
  else if fIsNan a || fIsNan w then (defaultNan, false)
  else
    let (d, g) := addVal .rne a w
    if g.nnv then (fZero, true) else (d, false)

/-- R214: an entry's held value. -/
def entryVal (k : AccKind) (a : Acc) : FVal :=
  if a.pinf then .inf false else if a.ninf then .inf true else accVal k a

/-- R214: a value put into an entry in place of the one it holds; NAN and INV are sticky. -/
def setEntry (k : AccKind) (a : Acc) (v : FVal) : Acc :=
  { accAdd k { anan := a.anan, inv := a.inv } v with anan := a.anan, inv := a.inv }

/-- R212 to R214: one term combined into an entry. -/
def combineTerm (op : Nat) (k : AccKind) (a : Acc) (p : Option (FVal × FVal)) : Acc :=
  match op with
  | 0 => match p with
    | some (x, w) => accAddProd k a x w
    | none => a
  | 3 | 4 => match p with
    | some (x, w) =>
      let (t, bad) := distTerm (op == 4) x w
      if bad then { a with inv := true } else accAdd k a t
    | none => a
  | 5 => match p with
    | some (x, w) => if !(fIsNan x) && !(fIsNan w) && cmpVal x w == .gt then accAdd k a (fOfInt 1) else a
    | none => a
  | _ =>
    let (t, bad) := match p with
      | some (x, w) => plusTerm x w
      | none => (fZero, false)
    if bad then { a with inv := true }
    else if fIsNan t then { a with anan := true }
    else
      let o := cmpVal t (entryVal k a)
      if (op == 1 && o == .lt) || (op == 2 && o == .gt) then setEntry k a t else a

/-- R213: a signalling NaN under CMPCNT sets MNV. -/
def cmpcntNv (op : Nat) (ps : List (Option (FVal × FVal))) : FFlags :=
  { nnv := op == 5 && ps.any fun p => match p with
      | some (x, w) => fIsSnan x || fIsSnan w
      | none => false }

/-- R202: the format an ordered entry holds. -/
def ordFmt : AccKind → FloatFmt
  | .la16 => ffFp32
  | .la64 => ffFp64

/-- R202: one product added to an ordered entry, rounded to nearest even. -/
def ordAdd (k : AccKind) (s : Nat) (p : Option (FVal × FVal)) : Nat × FFlags :=
  let ff := ordFmt k
  let a := floatVal ff s
  let rc : RoundCtx := { rm := .rne, sat := true, draw := 0 }
  match p with
  | none => toFloat ff rc false (withNans [a] (addVal .rne a fZero)).1
  | some (x, w) =>
    match firstNan [a, x, w] with
    | some _ => (canonNan ff, { nnv := [a, x, w].any fIsSnan })
    | none =>
      let (q, g) := mulVal x w
      if g.nnv then (canonNan ff, flagNv)
      else
        let (v, g) := addVal .rne a q
        let (r, g') := toFloat ff rc false v
        (r, flagsOr g g')

/-- R187, R202, R212: what a row adds to the entry of lane n: the new entry and the flags. -/
def rowInto (x : Matrix) (r : MxRow) (n : Nat) (a : Acc) : Acc × FFlags :=
  let ps := rowPairs x r n
  let form := cForm r.cfg
  if cOrd r.cfg then
    let (v, g) := ps.foldl (fun st p =>
      let (v, g) := ordAdd form st.1 p
      (v, flagsOr st.2 g)) (a.mag.natAbs, noFlags)
    ({ mag := (v : Int) }, g)
  else (ps.foldl (combineTerm (cOp r.cfg) form) a, cmpcntNv (cOp r.cfg) ps)

/-- R198: top and lsb of a term: none where it is zero, infinite or NaN. -/
def termSpan (op : Nat) (p : Option (FVal × FVal)) : Option (Int × Int) :=
  match p with
  | some (.fin s n e, .fin t m f) =>
    match op with
    | 0 => if n = 0 || m = 0 then none
        else some ((Nat.log2 n : Int) + e + Nat.log2 m + f + 2, e + f)
    | 3 | 4 =>
      match (addVal .rne (.fin s n e) (.fin (!t) m f)).1 with
      | .fin _ d u =>
        if d = 0 then none
        else
          let top : Int := (Nat.log2 d : Int) + u + 1
          let lsb := minExp e f
          if op = 4 then some ((Nat.log2 (d * d) : Int) + 2 * u + 1, 2 * lsb) else some (top, lsb)
      | _ => none
    | _ => none
  | _ => none

/-- R199: W. -/
def windowW (c : MClass) : Int := if c = .s || c = .d then 192 else 96

/-- R199: whether a block of terms fails the fast path. -/
def blockFails (w : Int) (op : Nat) (ps : List (Option (FVal × FVal))) : Bool :=
  let sp := ps.filterMap (termSpan op)
  match sp with
  | [] => false
  | b :: bs =>
    let t := bs.foldl (fun m s => max m s.1) b.1
    sp.any fun s => decide (s.2 < t + 7 - w)

/-- The blocks of 64 of a list (R198), `fuel` of them at most. -/
def blocks64 {α : Type} : Nat → List α → List (List α)
  | 0, _ => []
  | n + 1, l => if l.isEmpty then [] else l.take 64 :: blocks64 n (l.drop 64)

/-- R200, R201, R202, R212: operations and classes that can take the block-replay path. -/
def canReplay (k : MxCfg) : Bool := !(cOrd k) && cClass k != .i8 && (cOp k == 0 || cOp k == 3 || cOp k == 4)

/-- R198: the pairs of a row with the bank active at the pass's row 0, as it stands at the row's first slot, in lane n. -/
def prepassPairs (x : Matrix) (k : MxCfg) (vals : List FVal) (bank0 : Bool) (first n : Nat) : List (Option (FVal × FVal)) :=
  bankPairs (bankOf x bank0) (cClass k) vals n first (List.range (classK (cClass k)))

/-- R198, R200: whether a row takes the block-replay path: in some lane, a block of its products fails R199. -/
def rowReplays (x : Matrix) (k : MxCfg) (vals : List FVal) (bank0 : Bool) (first : Nat) : Bool :=
  canReplay k && (List.range 128).any fun n =>
    (blocks64 8 (prepassPairs x k vals bank0 first n)).any (blockFails (windowW (cClass k)) (cOp k))

/-- R195: a swap or a load falls within the clocks in which a row crosses the cells. -/
def rowCrossed (x : Matrix) (r : MxRow) : Bool :=
  let within (k : Nat) : Bool := decide (r.first < k) && decide (k ≤ r.first + 63)
  x.swaps.any within || ((x.bankA.loads ++ x.bankB.loads).any fun l => l.clks.any within)

/-- R197: whether a row meets, through a swap or a load under way, stationary values whose products leave the window that its
prepass chose. -/
def rowExposed (x : Matrix) (r : MxRow) : Bool :=
  canReplay r.cfg && !r.replay && rowCrossed x r && (List.range 128).any fun n =>
    (List.zip (blocks64 8 (rowPairs x r n)) (blocks64 8 (prepassPairs x r.cfg r.vals r.bank0 r.first n))).any fun q =>
      q.1 != q.2 &&
        let sp := q.2.filterMap (termSpan (cOp r.cfg))
        match sp with
        | [] => !(q.1.filterMap (termSpan (cOp r.cfg))).isEmpty
        | s :: ss =>
          let t := ss.foldl (fun m s => max m s.1) s.1
          (q.1.filterMap (termSpan (cOp r.cfg))).any fun s =>
            decide (t < s.1) || decide (s.2 < t + 7 - windowW (cClass r.cfg))

/-- R186, R188: entry e of lane n. -/
def entryAt (x : Matrix) (e n : Nat) : Acc := tabGet x.ident x.acc (e * 128 + n)

/-- R196: a row's contribution reaches its entry in every lane. -/
def landRow (x : Matrix) (r : MxRow) : Matrix × FFlags :=
  (List.range 128).foldl (fun st n =>
    let (a, g) := rowInto x r n (entryAt st.1 r.e n)
    ({ st.1 with acc := tabSet st.1.acc (r.e * 128 + n) a }, flagsOr st.2 g)) (x, noFlags)

/-- R204: a row to be drained, after those due no later. -/
def addDrain (l : List MxDrain) (d : MxDrain) : List MxDrain :=
  (l.filter fun e => decide (e.due ≤ d.due)) ++ [d] ++ (l.filter fun e => !(decide (e.due ≤ d.due)))

/-- R197, R204: rows whose last element has crossed the cells 8 clocks before a clock: those that met values which left their window
arrive 4 q clocks later, and their drains with them. -/
def judgeRows (x : Matrix) (clk : Nat) : Matrix :=
  if x.rows.any fun r => !r.judged && decide (r.last + 72 ≤ clk) then
    let rows := x.rows.map fun r =>
      if r.judged || !(decide (r.last + 72 ≤ clk)) then r
      else { r with judged := true, final := r.last + 72 + (if rowExposed x r then 4 * classQ (cClass r.cfg) else 0) }
    let due (d : MxDrain) : Nat := (rows.filter fun r => r.id == d.id && r.e == d.e).foldl (fun a r => max a (r.final + 1)) d.due
    { x with rows := rows, drains := (x.drains.map fun d => { d with due := due d }).foldl addDrain [] }
  else x

/-- R52: flags collected for the pass of a row. -/
def passFlags (l : List MxEnd) (id : Nat) (f : BitVec 4) : List MxEnd :=
  l.map fun e => if e.id = id then { e with flags := e.flags ||| f } else e

/-- R52, R196: every row that is final by a clock has reached its entry; the flags collect for its pass. -/
def landRows (x : Matrix) (clk : Nat) : Matrix :=
  let j := judgeRows x clk
  let y := (j.rows.filter fun r => decide (r.final ≤ clk)).foldl (fun y r =>
    let (z, g) := landRow y r
    { z with ends := passFlags z.ends r.id (engBits g) }) j
  { y with rows := j.rows.filter fun r => !(decide (r.final ≤ clk)) }

/-- R64, R202, R203: an entry read out to a format. -/
def readEntry (ord : Bool) (k : AccKind) (a : Acc) (f : Fmt) (rc : RoundCtx) : Nat × FFlags :=
  if ord then
    match floatVal (ordFmt k) a.mag.natAbs with
    | .fin s n e => if n = 0 then (0, noFlags) else toElem f rc false (.fin s n e)
    | v => toElem f rc false v
  else accReadOut k a f rc

/-- R203: whether a read-out target is allowed. -/
def readOutOk (form : AccKind) (ord : Bool) (f : Nat) : Bool :=
  match form, fmtOfCode f with
  | .la64, some .fp64 => true
  | .la16, some .fp32 => true
  | .la16, some .bf16 => true
  | .la16, some .fp16 => true
  | .la16, some .e4m3 => true
  | .la16, some .e5m2 => true
  | .la16, some .int32 => !ord
  | .la16, some .int8 => !ord
  | _, _ => false

/-- R43, R203, R204: the rounding of one read-out element, its KRG index counted by `row`. -/
def readRound (k : MxCfg) (seed : Word) (rm : Rm) (sat : Bool) (row lane : Nat) : RoundCtx :=
  { rm := rm, sat := sat, draw := krg seed ((cIbase k + row * cRstride k + lane) % 2 ^ 48) (cKey k) }

/-- R203: the entries that one MRD reads. -/
def mrdRows (f : Fmt) : Nat := 64 / fmtBits f

/-- R203: what MRD writes to Vd, and its flags. -/
def mrdValue (x : Matrix) (f : Fmt) (seed : Word) (rm : Rm) (sat : Bool) : BitVec 8192 × FFlags :=
  let form := cForm x.cfg
  let cap := formCap form
  let one (i : Nat) :=
    let e := (x.rdptr + i / 128) % cap
    readEntry (cOrd x.cfg) form (entryAt x e (i % 128)) f (readRound x.cfg seed rm sat e (i % 128))
  let l := (List.range (mrdRows f * 128)).map one
  (BitVec.ofNat 8192 (packElems (fmtBits f) (l.map (·.1))), allFlags (l.map (·.2)))

/-- R190: the defects of a configuration block that MCFG refuses. -/
def cfgBad (k : MxCfg) : Bool :=
  bitAt k.passcfg.toNat 7 || field k.passcfg.toNat 20 44 != 0 || field k.sstride.toNat 24 40 != 0
    || field k.rlrows.toNat 20 44 != 0 || field k.roidx.toNat 56 8 != 0 || field k.rdcfg.toNat 32 32 != 0
    || field k.drain.toNat 29 35 != 0 || field k.dstride.toNat 24 40 != 0
    || decide (6 ≤ cOp k) || classOfFmt (cSfmt k) == none
    || (cOrd k && (cOp k != 0 || cSfmt k == 0xA))
    || (cOp k != 0 && classOfFmt (cSfmt k) != some .h)
    || (cSkip k && cRoute k) || ((cSkip k || cRoute k) && cMode k)
    || cStride k % 64 != 0 || cDstride k % 64 != 0
    || (cKsteps k != 0 && !(readOutOk (cForm k) (cOrd k) (cDfmt k)))

/-- R189: the configuration block of eleven words. -/
def cfgOfWords (w : Nat → Word) : MxCfg :=
  { passcfg := w 0, sstride := w 1, sscale := w 2, rladdr := w 3, rlrows := w 4, zmap := w 5, roidx := w 6,
    rdcfg := w 7, drain := w 8, daddr := w 9, dstride := w 10 }

end Sys2Proof.Machine
end

