-- ==== Sys2Proof/Machine/Matrix.lean ====
section
/-!
DEFINITION. Sys2Proof/Machine/Matrix.lean: the matrix instructions at their hand-off (R126 to R133, R184, R189 to R194) and the events
of the matrix unit: effects, rows, checks, drains, suspension and the clear at a change of world (R128, R129, R192 to R219).
-/

namespace Sys2Proof.Machine

/-- R217: a pass of thread t is suspended. -/
def mxSuspended (k : Core) (t : Nat) : Bool :=
  match k.mx.pass with
  | some p => p.susp && p.t == t
  | none => false

/-- R128: the matrix unit as thread t of world w acquires it: the configuration that hand-offs are checked against is reset at a
change of world, and the unit is to be cleared. -/
def mxAcquire (m : Matrix) (t : Nat) (w : World) : Matrix :=
  if m.owner = some t then m
  else
    let n := { m with owner := some t, passHanded := false }
    match m.world with
    | none => { n with world := some w }
    | some v => if v = w then n
        else { n with world := some w, clearing := true, hcfg := {}, hkcount := 0 }

/-- R191: the format of the bank that will be active, as the hand-offs leave it; none while a clear is under way. -/
def handFmt (m : Matrix) : Option (BitVec 4) := if m.clearing then none else bankFmt (bankOf m m.hact)

/-- R206: that bank was loaded with SP24. -/
def handSp (m : Matrix) : Bool := !m.clearing && bankSp (bankOf m m.hact)

/-- R490: the matrix cell columns of a core's die are powered. -/
def columnsOn (s : State) (c : Nat) : Bool := s.power.domOn.getLsbD (7 + c / 64)

/-- R491: a matrix hand-off asks for the columns of its die. -/
def askColumns (s : State) (c : Nat) : State :=
  { s with power := { s.power with domReq := s.power.domReq ||| (1#20 <<< (7 + c / 64)) } }

/-- R108, R113, R127, R128, R217, R396, R491: what every matrix instruction meets at its hand-off; `body` sees the thread and the unit as the
thread acquires it. An instruction that a thread hands off behind an MREL of its own waits until that MREL has taken effect (DESIGN
CHOICE, entry 122: the spec does not say). -/
def mxHand (c : BitVec 8) (regs : List Reg) (reserved : Bool) (body : Nat → Thread → Matrix → State → State)
    (s : State) : State :=
  issue c 4#18 regs (fun t x s =>
    let k := coreOf s c.toNat
    if reserved || k.ilv || mxSuspended k t then illop s c.toNat t x 4#18 2
    else if !(columnsOn s c.toNat) then goWait (askColumns s c.toNat) c.toNat t x .unit 2
    else if vecStorePending k t || s.steep.forced then goWait s c.toNat t x .unit 2
    else if (match k.mx.owner with | some o => o != t | none => false)
        || (k.mx.q.any fun e => e.t == t && e.kind == .mrel) then goWait s c.toNat t x .unit 2
    else body t x (mxAcquire k.mx t (worldOf k t)) s) s

/-- R134: the latest SPASS handed off on a core. -/
def latestSpass (k : Core) : Option Nat := if k.se.nextId = 0 then none else some (k.se.nextId - 1)

/-- R129, R136: an instruction handed to the matrix queue of 4 entries; `m` is the unit to be left, the entry added. A WAIT counts
from the last row of an MPASS queued since the unit was acquired. -/
def mxPush (s : State) (c t : Nat) (x : Thread) (m : Matrix) (kind : MxKind) (wait : Nat) (mark : List Reg) : State :=
  let k := coreOf s c
  if decide (4 ≤ m.q.length + b2n m.pass.isSome) then goWait s c t x .unit 2
  else
    let isPass := match kind with | .mpass _ _ _ _ => true | _ => false
    let e : MxEnt :=
      { t := t, kind := kind, wait := if isPass || m.passHanded then wait else 0, handoff := k.clk + 2,
        seed := seedOf s x, dyn := x.rm.toNat, spass := latestSpass k, pred := none }
    retire (setMx s c { m with q := m.q ++ [e], passHanded := m.passHanded || isPass }) c t (mark.foldl markBusy x)
      (x.pc + 4#18) 2

/-- R184: a fault of a matrix operand: taken, or nothing and counted. -/
def mxFault (s : State) (c t : Nat) (x : Thread) (cause addr : Nat) : State :=
  raise s c t x cause (BitVec.ofNat 64 addr) 2 (dropIt s c t x 4#18 2)

/-- R131: the ranges an MLOAD reads: tile, then metadata and scales, as address and length. -/
def mloadRanges (cls : MClass) (sp : Bool) (sa sb : Nat) : List (Nat × Nat) :=
  let extra := metaBytes cls sp + scaleBytes cls sp
  (sa, tileBytes cls) :: (if extra = 0 then [] else [(sb, extra)])

/-- R131: where the loader finds n bytes from `va` on: LOCAL address and length of each piece. -/
def loadPieces (s : State) (c t : Nat) (rs : List (Nat × Nat)) : List (Nat × Nat) :=
  (rs.map fun r => (pieces r.1 r.2).filterMap fun p => (unitSpad s c t [rRD] p.1 p.2).map fun a => (a, p.2)).flatten

/-- R131, R194, R195: the unit with a load begun into the bank that the queued swaps leave in the shadow role; what the bank held
before stays to be seen by rows on their way and in bytes that the load has not written. -/
def beginLoad (m : Matrix) (t : Nat) (fmt : BitVec 4) (sp : Bool) (src : List (Nat × Nat)) (handoff clocks : Nat) : Matrix :=
  let b := !m.hact
  let old := if m.rows.isEmpty && m.pass.isNone then packBank (bankOf m b) else bankOf m b
  let nb : Bank := { loads := { fmt := fmt, sp24 := sp, data := 0, clks := [] } :: old.loads }
  let n := { m with loading := some b, loadEnd := handoff + clocks, loadSrc := src, loadT := t, loadPoison := false }
  if b then { n with bankB := nb } else { n with bankA := nb }

/-- R131, R194: MLOAD. -/
def execMload (c : BitVec 8) (a b : BitVec 5) (fmt : BitVec 4) (sp24 : Bool) (rsv11 : BitVec 11) (s : State) : Out :=
  .next (mxHand c [.s a, .s b] (rsv11 != 0#11) (fun t x m s =>
    match classOfFmt fmt.toNat with
    | none => illop s c.toNat t x 4#18 2
    | some cls =>
      if sp24 && (cls == .s || cls == .d) then illop s c.toNat t x 4#18 2
      else if m.clearing then goWait (setMx s c.toNat m) c.toNat t x .unit 2
      else if m.loading.isSome || (m.q.any fun e => e.kind == .mswap) then goWait s c.toNat t x .unit 2
      else
        let rs := mloadRanges cls sp24 (getS x a).toNat (getS x b).toNat
        match rs.find? fun r => r.1 % 64 != 0 with
        | some r => mxFault s c.toNat t x cAlignf r.1
        | none =>
          let s := unitTouch s c.toNat t [rRD] rs
          match firstRangeFail s c.toNat t [rRD] rs with
          | some va => mxFault s c.toNat t x cSegf va
          | none => multiOr s c.toNat t x rs fun s =>
            let m1 := beginLoad m t fmt sp24 (loadPieces s c.toNat t rs) ((coreOf s c.toNat).clk + 2) (loadClocks cls sp24)
            retire (setMx s c.toNat m1) c.toNat t x (x.pc + 4#18) 2) s)

/-- R131, R218: MLOAD_LOAD_END: the loader has read its last bytes and is free; it is not while a poisoned word keeps it waiting
(R421). -/
def execMloadLoadEnd (c : BitVec 8) (s : State) : Out :=
  match (coreOf s c.toNat).mx.loading with
  | none => .next s
  | some _ =>
    let clk := max (coreOf s c.toNat).clk (coreOf s c.toNat).mx.loadEnd
    let s1 := catchUpTo s c.toNat (clk + 1)
    let k := coreOf s1 c.toNat
    if !k.mx.loadSrc.isEmpty then .next s1
    else
      let s2 := setCore s1 c.toNat { k with clk := clk, mx := { k.mx with loading := none, loadPoison := false } }
      .next (wake (if k.mx.loadPoison then unitPoisoned s2 c.toNat k.mx.loadT else s2) c.toNat)

/-- R184: the bytes between streamed rows. -/
def rowStride (k : MxCfg) (sp : Bool) : Nat := if cStride k = 0 then rowBytes (cClass k) sp else cStride k

/-- R210: route entry j of a list at `va`, as the scratchpad holds it. -/
def routeEntry (s : State) (c t : Nat) (va j : Nat) : Nat := leNat (unitRead s c t (va + 4 * j) 4)

/-- R210: SRC and DEST of a route entry. -/
def rtSrc (e : Nat) : Nat := field e 0 20
/-- R210. -/
def rtDest (e : Nat) : Nat := field e 20 8

/-- R204: bytes of a drained row. -/
def drainBytes (k : MxCfg) : Nat := 128 * fmtBits ((fmtOfCode (cDfmt k)).getD .fp64) / 8

/-- R204: where drained row d goes. -/
def drainAddr (k : MxCfg) (d : Nat) : Nat :=
  (k.daddr.toNat + d * (if cDstride k = 0 then drainBytes k else cDstride k)) % 2 ^ 64

/-- R210: whether entry j of the route list at `va`, for rows below `rows`, contributes: its SRC is in range, its reserved bits are
zero and no lower-numbered entry is equal in SRC and DEST. The second part says that such an entry is a duplicate. -/
def routeCounts (s : State) (c t va rows j : Nat) : Bool × Bool :=
  let e := routeEntry s c t va j
  let dup := (List.range j).any fun i => field (routeEntry s c t va i) 0 28 == field e 0 28
  (decide (rtSrc e < rows) && field e 28 4 == 0 && !dup, dup)

/-- R204: the drained rows of a pass of n rows: with a route list, those of the entries that contribute. -/
def drainOffsets (s : State) (c t : Nat) (k : MxCfg) (n : Nat) : List Nat :=
  if cRoute k then
    ((List.range n).filter fun j => (routeCounts s c t k.rladdr.toNat (cRows k) j).1).map fun j =>
      rtDest (routeEntry s c t k.rladdr.toNat j)
  else List.range n

/-- R204: the ranges that the drain of a pass of n rows writes. -/
def drainRanges (s : State) (c t : Nat) (k : MxCfg) (n : Nat) : List (Nat × Nat) :=
  (drainOffsets s c t k n).map fun d => (drainAddr k d, drainBytes k)

/-- R184: the streamed rows of an MPASS of n rows, as one range. -/
def mpassSpan (k : MxCfg) (sp : Bool) (sa n : Nat) : Nat × Nat :=
  let rows := if cRoute k then cRows k else n
  (sa, if n = 0 || rows = 0 then 0 else (rows - 1) * rowStride k sp + rowBytes (cClass k) sp)

/-- R184: the other operands of an MPASS of n rows: scales, zero map and route list. -/
def mpassSide (k : MxCfg) (sp : Bool) (n : Nat) : List (Nat × Nat) :=
  let rows := if cRoute k then cRows k else n
  if n = 0 then []
  else (if classMx (cClass k) then [(k.sscale.toNat, rows * rowScales (cClass k) sp)] else [])
    ++ (if cSkip k then [(k.zmap.toNat, ((n + 15) / 16 + 7) / 8)] else [])
    ++ (if cRoute k then [(k.rladdr.toNat, 4 * n)] else [])

/-- R184: the cause with which the operands of an MPASS of n rows fail step 2 or 3 of the hand-off check. -/
def mpassFails (s : State) (c t : Nat) (k : MxCfg) (sp : Bool) (sa n : Nat) : Option Nat :=
  let span := mpassSpan k sp sa n
  match if cRoute k then readFail s c t span.1 span.2 else (spadFail s c t [rRD] span.1 span.2).map fun _ => cSegf with
  | some e => some e
  | none => (firstRangeFail s c t [rRD] (mpassSide k sp n)).map fun _ => cSegf

/-- R191: what makes an MPASS of n rows raise ILLOP. -/
def mpassBad (m : Matrix) (n : Nat) : Bool :=
  (match handFmt m with
    | some f => classOfFmt f.toNat != some (cClass m.hcfg)
    | none => false)
  || (cOp m.hcfg != 0 && handSp m) || (cRoute m.hcfg && decide (4096 < n))

/-- R204: the K-step count after one more pass, and whether that pass drains. -/
def kstep (k : MxCfg) (count : Nat) : Nat × Bool :=
  if cKsteps k = 0 then (count, false)
  else if count + 1 = cKsteps k then (0, true) else (count + 1, false)

/-- A full matrix queue makes the hand-off wait, before any distance is judged. -/
def mxRoom (m : Matrix) : Bool := decide (m.q.length + b2n m.pass.isSome < 4)

/-- R184, R191: MPASS. -/
def execMpass (c : BitVec 8) (a b : BitVec 5) (wait : BitVec 7) (sref : Bool) (rsv8 : BitVec 8) (s : State) : Out :=
  .next (mxHand c [.s a, .s b] (rsv8 != 0#8) (fun t x m s =>
    let n := field (getS x b).toNat 0 24
    let sa := (getS x a).toNat
    let ks := kstep m.hcfg m.hkcount
    if mpassBad m n then illop s c.toNat t x 4#18 2
    else if sa % 64 != 0 then mxFault s c.toNat t x cAlignf sa
    else if !(mxRoom m) then goWait s c.toNat t x .unit 2
    else
      let ins := mpassSpan m.hcfg (handSp m) sa n :: mpassSide m.hcfg (handSp m) n
      let s := unitTouch s c.toNat t [rRD] ins
      match mpassFails s c.toNat t m.hcfg (handSp m) sa n with
      | some e => mxFault s c.toNat t x e sa
      | none =>
        let outs := if ks.2 then drainRanges s c.toNat t m.hcfg n else []
        let s := unitTouch s c.toNat t [rWR] outs
        if (firstRangeFail s c.toNat t [rWR] outs).isSome then mxFault s c.toNat t x cSegf sa
        else multiOr s c.toNat t x (ins ++ outs) fun s =>
          mxPush s c.toNat t x { m with hkcount := ks.1 } (.mpass (getS x a) n sref ks.2) wait.toNat []) s)

/-- R132, R133: the exposure of a hand-off: the kind and the clocks by which the distance falls short; the larger shortfall, kind 1
where they are equal. -/
def worseExposure (l : List (Nat × Nat)) : Option (Nat × Nat) :=
  match l with
  | [] => none
  | e :: es => some (es.foldl (fun b f => if b.2 < f.2 then f else b) e)

/-- R132: EXPOSE at the instruction, with XEXP; under mask the instruction is queued and the outcome counted. -/
def exposeOr (s : State) (c t : Nat) (x : Thread) (e : Option (Nat × Nat)) (go : Thread → State → State) : State :=
  match e with
  | none => go x s
  | some (kind, short) =>
    if x.exm then go (addDrop x 1) (setDropped s (worldOf (coreOf s c) t))
    else enter s c t { x with xexpKind := BitVec.ofNat 3 kind, xexpShort := BitVec.ofNat 8 (min short 0xFF) } cExpose
      0#64 x.pc 0#18 2

/-- R132: the shortfall of a WAIT against the latest earlier MPASS. -/
def waitShort (m : Matrix) (kind least wait : Nat) : List (Nat × Nat) :=
  if m.passHanded && decide (wait < least) then [(kind, least - wait)] else []

/-- R132, R195: MSWAP. -/
def execMswap (c : BitVec 8) (wait : BitVec 7) (rsv10 : BitVec 10) (s : State) : Out :=
  .next (mxHand c [] (rsv10 != 0#10) (fun t x m s =>
    let h := (coreOf s c.toNat).clk + 2
    if !(mxRoom m) then goWait s c.toNat t x .unit 2
    else exposeOr s c.toNat t x (worseExposure (waitShort m 1 64 wait.toNat
        ++ (if m.loading.isSome && decide (h < m.loadEnd) then [(2, m.loadEnd - h)] else [])))
      (fun x s => mxPush s c.toNat t x { m with hact := !m.hact } .mswap wait.toNat [])) s)

/-- R132, R188: MZERO. -/
def execMzero (c : BitVec 8) (wait : BitVec 7) (rsv10 : BitVec 10) (s : State) : Out :=
  .next (mxHand c [] (rsv10 != 0#10) (fun t x m s =>
    if !(mxRoom m) then goWait s c.toNat t x .unit 2
    else exposeOr s c.toNat t x (worseExposure (waitShort m 4 72 wait.toNat))
      (fun x s => mxPush s c.toNat t x m .mzero wait.toNat [])) s)

/-- R189, R190: MCFG. -/
def execMcfg (c : BitVec 8) (a : BitVec 5) (wait : BitVec 7) (rsv10 : BitVec 10) (s : State) : Out :=
  .next (mxHand c [.s a] (rsv10 != 0#10 || wait != 0#7) (fun t x m s =>
    let sa := (getS x a).toNat
    if sa % 8 != 0 then mxFault s c.toNat t x cAlignf sa
    else if !(mxRoom m) then goWait s c.toNat t x .unit 2
    else
      let s := unitTouch s c.toNat t [rRD] [(sa, 88)]
      match spadFail s c.toNat t [rRD] sa 88 with
      | some va => mxFault s c.toNat t x cSegf va
      | none => multiOr s c.toNat t x [(sa, 88)] fun s =>
          let ws := wordsOf 11 (unitRead s c.toNat t sa 88)
          let cfg := cfgOfWords fun i => ws.getD i 0#64
          let go (x : Thread) (s : State) : State :=
            if cfgBad cfg then illop s c.toNat t x 4#18 2
            else mxPush s c.toNat t x
              { m with hcfg := cfg, hkcount := if cKsteps cfg = cKsteps m.hcfg then m.hkcount else 0 } (.mcfg cfg) 0 []
          if unitPoison s c.toNat t sa 88 then
            onPoison s c.toNat t x sa false 2 (go (addDrop x 1) (setDropped s (worldOf (coreOf s c.toNat) t)))
          else go x s) s)

/-- R128: MREL. -/
def execMrel (c : BitVec 8) (wait : BitVec 7) (rsv10 : BitVec 10) (s : State) : Out :=
  .next (mxHand c [] (rsv10 != 0#10 || wait != 0#7) (fun t x m s => mxPush s c.toNat t x m .mrel 0 []) s)

/-- R132, R203: MRD. -/
def execMrd (c : BitVec 8) (vd : BitVec 5) (tfmt : BitVec 4) (sat : Bool) (rm : BitVec 3) (wait : BitVec 7)
    (rsv6 : BitVec 6) (s : State) : Out :=
  .next (mxHand c [.v vd] (rsv6 != 0#6) (fun t x m s =>
    if !(readOutOk (cForm m.hcfg) (cOrd m.hcfg) tfmt.toNat) then illop s c.toNat t x 4#18 2
    else if !(mxRoom m) then goWait s c.toNat t x .unit 2
    else exposeOr s c.toNat t x (worseExposure (waitShort m 3 72 wait.toNat))
      (fun x s => mxPush s c.toNat t x m (.mrd vd tfmt sat (resolveRm rm.toNat x.rm.toNat)) wait.toNat [.v vd])) s)

/-- R129: the effect clock of the entry at the head of the queue; none while the stream pass it names has not made its final
write. -/
def effectClock (k : Core) (e : MxEnt) : Option Nat :=
  let m := k.mx
  let prev := m.lastEnd.getD e.handoff
  let first := max (e.handoff + 1) (prev + 1)
  match e.kind with
  | .mpass _ _ sref _ =>
    match if sref then e.spass else none with
    | some id => match tabFind k.se.doneAt fun n _ => n == id with
      | some (_, w) => some (max first (w + max e.wait 1))
      | none => none
    | none => some (max first (prev + max e.wait 1))
  | .mcfg _ => some first
  | .mrel => some first
  | _ => match m.lastRow with
    | some l => some (max first (l + e.wait))
    | none => some first

/-- R52: nothing of a pass is on its way any more: it has issued, every row has reached its entry and every drained row is written. -/
def passDone (m : Matrix) (e : MxEnd) : Bool :=
  !(m.rows.any fun r => r.id == e.id) && !(m.drains.any fun d => d.id == e.id)
    && (match m.pass with | some p => p.id != e.id | none => true)

/-- R52: the flags of a pass ORed into its thread's NUM_FLAGS, unless it was abandoned (R215). -/
def giveFlags (s : State) (c : Nat) (e : MxEnd) : State :=
  if e.quiet then s
  else
    let x := thOf s c e.t
    setTh s c e.t { x with nflags := orEngine x.nflags .matrix e.flags }

/-- R52: the flags of passes without a drain go to their threads once their accumulators are final. -/
def mxFlush (s : State) (c : Nat) : State :=
  let m := (coreOf s c).mx
  let fin (e : MxEnd) : Bool := !e.drains && passDone m e
  if m.ends.any fin then
    (m.ends.filter fin).foldl (fun s e => giveFlags s c e) (setMx s c { m with ends := m.ends.filter fun e => !(fin e) })
  else s

/-- R195: an exchange of the banks at clock e. -/
def swapBanks (m : Matrix) (e : Nat) : Matrix :=
  { m with act := !m.act, swaps := (if m.rows.isEmpty && m.pass.isNone then [] else m.swaps) ++ [e] }

/-- R186, R189: an MCFG at its effect clock. -/
def applyCfg (m : Matrix) (k : MxCfg) : Matrix :=
  let n := { m with
    cfg := k
    rdptr := cRdptr k % formCap (cForm k)
    kcount := if cKsteps k = cKsteps m.cfg then m.kcount else 0 }
  if cForm k != cForm m.cfg || cOrd k != cOrd m.cfg then { n with acc := [], ident := opIdent (cOp k) } else n

/-- R192, R204, R205: an MPASS at the clock of its row 0. -/
def startPass (m : Matrix) (ent : MxEnt) (sa : Word) (n e : Nat) : Matrix :=
  let ks := kstep m.cfg m.kcount
  let m1 : Matrix := { m with
    kcount := ks.1
    passNo := m.passNo + 1
    ends := if ks.2 || n != 0 then
        m.ends ++ [{ id := m.passNo, t := ent.t, m := n, drains := ks.2, flags := 0#4, quiet := false }]
      else m.ends }
  if n = 0 then { m1 with lastEnd := some e, lastRow := some e }
  else { m1 with
    pass := some { id := m.passNo, t := ent.t, cfg := m.cfg, sa := sa, rows := n, start := e, slot := e, slots := 0, lastSlot := e,
                   next := 0, part := none, taken := [], got := [], pred := ent.pred, fix := [], chks := [], dropped := [],
                   readBits := 0, drains := ks.2, dyn := ent.dyn, seed := ent.seed, susp := false, lead := 0, poisoned := false,
                   bank0 := activeBank m e } }

/-- R129, R132, R196, R203: the head of the queue takes effect at clock e; the Vd of an MRD is written 4 clocks later. -/
def takeEffect (s0 : State) (c : Nat) (ent : MxEnt) (rest : List MxEnt) (e : Nat) : State :=
  let s := catchUpTo s0 c e
  let k := coreOf s c
  let m : Matrix := { landRows k.mx e with q := rest }
  let done : Matrix := { m with lastEnd := some e }
  let put (m : Matrix) : State := setCore s c { k with clk := max k.clk e, mx := m }
  match ent.kind with
  | .mpass sa n _ _ => put (startPass m ent sa n e)
  | .mswap => put (swapBanks done e)
  | .mzero => put { done with acc := [], ident := opIdent (cOp m.cfg) }
  | .mcfg cfg => put (applyCfg done cfg)
  | .mrel => put { done with owner := if m.owner = some ent.t then none else m.owner }
  | .mrd d tfmt sat rm =>
    let f := (fmtOfCode tfmt.toNat).getD .fp64
    let (v, g) := mrdValue m f ent.seed rm sat
    put { done with
      rdptr := (m.rdptr + mrdRows f) % formCap (cForm m.cfg)
      read := some { due := e + 4, t := ent.t, d := d, val := v, flags := engBits g } }

/-- R81, R132, R203: the Vd of a read-out written at its write clock, its scoreboard bit cleared and the read-out's flags collected. -/
def writeRead (s : State) (c : Nat) (r : MxRead) : State :=
  let k := coreOf s c
  let s1 := setCore s c { k with clk := max k.clk r.due, mx := { k.mx with read := none } }
  let x := thOf s1 c r.t
  setTh s1 c r.t { clearBusy (putV x r.d r.val) (.v r.d) with nflags := orEngine x.nflags .matrix r.flags }

/-- R129: the clock at which the head of the queue takes effect: none while a pass issues, while the unit is being cleared for the world
of the entry's thread, or while the entry waits for a stream pass. -/
def headEffect (k : Core) : Option Nat :=
  match k.mx.q with
  | [] => none
  | ent :: _ =>
    if k.mx.pass.isSome || (k.mx.clearing && k.mx.world == some (worldOf k ent.t)) then none else effectClock k ent

/-- R129, R189, R204: MATRIX_EFFECT: the head of the queue takes effect; a read-out whose Vd is still to be written is written first
(R132). A drain that is due at an earlier clock comes before it (DESIGN CHOICE, entry 123: at the same clock the drain comes after). -/
def execMatrixEffect (c : BitVec 8) (s : State) : Out :=
  let k := coreOf s c.toNat
  match k.mx.read with
  | some r => .next (wake (writeRead s c.toNat r) c.toNat)
  | none => match k.mx.q, headEffect k with
    | ent :: rest, some e =>
      if k.mx.drains.any fun d => decide (d.due < e) then .next s
      else .next (wake (mxFlush (takeEffect s c.toNat ent rest e) c.toNat) c.toNat)
    | _, _ => .next s

/-- R207: the zero-map bit of a block, as the scratchpad holds it. -/
def mapBit (s : State) (c : Nat) (p : MxPass) (b : Nat) : Bool :=
  bitAt (leNat (unitRead s c p.t (p.cfg.zmap.toNat + b / 8) 1)) (b % 8)

/-- R218: the zero-map byte of a block is poisoned. -/
def mapPoison (s : State) (c : Nat) (p : MxPass) (b : Nat) : Bool := unitPoison s c p.t (p.cfg.zmap.toNat + b / 8) 1

/-- R192: the streamed format's elements of a row's bytes with its scales, as exact values. -/
def rowVals (k : MxCfg) (sp : Bool) (bytes scales : List Byte) : List FVal :=
  let cls := cClass k
  let f := (fmtOfCode (cSfmt k)).getD .fp64
  let w := classW cls
  let v := leNat bytes
  (List.range (classK cls * (if sp then 2 else 1))).map fun j =>
    elemVal f (if classMx cls then (scales.getD (j / 32) 0#8).toNat else 0) (field v (j * w) w)

/-- R198: the pass's streamed rows carry the elements of a 2:4 bank: that of the bank active at its row 0, as it then stood. -/
def passSp (m : Matrix) (p : MxPass) : Bool := ((loadAt (bankOf m p.bank0) p.start).map (·.sp24)).getD false

/-- R184, R210: the address of streamed row n of a pass. -/
def rowAddr (m : Matrix) (p : MxPass) (n : Nat) : Nat := (p.sa.toNat + n * rowStride p.cfg (passSp m p)) % 2 ^ 64

/-- R184: the address of the scales of streamed row n. -/
def rowScaleAddr (m : Matrix) (p : MxPass) (n : Nat) : Nat :=
  (p.cfg.sscale.toNat + n * rowScales (cClass p.cfg) (passSp m p)) % 2 ^ 64

/-- The pass finished once every row has issued and every check has resolved (R192). -/
def endPass (m : Matrix) (p : MxPass) : Matrix :=
  let issued := if cRoute p.cfg then decide (p.rows ≤ p.taken.length) else decide (p.rows ≤ p.next)
  if issued && p.part.isNone && p.fix.isEmpty && p.chks.isEmpty then
    { m with pass := none, lastEnd := some p.lastSlot, lastRow := some p.lastSlot
             upd := if cSkip p.cfg then some (p.t, p.cfg.zmap.toNat, p.readBits, (p.rows + 15) / 16) else m.upd }
  else { m with pass := some p }

/-- R187: the entry of row offset d. -/
def passEntry (p : MxPass) (d : Nat) : Nat := (cAccbase p.cfg + d) % formCap (cForm p.cfg)

/-- R193, R208: an entry has a drain pending: of a row on its way, or of a skipped block whose check has not resolved. -/
def drainPending (m : Matrix) (e : Nat) : Bool :=
  (m.drains.any fun d => d.e == e) || (match m.pass with
    | some p => p.drains && p.chks.any fun ch => ch.predZero
        && (List.range 16).any fun i => decide (16 * ch.blk + i < p.rows) && passEntry p (16 * ch.blk + i) == e
    | none => false)

/-- R193, R204: the pass with its next slot after the latest drain of entry e. -/
def afterDrain (m : Matrix) (p : MxPass) (e : Nat) : MxPass :=
  match tabFind m.drainedAt fun n _ => n == e with
  | some (_, k) => { p with slot := max p.slot (k + 1) }
  | none => p

/-- R192, R196: a row whose last slot has passed, on its way to its entry, with its drain; `slots` were left of it. -/
def finishRow (m : Matrix) (p : MxPass) (q : MxPart) : Matrix × MxPass :=
  let last := p.slot + q.left - 1
  let r := { q.row with last := last, final := last + 72 }
  let discarded := match r.blk with
    | some b => p.dropped.contains b
    | none => false
  let due := (m.rows.filter fun o => o.id == p.id && o.e == r.e).foldl (fun a o => max a o.final) r.final + 1
  ({ m with
      rows := if discarded then m.rows else m.rows ++ [r]
      drains := if q.drain then addDrain m.drains
          { id := p.id, m := r.m, e := r.e, d := r.d, due := due, t := p.t, dyn := p.dyn, seed := p.seed }
        else m.drains },
    { p with slot := max (last + 1) q.after, slots := p.slots + q.left, lastSlot := last, part := none })

/-- R27: slots used from one on, counted in its window of 256. -/
def countSlots (m : Matrix) (slot n : Nat) : Matrix :=
  { m with capWin := slot / 256, capUsed := n + (if m.capWin = slot / 256 then m.capUsed else 0) }

/-- R192, R215: the slots of a row up to its end or to the pass's next boundary, which falls after every 64th slot. -/
def issueSlots (m : Matrix) (p : MxPass) (q : MxPart) : Matrix × MxPass :=
  let room := 64 - p.slots % 64
  if decide (q.left ≤ room) then finishRow (countSlots m p.slot q.left) p q
  else (countSlots m p.slot room,
    { p with slot := p.slot + room, slots := p.slots + room, lastSlot := p.slot + room - 1, part := some { q with left := q.left - room } })

/-- R200: the issue slots of a row. -/
def rowSlots (r : MxRow) : Nat := classQ (cClass r.cfg) * (if r.replay then 4 else 1)

/-- R192, R196, R198, R200: row n of the pass issued at the pass's next slot with its values; `d` is its entry offset and `drain` says
that the drain of that offset becomes due with it. -/
def issueRow (m : Matrix) (p : MxPass) (n d : Nat) (vals : List FVal) (blk : Option Nat) (drain : Bool) : Matrix × MxPass :=
  let r : MxRow :=
    { id := p.id, t := p.t, m := n, e := passEntry p d, d := d, first := p.slot, last := p.slot, final := p.slot, vals := vals,
      bank0 := p.bank0, cfg := p.cfg, blk := blk, replay := rowReplays m p.cfg vals p.bank0 p.slot, judged := false }
  issueSlots m p { row := r, left := rowSlots r, drain := drain, after := 0 }

/-- R211: how many gathered rows of a core are on their way from other devices; a row can have two pieces under way. -/
def gathering (s : State) (c : Nat) : Nat :=
  ((s.fab.outst.filterMap fun o => match o.owner with
    | .mxRow c' j => if c' = c then some (j / 2) else none
    | _ => none).eraseDups).length

/-- R210: the bytes of a gathered row: each piece from local memory, or as it came from another device; none while a piece is still
to come. Pieces are numbered within the row. -/
def gatherRow (s : State) (c : Nat) (p : MxPass) (j : Nat) : Nat → List (Nat × Nat) → Option (List Byte)
  | _, [] => some []
  | i, (va, n) :: more =>
    let here : Option (List Byte) := match unitPa s c p.t [rRD] va n with
      | some pa =>
        if isRemote s pa then (tabFind p.got fun k _ => k == j * 2 + i).map fun e => e.2
        else some (loadZeroPoison s (paLocal pa) n)
      | none => some (List.replicate n 0#8)
    match here, gatherRow s c p j (i + 1) more with
    | some a, some b => some (a ++ b)
    | _, _ => none

/-- R210, R359: the read requests for the pieces of a gathered row that lie on other devices. -/
def requestRow (c : Nat) (p : MxPass) (j : Nat) : Nat → List (Nat × Nat) → State → State
  | _, [], s => s
  | i, (va, n) :: more, s =>
    let s1 := match unitPa s c p.t [rRD] va n with
      | some pa =>
        if isRemote s pa && !(s.fab.outst.any fun o => o.owner == .mxRow c (j * 2 + i)) then
          let x := thOf s c p.t
          let cap := match segHits s c x.cx.toNat va with
            | (_, g) :: _ => g.cap
            | [] => 0#256
          submit s c opRd
            { tc := 1#2, world := worldOf (coreOf s c) p.t, lvlS := isS x, cls := 0#4, dest := paDev pa, bytes := n,
              addr := paLocal pa, fn := 0#16, operand := 0#64, cap := cap, data := [] } (.mxRow c (j * 2 + i))
        else s
      | none => s
    requestRow c p j (i + 1) more s1

/-- R218: a row that read poison marks its pass. -/
def rowPoison (s : State) (c : Nat) (m : Matrix) (p : MxPass) (n : Nat) : Bool :=
  unitPoison s c p.t (rowAddr m p n) (rowBytes (cClass p.cfg) (passSp m p))
    || (classMx (cClass p.cfg) && unitPoison s c p.t (rowScaleAddr m p n) (rowScales (cClass p.cfg) (passSp m p)))

/-- R252: the words that a row's read touches, decoded. -/
def rowDecode (s : State) (c : Nat) (m : Matrix) (p : MxPass) (n : Nat) : State :=
  let s1 := unitDecode s c p.t (rowAddr m p n) (rowBytes (cClass p.cfg) (passSp m p))
  if classMx (cClass p.cfg) then unitDecode s1 c p.t (rowScaleAddr m p n) (rowScales (cClass p.cfg) (passSp m p)) else s1

/-- R218: the first poisoned read of a pass: its thread is to take POISON, or the outcome counts once. -/
def markPoison (s : State) (c : Nat) (p : MxPass) (bad : Bool) : MxPass × State :=
  if bad && !p.poisoned then ({ p with poisoned := true }, unitPoisoned s c p.t) else (p, s)

/-- R101, R215: the pass stopped at its boundary, with the clocks by which its thread's last instruction led its last row. -/
def suspendPass (s : State) (c : Nat) (m : Matrix) (p : MxPass) : State :=
  setMx s c { m with pass := some { p with
    susp := true, lead := min 0xFF (p.lastSlot - tabGet 0 (coreOf s c).issued p.t) } }

/-- R215: the pass has just used its 64th slot, or a multiple of 64. -/
def slotBoundary (p : MxPass) : Bool := p.slots != 0 && p.slots % 64 == 0

/-- A state with the unit and the core's clock after an event of the pass. -/
def putPass (s : State) (c : Nat) (m : Matrix) (p : MxPass) (clk : Nat) : State :=
  let k := coreOf s c
  wake (mxFlush (setCore s c { k with clk := max k.clk clk, mx := endPass m p }) c) c

/-- R192, R207, R208: the next row, correction row or skip slot of a pass without a route list. Poisoned bytes wait for their recovery
under full failure protection (R421). -/
def issueNext (s : State) (c : Nat) (m : Matrix) (p : MxPass) : State :=
  let sp := passSp m p
  let scales (n : Nat) := if classMx (cClass p.cfg) then
      unitRead s c p.t (rowScaleAddr m p n) (rowScales (cClass p.cfg) sp) else []
  let vals (n : Nat) := rowVals p.cfg sp (unitRead s c p.t (rowAddr m p n) (rowBytes (cClass p.cfg) sp)) (scales n)
  let go (s1 : State) (p : MxPass) (n : Nat) (blk : Option Nat) : State :=
    if drainPending m (passEntry p n) then s
    else if rowPoison s c m p n && steepEn s then rowDecode s c m p n
    else
      let (p1, s2) := markPoison (rowDecode s1 c m p n) c (afterDrain m p (passEntry p n)) (rowPoison s c m p n)
      let (m2, p2) := issueRow m p1 n n (vals n) blk p.drains
      putPass s2 c m2 p2 p1.slot
  match p.fix with
  | n :: more => go s { p with fix := more } n (some (n / 16))
  | [] =>
    if decide (p.rows ≤ p.next) then s
    else
      let n := p.next
      let b := n / 16
      if cSkip p.cfg && n % 16 == 0 then
        let bit := mapBit s c p b
        let bad := mapPoison s c p b
        let zero := match p.pred with
          | some v => bitAt v b
          | none => false
        let q := if zero then p else afterDrain m p (passEntry p n)
        let (p1, s1) := markPoison s c { q with
          chks := p.chks ++ [{ clk := q.slot + 8, blk := b, predZero := zero, bit := bit }]
          readBits := if bit then p.readBits ||| 2 ^ b else p.readBits } bad
        if bad && steepEn s then s
        else if zero then
          putPass s1 c m { p1 with slot := p.slot + 1, slots := p.slots + 1, lastSlot := p.slot, next := min (n + 16) p.rows } p.slot
        else go s1 { p1 with next := n + 1 } n (some b)
      else go s { p with next := n + 1 } n (if cSkip p.cfg then some b else none)

/-- R210, R211, R218: route entry j arrives whole and issues, or is refused; a row with pieces on other devices is requested first. -/
def issueRoute (s : State) (c : Nat) (m : Matrix) (p : MxPass) (j : Nat) : State :=
  let (v, s0) := outcome s 5 [c, p.id, p.taken.length] (BitVec.ofNat 64 j)
  let j := v.toNat
  let ra := p.cfg.rladdr.toNat
  let badEntry := unitPoison s c p.t (ra + 4 * j) 4
  if decide (p.rows ≤ j) || p.taken.contains j || (badEntry && steepEn s) then s
  else
    let (counts, dup) := routeCounts s c p.t ra (cRows p.cfg) j
    let (p1, s1) := markPoison s0 c { p with taken := p.taken ++ [j] } badEntry
    if !counts then
      putPass s1 c (if dup && m.multi != BitVec.allOnes 32 then { m with multi := m.multi + 1#32 } else m) p1 p.slot
    else
      let e := routeEntry s c p.t ra j
      let sp := passSp m p
      let ps := pieces (rowAddr m p (rtSrc e)) (rowBytes (cClass p.cfg) sp)
      if drainPending m (passEntry p (rtDest e)) then s
      else match gatherRow s c p j 0 ps with
        | none => if decide (gathering s c < 32) then requestRow c p j 0 ps s else s
        | some bytes =>
          let bad := rowPoison s c m p (rtSrc e)
          if bad && steepEn s then rowDecode s c m p (rtSrc e)
          else
            let scales := if classMx (cClass p.cfg) then
                unitRead s c p.t (rowScaleAddr m p (rtSrc e)) (rowScales (cClass p.cfg) sp) else []
            let more := (List.range p.rows).any fun i => !(p1.taken.contains i)
              && rtDest (routeEntry s c p.t ra i) == rtDest e && (routeCounts s c p.t ra (cRows p.cfg) i).1
            let (p2, s2) := markPoison (rowDecode s1 c m p (rtSrc e)) c (afterDrain m p1 (passEntry p (rtDest e))) bad
            let (m3, p3) := issueRow m p2 j (rtDest e) (rowVals p.cfg sp bytes scales) none (p.drains && !more)
            putPass s2 c m3 p3 p2.slot

/-- R27: the row-issue slots of 256 that the power manager allows core c's FP64 matrix work: its own limit while FP64 vector work runs
anywhere on the device, and no more than 226 while it runs on the core's die (R28); every slot otherwise. -/
def slotCap (s : State) (c : Nat) : Nat :=
  let own := if s.cores.any fun k => fp64Vec k.2 then s.power.cap else 256
  if s.cores.any fun k => k.1 / 64 == c / 64 && fp64Vec k.2 then min own 226 else own

/-- R27: the power manager withholds the slot that a row of FP64 would begin at: its window of 256 slots has no room for it. -/
def slotWithheld (s : State) (c : Nat) (p : MxPass) : Bool :=
  let m := (coreOf s c).mx
  cSfmt p.cfg == 0 && decide (slotCap s c < 256) &&
    decide (slotCap s c < classQ (cClass p.cfg) + if m.capWin = p.slot / 256 then m.capUsed else 0)

/-- R192, R193, R215: MATRIX_ROW_ISSUE: the next row of the pass that issues, after `held` idle clocks in which its data had not arrived or
the power manager withheld the clock (R27); with a route list, the row of entry j. A row that reaches a boundary within its slots
issues up to that boundary, and the next MATRIX_ROW_ISSUE goes on with it, without idle clocks. A pass that is to stop, and that stands
at a boundary or is held, stops here and issues no row; nor does a row of FP64 at a slot that the power manager withholds. -/
def execMatrixRowIssue (c : BitVec 8) (held : BitVec 32) (j : BitVec 12) (s : State) : Out :=
  match (coreOf s c.toNat).mx.pass with
  | none => .next s
  | some p0 =>
    if p0.susp then .next s
    else if stopDue s c.toNat p0.t && (slotBoundary p0 || (p0.part.isNone && held != 0#32)) then
      .next (suspendPass s c.toNat (coreOf s c.toNat).mx p0)
    else
      let p : MxPass := if p0.part.isSome then p0 else { p0 with slot := p0.slot + held.toNat }
      if p.part.isNone && slotWithheld s c.toNat p then .next s
      else
      let s := catchUpTo s c.toNat p.slot
      let m := landRows (coreOf s c.toNat).mx p.slot
      match p.part with
      | some q =>
        let (m, p1) := issueSlots m p q
        .next (putPass s c.toNat m p1 p.slot)
      | none => .next (if cRoute p.cfg then issueRoute s c.toNat m p j.toNat else issueNext s c.toNat m p)

/-- R208, R216: the checks of a pass that resolve now: those of skipped blocks wait while it is suspended, and are read again when it
resumes. -/
def resolvable (p : MxPass) : List MxChk := if p.susp then p.chks.filter fun ch => !ch.predZero else p.chks

/-- R208: SKIP_CHECK: the oldest check resolves 8 clocks after its read. -/
def execSkipCheck (c : BitVec 8) (s : State) : Out :=
  let k := coreOf s c.toNat
  match k.mx.pass with
  | none => .next s
  | some p =>
    match resolvable p with
    | [] => .next s
    | ch :: _ =>
      let m := landRows k.mx ch.clk
      let rows := (List.range 16).map (fun i => 16 * ch.blk + i) |>.filter fun n => decide (n < p.rows)
      let p1 : MxPass := { p with chks := p.chks.erase ch }
      .next (match ch.predZero, ch.bit with
        | true, true =>
          let ds := if p.drains then rows.map fun n =>
              ({ id := p.id, m := n, e := passEntry p n, d := n, due := ch.clk + 1, t := p.t, dyn := p.dyn, seed := p.seed }
                : MxDrain)
            else []
          putPass s c.toNat { m with drains := ds.foldl addDrain m.drains } p1 ch.clk
        | true, false => putPass s c.toNat m { p1 with
            fix := p.fix ++ rows
            slot := if p.part.isNone then max p.slot (ch.clk + 1) else p.slot
            part := p.part.map fun q => { q with after := max q.after (ch.clk + 1) } } ch.clk
        | false, false => putPass s c.toNat m p1 ch.clk
        | false, true =>
          putPass s c.toNat { m with rows := m.rows.filter fun r => !(r.id == p.id && r.blk == some ch.blk) }
            { p1 with dropped := ch.blk :: p.dropped } ch.clk)

/-- R265: the half and world of a predictor that holds a zero-map granule for a core. -/
def predSlot (s : State) (c cx granule : Nat) : Nat :=
  let d := c / 64
  let half := if s.part = .a384 && decide (2 ≤ d) then 2 * d else 2 * d + granule % 2
  half * 2 + (match (ctxOf s cx).world with | .P => 0 | .T => 1)

/-- R265: the blocks of a zero map at `addr` that granule `g` holds, as block number and bit number. -/
def granuleBlocks (addr blocks g : Nat) : List (Nat × Nat) :=
  ((List.range 512).map fun i => (g * 512 + i, i)).filterMap fun e =>
    if decide (addr * 8 ≤ e.1) && decide (e.1 < addr * 8 + blocks) then some (e.1 - addr * 8, e.2) else none

/-- The granules that a zero map of n blocks at `addr` touches. -/
def granulesOf (addr blocks : Nat) : List Nat :=
  if blocks = 0 then []
  else (List.range ((addr + (blocks - 1) / 8) / 64 + 1 - addr / 64)).map fun i => addr / 64 + i

/-- R265: the block bits a predictor gives for a zero map, and the state with the entries it used made recent. -/
def predict (s : State) (c cx addr blocks : Nat) : Nat × State :=
  (granulesOf addr blocks).foldl (fun st g =>
    let slot := predSlot s c cx g
    let l := tabGet [] st.2.memsys.pred slot
    match l.find? fun e => e.cx == cx && e.gran == g with
    | none => st
    | some e =>
      let v := (granuleBlocks addr blocks g).foldl (fun v b => if e.bits.getLsbD b.2 then v ||| 2 ^ b.1 else v) st.1
      (v, { st.2 with memsys := { st.2.memsys with
        pred := tabSet st.2.memsys.pred slot (e :: l.filter fun q => q != e) } })) (0, s)

/-- R191: the configuration in force for a queue entry: that of the latest MCFG queued before it. -/
def cfgFor (m : Matrix) (i : Nat) : MxCfg :=
  (m.q.take i).foldl (fun k e => match e.kind with | .mcfg n => n | _ => k) m.cfg

/-- R265: PREDICTOR_REPLY: the reply for the earliest SKIP pass that has none crosses into the core. -/
def execPredictorReply (c : BitVec 8) (s : State) : Out :=
  let k := coreOf s c.toNat
  let m := k.mx
  let wants (p : MxPass) : Bool := cSkip p.cfg && p.pred.isNone
  match m.pass with
  | some p =>
    if wants p then
      let (v, s1) := predict s c.toNat (thOf s c.toNat p.t).cx.toNat p.cfg.zmap.toNat ((p.rows + 15) / 16)
      .next (setMx s1 c.toNat { m with pass := some { p with pred := some v } })
    else .next s
  | none =>
    match m.q.zipIdx.find? fun e => e.1.pred.isNone && (match e.1.kind with
        | .mpass _ _ _ _ => cSkip (cfgFor m e.2)
        | _ => false) with
    | none => .next s
    | some (e, i) =>
      let n := match e.kind with
        | .mpass _ n _ _ => n
        | _ => 0
      let (v, s1) := predict s c.toNat (thOf s c.toNat e.t).cx.toNat (cfgFor m i).zmap.toNat ((n + 15) / 16)
      .next (setMx s1 c.toNat { m with q := m.q.zipIdx.map fun q => if q.2 = i then { q.1 with pred := some v } else q.1 })

/-- R265: PREDICTOR_UPDATE: the bits the checks of the finished pass read replace its entries, the least recently used entry of the
world giving way; bits of blocks outside the pass stay (DEDUCED). -/
def execPredictorUpdate (c : BitVec 8) (s : State) : Out :=
  let m := (coreOf s c.toNat).mx
  match m.upd with
  | none => .next s
  | some (t, addr, bits, blocks) =>
    let cx := (thOf s c.toNat t).cx.toNat
    let s1 := (granulesOf addr blocks).foldl (fun s g =>
      let slot := predSlot s c.toNat cx g
      let l := tabGet [] s.memsys.pred slot
      let old := match l.find? fun e => e.cx == cx && e.gran == g with
        | some e => e.bits
        | none => 0#512
      let new := (granuleBlocks addr blocks g).foldl (fun (v : BitVec 512) b =>
        if bitAt bits b.1 then v ||| (1#512 <<< b.2) else v &&& ~~~(1#512 <<< b.2)) old
      let rest := l.filter fun e => !(e.cx == cx && e.gran == g)
      { s with memsys := { s.memsys with
        pred := tabSet s.memsys.pred slot (({ cx := cx, gran := g, bits := new } : PredEnt) :: rest.take 1023) } }) s
    .next (setMx s1 c.toNat { (coreOf s1 c.toNat).mx with upd := none })

/-- R45, R189, R204: the values of an entry rounded to the drain format by the configuration in force, as bytes, and their flags; the seed
and the mode that DYN names are the pass's. -/
def drainValue (m : Matrix) (d : MxDrain) : List Byte × FFlags :=
  let f := (fmtOfCode (cDfmt m.cfg)).getD .fp64
  let rm := resolveRm (cDrm m.cfg) d.dyn
  let l := (List.range 128).map fun n =>
    readEntry (cOrd m.cfg) (cForm m.cfg) (entryAt m d.e n) f (readRound m.cfg d.seed rm (cDsat m.cfg) d.d n)
  (natLe (128 * fmtBits f / 8) (packElems (fmtBits f) (l.map (·.1))), allFlags (l.map (·.2)))

/-- R193, R204: the unit after drain d has acted: its entry holds the identity, and the next drain acts no earlier than a clock later. -/
def drained (m : Matrix) (d : MxDrain) (rest : List MxDrain) (f : BitVec 4) : Matrix :=
  { m with
    drains := rest.map fun e => { e with due := max e.due (d.due + 1) }
    acc := (List.range 128).foldl (fun a n => tabSet a (d.e * 128 + n) (opIdent (cOp m.cfg))) m.acc
    ends := passFlags m.ends d.id f
    drainedAt := tabSet m.drainedAt d.e d.due
    lastDrain := max m.lastDrain d.due }

/-- R197, R204: DRAIN_ROW: the drain that is due first reads its entry, sets it to the identity, rounds it and writes the row. A row found
to have met values that left its window moves its drain to its own later clock; a queued instruction that takes effect no later than
the drain comes first (R189). -/
def execDrainRow (c : BitVec 8) (s0 : State) : Out :=
  match (coreOf s0 c.toNat).mx.drains with
  | [] => .next s0
  | d0 :: _ =>
    let s := catchUpTo s0 c.toNat d0.due
    let k := coreOf s c.toNat
    let m := landRows k.mx (d0.due - 1)
    match m.drains with
    | [] => .next s
    | d :: rest =>
      if decide (d0.due < d.due) then .next (mxFlush (setMx s c.toNat m) c.toNat)
      else if (match headEffect k with | some e => decide (e ≤ d.due) | none => false) then .next s0
      else
        let (bytes, g) := drainValue m d
        let s1 := setCore s c.toNat { k with clk := max k.clk d.due, mx := drained m d rest (engBits g) }
        .next (mxFlush (unitWrite s1 c.toNat d.t (drainAddr m.cfg d.d) bytes) c.toNat)

/-- R52, R189, R205: DRAIN_COMPLETE: a draining pass whose last row is drained signals the DSO in force with M, or with 0 where it had no
row, and its flags go to the thread; an abandoned pass does neither (R215). -/
def execDrainComplete (c : BitVec 8) (s : State) : Out :=
  let m := (coreOf s c.toNat).mx
  match m.ends.find? fun e => e.drains && passDone m e with
  | none => .next s
  | some e =>
    let s1 := setMx s c.toNat { m with ends := m.ends.filter fun q => q.id != e.id }
    .next (if e.quiet then s1 else signalSo (giveFlags s1 c.toNat e) (cDso m.cfg) (BitVec.ofNat 64 e.m))

/-- R215: whether the pass stands at a boundary: after a multiple of 64 issue slots, within a row or between rows, or held from
issue between rows, as a gathering pass is between arrivals. -/
def passBoundary (s : State) (c : Nat) (m : Matrix) (p : MxPass) : Bool :=
  slotBoundary p || (p.part.isNone
    && (cRoute p.cfg || drainPending m (passEntry p (p.fix.headD p.next)) || rowPoison s c m p (p.fix.headD p.next)))

/-- R101, R215, R218: MPASS_SUSPEND: a pass whose thread has taken an exception, or has an interrupt or poison due, stops at its
boundary and records the lead. -/
def execMpassSuspend (c : BitVec 8) (s : State) : Out :=
  let m := (coreOf s c.toNat).mx
  match m.pass with
  | none => .next s
  | some p =>
    .next (if p.susp || !(passBoundary s c.toNat m p) || !(stopDue s c.toNat p.t) then s else suspendPass s c.toNat m p)

/-- R128: the old owner's work has ended: nothing it queued waits, no pass of its runs, every row is final and every drain has
signalled. -/
def oldWorkDone (k : Core) : Bool :=
  let m := k.mx
  !(m.q.any fun e => m.world != some (worldOf k e.t)) && m.pass.isNone && m.drains.isEmpty && !(m.ends.any (·.drains))
    && m.loading.isNone && m.read.isNone

/-- R128: the clock at which the old owner's work has ended: 72 clocks after its last row, or the arrival of a row that comes later
(R197), the last drain, and the last effect. -/
def oldWorkEnd (m : Matrix) : Nat :=
  m.rows.foldl (fun a r => max a (r.final + (if rowExposed m r && !r.judged then 4 * classQ (cClass r.cfg) else 0)))
    (max (max ((m.lastRow.map fun l => l + 72).getD 0) (m.lastEnd.getD 0)) m.lastDrain)

/-- R128, R186: MATRIX_WORLD_CLEAR: both banks and every accumulator are cleared in 64 clocks, the configuration returns to its
reset values, and the new owner's first instruction takes effect no earlier than the clock after. -/
def execMatrixWorldClear (c : BitVec 8) (s : State) : Out :=
  let k := coreOf s c.toNat
  if k.mx.clearing && oldWorkDone k then
    let work := oldWorkEnd k.mx
    let hand := match k.mx.q with
      | e :: _ => e.handoff
      | [] => k.clk
    let fin := max work hand + 64
    let m := landRows k.mx fin
    let s1 := mxFlush (setMx s c.toNat m) c.toNat
    let k1 := coreOf s1 c.toNat
    .next (wake (setCore s1 c.toNat { k1 with
      clk := max k1.clk fin
      mx := { k1.mx with clearing := false, bankA := {}, bankB := {}, acc := [], ident := {}, cfg := {}, rdptr := 0,
                         kcount := 0, lastEnd := some fin, lastRow := none } }) c.toNat)
  else .next s

/-- R128, R215: the unit released by a thread that stops: a pass of its that is suspended is abandoned, with the instructions held
behind it; rows already issued and their drains go on, and a row that a boundary divided is not issued (DEDUCED). -/
def mxRelease (k : Core) (t : Nat) : Core :=
  let m := k.mx
  let m1 := match m.pass with
    | some p =>
      if p.t = t && p.susp then
        let n : Matrix := { m with
          pass := none, q := m.q.filter fun e => e.t != t
          lastEnd := some p.lastSlot, lastRow := some p.lastSlot
          ends := m.ends.map fun e => if e.id = p.id then { e with quiet := true } else e }
        { n with hcfg := n.cfg, hkcount := n.kcount, hact := n.act }
      else m
    | none => m
  { k with mx := if m1.owner = some t then { m1 with owner := none } else m1 }

/-- R216: MXPROG, as the monitor reads it; the flags are those the rows and drains of the pass have collected so far. While the pass
runs, SUSP and LEAD are 0 (DEDUCED, entry 124). -/
def mxProg (k : Core) : Word :=
  match k.mx.pass with
  | none => 0#64
  | some p =>
    let (row, slot) := match p.part with
      | some q => (if cRoute p.cfg then p.taken.length - 1 else q.row.m, rowSlots q.row - q.left)
      | none => (if cRoute p.cfg then p.taken.length else p.fix.headD p.next, 0)
    let flags := ((k.mx.ends.find? fun e => e.id == p.id).map fun e => e.flags.toNat).getD 0
    BitVec.ofNat 64 (row % 2 ^ 24 + slot % 2 ^ 7 * 2 ^ 24 + b2n p.susp * 2 ^ 31 + flags * 2 ^ 32
      + (if p.susp then p.lead % 256 else 0) * 2 ^ 36
      + ((p.chks.filter (·.predZero)).reverse.zipIdx.foldl (fun v e => if e.2 < 8 then v + 2 ^ e.2 else v) 0) * 2 ^ 44
      + min 3 k.mx.q.length * 2 ^ 52)

end Sys2Proof.Machine
end

