-- ==== Sys2Proof/Machine/Approx.lean ====
section
/-!
DEFINITION. Sys2Proof/Machine/Approx.lean: the functions of R229 in fixed point, and the bound within which the value y of an approximate
function lies. A fixed-point number is an integer in units of 2^-512.
-/

namespace Sys2Proof.Machine

/-- The value 1 in fixed point. -/
def fxOne : Int := 2 ^ 512

/-- The product in fixed point. -/
def fxMul (a b : Int) : Int := a * b / fxOne

/-- The quotient in fixed point. -/
def fxDiv (a b : Int) : Int := a * fxOne / b

/-- A finite value in fixed point, its bits below 2^-512 cut off; none for an infinity or a NaN. -/
def fxOf (v : FVal) : Option Int :=
  match v with
  | .fin s n e =>
    let m : Nat := if 0 ≤ e + 512 then n * 2 ^ (e + 512).toNat else n / 2 ^ (-(e + 512)).toNat
    some (if s then -(m : Int) else m)
  | _ => none

/-- A fixed-point number times 2^i as a value. -/
def fxVal (x i : Int) : FVal := .fin (decide (x < 0)) x.natAbs (i - 512)

/-- Terms of a series, each got from the one before by the step of its number: their sum. -/
def fxSeries (step : Nat → Int → Int) : Nat → Nat → Int → Int
  | 0, _, _ => 0
  | n + 1, k, t => t + fxSeries step n (k + 1) (step (k + 1) t)

/-- ln 2, as the sum of 1 / (k 2^k). -/
def fxLn2 : Int := ((List.range 511).map fun (i : Nat) => ((2 ^ (511 - i) / (i + 1) : Nat) : Int)).foldl (· + ·) 0

/-- The arc tangent of 1 / n, n above 1. -/
def fxAtanInv (n : Nat) : Int :=
  ((List.range 230).map fun (i : Nat) => fxOne / ((n ^ (2 * i + 1) * (2 * i + 1) : Nat) : Int) * (if i % 2 = 0 then 1 else -1)).foldl (· + ·) 0

/-- π, by Machin's formula. -/
def fxPi : Int := 16 * fxAtanInv 5 - 4 * fxAtanInv 239

/-- 1 / √(2π). -/
def fxPhi0 : Int := isqrt (2 ^ 1536 / (2 * fxPi.toNat))

/-- e^z for 0 ≤ z < 1. -/
def fxExpUnit (z : Int) : Int := fxSeries (fun k t => fxMul t z / k) 110 0 fxOne

/-- 2^z as m × 2^i with 1 ≤ m < 2: m and i. -/
def fxExp2 (z : Int) : Int × Int := (fxExpUnit (fxMul (z % fxOne) fxLn2), z / fxOne)

/-- e^z for |z| at most 64. -/
def fxExp (z : Int) : Int :=
  let (m, i) := fxExp2 (fxDiv z fxLn2)
  if 0 ≤ i then m * 2 ^ i.toNat else m / 2 ^ (-i).toNat

/-- log2 of n × 2^e, n above 0. -/
def fxLog2 (n : Nat) (e : Int) : Int :=
  let l := Nat.log2 n
  let m : Int := (n : Int) * fxOne / 2 ^ l
  let t := fxDiv (m - fxOne) (m + fxOne)
  let t2 := fxMul t t
  let ln := 2 * ((List.range 170).foldl (fun (st : Int × Int) (i : Nat) => (st.1 + st.2 / (2 * (i : Int) + 1), fxMul st.2 t2)) (0, t)).1
  fxDiv ln fxLn2 + ((l : Int) + e) * fxOne

/-- tanh z for |z| at most 32. -/
def fxTanh (z : Int) : Int :=
  let q := fxExp (2 * z)
  fxDiv (q - fxOne) (q + fxOne)

/-- 1 / (1 + e^-z) for |z| at most 32. -/
def fxSigmoid (z : Int) : Int := fxDiv fxOne (fxOne + fxExp (-z))

/-- Φ(z), the normal distribution function, for |z| at most 8. -/
def fxPhi (z : Int) : Int :=
  let h := fxMul z z / 2
  let s := ((List.range 300).foldl (fun (st : Int × Int) (i : Nat) =>
    (st.1 + st.2 / (2 * (i : Int) + 1), -(fxMul st.2 h) / ((i : Int) + 1))) (0, z)).1
  fxOne / 2 + fxMul fxPhi0 s

/-- R229: the function f and the bound on |y − f| at an operand inside the interval, both in units of 2^(i − 512): f, the bound and i. An
exponent beyond every format's range stands for any further one. -/
def approxRef (op : Nat) (v : FVal) : Int × Int × Int :=
  let z := (fxOf v).getD 0
  let big (f : Int) : Int := if (f.natAbs : Int) < fxOne then fxOne else f.natAbs
  match op with
  | 0x20 =>
    let (m, i) := fxExp2 z
    (m, m / 2 ^ 23, max (-4000) (min 4000 i))
  | 0x21 =>
    let f := match v with
      | .fin _ n e => fxLog2 n e
      | _ => 0
    (f, max ((f.natAbs : Int) / 2 ^ 23) (fxOne / 2 ^ 24), 0)
  | 0x24 =>
    let f := fxTanh z
    (f, (f.natAbs : Int) / 2 ^ 22, 0)
  | 0x25 =>
    let f := fxMul z (fxPhi z)
    (f, big f / 2 ^ 20, 0)
  | 0x26 =>
    let f := fxMul z (fxSigmoid z)
    (f, big f / 2 ^ 20, 0)
  | _ => (fxSigmoid z, fxOne / 2 ^ 22, 0)

/-- R229: whether y keeps the bound, widened by 2^-300 for what the fixed point cuts off; |y| ≤ 1 for TANH. -/
def approxFits (op : Nat) (v y : FVal) : Bool :=
  let (f, b, i) := approxRef op v
  match y with
  | .fin s n e =>
    match fxOf (.fin s n (e - i)) with
    | some g => decide ((g - f).natAbs ≤ (b + 2 ^ 212).toNat) && (op != 0x24 || decide (g.natAbs ≤ fxOne.toNat))
    | none => false
  | _ => false

/-- R229: the value y of an approximate function at the FP32 value v with pattern `pat`, inside its interval: the free value
Config.approx where that keeps the bound, and f itself where it does not. -/
def approxIn (op pat : Nat) (v : FVal) : FVal :=
  let y := Config.approx op pat
  if approxFits op v y then y
  else
    let (f, _, i) := approxRef op v
    fxVal f i

end Sys2Proof.Machine
end

