-- ==== Sys2Proof/Machine/StreamData.lean ====
section
/-!
DEFINITION. Sys2Proof/Machine/StreamData.lean: what the stream engine computes (R222 to R235): descriptors, geometry, stage operations,
the block quantisation and the groups of a pass.
-/

namespace Sys2Proof.Machine

/-- R229: n / d × 2^e delivered to a format with one rounding. -/
def ratTo (f : Fmt) (rc : RoundCtx) (s : Bool) (n d : Nat) (e : Int) : Nat × FFlags :=
  if fmtIsInt f then
    let (q, r, d') := inUnits n d e 0
    let m := if r != 0 && roundsUp rc s q r d' then q + 1 else q
    let v : Int := if s then -(m : Int) else (m : Int)
    let (lo, hi) := intRange f
    if v < lo then (wrapInt (fmtBits f) lo, flagNv)
    else if v > hi then (wrapInt (fmtBits f) hi, flagNv)
    else (wrapInt (fmtBits f) v, { nnx := r != 0 })
  else roundMag (fmtFloat f) rc s n d e

/-- 1 / √(n 2^e), n above 0, as a dyadic number that rounds like it: at least 112 bits and a sticky bit. -/
def rsqrtDyadic (n : Nat) (e : Int) : Nat × Int :=
  let k : Nat := 2 * (Nat.log2 n + 1) + (if (e % 2 : Int) = 0 then 256 else 257)
  let m := 2 ^ k / n
  let r := isqrt m
  let f := (-(e + k)) / 2
  if m * n = 2 ^ k && r * r = m then (r, f) else (2 * r + 1, f - 1)

/-- The value 1. -/
def fOne : FVal := .fin false 1 0

/-- R229: whether a value lies outside [−b, b]. -/
def beyond (b : Nat) (v : FVal) : Bool := cmpVal (fSetSign false v) (fOfInt b) == .gt

/-- R229: the integer a finite value is, if it is one. -/
def exactInt (v : FVal) : Option Int :=
  match v with
  | .fin s n e =>
    if e ≥ 0 then some (if s then -((n * 2 ^ e.toNat : Nat) : Int) else ((n * 2 ^ e.toNat : Nat) : Int))
    else if n % 2 ^ (-e).toNat = 0 then
      some (if s then -((n / 2 ^ (-e).toNat : Nat) : Int) else ((n / 2 ^ (-e).toNat : Nat) : Int))
    else none
  | _ => none

/-- R229: log2 of a value that is a power of two. -/
def powerOfTwo (v : FVal) : Option Int :=
  match v with
  | .fin false n e => if n = 2 ^ Nat.log2 n && n != 0 then some ((Nat.log2 n : Int) + e) else none
  | _ => none

/-- R229, R230: an approximate function of the FP32 value `v` with pattern `pat`: its value y, its flags, and whether the result is an
exact case. A power of two beyond every format's range stands for any further one. -/
def approxVal (op : Nat) (pat : Nat) (v : FVal) : FVal × FFlags × Bool :=
  let y := approxIn op pat v
  let neg := fSign v
  match op with
  | 0x20 =>
    match v with
    | .inf s => (if s then fZero else .inf false, noFlags, true)
    | _ => match exactInt v with
      | some i => (.fin false 1 (max (-4000) (min 4000 i)), noFlags, true)
      | none => (y, noFlags, false)
  | 0x21 =>
    if fIsZero v then (.inf true, flagNv, true)
    else if neg then (defaultNan, flagNv, true)
    else match v with
      | .inf _ => (.inf false, noFlags, true)
      | _ => match powerOfTwo v with
        | some i => (fOfInt i, noFlags, true)
        | none => (y, noFlags, false)
  | 0x24 =>
    if fIsZero v then (v, noFlags, true)
    else if fIsInf v then (.fin neg 1 0, noFlags, true)
    else if beyond 9 v then (.fin neg 1 0, noFlags, false)
    else (y, noFlags, false)
  | 0x27 =>
    if fIsZero v then (.fin false 1 (-1), noFlags, true)
    else if fIsInf v then (if neg then fZero else fOne, noFlags, true)
    else if beyond 16 v then (if neg then fZero else fOne, noFlags, false)
    else (y, noFlags, false)
  | _ =>
    if fIsZero v then (v, noFlags, true)
    else if fIsInf v then (if neg then .fin true 0 0 else .inf false, noFlags, true)
    else if beyond (if op = 0x25 then 8 else 16) v then (if neg then .fin true 0 0 else v, noFlags, false)
    else (y, noFlags, false)

/-- R228: 1 or 0 for a predicate. -/
def predVal (p : Bool) : FVal := if p then fOne else fZero

/-- R228: whether an operand counts as non-zero. -/
def nonZero (v : FVal) : Bool := !(fIsZero v)

/-- R227 to R230, R51, R55: a stage's operation delivered to format `f` with one rounding: the pattern and the flags. -/
def stageOp (op : Nat) (f : Fmt) (rc : RoundCtx) (s1 s2 s3 : FVal) : Nat × FFlags :=
  let nv (l : List FVal) : FFlags := { nnv := l.any fIsSnan }
  let give (r : FVal × FFlags) : Nat × FFlags :=
    let (p, g) := toElem f rc false r.1
    (p, flagsOr g r.2)
  let nans (l : List FVal) (k : Nat × FFlags) : Nat × FFlags :=
    if l.any fIsNan then give (defaultNan, nv l) else k
  let cmp (p : Ordering → Bool) (un : Bool) : Nat × FFlags :=
    if fIsNan s1 || fIsNan s2 then give (predVal un, nv [s1, s2]) else give (predVal (p (cmpVal s1 s2)), noFlags)
  match op with
  | 0x01 => nans [s1, s2] (give (addVal rc.rm s1 s2))
  | 0x02 => nans [s1, s2] (give (addVal rc.rm s1 (negVal s2)))
  | 0x03 => nans [s1, s2] (give (mulVal s1 s2))
  | 0x04 => nans [s1, s2] (
      let s := xor (fSign s1) (fSign s2)
      match s1, s2 with
      | .inf _, .inf _ => give (defaultNan, flagNv)
      | .inf _, _ => give (.inf s, noFlags)
      | _, .inf _ => give (.fin s 0 0, noFlags)
      | .fin _ n e, .fin _ m u =>
        if m = 0 then (if n = 0 then give (defaultNan, flagNv) else give (.inf s, flagNv))
        else if n = 0 then give (.fin s 0 0, noFlags)
        else ratTo f rc s n m (e - u)
      | _, _ => give (defaultNan, noFlags))
  | 0x05 => nans [s1, s2, s3] (
      let (q, g) := mulVal s1 s2
      if g.nnv then give (defaultNan, flagNv) else give (addVal rc.rm q s3))
  | 0x06 => nans [s1, s2] (give (minVal s1 s2, noFlags))
  | 0x07 => nans [s1, s2] (give (maxVal s1 s2, noFlags))
  | 0x08 => nans [s1] (give (fSetSign false s1, noFlags))
  | 0x09 => nans [s1] (give (negVal s1, noFlags))
  | 0x0A => nans [s1, s2, s3] (give (minVal (maxVal s1 s2) s3, noFlags))
  | 0x10 => cmp (· == .lt) false
  | 0x11 => cmp (· != .gt) false
  | 0x12 => cmp (· == .eq) false
  | 0x13 => cmp (· != .eq) true
  | 0x14 =>
    let v := if nonZero s1 then s2 else s3
    give (if fIsNan v then defaultNan else v, nv [s1, v])
  | 0x22 => nans [s1] (match s1 with
      | .inf s => give (.fin s 0 0, noFlags)
      | .fin s n e => if n = 0 then give (.inf s, flagNv) else ratTo f rc s 1 n (-e)
      | _ => give (defaultNan, noFlags))
  | 0x23 => nans [s1] (match s1 with
      | .inf s => if s then give (defaultNan, flagNv) else give (fZero, noFlags)
      | .fin s n e =>
        if n = 0 then give (.inf s, flagNv)
        else if s then give (defaultNan, flagNv)
        else
          let (r, u) := rsqrtDyadic n e
          give (.fin false r u, noFlags)
      | _ => give (defaultNan, noFlags))
  | 0x31 => give (if fIsNan s1 then defaultNan else s1, nv [s1, s2])
  | 0x30 => nans [s1] (give (s1, noFlags))
  | 0x38 => nans [s1] (give (s1, noFlags))
  | 0x39 => give (if fIsNan s1 then defaultNan else s1, nv [s1, s2])
  | _ => nans [s1] (
      let (p, g0) := toFloat ffFp32 { rm := .rne, sat := true, draw := 0 } false s1
      let (y, g1, exact) := approxVal op p (floatVal ffFp32 p)
      let (r, g2) := give (y, flagsOr g0 g1)
      (r, if exact then g2 else flagsOr g2 { nnx := true }))

/-- R228: the operations and the number of sources each uses; none: unassigned. -/
def stageArity (op : Nat) : Option Nat :=
  match op with
  | 0x01 | 0x02 | 0x03 | 0x04 | 0x06 | 0x07 => some 2
  | 0x05 | 0x0A | 0x14 => some 3
  | 0x08 | 0x09 | 0x30 | 0x38 => some 1
  | 0x10 | 0x11 | 0x12 | 0x13 | 0x31 | 0x39 => some 2
  | 0x20 | 0x21 | 0x22 | 0x23 | 0x24 | 0x25 | 0x26 | 0x27 => some 1
  | _ => none

/-- R223: a GEOM word with its ADDR and SCALE. -/
def parseGeom (addr geom scale : Word) : SGeom :=
  let g := geom.toNat
  { addr := addr.toNat, scale := scale.toNat, rowlen := field g 0 24, rowstride := field g 24 24, fmt := field g 48 4,
    en := bitAt g 52, bcol := bitAt g 53 }

/-- R225: a stage word; a DYN mode is resolved at the latch (R45). -/
def parseStage (w : Word) (dyn : Nat) : SStage :=
  let g := w.toNat
  { op := field g 0 8, src1 := field g 8 5, src2 := field g 13 5, src3 := field g 18 5, fmt := field g 23 4,
    rm := resolveRm (field g 27 3) dyn, dyn := field g 27 3 == 7, carry := bitAt g 30, sat := bitAt g 31, key := field g 32 8,
    base1 := field g 40 6, base2 := field g 46 6 }

/-- R222: a pass descriptor from its words. -/
def parseDesc (w : Nat → Word) (dyn : Nat) : SDesc :=
  let p := (w 0).toNat
  { n := field p 0 32, ibase := field (w 2).toNat 0 48, kfmt := field (w 3).toNat 0 32
    ga := parseGeom (w 4) (w 5) (w 6), gb := parseGeom (w 7) (w 8) (w 9), gc := parseGeom (w 10) (w 11) (w 12)
    go := parseGeom (w 13) (w 14) (w 15)
    ks := (List.range 8).map fun j => (w (21 + j)).toNat
    stages := (List.range (field p 32 3 + 1)).map fun j => parseStage (w (29 + j)) dyn
    aref := bitAt p 35, cso := field p 36 13, csoen := bitAt p 49
    thresh := (w 16).toNat, step := field (w 17).toNat 0 32, repeats := field (w 17).toNat 32 16
    advA := sint 32 (field (w 18).toNat 0 32), advB := sint 32 (field (w 18).toNat 32 32)
    advC := sint 32 (field (w 19).toNat 0 32), advO := sint 32 (field (w 19).toNat 32 32)
    idxadv := field (w 20).toNat 0 48 }

/-- R226: a reserved bit of the words the engine reads is 1; the eight stage words are read whatever NST is. -/
def descReserved (w : Nat → Word) (armed : Bool) : Bool :=
  field (w 0).toNat 50 14 != 0 || field (w 2).toNat 48 16 != 0 || field (w 3).toNat 32 32 != 0
    || ([5, 8, 11, 14].any fun i => field (w i).toNat 54 10 != 0)
    || ((List.range 8).any fun j => field (w (29 + j)).toNat 52 12 != 0)
    || (armed && (field (w 17).toNat 48 16 != 0 || field (w 20).toNat 48 16 != 0))

/-- R227: the formats of a stage. -/
def stageFmtOk (c : Nat) : Bool := [0, 1, 2, 3, 4, 5, 0xA, 0xB, 0xC, 0xE].contains c
/-- R33: an MX format code. -/
def mxCode (c : Nat) : Bool := [6, 7, 8].contains c
/-- R227: the formats of a stream. -/
def streamFmtOk (c : Nat) : Bool := stageFmtOk c || mxCode c || c == 0xD
/-- R227: the formats of a constant. -/
def constFmtOk (c : Nat) : Bool := streamFmtOk c

/-- R222: the format code of constant j. -/
def constFmt (d : SDesc) (j : Nat) : Nat := field d.kfmt (4 * j) 4

/-- R224, R226: whether source code `c` of stage j names an operand. -/
def srcOk (d : SDesc) (j c : Nat) : Bool :=
  match c with
  | 0 => d.ga.en
  | 1 => d.gb.en
  | 2 => d.gc.en
  | 3 => true
  | 4 => true
  | _ => (decide (8 ≤ c) && decide (c < 16)) || (decide (16 ≤ c) && decide (c < 16 + j))

/-- R226: the format code of what a source gives; none for +0 and +1. -/
def srcFmt (d : SDesc) (c : Nat) : Option Nat :=
  match c with
  | 0 => some d.ga.fmt
  | 1 => some d.gb.fmt
  | 2 => some d.gc.fmt
  | _ =>
    if decide (8 ≤ c) && decide (c < 16) then some (constFmt d (c - 8))
    else if 16 ≤ c then
      match d.stages[c - 16]? with
      | some s => some (if s.carry then 1 else s.fmt)
      | none => none
    else none

/-- R59, R60: the formats that can enter an accumulator through a ROWRED, by kind (true: LA64). -/
def accFmtOk (wide : Bool) (c : Nat) : Bool :=
  if wide then c == 0 || c == 0xD else [1, 2, 3, 4, 5, 6, 7, 8, 0xA, 0xC].contains c

/-- R226: the stage j of a descriptor raises ILLOP; `wide` is the current kind, `own` that the thread's world has the unit. -/
def stageBad (d : SDesc) (wide own : Bool) (j : Nat) (s : SStage) : Bool :=
  let last := j + 1 == d.stages.length
  match stageArity s.op with
  | none => true
  | some n =>
    !(([s.src1, s.src2, s.src3].take n).all (srcOk d j))
      || ((s.op == 0x38 || s.op == 0x39) && !last)
      || !(if s.op = 0x38 then mxCode s.fmt else stageFmtOk s.fmt)
      || (s.fmt == 0 && [0x20, 0x21, 0x24, 0x25, 0x26, 0x27].contains s.op)
      || (s.op == 0x39 && (!own || !([s.src1, s.src2].all fun c => match srcFmt d c with
            | some f => accFmtOk wide f
            | none => true)))
      || (last && d.go.en && d.go.fmt != s.fmt)

/-- R226: a descriptor raises ILLOP, its reserved bits apart; the format and ROWLEN of a stream are checked whether or not it is
enabled. -/
def descBad (d : SDesc) (wide own armed : Bool) : Bool :=
  d.n == 0 || (armed && d.repeats == 0)
    || ((List.range 8).any fun j => !(constFmtOk (constFmt d j)))
    || ([d.ga, d.gb, d.gc, d.go].any fun g => !(streamFmtOk g.fmt) || (mxCode g.fmt && g.rowlen % 32 != 0))
    || (d.stages.zipIdx.any fun e => stageBad d wide own e.2 e.1)

/-- R237: firing k of a descriptor. -/
def advanceDesc (d : SDesc) (k : Nat) : SDesc :=
  let mv (g : SGeom) (a : Int) : SGeom := { g with addr := (((g.addr : Int) + k * a) % 2 ^ 64).toNat }
  { d with ga := mv d.ga d.advA, gb := mv d.gb d.advB, gc := mv d.gc d.advC, go := mv d.go d.advO,
           ibase := (d.ibase + k * d.idxadv) % 2 ^ 48 }

/-- R223: the format of a stream. -/
def geomFmt (g : SGeom) : Fmt := (fmtOfCode g.fmt).getD .fp64

/-- R223: row and column of position p. -/
def rowCol (g : SGeom) (p : Nat) : Nat × Nat := if g.rowlen = 0 then (0, p) else (p / g.rowlen, p % g.rowlen)

/-- R223: the byte of position p's element and the bit of it at which the element begins. -/
def elemPlace (g : SGeom) (p : Nat) : Nat × Nat :=
  let (r, c0) := rowCol g p
  let c := if g.bcol then 0 else c0
  let bit := c * fmtBits (geomFmt g)
  ((g.addr + r * g.rowstride + bit / 8) % 2 ^ 64, bit % 8)

/-- R223: the address of position p's scale byte. -/
def scalePlace (g : SGeom) (p : Nat) : Nat :=
  let (r, c0) := rowCol g p
  let c := if g.bcol then 0 else c0
  (g.scale + r * (g.rowlen / 32) + c / 32) % 2 ^ 64

/-- R221, R223: the bytes that stream `g` can reach over n positions: elements, and scales of an MX stream, row by row. -/
def geomSpans (g : SGeom) (n : Nat) : List (Nat × Nat) :=
  if !g.en then []
  else
    let rows := if g.rowlen = 0 then 1 else if g.rowstride = 0 && !(mxCode g.fmt) then 1 else (n + g.rowlen - 1) / g.rowlen
    ((List.range rows).map fun r =>
      let cols := if g.bcol then 1 else if g.rowlen = 0 then n else min g.rowlen (n - r * g.rowlen)
      (g.addr + r * g.rowstride, (cols * fmtBits (geomFmt g) + 7) / 8)
        :: (if mxCode g.fmt then [(g.scale + r * (g.rowlen / 32), (cols + 31) / 32)] else [])).flatten

/-- R227: the exact value of position p of an input stream. -/
def streamVal (s : State) (c t : Nat) (g : SGeom) (p : Nat) : FVal :=
  if !g.en then fZero
  else
    let f := geomFmt g
    let (a, b) := elemPlace g p
    let raw := leNat (unitRead s c t a ((fmtBits f + 7) / 8))
    let sc := if fmtIsMx f then leNat (unitRead s c t (scalePlace g p) 1) else 0
    elemVal f sc (field raw b (fmtBits f))

/-- R241: whether position p of an input stream is poisoned. -/
def streamPoison (s : State) (c t : Nat) (g : SGeom) (p : Nat) : Bool :=
  g.en && (unitPoison s c t (elemPlace g p).1 ((fmtBits (geomFmt g) + 7) / 8)
    || (mxCode g.fmt && unitPoison s c t (scalePlace g p) 1))

/-- R252: the words that a group's positions of one input stream touch, decoded. -/
def streamDecode (s : State) (c t : Nat) (g : SGeom) (pos n : Nat) : State :=
  if !g.en || (s.flaws.isEmpty && s.unseen.isEmpty) then s
  else (List.range n).foldl (fun s i =>
    let s1 := unitDecode s c t (elemPlace g (pos + i)).1 ((fmtBits (geomFmt g) + 7) / 8)
    if mxCode g.fmt then unitDecode s1 c t (scalePlace g (pos + i)) 1 else s1) s

/-- R252: the words that a group of a pass touches, decoded. -/
def groupDecode (s : State) (c t : Nat) (d : SDesc) (pos : Nat) : State :=
  let n := min 256 (d.n - pos)
  streamDecode (streamDecode (streamDecode s c t d.ga pos n) c t d.gb pos n) c t d.gc pos n

/-- What a chain has computed for one position: what each stage passed on, the pattern of the last stage, whether the position is
written, its flags and the first source of the last stage. -/
structure Chain where
  vals : List FVal
  pat : Nat
  wr : Bool
  fl : FFlags
  s1 : FVal
  s2 : FVal
  deriving DecidableEq, Repr

/-- R43, R225: the rounding of a stage at position p. -/
def stageRound (d : SDesc) (seed : Word) (s : SStage) (p : Nat) : RoundCtx :=
  { rm := s.rm, sat := s.sat, draw := krg seed ((d.ibase + p) % 2 ^ 48) s.key }

/-- R224, R227: the operand a source code names. A constant in an MX format is its element pattern with scale 0x7F, 2^0 (DESIGN CHOICE,
entry 126). -/
def srcVal (d : SDesc) (a b c : FVal) (vals : List FVal) (code : Nat) : FVal :=
  match code with
  | 0 => a
  | 1 => b
  | 2 => c
  | 3 => fZero
  | 4 => fOne
  | _ =>
    if code < 16 then
      let f := (fmtOfCode (constFmt d (code - 8))).getD .fp64
      elemVal f 0x7F (d.ks.getD (code - 8) 0 % 2 ^ fmtBits f)
    else vals.getD (code - 16) fZero

/-- R227, R228: the chain of a descriptor at position p. A QBLK stage is left to its block. -/
def runChain (d : SDesc) (seed : Word) (p : Nat) (a b c : FVal) : Chain :=
  d.stages.zipIdx.foldl (fun ch e =>
    let s := e.1
    let last := e.2 + 1 == d.stages.length
    let get := srcVal d a b c ch.vals
    let s1 := get s.src1
    let s2 := get s.src2
    if s.op = 0x38 then { ch with s1 := s1, s2 := s2 }
    else
      let f := if s.carry && !last then .fp32 else (fmtOfCode s.fmt).getD .fp64
      let (pat, g) := stageOp s.op f (stageRound d seed s p) s1 s2 (get s.src3)
      { vals := ch.vals ++ [elemVal f 0 pat], pat := pat, wr := ch.wr && (s.op != 0x31 || nonZero s2),
        fl := flagsOr ch.fl g, s1 := s1, s2 := s2 })
    { vals := [], pat := 0, wr := true, fl := noFlags, s1 := fZero, s2 := fZero }

/-- R232: a pattern of a format with −0 written as +0. -/
def plusZero (f : Fmt) (pat : Nat) : Nat := if fIsZero (elemVal f 127 pat) then 0 else pat

/-- The last stage of a descriptor. -/
def lastStage (d : SDesc) : SStage := d.stages.getLast?.getD {}

/-- R231: whether the descriptor ends in a QBLK. -/
def isQblk (d : SDesc) : Bool := (lastStage d).op == 0x38
/-- R231: whether the descriptor ends in a ROWRED. -/
def isRowred (d : SDesc) : Bool := (lastStage d).op == 0x39

/-- R231: the block of positions 32 k on, quantised: scale, elements and flags. -/
def quantAt (d : SDesc) (seed : Word) (k : Nat) (s1 : Nat → FVal) : Nat × List Nat × FFlags :=
  let st := lastStage d
  let ps := (List.range 32).map fun i => 32 * k + i
  quantiseBlock ((fmtOfCode st.fmt).getD .mxfp4) (ps.map (stageRound d seed st))
    (ps.map fun p => if p < d.n then s1 p else fZero)

/-- R231, R244, R246: whether the ROWRED of a descriptor adds: the unit is of the thread's world and of a kind its sources enter. -/
def rowredOk (ru : RedUnit) (w : World) (d : SDesc) : Bool :=
  ru.held == w && ([(lastStage d).src1, (lastStage d).src2].all fun c => match srcFmt d c with
    | some f => accFmtOk ru.kind f
    | none => true)

/-- R231: the accumulators and values that position p's ROWRED adds. -/
def rowredAdds (ru : RedUnit) (d : SDesc) (p : Nat) (ch : Chain) : List (Nat × FVal) :=
  let st := lastStage d
  let n := if ru.kind then 16 else 64
  let r := (rowCol d.go p).1
  (if st.src1 = 3 then [] else [((st.base1 + r) % n, ch.s1)])
    ++ (if st.src2 = 3 then [] else [((st.base2 + r) % n, ch.s2)])

/-- R59, R243: the kind of the reduction unit's accumulators. -/
def ruKind (wide : Bool) : AccKind := if wide then .la64 else .la16

/-- R61: values added into a reduction unit's accumulators. -/
def addAll (ru : RedUnit) (l : List (Nat × FVal)) : RedUnit :=
  l.foldl (fun r e => { r with acc := tabMod {} r.acc e.1 fun a => accAdd (ruKind r.kind) a e.2 }) ru

/-- R232: the write of an element pattern to position p of the output, where the scratchpad lets it: LOCAL address and bytes; a
nibble beside one that stays is merged with the byte as it stands. -/
def outWrite (s : State) (c t : Nat) (d : SDesc) (p pat : Nat) : List (Nat × List Byte) :=
  let f := geomFmt d.go
  let (va, b) := elemPlace d.go p
  if fmtBits f = 4 then
    match unitSpad s c t [rWR] va 1 with
    | some a =>
      let o := (readByte s.mem a).toNat
      [(a, [BitVec.ofNat 8 (o - field o b 4 * 2 ^ b + pat % 16 * 2 ^ b)])]
    | none => []
  else match unitSpad s c t [rWR] va (fmtBits f / 8) with
    | some a => [(a, natLe (fmtBits f / 8) pat)]
    | none => []

/-- What one group of positions gives: its writes, flags and additions, and whether it read poison. -/
structure GroupOut where
  writes : List (Nat × List Byte)
  fl : FFlags
  adds : List (Nat × FVal)
  poison : Bool
  deriving DecidableEq, Repr

/-- R69, R231, R232: the writes of the QBLK blocks of a group that begins at a multiple of 256, −0 as +0; both nibbles of a byte are
written together where two positions have them. -/
def qblkOut (s : State) (c t : Nat) (d : SDesc) (seed : Word) (ps : List Nat) (ch : Nat → Chain) :
    List (Nat × List Byte) × FFlags :=
  let f := geomFmt d.go
  let first := (ps.headD 0) / 32
  (List.range ((ps.length + 31) / 32)).foldl (fun acc i =>
    let k := first + i
    let (sc, els, g) := quantAt d seed k fun p => (ch p).s1
    let wr (p : Nat) : Bool := ps.contains p && (ch p).wr
    let el (p : Nat) : Nat := plusZero f (els.getD (p - 32 * k) 0)
    let elems := ((List.range 32).map fun j => 32 * k + j).filter wr |>.map fun p =>
      if fmtBits f = 4 && !d.go.bcol && wr (p - p % 2) && wr (p - p % 2 + 1) then
        (if p % 2 = 0 then
          match unitSpad s c t [rWR] (elemPlace d.go p).1 1 with
          | some a => [(a, [BitVec.ofNat 8 (el p % 16 + el (p + 1) % 16 * 16)])]
          | none => []
        else [])
      else outWrite s c t d p (el p)
    let scale := match unitSpad s c t [rWR] ((d.go.scale + k) % 2 ^ 64) 1 with
      | some a => [(a, [BitVec.ofNat 8 sc])]
      | none => []
    (acc.1 ++ (if d.go.en then elems.flatten ++ scale else []), flagsOr acc.2 g)) ([], noFlags)

/-- R227 to R232: the group of positions that begins at `pos`, read and computed. -/
def runGroup (s : State) (c : Nat) (r : SeRun) (d : SDesc) : GroupOut :=
  let k := coreOf s c
  let t := r.ent.t
  let ps := (List.range (min 256 (d.n - r.pos))).map fun i => r.pos + i
  let ch (p : Nat) : Chain := runChain d r.ent.seed p (streamVal s c t d.ga p) (streamVal s c t d.gb p) (streamVal s c t d.gc p)
  let f := (fmtOfCode (lastStage d).fmt).getD .fp64
  let fl := allFlags (ps.map fun p => (ch p).fl)
  let adds := if isRowred d && rowredOk k.ru (worldOf k t) d then (ps.map fun p => rowredAdds k.ru d p (ch p)).flatten else []
  let poison := ps.any fun p => [d.ga, d.gb, d.gc].any fun g => streamPoison s c t g p
  if isQblk d then
    let (w, g) := qblkOut s c t d r.ent.seed ps ch
    { writes := w, fl := flagsOr fl g, adds := adds, poison := poison }
  else
    { writes := if d.go.en then
        (ps.filter fun p => (ch p).wr).map (fun p => outWrite s c t d p (plusZero f (ch p).pat)) |>.flatten
      else []
      fl := fl, adds := adds, poison := poison }

/-- R234: the input bytes of one position of a stream, in 32nds of a byte; zero where the broadcast buffer holds it. -/
def inCost (g : SGeom) (n : Nat) : Nat :=
  if !g.en then 0
  else
    let b := 4 * fmtBits (geomFmt g) + (if mxCode g.fmt then 1 else 0)
    if g.bcol || (g.rowstride = 0 && decide ((if g.rowlen = 0 then n else g.rowlen) * b ≤ 1024 * 32)) then 0 else b

/-- R234: E0. -/
def rateCap (d : SDesc) : Nat :=
  let st := lastStage d
  let two := isRowred d && st.src1 != 3 && st.src2 != 3
  let one := isRowred d && (st.src1 != 3 || st.src2 != 3)
  let wide := (d.stages.any fun s => s.fmt == 0) || ([d.ga, d.gb, d.gc, d.go].any fun g => g.en && (g.fmt == 0 || g.fmt == 0xD))
  if two then 64 else if one || wide then 128 else 256

/-- R234: w, in units of a 32nd of a byte: the output bytes per position. -/
def outCost (d : SDesc) : Nat :=
  if d.go.en then 4 * fmtBits (geomFmt d.go) + (if mxCode d.go.fmt then 1 else 0) else 0

/-- R234: E, with every byte of both ports left to the engine. -/
def rateOf (d : SDesc) : Nat :=
  let r := inCost d.ga d.n + inCost d.gb d.n + inCost d.gc d.n
  let w := outCost d
  max 1 (min (rateCap d) (min (if r = 0 then 256 else 2048 * 32 / r) (if w = 0 then 256 else 1024 * 32 / w)))

/-- R235: L. -/
def writeDelay (d : SDesc) : Nat := 8 + 4 * d.stages.length + (if isQblk d then 4 else 0)

end Sys2Proof.Machine
end

