-- ==== Sys2Proof/Machine/VectorArith.lean ====
section
/-!
DEFINITION. Sys2Proof/Machine/VectorArith.lean: the vector instructions on registers (R142 to R173): arithmetic, compares, widening
forms, conversions, permutes, reductions, lengths and masks. A pass computes its result from the operands as they stand in its first
clock (R157), and VECTOR_WRITE writes it.
-/

namespace Sys2Proof.Machine

/-- R151: the formats of VFP, VFPS, VFMA and the VCMP F-forms. -/
def fpFormat (f : Fmt) : Bool := fmtIsIeee f

/-- R151: the formats of VINT, VINTS and the VCMP I-forms. -/
def intFormat (f : Fmt) : Bool := fmtIsInt f && f != .uint8

/-- R160 to R162: the floating-point operations of VFP and VFPS. -/
inductive VfpOp where
  | add | sub | mul | div | sqrt | min | max | minnum | maxnum | abs | neg | copysign
  deriving DecidableEq, Repr

/-- R58: the number-preferring minimum or maximum `op`: a NaN operand gives way to a number. -/
def preferNum (op : FVal → FVal → FVal) (a b : FVal) : FVal × FFlags :=
  let nv : FFlags := { nnv := fIsSnan a || fIsSnan b }
  if fIsNan a && fIsNan b then (a, nv)
  else if fIsNan a then (b, nv)
  else if fIsNan b then (a, nv)
  else (op a b, noFlags)

/-- R160 to R163: one element of VFP or VFPS: the patterns of the operands in, the pattern of the result and its flags out. -/
def vfpElem (op : VfpOp) (ff : FloatFmt) (rc : RoundCtx) (pa pb : Nat) : Nat × FFlags :=
  let a := floatVal ff pa
  let b := floatVal ff pb
  let sgn := 2 ^ (ff.ebits + ff.fbits)
  let deliver (r : FVal × FFlags) : Nat × FFlags :=
    let (p, g) := toFloat ff rc true r.1
    (p, flagsOr g r.2)
  match op with
  | .add => deliver (withNans [a, b] (addVal rc.rm a b))
  | .sub => deliver (withNans [a, b] (addVal rc.rm a (negVal b)))
  | .mul => deliver (withNans [a, b] (mulVal a b))
  | .div => if fIsNan a || fIsNan b then deliver (withNans [a, b] (a, noFlags)) else divTo ff rc a b
  | .sqrt => if fIsNan a then deliver (withNans [a] (a, noFlags)) else sqrtTo ff rc a
  | .min => deliver (withNans [a, b] (minVal a b, noFlags))
  | .max => deliver (withNans [a, b] (maxVal a b, noFlags))
  | .minnum => deliver (preferNum minVal a b)
  | .maxnum => deliver (preferNum maxVal a b)
  | .abs => (pa % sgn, noFlags)
  | .neg => ((pa + sgn) % (2 * sgn), noFlags)
  | .copysign => (pa % sgn + (if bitAt pb (ff.ebits + ff.fbits) then sgn else 0), noFlags)

/-- A vector instruction on registers: every active element below n of width w gets the pattern of `f`; the flags of all of them
are collected (R153, R164). -/
def vecResult (old : BitVec 8192) (m : BitVec 1024) (n w : Nat) (f : Nat → Nat × FFlags) : BitVec 8192 × FFlags :=
  (buildV old w fun i => if activeAt m n i then some (f i).1 else none,
    allFlags ((actives m n).map fun i => (f i).2))

/-- What a vector instruction on registers does: the registers it reads besides its destination and those it writes, and what its pass
gives from the thread's registers: the destination with its value and the flags, or none where the instruction raises ILLOP. -/
structure VBody where
  regs : List Reg
  dst : List Reg
  run : Thread → State → Option (VDst × FFlags)

/-- R160, R162: whether an operation reads its second operand. -/
def vfpReadsB : VfpOp → Bool
  | .sqrt => false
  | .abs => false
  | .neg => false
  | _ => true

/-- R125, R160: VFP and VFPS. -/
def vfp (op : VfpOp) (vd va vb : BitVec 5) (rm : BitVec 3) (mk : BitVec 4) (sf : Bool) : VBody :=
  ⟨[.v va] ++ (if vfpReadsB op then [.v vb] else []) ++ maskReg mk, [.v vd], fun x s =>
    let f := vfmtOf x
    if !(fpFormat f) then none
    else
      let (r, g) := vecResult (getV x vd) (getM x mk) x.vl (fmtBits f) fun i =>
        vfpElem op (fmtFloat f) (vecRound x (seedOf s x) rm x.sat i) (elemAt (getV x va) (fmtBits f) i)
          (elemAt (getV x vb) (fmtBits f) (bIndex sf i))
      some (.v vd r, g)⟩

/-- R165: VINT and VINTS: `f` works on patterns of width w; VINTS takes the low bits of Sb. -/
def vint (f : Nat → Nat → Nat → Nat) (vd va vb : BitVec 5) (mk : BitVec 4) (sf : Bool) : VBody :=
  ⟨[.v va] ++ (if sf then [.s vb] else [.v vb]) ++ maskReg mk, [.v vd], fun x _ =>
    let fm := vfmtOf x
    if !(intFormat fm) then none
    else
      let w := fmtBits fm
      let (r, g) := vecResult (getV x vd) (getM x mk) x.vl w fun i =>
        (f w (elemAt (getV x va) w i) (if sf then (getS x vb).toNat % 2 ^ w else elemAt (getV x vb) w i) % 2 ^ w, noFlags)
      some (.v vd r, g)⟩

/-- R154: a comparison of two values: whether it holds and its flags. `quiet` says that a quiet NaN raises nothing. -/
def cmpElem (quiet onNan : Bool) (p : Ordering → Bool) (a b : FVal) : Bool × FFlags :=
  if fIsNan a || fIsNan b then (onNan, { nnv := !quiet || fIsSnan a || fIsSnan b })
  else (p (cmpVal a b), noFlags)

/-- R154: bits of a mask by their number. -/
def buildM (f : Nat → Bool) : BitVec 1024 := BitVec.ofNat 1024 (packElems 1 ((List.range 1024).map fun i => b2n (f i)))

/-- R113, R125, R154: VCMP: `f` compares two patterns; d[4] is reserved. -/
def vcmp (ok : Fmt → Bool) (f : Fmt → Nat → Nat → Bool × FFlags) (vd va vb : BitVec 5) (mk : BitVec 4) : VBody :=
  ⟨[.v va, .v vb] ++ maskReg mk, maskReg (vd.truncate 4), fun x _ =>
    let fm := vfmtOf x
    if !(ok fm) || vd.getLsbD 4 then none
    else
      let w := fmtBits fm
      let r (i : Nat) := f fm (elemAt (getV x va) w i) (elemAt (getV x vb) w i)
      some (.m (vd.truncate 4) (buildM fun i => activeAt (getM x mk) x.vl i && (r i).1),
        allFlags ((actives (getM x mk) x.vl).map fun i => (r i).2))⟩

/-- R154: an FP comparison on patterns. -/
def fcmp (quiet onNan : Bool) (p : Ordering → Bool) (f : Fmt) (a b : Nat) : Bool × FFlags :=
  cmpElem quiet onNan p (floatVal (fmtFloat f) a) (floatVal (fmtFloat f) b)

/-- R154: a signed integer comparison on patterns. -/
def icmp (p : Int → Int → Bool) (f : Fmt) (a b : Nat) : Bool × FFlags := (p (intVal f a) (intVal f b), noFlags)

/-- R166: a widening form: the formats it takes, its group size, destination format and number of destination elements. -/
structure Widen where
  src : Fmt → Bool
  g : Nat
  dst : Fmt
  n : Nat → Nat

/-- R166. -/
def wMulBf : Widen := ⟨(· == .bf16), 1, .fp32, fun vl => min vl 256⟩
/-- R166. -/
def wMulS : Widen := ⟨(· == .fp32), 1, .fp64, fun vl => min vl 128⟩
/-- R166. -/
def wMulH : Widen := ⟨(· == .int16), 1, .int32, fun vl => min vl 256⟩
/-- R166. -/
def wDot2 : Widen := ⟨(· == .bf16), 2, .fp32, fun vl => vl / 2⟩
/-- R166. -/
def wDot4 : Widen := ⟨fun f => f == .e4m3 || f == .e5m2, 4, .fp32, fun vl => vl / 4⟩
/-- R166. -/
def wDot8 : Widen := ⟨(· == .mxfp4), 8, .fp32, fun vl => vl / 8⟩
/-- R166. -/
def wDotI8 : Widen := ⟨(· == .int8), 4, .int32, fun vl => vl / 4⟩

/-- R167: the exact sum of values that are no NaN; an exact zero has the sign that R167 gives. -/
def sumTerms (rm : Rm) (ts : List FVal) : FVal × FFlags :=
  let (v, g) := ts.foldl (fun a t =>
    let (r, g) := addVal .rne a.1 t
    (r, flagsOr a.2 g)) (fZero, noFlags)
  if fIsZero v && !g.nnv then
    (.fin (ts.all fSign || rm == .rdn) 0 0, noFlags)
  else (v, g)

/-- R56, R167, R168: one floating-point destination element: the products of the operand pairs and, in an accumulating form,
the old element. -/
def dotElem (ff : FloatFmt) (rc : RoundCtx) (ps : List (FVal × FVal)) (old : Option FVal) (mxNan : Bool) :
    Nat × FFlags :=
  let ops := (ps.map fun p => [p.1, p.2]).flatten ++ old.toList
  if mxNan then (canonNan ff, flagNv)
  else match firstNan ops with
    | some v =>
      let (p, _) := toFloat ff rc true v
      (p, { nnv := ops.any fIsSnan })
    | none =>
      let prods := ps.map fun p => mulVal p.1 p.2
      if prods.any fun r => r.2.nnv then (canonNan ff, flagNv)
      else
        let (v, g) := sumTerms rc.rm (prods.map (·.1) ++ old.toList)
        let (p, g') := toFloat ff rc true v
        (p, flagsOr g g')

/-- R125, R166 to R169: VWDOT; `accf` adds the old destination element before the rounding. -/
def vwdot (k : Widen) (vd va vb : BitVec 5) (rm : BitVec 3) (mk : BitVec 4) (accf : Bool) : VBody :=
  ⟨[.v va, .v vb] ++ maskReg mk, [.v vd], fun x s =>
    let fm := vfmtOf x
    if !(k.src fm) then none
    else
      let w := fmtBits k.dst
      let pair (i j : Nat) := (vecVal fm (getV x va) (k.g * i + j), vecVal fm (getV x vb) (k.g * i + j))
      let (r, g) := vecResult (getV x vd) (getM x mk) (k.n x.vl) w fun i =>
        if fmtIsInt k.dst then
          let p (j : Nat) := intVal fm (elemAt (getV x va) (fmtBits fm) (k.g * i + j))
            * intVal fm (elemAt (getV x vb) (fmtBits fm) (k.g * i + j))
          let sum := ((List.range k.g).map p).foldl (· + ·) (if accf then sint w (elemAt (getV x vd) w i) else 0)
          (wrapInt w sum, noFlags)
        else
          dotElem (fmtFloat k.dst) (vecRound x (seedOf s x) rm x.sat i) ((List.range k.g).map (pair i))
            (if accf then some (floatVal (fmtFloat k.dst) (elemAt (getV x vd) w i)) else none)
            (fmtIsMx fm && (scaleAt (getV x va) (k.g * i / 32) == 255 || scaleAt (getV x vb) (k.g * i / 32) == 255))
      some (.v vd r, g)⟩

/-- R144: an MX register with every byte outside its elements and scales zero. -/
def mxClean (f : Fmt) (v : BitVec 8192) : BitVec 8192 :=
  let blocks := if f = .mxfp4 then 32 else 16
  BitVec.ofNat 8192 (field v.toNat 0 4096 + field v.toNat 4096 (8 * blocks) * 2 ^ 4096)

/-- R170: VCVT to an MX format: block by block. -/
def cvtToMx (x : Thread) (seed : Word) (rm : BitVec 3) (sat : Bool) (src dst : Fmt) (a old : BitVec 8192)
    (m : BitVec 1024) (n : Nat) : BitVec 8192 × FFlags :=
  let w := fmtBits dst
  let blocks := if dst = .mxfp4 then 32 else 16
  let act (b : Nat) := (List.range 32).any fun j => activeAt m n (32 * b + j)
  let quant (b : Nat) := quantiseBlock dst ((List.range 32).map fun j => vecRound x seed rm sat (32 * b + j))
    ((List.range 32).map fun j => if activeAt m n (32 * b + j) then vecVal src a (32 * b + j) else fZero)
  let qs := (List.range blocks).map fun b => if act b then some (quant b) else none
  let elem (i : Nat) : Nat :=
    match (qs.getD (i / 32) none) with
    | none => elemAt old w i
    | some q =>
      if activeAt m n i then q.2.1.getD (i % 32) 0
      else if i < n then elemAt old w i
      else 0
  let scale (b : Nat) : Nat :=
    match qs.getD b none with
    | none => scaleAt old b
    | some q => q.1
  (BitVec.ofNat 8192 (packElems w ((List.range (4096 / w)).map elem) % 2 ^ 4096
      + packElems 8 ((List.range blocks).map scale) * 2 ^ 4096),
    allFlags (qs.map fun q => match q with | some r => r.2.2 | none => noFlags))

/-- R29, R113, R151, R170: VCVT from VFMT to TFMT. -/
def vcvt (vd va : BitVec 5) (tfmt : BitVec 4) (sat : Bool) (rm : BitVec 3) (mk : BitVec 4) (rsv4 : BitVec 4) : VBody :=
  ⟨[.v va] ++ maskReg mk, [.v vd], fun x s =>
    match fmtOfCode tfmt.toNat with
    | none => none
    | some dst =>
      let src := vfmtOf x
      if src = .e8m0 || dst = .e8m0 || rsv4 != 0#4 then none
      else
        let n := min x.vl (vlMax dst)
        if fmtIsMx dst then
          let (r, g) := cvtToMx x (seedOf s x) rm sat src dst (getV x va) (getV x vd) (getM x mk) n
          some (.v vd r, g)
        else
          let (r, g) := vecResult (getV x vd) (getM x mk) n (fmtBits dst) fun i =>
            toElem dst (vecRound x (seedOf s x) rm sat i) true (vecVal src (getV x va) i)
          some (.v vd r, g)⟩

/-- R125, R160: VFMA, one rounding; bits [1:0] are reserved. -/
def vfma (vd va vb : BitVec 5) (rm : BitVec 3) (mk : BitVec 4) (negp negc : Bool) (rsv2 : BitVec 2) : VBody :=
  ⟨[.v va, .v vb] ++ maskReg mk, [.v vd], fun x s =>
    let f := vfmtOf x
    if !(fpFormat f) || rsv2 != 0#2 then none
    else
      let w := fmtBits f
      let ff := fmtFloat f
      let (r, g) := vecResult (getV x vd) (getM x mk) x.vl w fun i =>
        let a := floatVal ff (elemAt (getV x va) w i)
        let b := floatVal ff (elemAt (getV x vb) w i)
        let d := floatVal ff (elemAt (getV x vd) w i)
        let rc := vecRound x (seedOf s x) rm x.sat i
        let fma :=
          let (p, g) := mulVal a b
          if g.nnv then (defaultNan, flagNv)
          else addVal rc.rm (if negp then negVal p else p) (if negc then negVal d else d)
        let (v, g) := withNans [a, b, d] fma
        let (q, g') := toFloat ff rc true v
        (q, flagsOr g g')
      some (.v vd r, g)⟩

/-- R151: the formats of VGS and VPERM. -/
def permFormat (f : Fmt) : Bool := !(fmtIsMx f)

/-- R113, R171: a permute: `f` gives the new patterns by element from SEL, the width, n, the mask and the patterns of Va and
Vb; RM[2:1] must be zero. `readsB` says that it reads Vb. -/
def vperm (readsB : Bool) (f : Bool → Nat → Nat → BitVec 1024 → (Nat → Nat) → (Nat → Nat) → Nat → Option Nat)
    (vd va vb : BitVec 5) (rm : BitVec 3) (mk : BitVec 4) : VBody :=
  ⟨[.v va] ++ (if readsB then [.v vb] else []) ++ maskReg mk, [.v vd], fun x _ =>
    let fm := vfmtOf x
    if !(permFormat fm) || rm.getLsbD 1 || rm.getLsbD 2 then none
    else
      let w := fmtBits fm
      let g := f (rm.getLsbD 0) w x.vl (getM x mk) (elemAt (getV x va) w) (elemAt (getV x vb) w)
      let l := (List.range (8192 / w)).map g
      some (.v vd (buildV (getV x vd) w fun i => l.getD i none), noFlags)⟩

/-- R171: index(Vb, i). -/
def permIndex (w : Nat) (b : Nat → Nat) (i : Nat) : Nat := if w = 8 then 256 * (i / 256) + b i else b i

/-- R151: the formats of VRED. -/
def redFormat (f : Fmt) : Bool := fpFormat f || intFormat f

/-- R172: the exact sum of the active elements with its special cases, as a pattern of format f. -/
def sumReduce (f : Fmt) (rc : RoundCtx) (vs : List FVal) : Nat × FFlags :=
  let ff := fmtFloat f
  let nv : FFlags := { nnv := vs.any fIsSnan }
  match firstNan vs with
  | some v => ((toFloat ff rc true v).1, nv)
  | none =>
    let (v, g) := vs.foldl (fun a t =>
      let (r, g) := addVal .rne a.1 t
      (r, flagsOr a.2 g)) (fZero, noFlags)
    if g.nnv then (canonNan ff, flagNv)
    else if fIsZero v then (signBit ff (!vs.isEmpty && vs.all fSign), noFlags)
    else toFloat ff rc true v

/-- R172, R173: a reduction into Fd: `fl` reduces values, `it` integers. -/
def vred (fl : Fmt → RoundCtx → List FVal → Nat × FFlags) (it : List Int → Int) (vd va : BitVec 5)
    (rm : BitVec 3) (mk : BitVec 4) : VBody :=
  ⟨[.v va] ++ maskReg mk, [.v vd], fun x s =>
    let f := vfmtOf x
    if !(redFormat f) then none
    else
      let w := fmtBits f
      let act := actives (getM x mk) x.vl
      let (r, g) := if intFormat f then (wrapInt w (it (act.map fun i => intVal f (elemAt (getV x va) w i))), noFlags)
        else fl f (vecRound x (seedOf s x) rm x.sat 0) (act.map fun i => floatVal (fmtFloat f) (elemAt (getV x va) w i))
      some (.v vd (setElem0 (getV x vd) w r), g)⟩

/-- R173: the minimum or maximum of values, NaN elements first. -/
def extReduce (op : FVal → FVal → FVal) (f : Fmt) (rc : RoundCtx) (vs : List FVal) : Nat × FFlags :=
  match vs with
  | [] => (0, noFlags)
  | v :: rest =>
    let (r, g) := withNans vs (rest.foldl op v, noFlags)
    ((toFloat (fmtFloat f) rc true r).1, g)

/-- The fold of a list of integers by a choice of one of two; 0 for none. -/
def foldInts (op : Int → Int → Int) : List Int → Int
  | [] => 0
  | v :: rest => rest.foldl op v

/-- R148: VL set to the least of a value and VLMAX. -/
def setVl (x : Thread) (v : Nat) : Thread := { x with vl := min v (vlMax (vfmtOf x)) }

/-- R148: VFMT set to a format code other than 0xF, and VL limited to its VLMAX. -/
def setVfmt (x : Thread) (code : BitVec 4) : Thread :=
  let y := { x with vfmt := code }
  { y with vl := min x.vl (vlMax (vfmtOf y)) }

/-- R148: VSETVL. -/
def execVsetvl (c : BitVec 8) (d a : BitVec 5) (s : State) : Out :=
  .next (issue c 4#18 [.s d, .s a] (fun t x s =>
    let y := setVl x (getS x a).toNat
    retire s c.toNat t (putS y d (BitVec.ofNat 64 y.vl)) (x.pc + 4#18) 3) s)
/-- R29, R148: VSETFMT; code 0xF raises ILLOP. -/
def execVsetfmt (c : BitVec 8) (a : BitVec 5) (s : State) : Out :=
  .next (issue c 4#18 [.s a] (fun t x s =>
    let code : BitVec 4 := (getS x a).truncate 4
    if code = 0xF#4 then illop s c.toNat t x 4#18 3
    else retire s c.toNat t (setVfmt x code) (x.pc + 4#18) 3) s)

/-- R125, R155: a mask operation on all 1,024 bits of the masks named by d[3:0], a[3:0] and b[3:0]. -/
def maskOp (f : BitVec 1024 → BitVec 1024 → BitVec 1024) (vd va vb : BitVec 5) : VBody :=
  ⟨maskReg (va.truncate 4) ++ maskReg (vb.truncate 4), maskReg (vd.truncate 4), fun x _ =>
    some (.m (vd.truncate 4) (f (getM x (va.truncate 4)) (getM x (vb.truncate 4))), noFlags)⟩

/-- R155: MCOUNT. -/
def mcount (d va : BitVec 5) : VBody :=
  ⟨maskReg (va.truncate 4), [.s d], fun x _ =>
    some (.s d (BitVec.ofNat 64 (actives (getM x (va.truncate 4)) x.vl).length), noFlags)⟩

/-- R155, R160 to R173: what each vector instruction on registers does; none for the others. -/
def vecBody : Instr → Option VBody
  | .vadd _ vd va vb rm mk sf => some (vfp .add vd va vb rm mk sf)
  | .vsub _ vd va vb rm mk sf => some (vfp .sub vd va vb rm mk sf)
  | .vmul _ vd va vb rm mk sf => some (vfp .mul vd va vb rm mk sf)
  | .vdiv _ vd va vb rm mk sf => some (vfp .div vd va vb rm mk sf)
  | .vsqrt _ vd va vb rm mk sf => some (vfp .sqrt vd va vb rm mk sf)
  | .vmin _ vd va vb rm mk sf => some (vfp .min vd va vb rm mk sf)
  | .vmax _ vd va vb rm mk sf => some (vfp .max vd va vb rm mk sf)
  | .vminnum _ vd va vb rm mk sf => some (vfp .minnum vd va vb rm mk sf)
  | .vmaxnum _ vd va vb rm mk sf => some (vfp .maxnum vd va vb rm mk sf)
  | .vabs _ vd va vb rm mk sf => some (vfp .abs vd va vb rm mk sf)
  | .vneg _ vd va vb rm mk sf => some (vfp .neg vd va vb rm mk sf)
  | .vcopysign _ vd va vb rm mk sf => some (vfp .copysign vd va vb rm mk sf)
  | .viadd _ vd va vb _ mk sf => some (vint (fun _ a b => a + b) vd va vb mk sf)
  | .visub _ vd va vb _ mk sf => some (vint (fun w a b => a + 2 ^ w - b) vd va vb mk sf)
  | .vimul _ vd va vb _ mk sf => some (vint (fun _ a b => a * b) vd va vb mk sf)
  | .vimulh _ vd va vb _ mk sf => some (vint (fun w a b => wrapInt w (sint w a * sint w b / 2 ^ w)) vd va vb mk sf)
  | .vimulhu _ vd va vb _ mk sf => some (vint (fun w a b => a * b / 2 ^ w) vd va vb mk sf)
  | .vand _ vd va vb _ mk sf => some (vint (fun _ a b => a &&& b) vd va vb mk sf)
  | .vor _ vd va vb _ mk sf => some (vint (fun _ a b => a ||| b) vd va vb mk sf)
  | .vxor _ vd va vb _ mk sf => some (vint (fun _ a b => a ^^^ b) vd va vb mk sf)
  | .vshl _ vd va vb _ mk sf => some (vint (fun w a b => a * 2 ^ (b % w)) vd va vb mk sf)
  | .vshr _ vd va vb _ mk sf => some (vint (fun w a b => a / 2 ^ (b % w)) vd va vb mk sf)
  | .vsra _ vd va vb _ mk sf => some (vint (fun w a b => wrapInt w (sint w a / 2 ^ (b % w))) vd va vb mk sf)
  | .vimin _ vd va vb _ mk sf => some (vint (fun w a b => if sint w b < sint w a then b else a) vd va vb mk sf)
  | .vimax _ vd va vb _ mk sf => some (vint (fun w a b => if sint w a < sint w b then b else a) vd va vb mk sf)
  | .viminu _ vd va vb _ mk sf => some (vint (fun _ a b => min a b) vd va vb mk sf)
  | .vimaxu _ vd va vb _ mk sf => some (vint (fun _ a b => max a b) vd va vb mk sf)
  | .feq _ vd va vb _ mk => some (vcmp fpFormat (fcmp true false (· == .eq)) vd va vb mk)
  | .fne _ vd va vb _ mk => some (vcmp fpFormat (fcmp true true (· != .eq)) vd va vb mk)
  | .flt _ vd va vb _ mk => some (vcmp fpFormat (fcmp false false (· == .lt)) vd va vb mk)
  | .fle _ vd va vb _ mk => some (vcmp fpFormat (fcmp false false (· != .gt)) vd va vb mk)
  | .fgt _ vd va vb _ mk => some (vcmp fpFormat (fcmp false false (· == .gt)) vd va vb mk)
  | .fge _ vd va vb _ mk => some (vcmp fpFormat (fcmp false false (· != .lt)) vd va vb mk)
  | .funord _ vd va vb _ mk => some (vcmp fpFormat (fcmp true true (fun _ => false)) vd va vb mk)
  | .ieq _ vd va vb _ mk => some (vcmp intFormat (icmp (fun a b => a == b)) vd va vb mk)
  | .ine _ vd va vb _ mk => some (vcmp intFormat (icmp (fun a b => a != b)) vd va vb mk)
  | .ilt _ vd va vb _ mk => some (vcmp intFormat (icmp (fun a b => decide (a < b))) vd va vb mk)
  | .ile _ vd va vb _ mk => some (vcmp intFormat (icmp (fun a b => decide (a ≤ b))) vd va vb mk)
  | .iltu _ vd va vb _ mk => some (vcmp intFormat (fun _ a b => (decide (a < b), noFlags)) vd va vb mk)
  | .ileu _ vd va vb _ mk => some (vcmp intFormat (fun _ a b => (decide (a ≤ b), noFlags)) vd va vb mk)
  | .vwmulBf _ vd va vb rm mk accf => some (vwdot wMulBf vd va vb rm mk accf)
  | .vwmulS _ vd va vb rm mk accf => some (vwdot wMulS vd va vb rm mk accf)
  | .vwmulH _ vd va vb rm mk accf => some (vwdot wMulH vd va vb rm mk accf)
  | .vdot2 _ vd va vb rm mk accf => some (vwdot wDot2 vd va vb rm mk accf)
  | .vdot4 _ vd va vb rm mk accf => some (vwdot wDot4 vd va vb rm mk accf)
  | .vdot8 _ vd va vb rm mk accf => some (vwdot wDot8 vd va vb rm mk accf)
  | .vdoti8 _ vd va vb rm mk accf => some (vwdot wDotI8 vd va vb rm mk accf)
  | .vpermute _ vd va vb rm mk => some (vperm true (fun _ w n m a b i =>
    if activeAt m n i then some (if permIndex w b i < n then a (permIndex w b i) else 0) else none) vd va vb rm mk)
  | .vrev _ vd va vb rm mk => some (vperm false (fun _ _ n m a _ i => if activeAt m n i then some (a (n - 1 - i)) else none) vd va vb rm mk)
  | .vzip _ vd va vb rm mk => some (vperm true (fun sel _ n m a b i =>
    let h := if sel then n / 2 else 0
    if activeAt m n i then some (if i % 2 = 0 then a (h + i / 2) else b (h + (i - 1) / 2)) else none) vd va vb rm mk)
  | .vunzip _ vd va vb rm mk => some (vperm true (fun sel _ n m a b i =>
    let j := 2 * i + b2n sel
    if activeAt m n i then some (if j < n then a j else b (j - n)) else none) vd va vb rm mk)
  | .vcompress _ vd va vb rm mk => some (vperm false (fun _ _ n m a _ i => ((actives m n)[i]?).map a) vd va vb rm mk)
  | .vexpand _ vd va vb rm mk => some (vperm false (fun _ _ n m a _ i => if activeAt m n i then some (a (actives m i).length) else none) vd va vb rm mk)
  | .vrsum _ vd va _ rm mk => some (vred sumReduce (foldInts (· + ·)) vd va rm mk)
  | .vrmin _ vd va _ rm mk => some (vred (extReduce minVal) (foldInts min) vd va rm mk)
  | .vrmax _ vd va _ rm mk => some (vred (extReduce maxVal) (foldInts max) vd va rm mk)
  | .mand _ vd va vb => some (maskOp (· &&& ·) vd va vb)
  | .mor _ vd va vb => some (maskOp (· ||| ·) vd va vb)
  | .mxor _ vd va vb => some (maskOp (· ^^^ ·) vd va vb)
  | .mnot _ vd va vb => some (maskOp (fun a _ => ~~~a) vd va vb)
  | .vcvt _ vd va tfmt sat rm mk rsv4 => some (vcvt vd va tfmt sat rm mk rsv4)
  | .vfma _ vd va vb rm mk negp negc rsv2 => some (vfma vd va vb rm mk negp negc rsv2)
  | .mcount _ d va => some (mcount d va)
  | _ => none

/-- R180: a pass of n elements at a rate per clock, at least one clock. -/
def passLen (n rate : Nat) : Nat := max 1 ((n + rate - 1) / rate)

/-- R180: the clocks of a widening form's pass, `rate` destination elements a clock, and its write delay. -/
def widenClocks (k : Widen) (rate vl : Nat) : Nat × Nat := (passLen (k.n vl) rate, 5)

/-- R125, R175, R180: a VMEM access is unit-stride where b names S0, and in an MX format. -/
def unitStride (f : Fmt) (b : BitVec 5) : Bool := b == 0#5 || fmtIsMx f

/-- R157, R180: the core clocks of an instruction's pass, in format `f` at length `vl`, and its write delay. -/
def vecClocks (i : Instr) (f : Fmt) (vl : Nat) : Nat × Nat :=
  let w := fmtBits f
  let bytes := 8192 / w
  let fp := (passLen vl bytes, 4)
  let fpSlow := (passLen vl (bytes / 8), 6)
  let sign := (passLen vl bytes, 2)
  let int := (passLen vl bytes, 3)
  let mul := (passLen vl (bytes / (w / 16)), 4)
  match i with
  | .vadd _ _ _ _ _ _ _ | .vsub _ _ _ _ _ _ _ | .vmul _ _ _ _ _ _ _ | .vmin _ _ _ _ _ _ _ | .vmax _ _ _ _ _ _ _
  | .vminnum _ _ _ _ _ _ _ | .vmaxnum _ _ _ _ _ _ _ | .vfma _ _ _ _ _ _ _ _ _ => fp
  | .feq _ _ _ _ _ _ | .fne _ _ _ _ _ _ | .flt _ _ _ _ _ _ | .fle _ _ _ _ _ _ | .fgt _ _ _ _ _ _ | .fge _ _ _ _ _ _
  | .funord _ _ _ _ _ _ => fp
  | .vdiv _ _ _ _ _ _ _ | .vsqrt _ _ _ _ _ _ _ => fpSlow
  | .vabs _ _ _ _ _ _ _ | .vneg _ _ _ _ _ _ _ | .vcopysign _ _ _ _ _ _ _ => sign
  | .vimul _ _ _ _ _ _ _ | .vimulh _ _ _ _ _ _ _ | .vimulhu _ _ _ _ _ _ _ =>
    if w ≤ 16 then (passLen vl bytes, 4) else mul
  | .vwmulBf _ _ _ _ _ _ _ => widenClocks wMulBf 256 vl
  | .vwmulH _ _ _ _ _ _ _ => widenClocks wMulH 256 vl
  | .vwmulS _ _ _ _ _ _ _ => widenClocks wMulS 128 vl
  | .vdot2 _ _ _ _ _ _ _ => widenClocks wDot2 256 vl
  | .vdot4 _ _ _ _ _ _ _ => widenClocks wDot4 256 vl
  | .vdoti8 _ _ _ _ _ _ _ => widenClocks wDotI8 256 vl
  | .vdot8 _ _ _ _ _ _ _ => widenClocks wDot8 128 vl
  | .vcvt _ _ _ tfmt _ _ _ _ =>
    let d := (fmtOfCode tfmt.toNat).getD .fp64
    let n := min vl (vlMax d)
    if fmtIsMx d then (passLen n 512, 4) else (passLen n (min (vlMax f) (vlMax d)), 4)
  | .vrev _ _ _ _ _ _ | .vzip _ _ _ _ _ _ | .vunzip _ _ _ _ _ _ => (2, 2)
  | .vpermute _ _ _ _ _ _ | .vcompress _ _ _ _ _ _ | .vexpand _ _ _ _ _ _ => (4, 2)
  | .vrsum _ _ _ _ _ _ | .vrmin _ _ _ _ _ _ | .vrmax _ _ _ _ _ _ => (4, 4)
  | .vrsumHo _ _ _ _ _ _ => (passLen vl 128, 0)
  | .vmemLoad _ _ _ b _ _ _ _ => if unitStride f b then (passLen vl (vlMax f), 4) else (passLen vl 32, 4)
  | .vmemStore _ _ _ b _ _ _ _ => if unitStride f b then (passLen vl (vlMax f), 0) else (passLen vl 16, 0)
  | .vgather _ _ _ _ _ _ _ _ => (passLen vl 32, 4)
  | .vscatter _ _ _ _ _ _ _ _ => (passLen vl 16, 0)
  | .mand _ _ _ _ | .mor _ _ _ _ | .mxor _ _ _ _ | .mnot _ _ _ _ | .mcount _ _ _ => (1, 1)
  | _ => int

/-- R75, R113, R156: a vector instruction on registers handed off; its format is checked then, and its pass computes its result. -/
def vecOp (i : Instr) (c : BitVec 8) (s : State) : State :=
  match vecBody i with
  | none => s
  | some b =>
    issue c 4#18 (b.regs ++ b.dst) (fun t x s =>
      match b.run x s with
      | none => illop s c.toNat t x 4#18 2
      | some _ => handVec s c.toNat t x b.dst i { t := t, pc := x.pc, kind := .op b.dst, flags := 0#5 } 0) s

/-- R45, R150, R157: what the pass of a queue entry gives in its first clock: what it writes, and the flags. -/
def vecGives (s : State) (c : Nat) (e : VEnt) : Option (VDst × BitVec 5) :=
  match e.instr.bind vecBody with
  | none => none
  | some b => (b.run (asLatched e (thOf s c e.t)) (seedLatched s c e)).map fun r => (r.1, vecBits r.2)

/-- R160: VADD. -/
def execVadd (c : BitVec 8) (vd va vb : BitVec 5) (rm : BitVec 3) (mk : BitVec 4) (sf : Bool) (s : State) : Out :=
  .next (vecOp (.vadd c vd va vb rm mk sf) c s)
/-- R160: VSUB. -/
def execVsub (c : BitVec 8) (vd va vb : BitVec 5) (rm : BitVec 3) (mk : BitVec 4) (sf : Bool) (s : State) : Out :=
  .next (vecOp (.vsub c vd va vb rm mk sf) c s)
/-- R160: VMUL. -/
def execVmul (c : BitVec 8) (vd va vb : BitVec 5) (rm : BitVec 3) (mk : BitVec 4) (sf : Bool) (s : State) : Out :=
  .next (vecOp (.vmul c vd va vb rm mk sf) c s)
/-- R160, R161: VDIV. -/
def execVdiv (c : BitVec 8) (vd va vb : BitVec 5) (rm : BitVec 3) (mk : BitVec 4) (sf : Bool) (s : State) : Out :=
  .next (vecOp (.vdiv c vd va vb rm mk sf) c s)
/-- R160, R161: VSQRT. -/
def execVsqrt (c : BitVec 8) (vd va vb : BitVec 5) (rm : BitVec 3) (mk : BitVec 4) (sf : Bool) (s : State) : Out :=
  .next (vecOp (.vsqrt c vd va vb rm mk sf) c s)
/-- R162: VMIN. -/
def execVmin (c : BitVec 8) (vd va vb : BitVec 5) (rm : BitVec 3) (mk : BitVec 4) (sf : Bool) (s : State) : Out :=
  .next (vecOp (.vmin c vd va vb rm mk sf) c s)
/-- R162: VMAX. -/
def execVmax (c : BitVec 8) (vd va vb : BitVec 5) (rm : BitVec 3) (mk : BitVec 4) (sf : Bool) (s : State) : Out :=
  .next (vecOp (.vmax c vd va vb rm mk sf) c s)
/-- R162: VMINNUM. -/
def execVminnum (c : BitVec 8) (vd va vb : BitVec 5) (rm : BitVec 3) (mk : BitVec 4) (sf : Bool) (s : State) : Out :=
  .next (vecOp (.vminnum c vd va vb rm mk sf) c s)
/-- R162: VMAXNUM. -/
def execVmaxnum (c : BitVec 8) (vd va vb : BitVec 5) (rm : BitVec 3) (mk : BitVec 4) (sf : Bool) (s : State) : Out :=
  .next (vecOp (.vmaxnum c vd va vb rm mk sf) c s)
/-- R162: VABS. -/
def execVabs (c : BitVec 8) (vd va vb : BitVec 5) (rm : BitVec 3) (mk : BitVec 4) (sf : Bool) (s : State) : Out :=
  .next (vecOp (.vabs c vd va vb rm mk sf) c s)
/-- R162: VNEG. -/
def execVneg (c : BitVec 8) (vd va vb : BitVec 5) (rm : BitVec 3) (mk : BitVec 4) (sf : Bool) (s : State) : Out :=
  .next (vecOp (.vneg c vd va vb rm mk sf) c s)
/-- R162: VCOPYSIGN. -/
def execVcopysign (c : BitVec 8) (vd va vb : BitVec 5) (rm : BitVec 3) (mk : BitVec 4) (sf : Bool) (s : State) : Out :=
  .next (vecOp (.vcopysign c vd va vb rm mk sf) c s)
/-- R165: VIADD. -/
def execViadd (c : BitVec 8) (vd va vb : BitVec 5) (rm : BitVec 3) (mk : BitVec 4) (sf : Bool) (s : State) : Out :=
  .next (vecOp (.viadd c vd va vb rm mk sf) c s)
/-- R165: VISUB. -/
def execVisub (c : BitVec 8) (vd va vb : BitVec 5) (rm : BitVec 3) (mk : BitVec 4) (sf : Bool) (s : State) : Out :=
  .next (vecOp (.visub c vd va vb rm mk sf) c s)
/-- R165: VIMUL. -/
def execVimul (c : BitVec 8) (vd va vb : BitVec 5) (rm : BitVec 3) (mk : BitVec 4) (sf : Bool) (s : State) : Out :=
  .next (vecOp (.vimul c vd va vb rm mk sf) c s)
/-- R165: VIMULH. -/
def execVimulh (c : BitVec 8) (vd va vb : BitVec 5) (rm : BitVec 3) (mk : BitVec 4) (sf : Bool) (s : State) : Out :=
  .next (vecOp (.vimulh c vd va vb rm mk sf) c s)
/-- R165: VIMULHU. -/
def execVimulhu (c : BitVec 8) (vd va vb : BitVec 5) (rm : BitVec 3) (mk : BitVec 4) (sf : Bool) (s : State) : Out :=
  .next (vecOp (.vimulhu c vd va vb rm mk sf) c s)
/-- R125: VAND. -/
def execVand (c : BitVec 8) (vd va vb : BitVec 5) (rm : BitVec 3) (mk : BitVec 4) (sf : Bool) (s : State) : Out :=
  .next (vecOp (.vand c vd va vb rm mk sf) c s)
/-- R125: VOR. -/
def execVor (c : BitVec 8) (vd va vb : BitVec 5) (rm : BitVec 3) (mk : BitVec 4) (sf : Bool) (s : State) : Out :=
  .next (vecOp (.vor c vd va vb rm mk sf) c s)
/-- R125: VXOR. -/
def execVxor (c : BitVec 8) (vd va vb : BitVec 5) (rm : BitVec 3) (mk : BitVec 4) (sf : Bool) (s : State) : Out :=
  .next (vecOp (.vxor c vd va vb rm mk sf) c s)
/-- R165: VSHL. -/
def execVshl (c : BitVec 8) (vd va vb : BitVec 5) (rm : BitVec 3) (mk : BitVec 4) (sf : Bool) (s : State) : Out :=
  .next (vecOp (.vshl c vd va vb rm mk sf) c s)
/-- R165: VSHR. -/
def execVshr (c : BitVec 8) (vd va vb : BitVec 5) (rm : BitVec 3) (mk : BitVec 4) (sf : Bool) (s : State) : Out :=
  .next (vecOp (.vshr c vd va vb rm mk sf) c s)
/-- R165: VSRA. -/
def execVsra (c : BitVec 8) (vd va vb : BitVec 5) (rm : BitVec 3) (mk : BitVec 4) (sf : Bool) (s : State) : Out :=
  .next (vecOp (.vsra c vd va vb rm mk sf) c s)
/-- R165: VIMIN. -/
def execVimin (c : BitVec 8) (vd va vb : BitVec 5) (rm : BitVec 3) (mk : BitVec 4) (sf : Bool) (s : State) : Out :=
  .next (vecOp (.vimin c vd va vb rm mk sf) c s)
/-- R165: VIMAX. -/
def execVimax (c : BitVec 8) (vd va vb : BitVec 5) (rm : BitVec 3) (mk : BitVec 4) (sf : Bool) (s : State) : Out :=
  .next (vecOp (.vimax c vd va vb rm mk sf) c s)
/-- R165: VIMINU. -/
def execViminu (c : BitVec 8) (vd va vb : BitVec 5) (rm : BitVec 3) (mk : BitVec 4) (sf : Bool) (s : State) : Out :=
  .next (vecOp (.viminu c vd va vb rm mk sf) c s)
/-- R165: VIMAXU. -/
def execVimaxu (c : BitVec 8) (vd va vb : BitVec 5) (rm : BitVec 3) (mk : BitVec 4) (sf : Bool) (s : State) : Out :=
  .next (vecOp (.vimaxu c vd va vb rm mk sf) c s)
/-- R154: FEQ. -/
def execFeq (c : BitVec 8) (vd va vb : BitVec 5) (rm : BitVec 3) (mk : BitVec 4) (s : State) : Out :=
  .next (vecOp (.feq c vd va vb rm mk) c s)
/-- R154: FNE. -/
def execFne (c : BitVec 8) (vd va vb : BitVec 5) (rm : BitVec 3) (mk : BitVec 4) (s : State) : Out :=
  .next (vecOp (.fne c vd va vb rm mk) c s)
/-- R154: FLT. -/
def execFlt (c : BitVec 8) (vd va vb : BitVec 5) (rm : BitVec 3) (mk : BitVec 4) (s : State) : Out :=
  .next (vecOp (.flt c vd va vb rm mk) c s)
/-- R154: FLE. -/
def execFle (c : BitVec 8) (vd va vb : BitVec 5) (rm : BitVec 3) (mk : BitVec 4) (s : State) : Out :=
  .next (vecOp (.fle c vd va vb rm mk) c s)
/-- R154: FGT. -/
def execFgt (c : BitVec 8) (vd va vb : BitVec 5) (rm : BitVec 3) (mk : BitVec 4) (s : State) : Out :=
  .next (vecOp (.fgt c vd va vb rm mk) c s)
/-- R154: FGE. -/
def execFge (c : BitVec 8) (vd va vb : BitVec 5) (rm : BitVec 3) (mk : BitVec 4) (s : State) : Out :=
  .next (vecOp (.fge c vd va vb rm mk) c s)
/-- R154: FUNORD. -/
def execFunord (c : BitVec 8) (vd va vb : BitVec 5) (rm : BitVec 3) (mk : BitVec 4) (s : State) : Out :=
  .next (vecOp (.funord c vd va vb rm mk) c s)
/-- R154: IEQ. -/
def execIeq (c : BitVec 8) (vd va vb : BitVec 5) (rm : BitVec 3) (mk : BitVec 4) (s : State) : Out :=
  .next (vecOp (.ieq c vd va vb rm mk) c s)
/-- R154: INE. -/
def execIne (c : BitVec 8) (vd va vb : BitVec 5) (rm : BitVec 3) (mk : BitVec 4) (s : State) : Out :=
  .next (vecOp (.ine c vd va vb rm mk) c s)
/-- R154: ILT. -/
def execIlt (c : BitVec 8) (vd va vb : BitVec 5) (rm : BitVec 3) (mk : BitVec 4) (s : State) : Out :=
  .next (vecOp (.ilt c vd va vb rm mk) c s)
/-- R154: ILE. -/
def execIle (c : BitVec 8) (vd va vb : BitVec 5) (rm : BitVec 3) (mk : BitVec 4) (s : State) : Out :=
  .next (vecOp (.ile c vd va vb rm mk) c s)
/-- R154: ILTU. -/
def execIltu (c : BitVec 8) (vd va vb : BitVec 5) (rm : BitVec 3) (mk : BitVec 4) (s : State) : Out :=
  .next (vecOp (.iltu c vd va vb rm mk) c s)
/-- R154: ILEU. -/
def execIleu (c : BitVec 8) (vd va vb : BitVec 5) (rm : BitVec 3) (mk : BitVec 4) (s : State) : Out :=
  .next (vecOp (.ileu c vd va vb rm mk) c s)
/-- R166: VWMUL.BF. -/
def execVwmulBf (c : BitVec 8) (vd va vb : BitVec 5) (rm : BitVec 3) (mk : BitVec 4) (accf : Bool) (s : State) : Out :=
  .next (vecOp (.vwmulBf c vd va vb rm mk accf) c s)
/-- R166: VWMUL.S. -/
def execVwmulS (c : BitVec 8) (vd va vb : BitVec 5) (rm : BitVec 3) (mk : BitVec 4) (accf : Bool) (s : State) : Out :=
  .next (vecOp (.vwmulS c vd va vb rm mk accf) c s)
/-- R166: VWMUL.H. -/
def execVwmulH (c : BitVec 8) (vd va vb : BitVec 5) (rm : BitVec 3) (mk : BitVec 4) (accf : Bool) (s : State) : Out :=
  .next (vecOp (.vwmulH c vd va vb rm mk accf) c s)
/-- R166: VDOT2. -/
def execVdot2 (c : BitVec 8) (vd va vb : BitVec 5) (rm : BitVec 3) (mk : BitVec 4) (accf : Bool) (s : State) : Out :=
  .next (vecOp (.vdot2 c vd va vb rm mk accf) c s)
/-- R166: VDOT4. -/
def execVdot4 (c : BitVec 8) (vd va vb : BitVec 5) (rm : BitVec 3) (mk : BitVec 4) (accf : Bool) (s : State) : Out :=
  .next (vecOp (.vdot4 c vd va vb rm mk accf) c s)
/-- R166: VDOT8. -/
def execVdot8 (c : BitVec 8) (vd va vb : BitVec 5) (rm : BitVec 3) (mk : BitVec 4) (accf : Bool) (s : State) : Out :=
  .next (vecOp (.vdot8 c vd va vb rm mk accf) c s)
/-- R166: VDOTI8. -/
def execVdoti8 (c : BitVec 8) (vd va vb : BitVec 5) (rm : BitVec 3) (mk : BitVec 4) (accf : Bool) (s : State) : Out :=
  .next (vecOp (.vdoti8 c vd va vb rm mk accf) c s)
/-- R171: VPERMUTE. -/
def execVpermute (c : BitVec 8) (vd va vb : BitVec 5) (rm : BitVec 3) (mk : BitVec 4) (s : State) : Out :=
  .next (vecOp (.vpermute c vd va vb rm mk) c s)
/-- R171: VREV. -/
def execVrev (c : BitVec 8) (vd va vb : BitVec 5) (rm : BitVec 3) (mk : BitVec 4) (s : State) : Out :=
  .next (vecOp (.vrev c vd va vb rm mk) c s)
/-- R171: VZIP. -/
def execVzip (c : BitVec 8) (vd va vb : BitVec 5) (rm : BitVec 3) (mk : BitVec 4) (s : State) : Out :=
  .next (vecOp (.vzip c vd va vb rm mk) c s)
/-- R171: VUNZIP. -/
def execVunzip (c : BitVec 8) (vd va vb : BitVec 5) (rm : BitVec 3) (mk : BitVec 4) (s : State) : Out :=
  .next (vecOp (.vunzip c vd va vb rm mk) c s)
/-- R171: VCOMPRESS. -/
def execVcompress (c : BitVec 8) (vd va vb : BitVec 5) (rm : BitVec 3) (mk : BitVec 4) (s : State) : Out :=
  .next (vecOp (.vcompress c vd va vb rm mk) c s)
/-- R171: VEXPAND. -/
def execVexpand (c : BitVec 8) (vd va vb : BitVec 5) (rm : BitVec 3) (mk : BitVec 4) (s : State) : Out :=
  .next (vecOp (.vexpand c vd va vb rm mk) c s)
/-- R172: VRSUM. -/
def execVrsum (c : BitVec 8) (vd va accn : BitVec 5) (rm : BitVec 3) (mk : BitVec 4) (s : State) : Out :=
  .next (vecOp (.vrsum c vd va accn rm mk) c s)
/-- R173: VRMIN. -/
def execVrmin (c : BitVec 8) (vd va accn : BitVec 5) (rm : BitVec 3) (mk : BitVec 4) (s : State) : Out :=
  .next (vecOp (.vrmin c vd va accn rm mk) c s)
/-- R173: VRMAX. -/
def execVrmax (c : BitVec 8) (vd va accn : BitVec 5) (rm : BitVec 3) (mk : BitVec 4) (s : State) : Out :=
  .next (vecOp (.vrmax c vd va accn rm mk) c s)
/-- R155: MAND. -/
def execMand (c : BitVec 8) (vd va vb : BitVec 5) (s : State) : Out :=
  .next (vecOp (.mand c vd va vb) c s)
/-- R155: MOR. -/
def execMor (c : BitVec 8) (vd va vb : BitVec 5) (s : State) : Out :=
  .next (vecOp (.mor c vd va vb) c s)
/-- R155: MXOR. -/
def execMxor (c : BitVec 8) (vd va vb : BitVec 5) (s : State) : Out :=
  .next (vecOp (.mxor c vd va vb) c s)
/-- R155: MNOT. -/
def execMnot (c : BitVec 8) (vd va vb : BitVec 5) (s : State) : Out :=
  .next (vecOp (.mnot c vd va vb) c s)
/-- R29, R113, R151, R170: VCVT. -/
def execVcvt (c : BitVec 8) (vd va : BitVec 5) (tfmt : BitVec 4) (sat : Bool) (rm : BitVec 3) (mk : BitVec 4) (rsv4 : BitVec 4)
    (s : State) : Out :=
  .next (vecOp (.vcvt c vd va tfmt sat rm mk rsv4) c s)
/-- R125, R160: VFMA. -/
def execVfma (c : BitVec 8) (vd va vb : BitVec 5) (rm : BitVec 3) (mk : BitVec 4) (negp negc : Bool) (rsv2 : BitVec 2)
    (s : State) : Out :=
  .next (vecOp (.vfma c vd va vb rm mk negp negc rsv2) c s)
/-- R155: MCOUNT. -/
def execMcount (c : BitVec 8) (d va : BitVec 5) (s : State) : Out :=
  .next (vecOp (.mcount c d va) c s)

end Sys2Proof.Machine
end

