-- ==== Sys2Proof/Machine/Reduction.lean ====
section
/-!
DEFINITION. Sys2Proof/Machine/Reduction.lean: the reduction unit (R135, R174, R243 to R248): its instructions at hand-off, its order,
and what each does when it acts.
-/

namespace Sys2Proof.Machine

/-- R243: the number of accumulators of a kind. -/
def ruCount (wide : Bool) : Nat := if wide then 16 else 64

/-- R65: the bytes of an accumulator image. -/
def imageBytes (wide : Bool) : Nat := if wide then 536 else 136

/-- R245: the format codes RUADDV accepts. -/
def ruAddOk (wide : Bool) (f : Nat) : Bool :=
  if wide then f == 0 || f == 0xD else [1, 2, 3, 4, 5, 0xA, 0xB, 0xC].contains f

/-- R64, R245: the format codes RURD accepts. -/
def ruReadOk (wide : Bool) (f : Nat) : Bool := if wide then f == 0 else [1, 2, 3, 4, 5, 0xA, 0xC].contains f

/-- R245: whether a format names S registers. -/
def ruScalar (f : BitVec 4) : Bool := [0xA#4, 0xB#4, 0xC#4, 0xD#4, 0xE#4].contains f

/-- R244: the unit reset to a world; the current kind is that of an RUCFG handed off since, if any. -/
def ruReset (r : RedUnit) (w : World) : RedUnit :=
  { r with world := w, held := w, kind := false, ibase := 0#48, key := 0#8, hkind := false, acc := [] }

/-- R245: an RURD's register written and its flags collected. -/
def ruWrite (s : State) (c t : Nat) (fmt : BitVec 4) (d : BitVec 5) (pat : Nat) (g : FFlags) : State :=
  let x := thOf s c t
  let f := (fmtOfCode fmt.toNat).getD .fp64
  let y := if ruScalar fmt then clearBusy (putS x d (sext (fmtBits f) pat)) (.s d)
    else clearBusy (putV x d (setElem0 (getV x d) (fmtBits f) pat)) (.v d)
  setTh s c t { y with nflags := orEngine y.nflags .reduction (engBits g) }

/-- R62, R245, R281: what RUMRG does with the image at a virtual address: merged, or as an INV image where a word of it is
poisoned; the thread then takes POISON or the outcome counts. -/
def ruMerge (s : State) (c t acc va : Nat) : State :=
  let r := (coreOf s c).ru
  let n := imageBytes r.kind
  let bad := unitPoison s c t va n
  let s := unitDecode s c t va n
  let img : Acc := if bad then { inv := true } else accOfBits (ruKind r.kind) (leNat (unitRead s c t va n))
  let s1 := setRu s c { r with acc := tabMod {} r.acc acc fun a => accMerge a img }
  if !bad then s1
  else
    unitPoisoned (countMem s1 (worldOf (coreOf s1 c) t) 16) c t

/-- R244 to R247: one instruction acts. -/
def ruAct (s : State) (c : Nat) (e : RuEnt) : State :=
  let r := (coreOf s c).ru
  let fits (acc : Nat) : Bool := decide (acc < ruCount r.kind)
  match e.op with
  | .clr acc => setRu s c { r with acc := tabSet r.acc acc {} }
  | .addv acc fmt v =>
    if fits acc && ruAddOk r.kind fmt.toNat then setRu s c (addAll r [(acc, v)]) else s
  | .mrg acc va wide => if fits acc && wide == r.kind then ruMerge s c e.t acc va else s
  | .spill acc va =>
    unitWrite s c e.t va (natLe (imageBytes r.kind) (accBits (ruKind r.kind) (tabGet {} r.acc acc)))
  | .rd acc fmt d rm sat seed =>
    if fits acc && ruReadOk r.kind fmt.toNat then
      let f := (fmtOfCode fmt.toNat).getD .fp64
      let (p, g) := accReadOut (ruKind r.kind) (tabGet {} r.acc acc) f
        { rm := rm, sat := sat, draw := krg seed ((r.ibase.toNat + acc) % 2 ^ 48) r.key.toNat }
      ruWrite s c e.t fmt d p g
    else ruWrite s c e.t fmt d 0 flagNv
  | .cfg w0 w1 =>
    let k := w0.getLsbD 0
    setRu s c { r with
      kind := k, acc := if k == r.kind then r.acc else []
      ibase := BitVec.ofNat 48 (field w1.toNat 0 48), key := BitVec.ofNat 8 (field w1.toNat 48 8) }
  | .ctl w => setRu s c (ruReset r w)
  | .ho => s

/-- R421: under full failure protection a merge waits for its image's poisoned words to be recovered. -/
def ruHeld (s : State) (c : Nat) (e : RuEnt) : Bool :=
  match e.op with
  | .mrg _ va wide => steepEn s && unitPoison s c e.t va (imageBytes wide)
  | _ => false

/-- R247: the instructions that wait act in order, until one is the place of a VRSUM.HO or must wait. -/
def ruDrainList (c : Nat) : List RuEnt → State → State
  | [], s => setRu s c { (coreOf s c).ru with q := [] }
  | e :: rest, s =>
    if e.op == .ho || ruHeld s c e then setRu s c { (coreOf s c).ru with q := e :: rest }
    else ruDrainList c rest (ruAct s c e)

/-- R247: the unit goes on with its order while no pass holds it. -/
def ruDrain (s : State) (c : Nat) : State :=
  let r := (coreOf s c).ru
  if r.busy || r.q.isEmpty then s else ruDrainList c r.q s

/-- R247: an instruction takes its place in the unit's order, and acts at once where nothing is before it. -/
def ruPlace (s : State) (c : Nat) (e : RuEnt) : State :=
  let r := (coreOf s c).ru
  ruDrain (setRu s c { r with q := r.q ++ [e] }) c

/-- R127, R244, R246: an RU instruction at its hand-off; `bad`: it raises ILLOP under the current kind; `ops` are the ranges it checks
and the right each needs, and `op` gives the operation and the register to be marked. -/
def ruInstr (c : BitVec 8) (regs : List Reg) (bad : RedUnit → Bool) (range : Thread → RedUnit → Option (Nat × Nat × Nat))
    (mark : List Reg) (op : Thread → State → RuOp) (upd : Thread → State → RedUnit → RedUnit) (s : State) : State :=
  issue c 4#18 (regs ++ mark) (fun t x s =>
    let k := coreOf s c.toNat
    if k.ru.world != worldOf k t || bad k.ru then illop s c.toNat t x 4#18 2
    else if vecStorePending k t then goWait s c.toNat t x .unit 2
    else
      let go (s : State) : State :=
        let o := op x s
        let k := coreOf s c.toNat
        let s1 := retire (setRu s c.toNat (upd x s k.ru)) c.toNat t (mark.foldl markBusy x) (x.pc + 4#18) 2
        wake (ruPlace s1 c.toNat { t := t, op := o }) c.toNat
      match range x k.ru with
      | none => go s
      | some (va, n, right) =>
        if va % 8 != 0 then
          raise s c.toNat t x cAlignf (BitVec.ofNat 64 va) 2 (dropIt s c.toNat t x 4#18 2)
        else
          let s := unitTouch s c.toNat t [right] [(va, n)]
          match spadFail s c.toNat t [right] va n with
          | some a => raise s c.toNat t x cSegf (BitVec.ofNat 64 a) 2 (dropIt s c.toNat t x 4#18 2)
          | none => multiOr s c.toNat t x [(va, n)] go) s

/-- R245, R246: RUCLR. -/
def execRuclr (c : BitVec 8) (d a : BitVec 5) (acc6 : BitVec 6) (fmt : BitVec 4) (rm : BitVec 3) (s : State) : Out :=
  .next (ruInstr c [] (fun r => d != 0#5 || a != 0#5 || fmt != 0#4 || rm != 0#3 || decide (ruCount r.hkind ≤ acc6.toNat))
    (fun _ _ => none) [] (fun _ _ => .clr acc6.toNat) (fun _ _ r => r) s)

/-- R245: the exact value of a register read in a format. -/
def ruOperand (x : Thread) (a : BitVec 5) (fmt : BitVec 4) : FVal :=
  let f := (fmtOfCode fmt.toNat).getD .fp64
  if ruScalar fmt then fOfInt (intVal f (getS x a).toNat) else floatVal (fmtFloat f) (elemAt (getV x a) (fmtBits f) 0)

/-- R245, R246: RUADDV. -/
def execRuaddv (c : BitVec 8) (d a : BitVec 5) (acc6 : BitVec 6) (fmt : BitVec 4) (rm : BitVec 3) (s : State) : Out :=
  .next (ruInstr c [if ruScalar fmt then .s a else .v a]
    (fun r => d != 0#5 || rm != 0#3 || decide (ruCount r.hkind ≤ acc6.toNat) || !(ruAddOk r.hkind fmt.toNat))
    (fun _ _ => none) [] (fun x _ => .addv acc6.toNat fmt (ruOperand x a fmt)) (fun _ _ r => r) s)

/-- R245, R246: RUMRG. -/
def execRumrg (c : BitVec 8) (d a : BitVec 5) (acc6 : BitVec 6) (fmt : BitVec 4) (rm : BitVec 3) (s : State) : Out :=
  .next (ruInstr c [.s a] (fun r => d != 0#5 || fmt != 0#4 || rm != 0#3 || decide (ruCount r.hkind ≤ acc6.toNat))
    (fun x r => some ((getS x a).toNat, imageBytes r.hkind, rRD)) []
    (fun x s => .mrg acc6.toNat (getS x a).toNat (coreOf s c.toNat).ru.hkind) (fun _ _ r => r) s)

/-- R245, R246: RUSPILL. -/
def execRuspill (c : BitVec 8) (d a : BitVec 5) (acc6 : BitVec 6) (fmt : BitVec 4) (rm : BitVec 3) (s : State) : Out :=
  .next (ruInstr c [.s a] (fun r => d != 0#5 || fmt != 0#4 || rm != 0#3 || decide (ruCount r.hkind ≤ acc6.toNat))
    (fun x r => some ((getS x a).toNat, imageBytes r.hkind, rWR)) []
    (fun x _ => .spill acc6.toNat (getS x a).toNat) (fun _ _ r => r) s)

/-- R45, R245, R246: RURD. -/
def execRurd (c : BitVec 8) (d a : BitVec 5) (acc6 : BitVec 6) (fmt : BitVec 4) (rm : BitVec 3) (s : State) : Out :=
  .next (ruInstr c [] (fun r => a != 0#5 || decide (ruCount r.hkind ≤ acc6.toNat) || !(ruReadOk r.hkind fmt.toNat))
    (fun _ _ => none) [if ruScalar fmt then .s d else .v d]
    (fun x s => .rd acc6.toNat fmt d (resolveRm rm.toNat x.rm.toNat) x.sat (seedOf s x)) (fun _ _ r => r) s)

/-- R244: the two words of RUCFG's block. -/
def rucfgWords (s : State) (c t va : Nat) : Word × Word :=
  let ws := wordsOf 2 (unitRead s c t va 16)
  (ws.getD 0 0#64, ws.getD 1 0#64)

/-- R244, R246: RUCFG: its block is latched at hand-off, and its KIND becomes the current kind. -/
def execRucfg (c : BitVec 8) (d a : BitVec 5) (acc6 : BitVec 6) (fmt : BitVec 4) (rm : BitVec 3) (s : State) : Out :=
  .next (ruInstr c [.s a] (fun _ => d != 0#5 || acc6 != 0#6 || fmt != 0#4 || rm != 0#3)
    (fun x _ => some ((getS x a).toNat, 16, rRD)) []
    (fun x s =>
      let w := rucfgWords s c.toNat (coreOf s c.toNat).cur (getS x a).toNat
      .cfg w.1 w.2)
    (fun x s r => { r with hkind := (rucfgWords s c.toNat (coreOf s c.toNat).cur (getS x a).toNat).1.getLsbD 0 }) s)

/-- R244: a change of RU_CTL.WORLD by the monitor: it is what hand-offs are checked against at once, and resets the unit after a pass
that has started and before every instruction that has not. -/
def ruWorld (s : State) (c : Nat) (w : World) : State :=
  let r := (coreOf s c).ru
  if r.world = w then s
  else if r.busy then
    setRu s c { r with
      world := w, hkind := false
      q := { t := 0, op := .ctl w } :: r.q.filter fun e => match e.op with | .ctl _ => false | _ => true }
  else setRu s c (ruReset r w)

/-- R244: RU_CTL_WRITE. -/
def execRuCtlWrite (c : BitVec 8) (v : Word) (s : State) : Out :=
  .next (ruWorld s c.toNat (if v.getLsbD 0 then .T else .P))

/-- R174: the values of the active elements of a VRSUM.HO. -/
def hoVals (x : Thread) (va : BitVec 5) (mk : BitVec 4) : List FVal :=
  (actives (getM x mk) x.vl).map fun i => vecVal (vfmtOf x) (getV x va) i

/-- R125, R174, R246: VRSUM.HO: it takes its place in the reduction unit's order and an entry of the vector queue. -/
def execVrsumHo (c : BitVec 8) (vd va accn : BitVec 5) (rm : BitVec 3) (mk : BitVec 4) (s : State) : Out :=
  .next (issue c 4#18 ([.v va] ++ maskReg mk) (fun t x s =>
    let k := coreOf s c.toNat
    let f := vfmtOf x
    let acc := vd.toNat % 2 * 32 + accn.toNat
    let wide := f = .fp64 || f = .int64
    if !(redFormat f) || k.ru.world != worldOf k t || wide != k.ru.hkind || decide (ruCount k.ru.hkind ≤ acc)
        || decide (2 ≤ vd.toNat) then illop s c.toNat t x 4#18 2
    else if !(vecRoom k) then goWait s c.toNat t x .unit 2
    else
      let vals := hoVals x va mk
      let s1 := setRu s c.toNat { k.ru with q := k.ru.q ++ [{ t := t, op := .ho }] }
      handVec s1 c.toNat t x [] (.vrsumHo c vd va accn rm mk) { t := t, pc := x.pc, kind := .ho acc wide vals, flags := 0#5 } 0) s)

end Sys2Proof.Machine
end

