-- ==== Sys2Proof/Machine/Stream.lean ====
section
/-!
DEFINITION. Sys2Proof/Machine/Stream.lean: the stream instructions at their hand-off (R221, R226, R236, R238) and the events of the stream
engine: firings, starts, groups, completion and suspension (R134, R235 to R241).
-/

namespace Sys2Proof.Machine

/-- R221: the descriptors linked from `va`, at most `n` of them; a failure is a cause and an address. The alignment of a link is checked
before the number of descriptors. -/
def linkDescs (s : State) (c t dyn : Nat) (armed : Bool) : Nat → Nat → Except (Nat × Nat) (List (SDesc × Bool))
  | 0, va => .error (if va % 64 != 0 then (cAlignf, va) else (cIllop, 0))
  | n + 1, va =>
    if va % 64 != 0 then .error (cAlignf, va)
    else match spadFail s c t [rRD] va 320 with
      | some a => .error (cSegf, a)
      | none =>
        let ws := wordsOf 40 (unitRead s c t va 320)
        let w (i : Nat) : Word := ws.getD i 0#64
        let d := parseDesc w dyn
        let bad := descReserved w armed
        if w 1 = 0#64 then .ok [(d, bad)]
        else match linkDescs s c t dyn armed n (w 1).toNat with
          | .ok more => .ok ((d, bad) :: more)
          | .error e => .error e

/-- R221: the addresses of the descriptors linked from `va`, at most `n` of them. -/
def linkAddrs (s : State) (c t : Nat) : Nat → Nat → List Nat
  | 0, _ => []
  | n + 1, va =>
    let next := (wordsOf 2 (unitRead s c t va 16)).getD 1 0#64
    va :: (if next = 0#64 then [] else linkAddrs s c t n next.toNat)

/-- R223: the bytes that firing k of a descriptor reads through its input streams. -/
def firingReads (d : SDesc) (k : Nat) : List (Nat × Nat) :=
  let e := advanceDesc d k
  geomSpans e.ga d.n ++ geomSpans e.gb d.n ++ geomSpans e.gc d.n

/-- R223: the bytes that firing k of a descriptor can write. -/
def firingWrites (d : SDesc) (k : Nat) : List (Nat × Nat) := geomSpans (advanceDesc d k).go d.n

/-- R297, R299: the ranges that the hand-off of a program at `sa` translates: descriptors and inputs, then outputs. -/
def progRanges (s : State) (c t : Nat) (sa : Nat) (armed : Bool) (ds : List SDesc) : List (Nat × Nat) × List (Nat × Nat) :=
  let n := if armed then (ds.headD {}).repeats else 1
  (((linkAddrs s c t 4 sa).map fun a => (a, 320)) ++ ((List.range n).map fun k => (ds.map fun d => firingReads d k).flatten).flatten,
   ((List.range n).map fun k => (ds.map fun d => firingWrites d k).flatten).flatten)

/-- R297, R299: what translating a program's ranges does to the segment buffer and the clock; then SEGMM, or `go`. -/
def progTouch (s : State) (c t : Nat) (x : Thread) (sa : Nat) (armed : Bool) (ds : List SDesc) (go : State → State) : State :=
  let (rd, wr) := progRanges s c t sa armed ds
  multiOr (unitTouch (unitTouch s c t [rRD] rd) c t [rWR] wr) c t x (rd ++ wr) go

/-- R221: the first byte that firing k of a descriptor may not read or write. -/
def firingFail (s : State) (c t : Nat) (d : SDesc) (k : Nat) : Option Nat :=
  match firstRangeFail s c t [rRD] (firingReads d k) with
  | some a => some a
  | none => firstRangeFail s c t [rWR] (firingWrites d k)

/-- The first result of a search over a list. -/
def firstSome {α β : Type} (f : α → Option β) : List α → Option β
  | [] => none
  | a :: l => match f a with
    | some b => some b
    | none => firstSome f l

/-- R24, R421: a descriptor of the program at `sa` is poisoned: under full failure protection its read waits for the recovery. -/
def progHeld (s : State) (c t sa : Nat) : Bool :=
  steepEn s && (linkAddrs s c t 4 sa).any fun a => unitPoison s c t a 320

/-- R221, R226, R236: a program latched and checked for firings 0 to n − 1. -/
def latchProg (s : State) (c t : Nat) (x : Thread) (sa : Nat) (armed : Bool) : Except (Nat × Nat) (List SDesc) :=
  match linkDescs s c t x.rm.toNat armed 4 sa with
  | .error e => .error e
  | .ok l =>
    let ds := l.map (·.1)
    let n := if armed then (ds.headD {}).repeats else 1
    match firstSome (fun k => firstSome (fun d => firingFail s c t d k) ds) (List.range n) with
    | some a => .error (cSegf, a)
    | none =>
      let k := coreOf s c
      if (l.any (·.2)) || ds.any (descBad · k.ru.hkind (k.ru.world == worldOf k t) armed) then .error (cIllop, 0)
      else .ok ds

/-- R108, R113, R127, R396: what every stream instruction meets at its hand-off. -/
def seHand (c : BitVec 8) (regs : List Reg) (reserved : Bool) (body : Nat → Thread → State → State) (s : State) : State :=
  issue c 4#18 regs (fun t x s =>
    let k := coreOf s c.toNat
    if reserved || k.ilv then illop s c.toNat t x 4#18 2
    else if vecStorePending k t || s.steep.forced then goWait s c.toNat t x .unit 2
    else body t x s) s

/-- R94, R221: a refused program: its fault, or nothing and counted. -/
def seFault (s : State) (c t : Nat) (x : Thread) (e : Nat × Nat) : State :=
  raise s c t x e.1 (BitVec.ofNat 64 e.2) 2 (dropIt s c t x 4#18 2)

/-- R134: the stream queue takes 4 entries; a pass frees its entry when it starts (DESIGN CHOICE, entry 127: the spec does not say). -/
def seRoom (e : StreamEng) : Bool := decide (e.q.length < 4)

/-- R238, R403: the next entry of the stream queue in the outcome log: a hand-off (0), or firing k of an arm. None where replay
expects another entry first. -/
def enterQueue (s : State) (c : Nat) (code : Nat) : Option State :=
  let (v, s1) := outcome s 6 [c] (BitVec.ofNat 64 code)
  if v.toNat = code then some s1 else none

/-- R134, R221: SPASS. -/
def execSpass (c : BitVec 8) (a b : BitVec 5) (wait : BitVec 7) (ref : Bool) (rsv8 : BitVec 8) (s : State) : Out :=
  .next (seHand c [.s a, .s b] (rsv8 != 0#8) (fun t x s =>
    if !(seRoom (coreOf s c.toNat).se) then goWait s c.toNat t x .unit 2
    else if progHeld s c.toNat t (getS x a).toNat then goWait s c.toNat t x .poison 2
    else match latchProg s c.toNat t x (getS x a).toNat false with
      | .error e => seFault s c.toNat t x e
      | .ok ds => progTouch s c.toNat t x (getS x a).toNat false ds fun s =>
        match enterQueue s c.toNat 0 with
        | none => goWait s c.toNat t x .unit 2
        | some s1 =>
          let k := coreOf s1 c.toNat
          let e : SeEnt :=
            { t := t, prog := ds, ref := ref, wait := wait.toNat, so := if b = 0#5 then none else some (field (getS x b).toNat 0 13),
              armed := false, handoff := k.clk + 2, seed := seedOf s1 x, id := k.se.nextId }
          retire (setSe s1 c.toNat { k.se with q := k.se.q ++ [e], nextId := k.se.nextId + 1 }) c.toNat t x (x.pc + 4#18) 2)
    s)

/-- R236: the wait-right check that a WAITS on object n would make: a segment of the context maps it with WAIT. -/
def mayWait (s : State) (x : Thread) (n : Nat) : Bool :=
  !(soMon n) && (ctxOf s x.cx.toNat).segEn && (List.range 16).any fun i =>
    let g := segOf (ctxOf s x.cx.toNat) i
    g.en && g.present && !(isRemote s g.pbase) && decide (paLocal g.pbase ≤ soBase n)
      && decide (soBase n < paLocal g.pbase + g.len.toNat) && grants g.rights [rWAIT] (isS x)

/-- R236: SARM; the value that the object holds already can make firings due. -/
def execSarm (c : BitVec 8) (a b : BitVec 5) (rsv12 : BitVec 12) (s : State) : Out :=
  .next (seHand c [.s a, .s b] (rsv12 != 0#12) (fun t x s =>
    let k := coreOf s c.toNat
    let so := field (getS x b).toNat 0 13
    match (List.range 16).find? fun i => !(k.se.arms.any fun e => e.1 == i) with
    | none => goWait s c.toNat t x .unit 2
    | some i =>
      if progHeld s c.toNat t (getS x a).toNat then goWait s c.toNat t x .poison 2
      else match latchProg s c.toNat t x (getS x a).toNat true with
      | .error e => seFault s c.toNat t x e
      | .ok ds =>
        if !(mayWait s x so) then seFault s c.toNat t x (cCapf, 0)
        else progTouch s c.toNat t x (getS x a).toNat true ds fun s =>
          let k := coreOf s c.toNat
          let arm : Arm := { t := t, sa := getS x a, so := so, prog := ds, k := 0, due := 0 }
          let arm := { arm with due := armDue arm (soOf s so).val }
          retire (setSe s c.toNat { k.se with arms := tabSet k.se.arms i arm }) c.toNat t x (x.pc + 4#18) 2) s)

/-- R238: SDISARM. -/
def execSdisarm (c : BitVec 8) (a b : BitVec 5) (rsv12 : BitVec 12) (s : State) : Out :=
  .next (seHand c [.s a, .s b] (rsv12 != 0#12) (fun t x s =>
    let k := coreOf s c.toNat
    let so := field (getS x b).toNat 0 13
    let arms := match k.se.arms.find? fun e => e.2.t == t && e.2.sa == getS x a && e.2.so == so with
      | some e => tabErase k.se.arms e.1
      | none => k.se.arms
    wake (retire (setSe s c.toNat { k.se with arms := arms }) c.toNat t x (x.pc + 4#18) 2) c.toNat) s)

/-- R45, R237: firing k of a descriptor as the queue takes it: advanced, its DYN modes resolved by the RM its thread then has. -/
def firedDesc (x : Thread) (k : Nat) (d : SDesc) : SDesc :=
  { advanceDesc d k with stages := d.stages.map fun g => if g.dyn then { g with rm := resolveRm 7 x.rm.toNat } else g }

/-- R45, R237: ARM_FIRING: the first due firing, by arm and k, enters the queue, as an SPASS handed off in this clock; an arm is freed with
its last firing. -/
def execArmFiring (c : BitVec 8) (s : State) : Out :=
  let k := coreOf s c.toNat
  match k.se.arms.find? fun e => decide (e.2.k < e.2.due) with
  | none => .next s
  | some (i, arm) =>
    if !(seRoom k.se) then .next s
    else match enterQueue s c.toNat (1 + i * 65536 + arm.k) with
      | none => .next s
      | some s1 =>
        let d := arm.prog.headD {}
        let x := thOf s1 c.toNat arm.t
        let e : SeEnt :=
          { t := arm.t, prog := arm.prog.map (firedDesc x arm.k), ref := d.aref, wait := 0,
            so := if d.csoen then some d.cso else none, armed := true, handoff := k.clk, seed := seedOf s1 x, id := k.se.nextId }
        let arms := if decide (d.repeats ≤ arm.k + 1) then tabErase k.se.arms i
          else tabSet k.se.arms i { arm with k := arm.k + 1 }
        .next (wake (setSe s1 c.toNat { (coreOf s1 c.toNat).se with q := k.se.q ++ [e], arms := arms, nextId := k.se.nextId + 1 }) c.toNat)

/-- R247: whether a program has a ROWRED. -/
def progRowred (p : List SDesc) : Bool := p.any isRowred

/-- R134: the clock at which the pass at the head of the queue starts. -/
def startClock (e : StreamEng) (q : SeEnt) : Nat :=
  match if q.ref then e.lastWrite else e.lastRead with
  | some b => max (q.handoff + 1) (b + max q.wait 1)
  | none => q.handoff + 1

/-- R134, R244, R247: STREAM_PASS_START: nothing while a pass reads or is held, or, for a ROWRED pass, while the reduction unit has
earlier work. -/
def execStreamPassStart (c : BitVec 8) (s : State) : Out :=
  let k := coreOf s c.toNat
  match k.se.run, k.se.q with
  | none, e :: rest =>
    if progRowred e.prog && (k.ru.busy || !k.ru.q.isEmpty) then .next s
    else
      let clk := startClock k.se e
      let nv := e.prog.any fun d => isRowred d && !(rowredOk k.ru (worldOf k e.t) d)
      let r : SeRun :=
        { ent := e, desc := 0, pos := 0, clk := clk, writes := [], lastRead := clk, flags := if nv then 8#4 else 0#4,
          susp := false, lead := 0, poisoned := false }
      .next (wake (setCore s c.toNat { k with
        clk := max k.clk clk
        inRd := 0
        inWr := 0
        se := { k.se with run := some r, q := rest }
        ru := { k.ru with busy := k.ru.busy || progRowred e.prog } }) c.toNat)
  | _, _ => .next s

/-- R235: STREAM_GROUP: the pass reads its next group, which it writes L clocks later; after its last group it is ending, or its next
descriptor follows. -/
def execStreamGroup (c : BitVec 8) (s : State) : Out :=
  match (coreOf s c.toNat).se.run with
  | none => .next s
  | some r0 =>
    if r0.susp then .next s
    else
      let s1 := catchUpTo s c.toNat r0.clk
      match (coreOf s1 c.toNat).se.run with
      | none => .next s1
      | some r => match r.ent.prog[r.desc]? with
        | none => .next s1
        | some d =>
          let g := runGroup s1 c.toNat r d
          let sd := groupDecode s1 c.toNat r.ent.t d r.pos
          if g.poison && steepEn s1 then .next (groupDecode s c.toNat r.ent.t d r.pos)
          else
            let s2 := if g.poison && !r.poisoned then unitPoisoned sd c.toNat r.ent.t else sd
            let n := min 256 (d.n - r.pos)
            let last := r.clk + (n + rateOf d - 1) / rateOf d - 1
            let due := last + writeDelay d
            let r1 := { r with
              pos := r.pos + 256, clk := last + 1, lastRead := last, flags := r.flags ||| engBits g.fl,
              writes := r.writes ++ g.writes.map (fun w => (due, w.1, w.2)), poisoned := r.poisoned || g.poison }
            let k2 := coreOf s2 c.toNat
            let ru := addAll k2.ru g.adds
            let se := if r1.pos < d.n then { k2.se with run := some r1 }
              else if r.desc + 1 < r.ent.prog.length then
                { k2.se with run := some { r1 with desc := r.desc + 1, pos := 0, clk := due + 1 } }
              else { k2.se with
                run := none, ending := k2.se.ending ++ [{ r1 with clk := due }], lastRead := some last, lastWrite := some due }
            let (rd, wr) := if se.run.isNone then (0, 0) else (k2.inRd, k2.inWr)
            .next (setCore s2 c.toNat { k2 with clk := max k2.clk last, ru := ru, se := se, inRd := rd, inWr := wr })

/-- R234, R250: the running stream pass of a core takes every byte of both read ports, or of the write port. -/
def portsTaken (k : Core) (wr : Bool) : Bool :=
  match k.se.run with
  | none => false
  | some r => !r.susp && (match r.ent.prog[r.desc]? with
    | none => false
    | some d =>
      if wr then decide (1024 * 32 ≤ rateOf d * outCost d)
      else decide (2048 * 32 ≤ rateOf d * (inCost d.ga d.n + inCost d.gb d.n + inCost d.gc d.n)))

/-- R250: n bytes of inbound traffic for a LOCAL address. Traffic for a scratchpad whose ports are taken waits in the core's inbound
buffer, of 4 KiB each way; with that full the die network holds it: none. -/
def inboundAt (s : State) (la : Nat) (wr : Bool) (n : Nat) : Option State :=
  match regionOf s.part la with
  | .spad c =>
    let k := coreOf s c
    if !(portsTaken k wr) then some s
    else
      let b := (if wr then k.inWr else k.inRd) + n
      if 4096 < b then none else some (setCore s c (if wr then { k with inWr := b } else { k with inRd := b }))
  | _ => some s

/-- R250: the local parts of an access that are inbound traffic: all but those in the scratchpad of the core that makes it. -/
def inboundParts (s : State) (own : Option Nat) (wr : Bool) (hs : List Half) : Option State :=
  (hs.filter fun h => !h.bad && !(isRemote s h.pa) && !(own.any fun c => inOwnSpad s c h)).foldl
    (fun o h => o.bind fun s => inboundAt s (paLocal h.pa) wr h.len) (some s)

/-- R129, R134, R233, R235: STREAM_PASS_COMPLETE: the final output write: the flags go to the owning thread, and the completion object is
signalled with 1. -/
def execStreamPassComplete (c : BitVec 8) (s : State) : Out :=
  match (coreOf s c.toNat).se.ending with
  | [] => .next s
  | r :: _ =>
    let s1 := catchUpTo s c.toNat (r.clk + 1)
    let k1 := coreOf s1 c.toNat
    let s2 := setCore s1 c.toNat { k1 with
      clk := max k1.clk r.clk
      se := { k1.se with ending := k1.se.ending.tail, doneAt := tabSet k1.se.doneAt r.ent.id r.clk }
      ru := { k1.ru with busy := k1.ru.busy && !(progRowred r.ent.prog) } }
    let x := thOf s2 c.toNat r.ent.t
    let s3 := setTh s2 c.toNat r.ent.t { x with nflags := orEngine x.nflags .stream r.flags }
    let s4 := match r.ent.so with
      | some n => signalSo s3 n 1#64
      | none => s3
    .next (wake (ruDrain s4 c.toNat) c.toNat)

/-- R101, R239, R241: STREAM_SUSPEND: the running pass of a thread that has taken an exception, or has an interrupt or poison due, is
held at its group boundary, every position below it written, with the clocks by which its thread's last instruction led its last
group. -/
def execStreamSuspend (c : BitVec 8) (s : State) : Out :=
  let k := coreOf s c.toNat
  match k.se.run with
  | none => .next s
  | some r =>
    if r.susp || !(stopDue s c.toNat r.ent.t) then .next s
    else
      let s1 := r.writes.foldl (fun s e => memStore s e.2.1 e.2.2) s
      let q := { r with susp := true, writes := [], lead := min 0xFF (r.lastRead - tabGet 0 k.issued r.ent.t) }
      .next (setSe s1 c.toNat { (coreOf s1 c.toNat).se with run := some q })

/-- R238, R239, R247: thread t of core c stops: its arms are freed and its held pass is abandoned; the clock of the abandonment is taken
as the pass's last read and final write. A reduction unit that the pass held goes on with its order. -/
def seStop (s : State) (c t : Nat) : State :=
  let k := coreOf s c
  let arms := k.se.arms.filter fun e => e.2.t != t
  match k.se.run with
  | some r =>
    if r.ent.t = t && r.susp then
      ruDrain (setCore s c { k with
        se := { k.se with
          arms := arms, run := none, lastRead := some k.clk, lastWrite := some k.clk
          doneAt := tabSet k.se.doneAt r.ent.id k.clk }
        ru := { k.ru with busy := k.ru.busy && !(progRowred r.ent.prog) } }) c
    else setSe s c { k.se with arms := arms }
  | none => setSe s c { k.se with arms := arms }

/-- R240: SEPROG, as the monitor reads it. While the pass runs, SUSP and LEAD are 0 (DEDUCED, entry 124). -/
def seProg (k : Core) : Word :=
  match k.se.run with
  | none => 0#64
  | some r =>
    BitVec.ofNat 64 (r.pos % 2 ^ 32 + r.desc % 4 * 2 ^ 32 + b2n r.susp * 2 ^ 34 + r.flags.toNat * 2 ^ 35
      + (if r.susp then r.lead % 256 else 0) * 2 ^ 39 + r.ent.t % 8 * 2 ^ 47 + b2n r.ent.armed * 2 ^ 50)

end Sys2Proof.Machine
end

