-- ==== Sys2Proof/Machine/System.lean ====
section
/-!
DEFINITION. Sys2Proof/Machine/System.lean: the system instructions (R86, R89, R91, R92, R106, R121, R122), sync-object operations
(R123) and the declaration of a steep point (R124, R395 to R398).
-/

namespace Sys2Proof.Machine

/-- R106: FENCE. -/
def execFence (c : BitVec 8) (s : State) : Out :=
  .next (issue c 4#18 [] (fun t x s => fenced c.toNat t x s fun s => retire s c.toNat t x (x.pc + 4#18) 2) s)

/-- R121, R128, R215, R238, R239: thread t stops: its pass that is suspended is abandoned, its arms are freed, the matrix unit is
released, and the threads that waited for a unit try again. -/
def stopThread (s : State) (c t : Nat) : State :=
  let s1 := setTh s c t { thOf s c t with st := .stopped, wait := .none }
  wake (seStop (setCore s1 c (mxRelease (coreOf s1 c) t)) c t) c

/-- R121, R402: STOP. -/
def execStop (c : BitVec 8) (s : State) : Out :=
  .next (issue c 4#18 [] (fun t x s => fenced c.toNat t x s fun s =>
    let y := { x with pc := x.pc + 4#18, icount := x.icount + 1, st := .stopped }
    let s1 := setTh s c.toNat t y
    let s2 := seStop (setCore s1 c.toNat (mxRelease (coreOf s1 c.toNat) t)) c.toNat t
    wake (notify (recoveryDone (place s2 c.toNat t (thOf s2 c.toNat t) 2) c.toNat t) 2 (c.toNat * 8 + t)) c.toNat) s)

/-- R101, R216: the suspended matrix pass of thread t goes on, its next row no earlier than clock `clk`; the checks of skipped blocks,
which UNCHK marks, read their bits again. The second part is the clock at which the thread may issue. -/
def resumeMatrix (s : State) (c t clk : Nat) : State × Nat :=
  let k := coreOf s c
  match k.mx.pass with
  | some p =>
    if p.susp && p.t == t then
      let slot := max p.slot clk
      let chks := p.chks.map fun ch =>
        if ch.predZero then { ch with bit := mapBit s c p ch.blk, clk := slot + 8 } else ch
      let bits := chks.foldl (fun b ch => if ch.bit then b ||| 2 ^ ch.blk
        else if bitAt b ch.blk then b - 2 ^ ch.blk else b) p.readBits
      let (p1, s1) := markPoison s c p (p.chks.any fun ch => ch.predZero && mapPoison s c p ch.blk)
      (setMx s1 c { k.mx with pass := some { p1 with susp := false, slot := slot, chks := chks, readBits := bits } }, slot + p.lead)
    else (s, clk)
  | none => (s, clk)

/-- R101, R240: the suspended stream pass of thread t goes on. -/
def resumeStream (s : State) (c t clk : Nat) : State × Nat :=
  let k := coreOf s c
  match k.se.run with
  | some r =>
    if r.susp && r.ent.t == t then
      (setSe s c { k.se with run := some { r with susp := false, clk := max r.clk clk } }, max r.clk clk + r.lead)
    else (s, clk)
  | none => (s, clk)

/-- R92: the registers of a thread after XRET. -/
def returned (x : Thread) : Thread :=
  { x with pc := x.xpc, lvl := x.plvl, exm := x.pexm, excDue := false, icount := x.icount + 1 }

/-- R92, R101: XRET: suspended passes of the thread resume first, and the instruction at XPC issues after the recorded lead. -/
def execXret (c : BitVec 8) (s : State) : Out :=
  .next (issue c 4#18 [] (fun t x s =>
    if !(isS x) then illop s c.toNat t x 4#18 3
    else fenced c.toNat t x s fun s =>
      let clk := (coreOf s c.toNat).clk + 3
      let (s1, m) := resumeMatrix s c.toNat t clk
      let (s2, e) := resumeStream s1 c.toNat t clk
      place s2 c.toNat t (returned (thOf s2 c.toNat t)) (3 + (max m e - clk))) s)

/-- R91: TRAP #n; under mask nothing happens, counted. -/
def execTrap (c : BitVec 8) (n : BitVec 8) (rsv18 : BitVec 18) (s : State) : Out :=
  .next (issue c 4#18 [] (fun t x s =>
    if rsv18 != 0#18 then illop s c.toNat t x 4#18 3
    else fenced c.toNat t x s fun s =>
      if x.exm then dropIt s c.toNat t x 4#18 3
      else enter s c.toNat t x (cTrap + n.toNat * 2 ^ 22) 0#64 (x.pc + 4#18) 0x80#18 3) s)

/-- R86, R95: MCALL #n: the thread waits for the monitor. At level U, ILLOP with n in TRAPN. -/
def execMcall (c : BitVec 8) (n : BitVec 8) (rsv18 : BitVec 18) (s : State) : Out :=
  .next (issue c 4#18 [.s 1#5] (fun t x s =>
    if rsv18 != 0#18 then illop s c.toNat t x 4#18 3
    else if !(isS x) then raise s c.toNat t x (cIllop + n.toNat * 2 ^ 22) 0#64 3 (dropIt s c.toNat t x 4#18 3)
    else fenced c.toNat t x s fun s => goWait s c.toNat t x (.reply (.mcall n)) 2) s)

/-- R89: the parts of n 8-byte values from `va` on. -/
def entryParts (va n : Nat) : List (Nat × Nat) :=
  ((List.range n).map fun i => splitAccess ((va + 8 * i) % 2 ^ 64) 8).flatten

/-- R89: return-stack entries as 8-byte values. -/
def entryBytes (l : List (BitVec 18)) : List Byte := (l.map fun e => natLe 8 e.toNat).flatten

/-- R89: n return-stack entries read from bytes. -/
def entriesOf (n : Nat) (bs : List Byte) : List (BitVec 18) :=
  (wordsOf n bs).map fun w => w.truncate 18 &&& 0x3FFFC#18

/-- R89: the oldest n entries of a return stack, oldest first. -/
def oldest (rs : List (BitVec 18)) (n : Nat) : List (BitVec 18) := rs.reverse.take n

/-- R89: the thread with n entries spilled. -/
def spilled (x : Thread) (b : BitVec 5) (n : Nat) : Thread :=
  putS { x with rs := x.rs.take (x.rs.length - n) } b (BitVec.ofNat 64 n)

/-- R89: the thread with loaded entries below its oldest, the last loaded the oldest. -/
def filled (x : Thread) (b : BitVec 5) (l : List (BitVec 18)) : Thread :=
  putS { x with rs := x.rs ++ l } b (BitVec.ofNat 64 l.length)

/-- R89: RSSPILL. -/
def execRsspill (c : BitVec 8) (a b : BitVec 5) (s : State) : Out :=
  .next (issue c 4#18 [.s a, .s b] (fun t x s =>
    if !(isS x) then illop s c.toNat t x 4#18 3
    else afterVec c.toNat t x s fun s =>
      let n := min (min (getS x b).toNat 256) x.rs.length
      let w := worldOf (coreOf s c.toNat) t
      let (rs, s1) := checkParts s c.toNat x.cx.toNat w true [rWR] 0#4 .write ((getS x a).toNat % 8 == 0)
        (entryParts (getS x a).toNat n)
      let hs := rs.map (·.half)
      let good := hs.filter fun h => !h.bad
      let bytes := entryBytes (oldest x.rs n)
      let k := missClocks rs
      match if x.exm then none else firstFault rs false with
      | some (cause, va) => enter s1 c.toNat t x (cause % 0x2000) (BitVec.ofNat 64 va) x.pc 0#18 (3 + k)
      | none =>
        if good.all (inOwnSpad s1 c.toNat) then
          let (x1, s2) := countDrops s1 c.toNat t x (dropCount rs)
          let (s3, _) := postStore (drainOver s2 x1.sb hs).1 c.toNat [] (partBytes hs bytes)
          retire s3 c.toNat t (spilled { x1 with sb := (drainOver s2 x1.sb hs).2 } b n) (x.pc + 4#18) (3 + n + k)
        else match sendBlock s1 c.toNat good 1 with
          | some wt => goWait s1 c.toNat t x wt (2 + k)
          | none =>
            if msgLogFull s1 good || undoLogFull s1 good then goWait s1 c.toNat t x .log (2 + k)
            else
              let (s2, sb) := drainOver s1 x.sb hs
              goWait (submitWrites s2 c.toNat t w true 0 bytes hs) c.toNat t { x with sb := sb } (.reply (.spill b n hs)) (2 + k)) s)

/-- R89: RSFILL. -/
def execRsfill (c : BitVec 8) (a b : BitVec 5) (s : State) : Out :=
  .next (issue c 4#18 [.s a, .s b] (fun t x s =>
    if !(isS x) then illop s c.toNat t x 4#18 3
    else afterVec c.toNat t x s fun s =>
      let n := min (min (getS x b).toNat 256) (512 - x.rs.length)
      let w := worldOf (coreOf s c.toNat) t
      let (rs, s1) := checkParts s c.toNat x.cx.toNat w true [rRD] 0#4 .read ((getS x a).toNat % 8 == 0)
        (entryParts (getS x a).toNat n)
      let hs := rs.map (·.half)
      let good := hs.filter fun h => !h.bad
      let k := missClocks rs
      match if x.exm then none else firstFault rs false with
      | some (cause, va) => enter s1 c.toNat t x (cause % 0x2000) (BitVec.ofNat 64 va) x.pc 0#18 (3 + k)
      | none =>
        if good.all (inOwnSpad s1 c.toNat) then
          let (x1, s2) := countDrops (decodeHalves s1 hs) c.toNat t x (dropCount rs)
          let l := entriesOf n (readParts s2 x.sb hs)
          match poisonedPart s2 x.sb hs with
          | none => retire s2 c.toNat t (filled x1 b l) (x.pc + 4#18) (3 + n + k)
          | some (h, _) =>
            onPoison s2 c.toNat t x h.va false (3 + k)
              (retire (setDropped s2 w) c.toNat t (filled (addDrop x1 (poisonCount s2 x.sb hs)) b l) (x.pc + 4#18) (3 + n + k))
        else match sendBlock s1 c.toNat good 1 with
          | some wt => goWait s1 c.toNat t x wt (2 + k)
          | none =>
            goWait (submitReads s1 c.toNat t w true 0 hs) c.toNat t x (.reply (.fill b n hs)) (2 + k)) s)

/-- R83: THR as it reads. -/
def thrWord (x : Thread) : Word :=
  BitVec.ofNat 64 (b2n x.exm + b2n x.pexm * 2 + b2n x.umask * 4
    + (match x.st with | .ready => 0 | .waiting => 1 | .stopped => 2) * 16 + x.rs.length * 256)

/-- R84: WLD as it reads. -/
def wldWord (w : World) (x : Thread) : Word :=
  BitVec.ofNat 64 ((match w with | .P => 0 | .T => 1) + b2n (x.lvl == .S) * 2 + b2n (x.plvl == .S) * 4 + x.cx.toNat * 256)

/-- R46: NUM_CTL as it reads. -/
def numCtlWord (x : Thread) : Word :=
  BitVec.ofNat 64 (x.rm.toNat + b2n x.sat * 8 + x.te.toNat * 16 + x.kstage.toNat * 2 ^ 16)

/-- R140: XLATE as it reads. -/
def xlateWord (x : Thread) : Word :=
  BitVec.ofNat 64 (x.xlSeq.toNat + b2n x.xlValid * 256 + b2n (!x.xlPort.isEmpty) * 512)

/-- R85: the TIME at which a world was enabled. -/
def worldStart (s : State) (w : World) : Nat := match w with | .P => s.startP | .T => s.startT

/-- R85: DROPPED of a world. -/
def worldDropped (s : State) (w : World) : Bool := match w with | .P => s.droppedP | .T => s.droppedT

/-- R403: the numbers of the thread registers whose reads the outcome log records. -/
def isTimeTrn (n : Nat) : Bool := n == 0x0C || (decide (0x20 ≤ n) && decide (n ≤ 0x23))

/-- R122: the value of a thread register; none for a number that names none. -/
def readTrn (s : State) (c t : Nat) (x : Thread) (n : Nat) : Option Word :=
  let w := worldOf (coreOf s c) t
  match n with
  | 0x00 => some (thrWord x)
  | 0x01 => some (wldWord w x)
  | 0x02 => some x.dsp
  | 0x08 => some (x.xpc.zeroExtend 64)
  | 0x09 => some (x.xcause.zeroExtend 64)
  | 0x0A => some x.xaddr
  | 0x0B => some (x.xvec.zeroExtend 64 <<< 6)
  | 0x0C => some (x.xdrop.zeroExtend 64)
  | 0x0D => some (BitVec.ofNat 64 (x.xexpKind.toNat + x.xexpShort.toNat * 256))
  | 0x0E => some (xlateWord x)
  | 0x0F => some x.xlateV
  | 0x10 => some (numCtlWord x)
  | 0x11 => some (x.nflags.zeroExtend 64)
  | 0x12 => some (x.kbase.zeroExtend 64)
  | 0x13 => some (seedOf s x)
  | 0x18 => some (BitVec.ofNat 64 x.vl)
  | 0x19 => some (x.vfmt.zeroExtend 64)
  | 0x20 => some (BitVec.ofNat 64 (s.time - x.jobStart))
  | 0x21 => some (BitVec.ofNat 64 (s.time - worldStart s w))
  | 0x22 => some (b2w (worldDropped s w))
  | 0x23 => some (BitVec.ofNat 64 s.time)
  | _ => none

/-- R85, R122, R403: MFTR. -/
def execMftr (c : BitVec 8) (d : BitVec 5) (trn : BitVec 8) (rsv7 : BitVec 7) (s : State) : Out :=
  .next (issue c 4#18 [.s d] (fun t x s =>
    match if rsv7 != 0#7 then none else readTrn s c.toNat t x trn.toNat with
    | none => illop s c.toNat t x 4#18 3
    | some v =>
      let (r, s1) := if isTimeTrn trn.toNat then outcome s 2 [c.toNat, t, x.icount] v else (v, s)
      retire s1 c.toNat t (putS x d r) (x.pc + 4#18) 3) s)

/-- R140: the late reply held longest in the port moves into XLATE and XLATEV once VALID is 0. -/
def moveLate (x : Thread) : Thread :=
  match x.xlPort with
  | (q, v) :: more => if x.xlValid then x else { x with xlSeq := q, xlateV := v, xlValid := true, xlPort := more }
  | [] => x

/-- R140: software clears XLATE.VALID, and a reply held in the port follows. -/
def clearXlate (x : Thread) : Thread := moveLate { x with xlValid := false }

/-- R83, R122: a thread register that every level may write, at level U as its own rule allows; none where the number names no
register or the value is refused (R148). -/
def writeTrnU (x : Thread) (n : Nat) (v : Word) : Option Thread :=
  match n with
  | 0x00 => some (if x.umask then { x with exm := v.getLsbD 0 } else x)
  | 0x02 => some { x with dsp := v }
  | 0x0E => some (if v.getLsbD 8 then clearXlate x else x)
  | 0x10 => some { x with rm := v.truncate 3, sat := v.getLsbD 3, te := (v >>> 4).truncate 5, kstage := (v >>> 16).truncate 8 }
  | 0x11 => some { x with nflags := x.nflags &&& ~~~(v.truncate 20) }
  | 0x12 => some { x with kbase := v.truncate 48 }
  | 0x18 => some (setVl x v.toNat)
  | 0x19 => if v.truncate 4 = 0xF#4 then none else some (setVfmt x (v.truncate 4))
  | 0x01 | 0x08 | 0x09 | 0x0A | 0x0B | 0x0C | 0x0D | 0x0F | 0x13 | 0x20 | 0x21 | 0x22 | 0x23 => some x
  | _ => none

/-- R83, R84, R95, R122, R133: a thread register written at level S. -/
def writeTrnS (x : Thread) (n : Nat) (v : Word) : Option Thread :=
  match n with
  | 0x00 => some { x with exm := v.getLsbD 0, pexm := v.getLsbD 1, umask := v.getLsbD 2 }
  | 0x01 => some { x with plvl := if v.getLsbD 2 then .S else .U }
  | 0x08 => some { x with xpc := v.truncate 18 &&& 0x3FFFC#18 }
  | 0x09 => some { x with xcause := v.truncate 30 &&& 0x3FFF3FFF#30 }
  | 0x0A => some { x with xaddr := v }
  | 0x0B => some { x with xvec := (v >>> 6).truncate 12 }
  | 0x0C => some { x with xdrop := v.truncate 32 }
  | 0x0D => some { x with xexpKind := v.truncate 3, xexpShort := (v >>> 8).truncate 8 }
  | _ => writeTrnU x n v

/-- R122: MTTR. -/
def execMttr (c : BitVec 8) (a : BitVec 5) (trn : BitVec 8) (rsv7 : BitVec 7) (s : State) : Out :=
  .next (issue c 4#18 [.s a] (fun t x s =>
    match if rsv7 != 0#7 then none
        else if isS x then writeTrnS x trn.toNat (getS x a) else writeTrnU x trn.toNat (getS x a) with
    | none => illop s c.toNat t x 4#18 3
    | some y => retire s c.toNat t y (x.pc + 4#18) 3) s)

/-- R123, R294: the rights a sync-object operation needs. -/
def syncNeed : SyncOp → List Nat
  | .signal => [rSIG]
  | .fetchadd => [rSIG]
  | .waits => [rWAIT]
  | .barrier => [rWAIT, rSIG]

/-- R123: FUNC of a sync-object operation. -/
def syncFn : SyncOp → BitVec 16
  | .signal => 0#16
  | .fetchadd => 1#16
  | .waits => 2#16
  | .barrier => 3#16

/-- R408: the recorded result that replay returns for a thread's sync-object operation. -/
def replayedSync (s : State) (c t : Nat) (x : Thread) : Option Word :=
  (s.steep.replay.find? fun r => r.ty == 1 && r.key == [c, t, x.icount]).map (·.val)

/-- R380, R408: a BARRIER of replay: its arrival counts, and it ends with the recorded result. -/
def replayBarrier (s : State) (n c t : Nat) (v r : Word) : State :=
  let s1 := (doBarrier s n (.thread c t) v).2
  match barrierEntry s1 n (.thread c t) with
  | some e => if r = 2#64 then holdBarrier s1 n e else dropWaits s1 (.thread c t)
  | none => s1

/-- R373, R377, R380, R403: a sync-object operation of a thread of this device on object n: its result when it completes at once. -/
def localSync (s : State) (op : SyncOp) (n c t : Nat) (x : Thread) (v : Word) : Option Word × State :=
  let fin (r : Option Word × State) : Option Word × State :=
    match r with
    | (some w, s1) => let (w2, s2) := outcome s1 1 [c, t, x.icount] w; (some w2, s2)
    | (none, s1) => (none, s1)
  match op with
  | .signal => let (w, s1) := doSignal s n v; fin (some w, s1)
  | .fetchadd => let (w, s1) := doFetchadd s n v; fin (some w, s1)
  | .waits => match replayedSync s c t x with
    | some r => fin (some r, s)
    | none => fin (doWaits s n (.thread c t) v)
  | .barrier => match replayedSync s c t x with
    | some r => fin (some r, replayBarrier s n c t v r)
    | none => fin (doBarrier s n (.thread c t) v)

/-- R377: the operand that a sync-object operation on another device carries. -/
def syncOperand (op : SyncOp) (v : Word) : Word :=
  match op with
  | .waits => BitVec.ofNat 64 (min v.toNat (2 ^ 32 - 1))
  | .barrier => BitVec.ofNat 64 (min v.toNat (2 ^ 32 - 1))
  | _ => v

/-- R106, R123, R298: a sync-object operation on the object at Sa with value Sb, its result for Sd. An address outside sync-object
space raises SEGF. -/
def syncInstr (op : SyncOp) (c : BitVec 8) (d a b : BitVec 5) (s : State) : State :=
  issue c 4#18 [.s d, .s a, .s b] (fun t x s => fenced c.toNat t x s fun s =>
    let va := (getS x a).toNat
    let w := worldOf (coreOf s c.toNat) t
    let (r, s1) := checkPart s c.toNat x.cx.toNat w (isS x) (syncNeed op) 0#4 .read true va 1
    let code := if r.code != 0 then r.code
      else if isRemote s1 r.half.pa then 0
      else match regionOf s1.part (paLocal r.half.pa) with
        | .so _ => 0
        | _ => cSegf
    let n := 2 + missClocks [r]
    if r.multi && !x.exm then enter s1 c.toNat t x cSegmm (getS x a) x.pc 0#18 n
    else if code != 0 then
      raise s1 c.toNat t x code (getS x a) n
        (retire (setDropped s1 w) c.toNat t (putS (addDrop x 1) d 0#64) (x.pc + 4#18) n)
    else match sendBlock s1 c.toNat [r.half] 1 with
      | some wt => goWait s1 c.toNat t x wt n
      | none =>
        if isRemote s1 r.half.pa then
          if msgLogFull s1 [r.half] then goWait s1 c.toNat t x .log n
          else goWait (submitHalf s1 c.toNat t 0 opSync w (isS x) { r.half with len := 0 } (syncFn op)
            (syncOperand op (getS x b)) []) c.toNat t (markBusy x (.s d)) (.reply (.rsync op d (getS x b) r.half)) n
        else match regionOf s1.part (paLocal r.half.pa) with
          | .so k =>
            match localSync s1 op k c.toNat t x (getS x b) with
            | (some v, s2) => goWait s2 c.toNat t (markBusy x (.s d)) (.reply (.synced d v)) n
            | (none, s2) => goWait s2 c.toNat t (markBusy x (.s d)) (.reply (.syncWait d k)) n
          | _ => s1) s

/-- R123, R373: SIGNAL. -/
def execSignal (c : BitVec 8) (d a b : BitVec 5) (s : State) : Out := .next (syncInstr .signal c d a b s)
/-- R123, R373: FETCHADD. -/
def execFetchadd (c : BitVec 8) (d a b : BitVec 5) (s : State) : Out := .next (syncInstr .fetchadd c d a b s)
/-- R123, R377: WAITS. -/
def execWaits (c : BitVec 8) (d a b : BitVec 5) (s : State) : Out := .next (syncInstr .waits c d a b s)
/-- R123, R380: BARRIER. -/
def execBarrier (c : BitVec 8) (d a b : BitVec 5) (s : State) : Out := .next (syncInstr .barrier c d a b s)

/-- R397: a declaration from its four leading words and its ranges; none where a count or a range breaks the layout. Reserved bits are
ignored (R8, DEDUCED). -/
def declOf (w : Nat → Word) : Option Decl :=
  let n := field (w 3).toNat 0 6
  let ranges := (List.range n).map fun i => (field (w (4 + i)).toNat 0 32, field (w (4 + i)).toNat 32 32)
  let acount := field (w 1).toNat 8 9
  if decide (32 < n) || decide (256 < acount)
      || (ranges.any fun r => r.1 % 64 != 0 || r.2 % 64 != 0 || decide (0x400000 < r.1 + r.2)) then none
  else some
    { vlive := (w 0).truncate 32, mlive := (w 0 >>> 32).truncate 15, banka := (w 0).getLsbD 47, banks := (w 0).getLsbD 48,
      afirst := field (w 1).toNat 0 8, acount := acount, rulive := w 2, ranges := ranges }

/-- The number of ones among the low n bits of a number. -/
def onesBelow (v n : Nat) : Nat := ((List.range n).filter (bitAt v)).length

/-- Ranges by rising offset. -/
def insertRange (r : Nat × Nat) : List (Nat × Nat) → List (Nat × Nat)
  | [] => [r]
  | q :: l => if r.1 ≤ q.1 then r :: q :: l else q :: insertRange r l

/-- R398: the bytes that at least one of several ranges covers. -/
def unionBytes (l : List (Nat × Nat)) : Nat :=
  ((l.foldr insertRange []).foldl (fun (st : Nat × Nat) r =>
    if r.1 + r.2 ≤ st.1 then st else (r.1 + r.2, st.2 + (r.1 + r.2 - max r.1 st.1))) (0, 0)).2

/-- R131, R398: the tile, metadata and scale bytes of a loaded bank. -/
def bankBytes (b : Bank) : Nat :=
  match (bankFmt b).bind fun f => classOfFmt f.toNat with
  | some cls => tileBytes cls + metaBytes cls (bankSp b) + scaleBytes cls (bankSp b)
  | none => 0

/-- R398: the lane-accumulator entries a declaration names. -/
def declEntries (cap : Nat) (d : Decl) : List Nat := (List.range (min d.acount cap)).map fun i => (d.afirst + i) % cap

/-- R398: the declared bytes of a core: its threads' registers, and the union of what belongs to the core. -/
def declBytes (k : Core) (ds : List Decl) : Nat :=
  let m := k.mx
  let cap := formCap (cForm m.cfg)
  let lane := match cForm m.cfg with
    | .la64 => 67 * 1024
    | _ => 17 * 1024
  (ds.map fun d => 1024 * onesBelow d.vlive.toNat 32 + 128 * onesBelow d.mlive.toNat 15).sum
    + (if ds.any (·.banka) then bankBytes (bankOf m m.act) else 0)
    + (if ds.any (·.banks) then bankBytes (bankOf m (!m.act)) else 0)
    + lane * ((List.range cap).filter fun e => ds.any fun d => (declEntries cap d).contains e).length
    + imageBytes k.ru.kind * ((List.range (ruCount k.ru.kind)).filter fun i => ds.any fun d => d.rulive.getLsbD i).length
    + unionBytes ((ds.map (·.ranges)).flatten)

/-- R395: the declarations that threads of a core have latched for the pending steep. -/
def latched (s : State) (c : Nat) : List Decl :=
  (s.steep.decls.filter fun e => e.1 / 8 == c).map (·.2)

/-- R219, R242, R395: the core's matrix and stream queues are empty, every drain has signalled and no firing is due. -/
def unitsEmpty (k : Core) : Bool :=
  k.mx.q.isEmpty && k.mx.pass.isNone && k.mx.drains.isEmpty && !(k.mx.ends.any (·.drains)) && k.mx.loading.isNone && k.mx.read.isNone
    && k.se.q.isEmpty && k.se.run.isNone && k.se.ending.isEmpty && !(k.se.arms.any fun e => decide (e.2.k < e.2.due))

/-- R397: a declaration read at `va` in the issuing core's scratchpad. -/
def readDecl (s : State) (c t va : Nat) : Except (Nat × Nat) (Option Decl) :=
  if va % 8 != 0 then .error (cAlignf, va)
  else match spadFail s c t [rRD] va 32 with
    | some a => .error (cSegf, a)
    | none =>
      let n := min 32 (field (leNat (unitRead s c t (va + 24) 8)) 0 6)
      match spadFail s c t [rRD] va (32 + 8 * n) with
      | some a => .error (cSegf, a)
      | none =>
        let ws := wordsOf (4 + n) (unitRead s c t va (32 + 8 * n))
        .ok (declOf fun i => ws.getD i 0#64)

/-- R395: a thread parks at a STEEP once its core's queues are empty; until then it waits with its declaration latched. -/
def parkOr (s : State) (c t : Nat) (x : Thread) : State :=
  if unitsEmpty (coreOf s c) then
    place s c t { x with pc := x.pc + 4#18, icount := x.icount + 1, st := .waiting, wait := .parked } 2
  else goWait s c t x .unit 2

/-- R124, R395: a thread's declaration latched for the pending steep, with its steep identifier; the failure log records that of the
latest declaration (DESIGN CHOICE, entry 129: a steep has many threads' identifiers and an event records one). -/
def latchDecl (s : State) (thread ident : Nat) (d : Decl) : State :=
  { s with steep := { s.steep with decls := tabSet s.steep.decls thread d, ident := ident } }

/-- R124, R395 to R398: STEEP. -/
def execSteep (c : BitVec 8) (d a : BitVec 5) (imm16 : BitVec 16) (s : State) : Out :=
  .next (issue c 4#18 [.s a] (fun t x s =>
    let k := coreOf s c.toNat
    if d != 0#5 then illop s c.toNat t x 4#18 2
    else if k.ilv || !s.steep.pending then retire s c.toNat t x (x.pc + 4#18) 2
    else if s.steep.decls.any fun e => e.1 == c.toNat * 8 + t then parkOr s c.toNat t x
    else match readDecl s c.toNat t (getS x a).toNat with
      | .error (cause, va) => raise s c.toNat t x cause (BitVec.ofNat 64 va) 2 (dropIt s c.toNat t x 4#18 2)
      | .ok none => illop s c.toNat t x 4#18 2
      | .ok (some dc) =>
        if decide (512 * 1024 < declBytes k (dc :: latched s c.toNat)) then illop s c.toNat t x 4#18 2
        else parkOr (latchDecl s (c.toNat * 8 + t) imm16.toNat dc) c.toNat t x) s)

end Sys2Proof.Machine
end

