-- ==== Sys2Proof/Machine/Transfer.lean ====
section
/-!
DEFINITION. Sys2Proof/Machine/Transfer.lean: transfer streams (R313 to R331): descriptors, addresses, the prefix and its marks,
faults, and the commands of a stream's registers.
-/

namespace Sys2Proof.Machine

/-- R10: who makes an access to CSR space: the monitor, or a world's context at a level; the dynamic rounding mode goes with it. -/
structure Viewer where
  mon : Bool
  world : World
  cx : Nat
  lvlS : Bool
  rm : Nat
  deriving DecidableEq, Repr

/-- R10: the viewer that an agent is. The monitor, like a stream or another device, has no RM of its own: a descriptor's DYN that its
TS_START latches names RNE (DESIGN CHOICE, entry 65). -/
def viewerOf (s : State) : Agent → Viewer
  | .monitor => { mon := true, world := .P, cx := 0, lvlS := true, rm := 0 }
  | .thread c t =>
    let x := thOf s c.toNat t.toNat
    { mon := false, world := worldOf (coreOf s c.toNat) t.toNat, cx := x.cx.toNat, lvlS := isS x, rm := x.rm.toNat }

/-- R313: stream n. -/
def tsOf (s : State) (n : Nat) : Ts := tabGet {} s.ts n

/-- The state with stream n replaced. -/
def setTs (s : State) (n : Nat) (x : Ts) : State := { s with ts := tabSet s.ts n x }

/-- R299, R323: the transfer-engine group of stream n: 8 groups of 1,024 streams on each I/O die (DEDUCED). -/
def tsGroup (n : Nat) : Nat := 256 + n / 1024

/-- The world of a stream. -/
def tsWorld (s : State) (n : Nat) : World := (ctxOf s (tsOf s n).ownCx.toNat).world

/-- R45: the RM field of a descriptor as TS_START latches it. -/
def latchRm (code dyn : Nat) : Nat := rmCode (resolveRm code dyn)

/-- R314, R318: the 20 words of a descriptor; none where it has a defect. -/
def parseTs (w : Nat → Word) (dyn : Nat) : Option TsDesc :=
  let f (i lo len : Nat) : Nat := field (w i).toNat lo len
  let nd := f 0 0 3
  let dims := List.range nd
  let d : TsDesc :=
    { ndim := nd, gather := (w 0).getLsbD 3, conv := (w 0).getLsbD 4, esz := f 0 5 4, sfmt := f 0 9 4, dfmt := f 0 13 4,
      rm := latchRm (f 0 17 3) dyn, sat := (w 0).getLsbD 20, scls := f 0 21 4, dcls := f 0 25 4, glw := (w 0).getLsbD 29,
      key := f 0 30 8, markn := f 1 0 32, minc := f 1 32 16, ibase := f 2 0 48, sva := f 3 0 48, dva := f 4 0 48,
      glva := f 5 0 48, markva := f 6 0 48
      counts := dims.map fun i => f (8 + 2 * i) 0 32
      sstr := dims.map fun i => sint 48 (f (8 + 2 * i) 32 32 + f (9 + 2 * i) 0 16 * 2 ^ 32)
      dstr := dims.map fun i => sint 48 (f (9 + 2 * i) 16 48) }
  let badFmt (c : Nat) : Bool := (decide (6 ≤ c) && decide (c ≤ 9)) || c == 0xF
  if f 0 38 26 != 0 || f 1 48 16 != 0 || ([2, 3, 4, 5, 6].any fun i => f i 48 16 != 0) || w 7 != 0#64 || w 18 != 0#64
      || w 19 != 0#64 || nd == 0 || decide (5 < nd) || d.counts.contains 0
      || decide (2 ^ 48 - 1 < d.counts.foldl (· * ·) 1) || decide (11 < d.esz)
      || (d.conv && (badFmt d.sfmt || badFmt d.dfmt)) then none
  else some d

/-- R315: N. -/
def tsN (d : TsDesc) : Nat := d.counts.foldl (· * ·) 1

/-- R315: the dimension indices of a linear index. -/
def tsDims : List Nat → Nat → List Nat
  | [], _ => []
  | c :: cs, l => l % c :: tsDims cs (l / c)

/-- R315: a base plus strides times indices, modulo 2^48. -/
def strideSum (base : Nat) (idx : List Nat) (str : List Int) : Nat :=
  (((base : Int) + ((idx.zip str).map fun e => (e.1 : Int) * e.2).sum) % (2 ^ 48 : Int)).toNat

/-- R315: where element l goes. -/
def tsDst (d : TsDesc) (l : Nat) : Nat := strideSum d.dva (tsDims d.counts l) d.dstr

/-- R317: the gather entry of element l. -/
def tsRun (d : TsDesc) (l : Nat) : Nat := l / d.counts.headD 1

/-- R315, R317: where element l comes from, given its gather entry. -/
def tsSrc (d : TsDesc) (l : Nat) (g : Int) : Nat :=
  if d.gather then
    (((d.sva : Int) + g + ((l % d.counts.headD 1 : Nat) : Int) * d.sstr.headD 0) % (2 ^ 48 : Int)).toNat
  else strideSum d.sva (tsDims d.counts l) d.sstr

/-- R316: bytes of an element at its source and at its destination. -/
def tsSrcBytes (d : TsDesc) : Nat := if d.conv then fmtBits ((fmtOfCode d.sfmt).getD .fp64) / 8 else 2 ^ d.esz
/-- R316. -/
def tsDstBytes (d : TsDesc) : Nat := if d.conv then fmtBits ((fmtOfCode d.dfmt).getD .fp64) / 8 else 2 ^ d.esz

/-- R43, R55, R316: an element's bytes converted, with the flags of the conversion. -/
def tsConvert (x : Ts) (l : Nat) (bs : List Byte) : List Byte × BitVec 4 :=
  let d := x.desc
  if !d.conv then (bs, 0#4)
  else
    let sf := (fmtOfCode d.sfmt).getD .fp64
    let df := (fmtOfCode d.dfmt).getD .fp64
    let rc : RoundCtx :=
      { rm := resolveRm d.rm 0, sat := d.sat, draw := krg x.seed ((d.ibase + l) % 2 ^ 48) d.key }
    let (p, g) := toElem df rc (fmtIsFloat df && decide (16 ≤ fmtBits df)) (elemVal sf 127 (leNat bs))
    (natLe (fmtBits df / 8) p, engBits g)

/-- What the checks of R298 find for a stream's access: the fault's cause and, for an absent segment, its number. -/
abbrev TsRes := Except (Nat × Option Nat) (Word × Seg)

/-- R298, R308, R325: an address of stream n translated and checked for `bytes` bytes. -/
def tsTrans (s : State) (n va : Nat) (need : List Nat) (bytes : Nat) : TsRes × State :=
  let x := tsOf s n
  let cx := x.ownCx.toNat
  match translate s (tsGroup n) cx va need x.lvlS with
  | (.bad code absent _ _, s1) =>
    (.error (code, if absent then (segHits s (tsGroup n) cx va).head?.map (·.1) else none), s1)
  | (.ok pa _ g _ _, s1) =>
    if decide (2 ≤ paSpace pa) then (.error (cSegf, none), s1)
    else if isRemote s1 pa then (.ok (pa, g), s1)
    else if !(ownCheck s1 pa g (tsWorld s n) need x.lvlS bytes) then (.error (cCapf, none), countCapRef s1 (tsWorld s n))
    else (.ok (pa, g), s1)

/-- R254, R298: whether a transfer may write bytes at a LOCAL address with a segment's rights: instruction memory needs IMW, and
belongs to the world whose part it is. -/
def imemWriteOk (s : State) (w : World) (rights : BitVec 16) (la : Nat) : Bool :=
  match regionOf s.part la with
  | .imem c => rights.getLsbD rIMW && inPart (coreOf s c) w (BitVec.ofNat 18 (la - imemBase c))
  | _ => true

/-- R298, R254: a transfer write into the instruction memory of another device needs IMW of the segment, as one here does. -/
def imwMissing (s : State) (rights : BitVec 16) (la : Nat) : Bool :=
  match regionOf s.part la with
  | .imem _ => !(rights.getLsbD rIMW)
  | _ => false

/-- R96, R313: stream n is DONE or FAULTED: the sources 24 to 31 bound to it become pending, enabled or not: EN lets a source be
delivered (R97). -/
def notifyTs (s : State) (n : Nat) : State :=
  { s with cores := tabMap s.cores fun _ k =>
      { k with icuPend := (List.range 8).foldl (fun p i =>
          let src := tabGet 0#30 k.icuSrc (24 + i)
          if field src.toNat 16 14 == n then p ||| (1#64 <<< (24 + i)) else p) k.icuPend } }

/-- R325: an element of a stream meets a fault; the lowest index is kept. -/
def tsFaultAt (x : Ts) (f : TsFault) : Ts :=
  match x.fault with
  | some g => if f.idx < g.idx then { x with fault := some f } else x
  | none => { x with fault := some f }

/-- R100, R362: responses to a stream's requests that no longer count. -/
def orphanTs (s : State) (n : Nat) : State :=
  let f (o : Outst) : Outst := match o.owner with
    | .tsRead m i => if m = n && decide (i < 2 ^ 60) then { o with owner := .tsRead m (i + 2 ^ 60) } else o
    | .tsWrite m i => if m = n && decide (i < 2 ^ 60) then { o with owner := .tsWrite m (i + 2 ^ 60) } else o
    | _ => o
  { s with fab := { s.fab with outst := s.fab.outst.map f, tc0Wait := s.fab.tc0Wait.map f } }

/-- R313: TS_FDIM0 to TS_FDIM2 for an index. -/
def tsFdim (d : TsDesc) (i : Nat) : List Nat := tsDims d.counts i

/-- R326: the stream enters FAULTED at its fault index. -/
def tsEnterFault (s : State) (n : Nat) (f : TsFault) : State :=
  let x := tsOf s n
  let s1 := setTs (orphanTs s n) n { x with
    st := .faulted, cause := f.cause, side := f.side, fidx := BitVec.ofNat 48 f.idx
    fdim := tsFdim x.desc f.idx, pre := f.idx, nxt := f.idx, above := [], inflight := [], fault := some f
    stopping := false }
  match f.absent with
  | some _ => notify s1 3 n
  | none => notifyTs s1 n

/-- The offset in a stream's read numbers that stands for its descriptor, and for its gather list. -/
def tsDescBase : Nat := 2 ^ 56
/-- As above. -/
def tsListBase : Nat := 2 ^ 57

/-- R359: a read or write request of stream n. -/
def tsSubmit (s : State) (n op : Nat) (pa : Word) (g : Seg) (cls : Nat) (bytes : Nat) (operand : Word) (data : List Byte)
    (owner : ReqOwner) : State :=
  submit s (tsGroup n) op
    { tc := if g.rights.getLsbD rURG && decide (bytes ≤ 256) then 0#2 else 1#2, world := tsWorld s n,
      lvlS := (tsOf s n).lvlS, cls := if cls = 0 || decide (0xC ≤ cls) then g.cls else BitVec.ofNat 4 cls, dest := paDev pa,
      bytes := bytes, addr := paLocal pa, fn := 0#16, operand := operand, cap := g.cap, data := data } owner

/-- Whether a request of stream n for a read number is on its way. -/
def tsAsked (s : State) (owner : ReqOwner) : Bool := (s.fab.outst ++ s.fab.tc0Wait).any fun o => o.owner == owner

/-- What a stream's engine finds when it reads local bytes for itself, or asks another device for them: the bytes, that it must wait,
or a fault. -/
inductive TsRead where
  | bytes (b : List Byte)
  | wait
  | bad (cause : Nat) (absent : Option Nat)
  deriving DecidableEq, Repr

/-- R298, R421: bytes at a virtual address that the engine of stream n reads for itself; `got` is what another device has sent, and
`num` the read number under which it is asked. -/
def tsFetch (s : State) (n va bytes : Nat) (got : Option (List Byte)) (num : Nat) : TsRead × State :=
  match tsTrans s n va [rRD] bytes with
  | (.error (c, a), s1) => (.bad c a, s1)
  | (.ok (pa, g), s1) =>
    if isRemote s1 pa then
      match got with
      | some b => (.bytes b, s1)
      | none =>
        if tsAsked s1 (.tsRead n num) then (.wait, s1)
        else (.wait, tsSubmit s1 n opRd pa g 0 bytes 0#64 [] (.tsRead n num))
    else match regionOf s1.part (paLocal pa) with
      | .so _ => (.bad cAlignf none, s1)
      | .csr => (.bad cAlignf none, s1)
      | _ =>
        let s1 := decodeRead s1 (paLocal pa) bytes
        if anyPoison s1 (paLocal pa) bytes then
          (if steepEn s1 then .wait else .bad cPoison none, s1)
        else (.bytes (loadBytes s1 (paLocal pa) bytes), s1)

/-- R314, R345: the pieces of a descriptor that do not cross a 2 KiB block: offset, address, length. -/
def tsDescPieces (dva : Nat) : List (Nat × Nat × Nat) :=
  let a := min 160 (2048 - dva % 2048)
  (0, dva, a) :: (if a < 160 then [(a, (dva + a) % 2 ^ 48, 160 - a)] else [])

/-- R314: a descriptor's bytes, piece by piece. -/
def tsDescBytes (s : State) (n : Nat) : List (Nat × Nat × Nat) → TsRead × State
  | [] => (.bytes [], s)
  | (off, va, len) :: more =>
    let got := (tabFind (tsOf s n).dbuf fun k _ => k == off).map (·.2)
    match tsFetch s n va len got (tsDescBase + off) with
    | (.bad c a, s1) => (.bad c a, s1)
    | (.wait, s1) => (.wait, s1)
    | (.bytes b, s1) =>
      match tsDescBytes s1 n more with
      | (.bytes b2, s2) => (.bytes (b ++ b2), s2)
      | r => r

/-- R318: the CAUSE of a descriptor that cannot be read: POISON, or SEGF whatever else refuses it. -/
def descCause (c : Nat) : Nat := if c = cPoison then cPoison else cSegf

/-- R318: the descriptor of a running stream read and latched, or its fault. -/
def tsLoadDesc (s : State) (n : Nat) : State :=
  let x := tsOf s n
  let flt (c : Nat) (a : Option Nat) (s : State) : State :=
    tsEnterFault s n { idx := 0, cause := BitVec.ofNat 8 c, side := 0#3, absent := a }
  if x.st != .running || x.desc.ndim != 0 then s
  else if x.dva % 64 != 0 then flt cIllop none s
  else match tsDescBytes s n (tsDescPieces x.dva) with
    | (.bad c a, s1) => flt (descCause c) a s1
    | (.wait, s1) => s1
    | (.bytes b, s1) =>
      let ws := wordsOf 20 b
      match parseTs (fun i => ws.getD i 0#64) (x.desc.rm) with
      | none => flt cIllop none s1
      | some d => setTs s1 n { tsOf s1 n with desc := d }

/-- R313: whether a viewer may command stream n. -/
def tsMay (s : State) (n : Nat) (v : Viewer) : Bool :=
  v.mon || ((tsOf s n).ownValid && (tsOf s n).ownCx.toNat == v.cx && tsWorld s n == v.world)

/-- R318: a store to TS_START. The dynamic rounding mode of the thread that stores is kept in the empty descriptor until it is
read. CAUSE, SIDE, DROPS, INDEX and the dimension indices keep their values (DEDUCED, entry 143). -/
def tsStart (s : State) (n : Nat) (v : Viewer) (w : Word) : State :=
  let x := tsOf s n
  if !(tsMay s n v) || !x.ownValid || (x.st != .idle && x.st != .done) then s
  else
    let y : Ts := { x with
      st := .running, flags := 0#4, dva := field w.toNat 0 48, desc := { rm := v.rm }, dbuf := [], gl := []
      seed := (ctxOf s x.ownCx.toNat).seed, lvlS := v.lvlS, pre := 0, nxt := 0, above := [], inflight := [], marks := 0
      fault := none, stopping := false, zpois := false }
    tsLoadDesc (setTs (orphanTs s n) n y) n

/-- R321: the number of marks of a stream. -/
def tsMarks (d : TsDesc) : Nat :=
  if d.minc = 0 then 0 else if d.markn = 0 then 1 else (tsN d + d.markn - 1) / d.markn

/-- R321: the prefix at which mark k is due. -/
def tsDue (d : TsDesc) (k : Nat) : Nat := if d.markn = 0 then tsN d else min (k * d.markn) (tsN d)

/-- R321, R325: the marks that the prefix makes due are signalled in order, `f` at most; a mark on another device is accepted before
the next is sent; a mark's fault takes the last element it covers (DEDUCED). -/
def tsSignal : Nat → State → Nat → State
  | 0, s, _ => s
  | f + 1, s, n =>
    let x := tsOf s n
    let d := x.desc
    if decide (x.marks < tsMarks d) && decide (tsDue d (x.marks + 1) ≤ x.pre) && !(tsAsked s (.tsMark n)) then
      let flt (c : Nat) (a : Option Nat) (s : State) : State :=
        setTs s n (tsFaultAt (tsOf s n) { idx := tsDue d (x.marks + 1) - 1, cause := BitVec.ofNat 8 c, side := 4#3, absent := a })
      match tsTrans s n d.markva [rSIG] 1 with
      | (.error (c, a), s1) => flt c a s1
      | (.ok (pa, g), s1) =>
        let s2 := setTs s1 n { tsOf s1 n with marks := x.marks + 1 }
        if isRemote s1 pa then
          tsSubmit s2 n opSync pa g 0 0 (BitVec.ofNat 64 d.minc) [] (.tsMark n)
        else match regionOf s1.part (paLocal pa) with
          | .so k => tsSignal f (signalSo s2 k (BitVec.ofNat 64 d.minc)) n
          | _ => flt cSegf none s1
    else s

/-- R320: the prefix after the delivered elements above it. -/
def tsPrefix : Nat → Nat → List Nat → Nat × List Nat
  | 0, p, l => (p, l)
  | f + 1, p, l => if l.contains p then tsPrefix f (p + 1) (l.filter fun i => i != p) else (p, l)

/-- R321: the stream enters DONE once every element is delivered and its last mark has been accepted. -/
def tsFinish (s : State) (n : Nat) : State :=
  let x := tsOf s n
  if x.st == .running && x.desc.ndim != 0 && decide (tsN x.desc ≤ x.pre) && x.marks == tsMarks x.desc && x.fault.isNone
      && !(tsAsked s (.tsMark n)) then
    notifyTs (setTs s n { x with st := .done, stopping := false }) n
  else s

/-- R320, R321: the prefix of stream n rises as far as it can, with its marks. -/
def tsAdvance (s : State) (n : Nat) : State :=
  let x := tsOf s n
  let (p, l) := tsPrefix 256 x.pre x.above
  tsFinish (tsSignal 257 (setTs s n { x with pre := p, above := l }) n) n

/-- R316, R320, R329: element idx is delivered. -/
def tsDelivered (s : State) (n idx : Nat) : State :=
  let x := tsOf s n
  match x.inflight.find? fun e => e.idx == idx with
  | none => s
  | some e =>
    let y : Ts := { x with inflight := x.inflight.filter fun q => q.idx != idx }
    let late := match x.fault with
      | some f => decide (f.idx < idx)
      | none => false
    if x.st != .running || late then setTs s n y
    else
      let z : Ts := { y with
        above := y.above ++ [idx], flags := y.flags ||| e.fl
        drops := if e.zero && y.drops != BitVec.allOnes 16 then y.drops + 1#16 else y.drops }
      tsAdvance (setTs (if e.zero then setDropped s (tsWorld s n) else s) n z) n

/-- R328: the stream issues again from its prefix. -/
def tsRestart (s : State) (n : Nat) (zpois : Bool) : State :=
  let x := tsOf s n
  let s1 := setTs (orphanTs s n) n { x with
    st := .running, fault := none, stopping := false, zpois := zpois, nxt := x.pre, above := [], inflight := [] }
  tsAdvance (tsLoadDesc s1 n) n

/-- R328, R329: RESUME. -/
def tsResume (s : State) (n : Nat) (zpois : Bool) : State :=
  match (tsOf s n).st with
  | .faulted => tsRestart s n zpois
  | .stopped => tsRestart s n zpois
  | _ => s

/-- R330: STOP. -/
def tsStop (s : State) (n : Nat) : State :=
  let x := tsOf s n
  if x.st = .running then setTs s n { x with stopping := true } else s

/-- R313: ABORT; the fields that say where the stream stopped keep their values (DEDUCED, entry 143). -/
def tsAbort (s : State) (n : Nat) : State :=
  let x := tsOf s n
  if x.st = .faulted || x.st = .stopped then
    setTs (orphanTs s n) n { x with st := .idle, fault := none, inflight := [], above := [], stopping := false }
  else s

/-- R313: a store to TS_CMD: of the commands that the state allows, ABORT goes before STOP and STOP before RESUME. -/
def tsCommand (s : State) (n : Nat) (v : Viewer) (w : Word) : State :=
  let x := tsOf s n
  let held := x.st == .faulted || x.st == .stopped
  if !(tsMay s n v) then s
  else if w.getLsbD 2 && held then tsAbort s n
  else if w.getLsbD 1 && x.st == .running then tsStop s n
  else if w.getLsbD 0 && held then tsResume s n (w.getLsbD 3)
  else s

/-- R313: TS_STAT. -/
def tsStat (x : Ts) : Word :=
  BitVec.ofNat 64 ((match x.st with | .idle => 0 | .running => 1 | .faulted => 2 | .stopped => 3 | .done => 4)
    + x.cause.toNat * 2 ^ 8 + x.side.toNat * 2 ^ 16 + x.flags.toNat * 2 ^ 19 + x.drops.toNat * 2 ^ 32)

/-- R313, R318: TS_START. -/
def execTsStart (who : Agent) (ts : BitVec 14) (v : Word) (s : State) : Out :=
  .next (tsStart s ts.toNat (viewerOf s who) v)

/-- R313, R328, R329: TS_RESUME. -/
def execTsResume (who : Agent) (ts : BitVec 14) (zpois : Bool) (s : State) : Out :=
  .next (if tsMay s ts.toNat (viewerOf s who) then tsResume s ts.toNat zpois else s)

/-- R313, R330: TS_STOP. -/
def execTsStop (who : Agent) (ts : BitVec 14) (s : State) : Out :=
  .next (if tsMay s ts.toNat (viewerOf s who) then tsStop s ts.toNat else s)

/-- R313: TS_ABORT. -/
def execTsAbort (who : Agent) (ts : BitVec 14) (s : State) : Out :=
  .next (if tsMay s ts.toNat (viewerOf s who) then tsAbort s ts.toNat else s)

/-- R325, R326: STREAM_FAULT: nothing below the lowest faulting element is in flight, and no mark waits to be accepted. -/
def execStreamFault (ts : BitVec 14) (s : State) : Out :=
  let x := tsOf s ts.toNat
  match x.fault with
  | none => .next s
  | some f =>
    .next (if x.st == .running && !(x.inflight.any fun e => decide (e.idx < f.idx)) && !(tsAsked s (.tsMark ts.toNat)) then tsEnterFault s ts.toNat f else s)

/-- R330: STREAM_STOPPED. -/
def execStreamStopped (ts : BitVec 14) (s : State) : Out :=
  let x := tsOf s ts.toNat
  .next (if x.st == .running && x.stopping && x.inflight.isEmpty && x.fault.isNone && !(tsAsked s (.tsMark ts.toNat)) then
      setTs s ts.toNat { x with
        st := .stopped, fidx := BitVec.ofNat 48 x.pre, fdim := tsFdim x.desc x.pre, nxt := x.pre, above := []
        stopping := false }
    else s)

end Sys2Proof.Machine
end

