-- ==== Sys2Proof/Machine/ServiceMem.lean ====
section
/-!
DEFINITION. Sys2Proof/Machine/ServiceMem.lean: how the monitor reaches a caller's memory at level S (R311, R389, R472).
-/

namespace Sys2Proof.Machine

/-- R311: where n bytes lie that the monitor reaches at level S in a context: at a LOCAL address in HBM or a scratchpad of this device, on
another device, or nowhere it may go. -/
inductive SvcAt where
  | here (la : Nat)
  | there (pa : Word) (g : Seg)
  | bad
  deriving DecidableEq, Repr

/-- R311: where n bytes at `va` lie. -/
def svcAt (s : State) (cx : Nat) (need : List Nat) (va n : Nat) : SvcAt :=
  match (translate s 272 cx va need true).1 with
  | .ok pa _ g _ _ =>
    if isRemote s pa then .there pa g
    else if decide (2 ≤ paSpace pa) || !(ownCheck s pa g (ctxOf s cx).world need true n) then .bad
    else match regionOf s.part (paLocal pa) with
      | .hbm => .here (paLocal pa)
      | .spad _ => .here (paLocal pa)
      | _ => .bad
  | .bad _ _ _ _ => .bad

/-- R311: the LOCAL address of n bytes at `va`, where they lie on this device. -/
def svcPa (s : State) (cx : Nat) (need : List Nat) (va n : Nat) : Option Nat :=
  match svcAt s cx need va n with
  | .here la => some la
  | _ => none

/-- R311: whether level S of a context has the rights over n bytes at `va` of this device. -/
def svcOk (s : State) (cx : Nat) (need : List Nat) (va n : Nat) : Bool :=
  (rangeFailFrom (fun v k => (svcPa s cx need v k).isSome) (n / 4096 + 2) va n).isNone

/-- The bytes the monitor reads for a service. -/
def svcRead (s : State) (cx va n : Nat) : List Byte :=
  ((pieces va n).map fun p => match svcPa s cx [rRD] p.1 p.2 with
    | some a => loadZeroPoison s a p.2
    | none => List.replicate p.2 0#8).flatten

/-- Bytes the monitor writes for a service. -/
def svcWrite (s : State) (cx va : Nat) (bs : List Byte) : State :=
  ((pieces va bs.length).foldl (fun st p =>
    ((match svcPa st.1 cx [rWR] p.1 p.2 with
      | some a => memStore st.1 a (st.2.take p.2)
      | none => st.1), st.2.drop p.2)) (s, bs)).1

/-- R471: the number under which a world's job file is kept. -/
def fileKey (w : World) (n : Nat) : Nat := (match w with | .P => 0 | .T => 256) + n

end Sys2Proof.Machine
end

