-- ==== Sys2Proof/Machine/Collect.lean ====
section
/-!
DEFINITION. Sys2Proof/Machine/Collect.lean: stores to sync objects and expiring waiters (R371, R372, R378), and collective groups (R383 to
R388): contributions, the exchange by dimensions, and what ends an operation.
-/

namespace Sys2Proof.Machine

/-- R371: SO_CFG as it reads. -/
def soCfg (n : Nat) (o : SyncObj) : Word :=
  BitVec.ofNat 64 (o.ty.toNat + b2n (soMon n) * 4 + b2n o.grp * 8 + o.parts.toNat * 256)

/-- R371: a register of sync object n, by its offset. -/
def soRead (s : State) (n off : Nat) : Word :=
  match off with
  | 0x00 => (soOf s n).val
  | 0x08 => (soOf s n).tgt
  | 0x10 => soCfg n (soOf s n)
  | _ => 0#64

/-- R371, R372: a store to VAL or TGT. -/
def soStoreVal (s : State) (n : Nat) (tgt : Bool) (v : Word) : State :=
  soUpdate s n (if tgt then { soOf s n with tgt := v } else { soOf s n with val := v })

/-- R371, R380: a store to SO_CFG. A change of TYPE ends every waiter and parked entry. -/
def soStoreCfg (s : State) (n : Nat) (v : Word) : State :=
  let ty : BitVec 2 := v.truncate 2
  let parts : BitVec 12 := (v >>> 8).truncate 12
  let s1 := if ty != (soOf s n).ty then endWaiters s n else s
  soUpdate s1 n { soOf s1 n with ty := ty, parts := if parts = 0#12 then 1#12 else parts }

/-- R371: a store to a register of sync object n by its offset, at a level. -/
def soStore (s : State) (n off : Nat) (lvlS : Bool) (v : Word) : State :=
  match off with
  | 0x00 => soStoreVal s n false v
  | 0x08 => soStoreVal s n true v
  | 0x10 => if lvlS then soStoreCfg s n v else s
  | _ => s

/-- R370: the monitor's objects are its own. -/
def soMay (s : State) (who : Agent) (n : Nat) : Bool := (viewerOf s who).mon || !(soMon n)

/-- R372: SO_STORE. -/
def execSoStore (who : Agent) (so : BitVec 13) (tgt : Bool) (v : Word) (s : State) : Out :=
  .next (if soMay s who so.toNat then soStoreVal s so.toNat tgt v else s)

/-- R371: SO_CFG_STORE; from level U it is ignored. -/
def execSoCfgStore (who : Agent) (so : BitVec 13) (v : Word) (s : State) : Out :=
  .next (if soMay s who so.toNat && (viewerOf s who).lvlS then soStoreCfg s so.toNat v else s)

/-- R378, R380: WAITS_TIMEOUT: TIME reaches the deadline of waiter entry idx (entries, then second arrivals); arrival is evaluated
first. -/
def execWaitsTimeout (so : BitVec 13) (idx : BitVec 12) (now : Word) (s : State) : Out :=
  let s0 := { s with time := max s.time now.toNat }
  let o := soOf s0 so.toNat
  let held := o.waiters.length
  match (o.waiters ++ o.early)[idx.toNat]? with
  | none => .next s0
  | some w => match w.deadline with
    | none => .next s0
    | some d =>
      .next (if s0.time < d then s0
        else if idx.toNat < held && waiterDone o w then releaseWaiters s0 so.toNat
        else if held ≤ idx.toNat then
          -- a second arrival whose wait ends: it stays held for the next generation (R381)
          holdBarrier (setSo s0 so.toNat { o with
            early := o.early.map fun e => if e.who = w.who then { e with deadline := none } else e }) so.toNat w
        else expireWaiter s0 so.toNat w)

/-- R383: group g. -/
def grpOf (s : State) (g : Nat) : Group := tabGet {} s.groups g

/-- The state with group g replaced. -/
def setGrp (s : State) (g : Nat) (x : Group) : State := { s with groups := tabSet s.groups g x }

/-- R383: the fields of COLL_GRP. -/
def gValid (x : Group) : Bool := x.word0.getLsbD 0
/-- R383. -/
def gKind (x : Group) : Nat := field x.word0.toNat 1 2
/-- R383. -/
def gWide (x : Group) : Bool := x.word0.getLsbD 3
/-- R383. -/
def gUrg (x : Group) : Bool := x.word0.getLsbD 4
/-- R383. -/
def gWorld (x : Group) : World := if x.word0.getLsbD 5 then .T else .P
/-- R383. -/
def gCtx (x : Group) : Nat := field x.word0.toNat 6 6
/-- R383: the range of a group in dimension 0 to 2, or of its pots (3). -/
def gRange (x : Group) (d : Nat) : Nat × Nat :=
  if d = 3 then (field x.word0.toNat 30 5, field x.word0.toNat 35 5)
  else (field x.word0.toNat (12 + 6 * d) 3, field x.word0.toNat (15 + 6 * d) 3)
/-- R383. -/
def gRoot (x : Group) : Nat := field x.word0.toNat 40 14
/-- R383. -/
def gContrib (x : Group) : Nat := field x.arg.toNat 0 9
/-- R383. -/
def gCso (x : Group) : Nat := field x.arg.toNat 9 13
/-- R383. -/
def gDso (x : Group) : Nat := field x.arg.toNat 22 13

/-- The coordinate of a device in phase d: x, y, z or pot. -/
def phaseCoord (dev d : Nat) : Nat := if d = 3 then potOf dev else coordOf dev d

/-- R383: whether a device is a member of a group. -/
def gMember (x : Group) (dev : Nat) : Bool :=
  (List.range 4).all fun d => decide ((gRange x d).1 ≤ phaseCoord dev d) && decide (phaseCoord dev d ≤ (gRange x d).2)

/-- R371, R383: whether sync object n is the barrier object of a valid BARRIER group of which this device is a member. -/
def soGrouped (s : State) (n : Nat) : Bool :=
  s.groups.any fun e => gValid e.2 && gKind e.2 == 0 && gCso e.2 == n && gMember e.2 s.fab.devnum.toNat

/-- R371, R383: GRP of every sync object, after a change of the collective groups. -/
def markGroups (s : State) : State :=
  let s1 := { s with so := tabMap s.so fun n o => { o with grp := soGrouped s n } }
  s.groups.foldl (fun s1 e =>
    if soGrouped s (gCso e.2) then setSo s1 (gCso e.2) { soOf s1 (gCso e.2) with grp := true } else s1) s1

/-- R386: the partners a device merges from in a phase. -/
def gPartners (x : Group) (d : Nat) : Nat := (gRange x d).2 - (gRange x d).1

/-- The device with another coordinate in a phase's dimension. -/
def withCoord (dev d v : Nat) : Nat :=
  if d = 3 then dev % 512 + 512 * v else dev - coordOf dev d * 8 ^ d + v * 8 ^ d

/-- R386: the next device along dimension d in a direction for a partial that came `dist` hops so far; none at the end of its
journey: 4 hops in the + and 3 in the − direction of a full ring, the ends of a shorter line. -/
def nextHop (x : Group) (me d : Nat) (plus : Bool) (dist : Nat) : Option Nat :=
  let (lo, hi) := gRange x d
  let v := phaseCoord me d
  if lo = 0 && hi = 7 then
    if dist < (if plus then 4 else 3) then some (withCoord me d (if plus then (v + 1) % 8 else (v + 7) % 8)) else none
  else if plus then (if v < hi then some (withCoord me d (v + 1)) else none)
  else if lo < v then some (withCoord me d (v - 1)) else none

/-- R59, R65: limbs of a group's accumulators. -/
def gLimbs (wide : Bool) : Nat := accLimbs (ruKind wide)

/-- R347: a compressed accumulator of the limbs whose numbers are listed. -/
def packLimbs (l : List (Nat × Nat)) : List Byte :=
  natLe 16 ((l.map fun e => 2 ^ e.1).sum) ++ (l.map fun e => natLe 8 e.2).flatten

/-- R347: the accumulator that compressed bytes stand for. -/
def unpackLimbs (wide : Bool) (bs : List Byte) : Acc :=
  let mask := leNat (bs.take 16)
  let js := (List.range (gLimbs wide)).filter (bitAt mask)
  accOfBits (ruKind wide) (js.zip (wordsOf js.length (bs.drop 16)) |>.map fun e => e.2.toNat * 2 ^ (64 * e.1)).sum

/-- The chunks of at most n elements of a list. -/
def chunksOf {α : Type} (n : Nat) : Nat → List α → List (List α)
  | 0, _ => []
  | f + 1, l => if l.isEmpty then [] else l.take n :: chunksOf n f (l.drop n)

/-- R347, R387: the payloads of a partial: one, or in TC0 the parts of at most 256 bytes. -/
def partialPayloads (wide tc0 : Bool) (a : Acc) : List (List Byte) :=
  let top := gLimbs wide - 1
  let limbs := (List.range (gLimbs wide)).map fun j => (j, accLimb (ruKind wide) a j)
  let nz := limbs.filter fun e => e.2 != 0
  let low := nz.filter fun e => e.1 != top
  if !tc0 || decide (16 + 8 * nz.length ≤ 256) then [packLimbs nz]
  else
    let t := accLimb (ruKind wide) a top
    let cs := chunksOf 29 4 low
    cs.zipIdx.map fun e => packLimbs (e.1 ++ [(top, if e.2 + 1 = cs.length then t else t / 2 ^ 56 * 2 ^ 56)])

/-- R383: the agent number of a group's combine unit. -/
def gAgent (g : Nat) : Nat := if g < 32 then 274 else 275

/-- R387: FN of a part. -/
def combFn (g phase : Nat) (plus : Bool) (part parts : Nat) : BitVec 16 :=
  BitVec.ofNat 16 (g + phase * 64 + b2n (!plus) * 256 + part * 512 + (parts - 1) * 2048)

/-- R387: one packet of an exchange. -/
def combPacket (s : State) (g : Nat) (x : Group) (src dest : Nat) (fn : BitVec 16) (operand : Word) (data : List Byte) : Packet :=
  { tc := if gUrg x && gWorld x == World.P then 0#2 else 1#2, level := s.fab.active, replay := s.steep.replaying, world := gWorld x,
    lvlS := true, cls := 0#4, dest := BitVec.ofNat 14 dest, src := BitVec.ofNat 14 src, bytes := BitVec.ofNat 12 data.length,
    agent := BitVec.ofNat 10 (gAgent g), seq := 0#22, lwm := 0#22, plane := false, detour := false, vc := false, hops := 0#6,
    addr := 0#48, fn := fn, operand := operand, cap := 0#256, data := data }

/-- R387: a packet of an exchange leaves. -/
def combSend (s : State) (op : Nat) (p : Packet) : State := emit (logMsg s op p) none op p

/-- R387: every part of an accumulator sent to a device. -/
def sendPartial (s : State) (g : Nat) (x : Group) (op phase : Nat) (plus : Bool) (k members dest : Nat) (a : Option Acc) : State :=
  let ps := match a with
    | some v => partialPayloads (gWide x) (gUrg x && gWorld x == World.P) v
    | none => [[]]
  ps.zipIdx.foldl (fun s e =>
    combSend s op (combPacket s g x s.fab.devnum.toNat dest (combFn g phase plus e.2 ps.length)
      (BitVec.ofNat 64 (k % 2 ^ 48 + members % 65536 * 2 ^ 48)) e.1)) s

/-- R386: members merged before a phase. -/
def membersAt (x : Group) (d : Nat) : Nat := ((List.range d).map fun i => gPartners x i + 1).foldl (· * ·) 1

/-- R386: a device's partial sent to its partners of a phase. -/
def sendPhase (s : State) (g : Nat) (x : Group) (op d k : Nat) (a : Option Acc) : State :=
  let me := s.fab.devnum.toNat
  let m := membersAt x d
  if d = 3 then
    (List.range (gPartners x 3 + 1)).foldl (fun s i =>
      let pot := (gRange x 3).1 + i
      if pot = potOf me then s else sendPartial s g x op 3 true k m (withCoord me 3 pot) a) s
  else
    let s1 := match nextHop x me d true 0 with
      | some dev => sendPartial s g x op d true k m dev a
      | none => s
    match nextHop x me d false 0 with
    | some dev => sendPartial s1 g x op d false k m dev a
    | none => s1

/-- R387: the senders of a phase whose every part has been merged. -/
def sendersDone (x : Group) (k d : Nat) : Nat :=
  (((x.merged.filter fun r => r.op == k && r.phase == d).map (·.sender)).dedup.filter fun u =>
    (x.merged.filter fun r => r.op == k && r.phase == d && r.sender == u).any fun r =>
      decide (r.parts ≤ (x.merged.filter fun q => q.op == k && q.phase == d && q.sender == u).length)).length

/-- R386: what a device holds after the phases below d. -/
def accUpTo (x : Group) (k d : Nat) : Acc :=
  (List.range d).foldl (fun a i => accMerge a (tabGet {} x.acc (k % 2 * 4 + i))) {}

/-- R386: an operation goes on: each phase starts once the one before it is complete here. -/
def collAdvance : Nat → State → Nat → Nat → State
  | 0, s, _, _ => s
  | f + 1, s, g, k =>
    let x := grpOf s g
    let d := tabGet 0 x.phases (k % 2)
    if decide (k < x.started) && decide (0 < d) && decide (d < 4) && decide (gPartners x (d - 1) ≤ sendersDone x k (d - 1)) then
      let s1 := setGrp s g { x with phases := tabSet x.phases (k % 2) (d + 1) }
      let a := if gKind x = 0 then none else some (accUpTo x k d)
      collAdvance f (sendPhase s1 g x opComb d k a) g k
    else s

/-- R385: the images contributed to operation k, merged: an image that reads poison counts as INV. -/
def mergeStaged (s : State) (x : Group) (k : Nat) : Acc × State :=
  let n := imageBytes (gWide x)
  (List.range (gContrib x)).foldl (fun st i =>
    let va := x.stage.toNat + (k % 2) * gContrib x * 1024 + i * 1024
    if stagedPoison st.2 x va n then (accMerge st.1 { inv := true }, countMem st.2 (gWorld x) 16)
    else (accMerge st.1 (accOfBits (ruKind (gWide x)) (leNat (svcRead st.2 (gCtx x) va n))), st.2)) ({}, s)
where
  /-- R277: whether a staged image reads poison. -/
  stagedPoison (s : State) (x : Group) (va n : Nat) : Bool :=
    (pieces va n).any fun p => match svcPa s (gCtx x) [rRD] p.1 p.2 with
      | some a => anyPoison s a p.2
      | none => false

/-- R388: a BCAST image passed on from a device that got it in phase d (3: from the root's pot, or its own): along its dimension, and
by every later phase. -/
def bcastPass (s : State) (g : Nat) (x : Group) (k d : Nat) (a : Acc) : State :=
  (List.range (if d = 3 then 3 else 2 - d)).foldl (fun s i =>
    let e := if d = 3 then i else d + 1 + i
    sendPhase s g x opCombr e k (some a)) s

/-- R385, R388: the device contributes to its next operation. -/
def collStart (s : State) (g : Nat) : State :=
  let x := grpOf s g
  let k := x.started
  let me := s.fab.devnum.toNat
  let put (s : State) (a : Acc) : State :=
    let y := grpOf s g
    setGrp s g { y with
      started := k + 1, phases := tabSet y.phases (k % 2) 1
      acc := tabSet y.acc (k % 2 * 4) (accMerge a (tabGet {} y.acc (k % 2 * 4))) }
  match gKind x with
  | 0 => collAdvance 4 (sendPhase (put s {}) g x opComb 0 k none) g k
  | 3 =>
    if gRoot x = me then
      let (a, s1) := mergeStaged s x k
      let s2 := put s1 a
      let s3 := setGrp s2 g { grpOf s2 g with image := tabSet (grpOf s2 g).image (k % 2) a }
      bcastPass (sendPhase s3 g x opCombr 3 k (some a)) g x k 3 a
    else put s {}
  | _ =>
    let (a, s1) := mergeStaged s x k
    collAdvance 4 (sendPhase (put s1 a) g x opComb 0 k (some a)) g k

/-- R385: whether the contribution of the group's next operation is complete: for a BARRIER its object's PEND, else CONTRIB arrivals. -/
def collReady (s : State) (g : Nat) : Bool :=
  let x := grpOf s g
  let none' := gContrib x == 0 || (gKind x == 3 && gRoot x != s.fab.devnum.toNat)
  gValid x && decide (x.started < x.doneN + 2) &&
    (if gKind x = 0 then soPend (soOf s (gCso x)).val && x.started == x.doneN
      else if none' then x.started == x.doneN
      else decide (gContrib x ≤ (soOf s (gCso x)).val.toNat))

/-- R385, R421: COMBINE_START: CSO has reached CONTRIB, which is subtracted, and the staged images are merged; under full failure
protection a poisoned image waits for its recovery. -/
def execCombineStart (g : BitVec 6) (s : State) : Out :=
  let x := grpOf s g.toNat
  if !(collReady s g.toNat) then .next s
  else
    let k := x.started
    let bad := gKind x != 0 && (List.range (gContrib x)).any fun i =>
      mergeStaged.stagedPoison s x (x.stage.toNat + (k % 2) * gContrib x * 1024 + i * 1024) (imageBytes (gWide x))
    if bad && steepEn s then .next s
    else
      let take := gKind x != 0 && (gKind x != 3 || gRoot x == s.fab.devnum.toNat) && gContrib x != 0
      let o := soOf s (gCso x)
      .next (collStart (if take then soUpdate s (gCso x) { o with val := o.val - BitVec.ofNat 64 (gContrib x) } else s) g.toNat)

/-- R386, R388: whether operation k's exchange has ended here. -/
def collEnded (x : Group) (k : Nat) : Bool :=
  decide (k < x.started) &&
    (if gKind x = 3 then x.image.any fun e => e.1 == k % 2
      else tabGet 0 x.phases (k % 2) == 4 && decide (gPartners x 3 ≤ sendersDone x k 3))

/-- R388: COLLECTIVE_DONE: the exchange of the oldest operation has ended: the result is written and DSO signalled by KIND, or the
barrier's generation completes. -/
def execCollectiveDone (g : BitVec 6) (s : State) : Out :=
  let x := grpOf s g.toNat
  let k := x.doneN
  if !(gValid x && collEnded x k) then .next s
  else
    let a := if gKind x = 3 then tabGet {} x.image (k % 2) else accUpTo x k 4
    let s1 := setGrp s g.toNat { x with
      doneN := k + 1
      acc := x.acc.filter fun e => e.1 / 4 != k % 2
      phases := tabErase x.phases (k % 2)
      image := tabErase x.image (k % 2)
      merged := x.merged.filter fun r => r.op != k }
    if gKind x = 0 then .next (soUpdate s1 (gCso x) (nextGen (soOf s1 (gCso x))))
    else
      let write := gKind x != 2 || gRoot x == s.fab.devnum.toNat
      let s2 := if write then
          svcWrite s1 (gCtx x) (x.result.toNat + k % 2 * 1024) (natLe (imageBytes (gWide x)) (accBits (ruKind (gWide x)) a))
        else s1
      .next (signalSo s2 (gDso x) 1#64)

/-- R387: the fields of a COMB's FN. -/
def combGroup (p : Packet) : Nat := field p.fn.toNat 0 6
/-- R387. -/
def combPhase (p : Packet) : Nat := field p.fn.toNat 6 2
/-- R387: true for the + direction. -/
def combPlus (p : Packet) : Bool := !p.fn.getLsbD 8

/-- R386: the hops a partial has travelled from its sender in a phase. -/
def combDist (me : Nat) (p : Packet) : Nat :=
  let d := combPhase p
  let a := phaseCoord p.src.toNat d
  let b := phaseCoord me d
  if combPlus p then (b + 8 - a) % 8 else (a + 8 - b) % 8

/-- R386: a partial that came in a phase X to Z goes on to its next device. -/
def combForward (s : State) (x : Group) (op : Nat) (p : Packet) : State :=
  let d := combPhase p
  if d = 3 then s
  else match nextHop x s.fab.devnum.toNat d (combPlus p) (combDist s.fab.devnum.toNat p) with
    | some dev => combSend s op { p with dest := BitVec.ofNat 14 dev, vc := false, detour := false, hops := 0#6 }
    | none => s

/-- R387: whether a COMB or COMBR may be accepted: from a member of a valid group of its world. -/
def combOk (s : State) (p : Packet) : Bool :=
  let x := grpOf s (combGroup p)
  gValid x && gWorld x == p.world && gMember x p.src.toNat

/-- R387: a part from another member: merged once, passed on, and the operation goes on. A packet that may not be accepted is
reported, and its sender counts as failed. -/
def combAccept (s : State) (op : Nat) (p : Packet) : State :=
  let g := combGroup p
  let x := grpOf s g
  let k := field p.operand.toNat 0 48
  let r : CombRec :=
    { op := k, sender := p.src.toNat, phase := combPhase p, dir := combPlus p, part := field p.fn.toNat 9 2
      parts := field p.fn.toNat 11 2 + 1 }
  if !(combOk s p) then
    notify { s with fab := { s.fab with suspects := p.src :: s.fab.suspects } } 4 p.src.toNat
  else if decide (k < x.doneN) || x.merged.contains r then s
  else
    let a := if p.data.isEmpty then {} else unpackLimbs (gWide x) p.data
    let y : Group := { x with merged := x.merged ++ [r] }
    if op = opCombr then
      let old := (tabFind y.image fun i _ => i == k % 2).map (·.2)
      let img := accMerge (old.getD {}) a
      let have' := (y.merged.filter fun q => q.op == k).length
      let whole := decide (r.parts ≤ have')
      -- a split image is complete with its last part; parts on their way wait in the phase's accumulator
      let part := accMerge (tabGet {} y.acc (k % 2 * 4 + 1)) a
      let s1 := combForward (setGrp s g (if whole then
          { y with image := tabSet y.image (k % 2) (if r.parts = 1 then img else part) }
        else { y with acc := tabSet y.acc (k % 2 * 4 + 1) part })) x op p
      if whole then bcastPass s1 g x k r.phase (if r.parts = 1 then img else part) else s1
    else
      let i := k % 2 * 4 + r.phase
      let z : Group := { y with acc := tabSet y.acc i (accMerge (tabGet {} y.acc i) a) }
      collAdvance 4 (combForward (setGrp s g z) x op p) g k

end Sys2Proof.Machine
end

