-- ==== Sys2Proof/Machine/VectorMem.lean ====
section
/-!
DEFINITION. Sys2Proof/Machine/VectorMem.lean: vector loads, stores, gathers and scatters (R175 to R179): the elements they move,
their checks, and what moving them does.
-/

namespace Sys2Proof.Machine

/-- An element to be moved, before its address is translated: its number, place in the register, width, place in its first byte,
virtual address and bytes. -/
structure PreElem where
  i : Nat
  pos : Nat
  bits : Nat
  sub : Nat
  va : Nat
  len : Nat
  deriving DecidableEq, Repr

/-- R175: the elements of a unit-stride or strided access in a format that is no MX format. -/
def stridedElems (w : Nat) (act : List Nat) (base stride : Word) : List PreElem :=
  act.map fun i => { i := i, pos := w * i, bits := w, sub := 0, va := (base + BitVec.ofNat 64 i * stride).toNat, len := w / 8 }

/-- R175: the elements of an MX access at `base`, each block's scale byte at `scales` beside its lowest active element; the two
nibbles of a byte are one element where both are active. -/
def mxElems (f : Fmt) (act : List Nat) (base : Word) (scales : Option Word) : List PreElem :=
  (act.map fun i =>
    let el : List PreElem :=
      if f = .mxfp4 then
        if i % 2 = 1 && act.contains (i - 1) then []
        else if i % 2 = 0 && act.contains (i + 1) then
          [{ i := i, pos := 4 * i, bits := 8, sub := 0, va := (base + BitVec.ofNat 64 (i / 2)).toNat, len := 1 }]
        else [{ i := i, pos := 4 * i, bits := 4, sub := 4 * (i % 2), va := (base + BitVec.ofNat 64 (i / 2)).toNat, len := 1 }]
      else [{ i := i, pos := 8 * i, bits := 8, sub := 0, va := (base + BitVec.ofNat 64 i).toNat, len := 1 }]
    let first := !(act.any fun j => decide (j < i) && j / 32 == i / 32)
    let sc : List PreElem := match scales with
      | some b => if first then
          [{ i := i, pos := 4096 + 8 * (i / 32), bits := 8, sub := 0, va := (b + BitVec.ofNat 64 (i / 32)).toNat, len := 1 }]
        else []
      | none => []
    el ++ sc).flatten

/-- R176: the elements of a gather or scatter. -/
def gatherElems (w : Nat) (act : List Nat) (base : Word) (offs : BitVec 8192) (idx64 : Bool) : List PreElem :=
  act.map fun i =>
    let off : Word := if idx64 then BitVec.ofNat 64 (elemAt offs 64 i) else sext 32 (elemAt offs 32 i)
    { i := i, pos := w * i, bits := w, sub := 0, va := (base + off).toNat, len := w / 8 }

/-- R175: what a load in an MX format sets besides its elements: the scales of its blocks where it reads none, and zero in every
byte that is neither element nor scale (R144). -/
def mxFills (f : Fmt) (act : List Nat) (noScales : Bool) : List (Nat × Nat × Nat) :=
  let blocks := if f = .mxfp4 then 32 else 16
  (if noScales then
      ((List.range blocks).filter fun b => act.any fun i => i / 32 == b).map fun b => (4096 + 8 * b, 8, 0x7F)
    else []) ++ [(4096 + 8 * blocks, 4096 - 8 * blocks, 0)]

/-- R104, R298: every element split, translated and checked, in order. -/
def checkElems (s : State) (c t : Nat) (x : Thread) (need : List Nat) (hint : BitVec 4) (kind : AccKindOf) :
    List PreElem → List (VElem × List Checked) × State
  | [] => ([], s)
  | p :: ps =>
    let (rs, s1) := checkParts s c x.cx.toNat (worldOf (coreOf s c) t) (isS x) need hint kind
      (p.len == 8 && p.va % 8 == 0) (splitAccess p.va p.len)
    let (es, s2) := checkElems s1 c t x need hint kind ps
    (({ i := p.i, pos := p.pos, bits := p.bits, sub := p.sub, halves := rs.map (·.half) }, rs) :: es, s2)

/-- R104, R179: the first local memory part of a list of elements that meets poison, and whether it is its element's second half. -/
def poisonedElem (s : State) (sb : List SBuf) : List VElem → Option (Half × Bool)
  | [] => none
  | e :: es =>
    match poisonedPart s sb e.halves with
    | some p => some p
    | none => poisonedElem s sb es

/-- R298: a fault, or poison that a lower-numbered element reads. -/
inductive ElemFault where
  | fault (cause va : Nat)
  | poison (va : Nat) (second : Bool)
  deriving DecidableEq, Repr

/-- R179: the fault of the lowest-numbered element that meets one. A fault of translation is known at the hand-off; the elements below
it are then read, so that poison of theirs comes first. -/
def firstElemFault (s : State) (sb : List SBuf) (rd : Bool) (l : List (VElem × List Checked)) : Option ElemFault :=
  match l.find? fun q => (firstFault q.2 false).isSome with
  | none => none
  | some q =>
    match if rd then poisonedElem s sb ((l.takeWhile fun r => (firstFault r.2 false).isNone).map (·.1)) else none with
    | some (h, second) => some (.poison h.va second)
    | none => (firstFault q.2 false).map fun f => .fault f.1 f.2

/-- The bits [pos + bits − 1 : pos] of a register replaced. -/
def setBits (v pos bits x : Nat) : Nat := v - field v pos bits * 2 ^ pos + x % 2 ^ bits * 2 ^ pos

/-- R175: a register with the loaded elements in place; each element comes with the bytes read for it. -/
def loadInto (old : BitVec 8192) (fills : List (Nat × Nat × Nat)) (es : List (VElem × List Byte)) : BitVec 8192 :=
  let v := fills.foldl (fun v f => setBits v f.1 f.2.1 f.2.2) old.toNat
  BitVec.ofNat 8192 (es.foldl (fun v e => setBits v e.1.pos e.1.bits (leNat e.2 / 2 ^ e.1.sub)) v)

/-- The bytes a local read of an element gives. -/
def readElem (s : State) (sb : List SBuf) (e : VElem) : List Byte := readParts s sb e.halves

/-- The bytes that element `e` of a stored register holds. -/
def elemBytes (val : BitVec 8192) (e : VElem) : List Byte := natLe (e.bits / 8) (field val.toNat e.pos e.bits)

/-- R175, R177: an element written to local memory: its bytes, or one nibble of a byte. -/
def storeElem (s : State) (val : BitVec 8192) (e : VElem) : State :=
  if e.bits = 4 then
    match e.halves with
    | h :: _ =>
      if h.bad then s
      else memStore s (paLocal h.pa)
        [BitVec.ofNat 8 (setBits (readByte s.mem (paLocal h.pa)).toNat e.sub 4 (field val.toNat e.pos 4))]
    | [] => s
  else (partBytes e.halves (elemBytes val e)).foldl (fun s p => if p.1.bad then s else memStore s (paLocal p.1.pa) p.2) s

/-- Every memory part of a list of elements. -/
def elemHalves (es : List VElem) : List Half := (es.map (·.halves)).flatten

/-- R159, R359: the requests of a vector access's parts on other devices: reads, or writes of the stored bytes; a lone nibble is
read first. -/
def submitElems (s : State) (c t : Nat) (w : World) (lvlS : Bool) (val : Option (BitVec 8192)) :
    Nat → List VElem → State
  | _, [] => s
  | i, e :: es =>
    let s1 := match val with
      | none => submitReads s c t w lvlS i e.halves
      | some v => if e.bits = 4 then submitReads s c t w lvlS i e.halves
          else submitWrites s c t w lvlS i (elemBytes v e) e.halves
    submitElems s1 c t w lvlS val (i + e.halves.length) es

/-- R94, R179: the masked outcomes of one moved item: each faulting element counts once, so the two MXFP4 elements that share one
byte count twice. -/
def elemDrops (mx4 : Bool) (e : VElem) (rs : List Checked) : Nat :=
  dropCount rs * (if mx4 && e.bits == 8 && decide (e.pos < 4096) then 2 else 1)

/-- R94, R179: the masked outcomes of the elements that read poison, counted in the same way. -/
def poisonDrops (s : State) (sb : List SBuf) (mx4 : Bool) (es : List VElem) : Nat :=
  (es.map fun e => poisonCount s sb e.halves * (if mx4 && e.bits == 8 && decide (e.pos < 4096) then 2 else 1)).sum

/-- R156 to R159, R176 to R179: vector memory instruction `i`: `kind` is the queue entry's kind from the checked elements. Within the
scratchpad it is handed off, and its pass meets the poison; an access beyond it waits for the thread's earlier ones. -/
def vecMem (i : Instr) (c : BitVec 8) (regs dst : List Reg) (need : List Nat) (acc : AccKindOf) (hint : BitVec 4)
    (elems : Thread → Option (List PreElem)) (kind : Thread → List VElem → VKind) (s : State) : State :=
  issue c 4#18 (regs ++ dst) (fun t x s =>
    match elems x with
    | none => illop s c.toNat t x 4#18 2
    | some ps =>
      let (rs, s1) := checkElems s c.toNat t x need hint acc ps
      let es := rs.map (·.1)
      let chk := (rs.map (·.2)).flatten
      let n := missClocks chk
      let good := (elemHalves es).filter fun h => !h.bad
      match if x.exm then none else firstElemFault s1 x.sb (acc == .read) rs with
      | some (.fault cause va) => enter s1 c.toNat t x cause (BitVec.ofNat 64 va) x.pc 0#18 (2 + n)
      | some (.poison va second) => onPoison s1 c.toNat t x va second (2 + n) s1
      | none =>
        let (x1, s2) := countDrops s1 c.toNat t x
          ((rs.map fun q => elemDrops (vfmtOf x == .mxfp4) q.1 q.2).foldl (· + ·) 0)
        let e : VEnt := { t := t, pc := x.pc, kind := kind x es, flags := 0#5 }
        if good.all (inOwnSpad s1 c.toNat) then
          if !(vecRoom (coreOf s1 c.toNat)) then goWait s1 c.toNat t x .unit (2 + n)
          else handVec s2 c.toNat t x1 dst i e n
        else if vecMemPending (coreOf s1 c.toNat) t then goWait s1 c.toNat t x .vecmem (2 + n)
        else match sendBlock s1 c.toNat good 1 with
          | some wt => goWait s1 c.toNat t x wt (2 + n)
          | none =>
            if acc = .write && (msgLogFull s1 good || undoLogFull s1 good) then goWait s1 c.toNat t x .log (2 + n)
            else
              let val := match e.kind with
                | .store v _ => some v
                | _ => none
              let (s3, sb) := if acc = .write then drainOver s2 x1.sb good else (s2, x1.sb)
              goWait (submitElems s3 c.toNat t (worldOf (coreOf s c.toNat) t) (isS x) val 0 es) c.toNat t
                { dst.foldl markBusy x1 with sb := sb } (.reply (.vec (latchVec s2 c.toNat x1 i e))) (2 + n)) s

/-- R175: the elements of a VMEM access: base Sa, and Sb the stride or the address of the scales. -/
def vmemElems (a b : BitVec 5) (mk : BitVec 4) (x : Thread) : List PreElem :=
  let f := vfmtOf x
  let act := actives (getM x mk) x.vl
  if fmtIsMx f then mxElems f act (getS x a) (if b = 0#5 then none else some (getS x b))
  else stridedElems (fmtBits f) act (getS x a)
    (if b = 0#5 then BitVec.ofNat 64 (fmtBits f / 8) else getS x b)

/-- R113, R175: VMEM load. -/
def execVmemLoad (c : BitVec 8) (vd a b : BitVec 5) (hint mk : BitVec 4) (idx64 rsv1 : Bool) (s : State) : Out :=
  .next (vecMem (.vmemLoad c vd a b hint mk idx64 rsv1) c ([.s a, .s b] ++ maskReg mk) [.v vd] [rRD] .read hint
    (fun x => if rsv1 then none else some (vmemElems a b mk x))
    (fun x es => .load vd
      (if fmtIsMx (vfmtOf x) && !es.isEmpty then mxFills (vfmtOf x) (actives (getM x mk) x.vl) (b == 0#5) else []) es) s)

/-- R113, R175: VMEM store. -/
def execVmemStore (c : BitVec 8) (vd a b : BitVec 5) (hint mk : BitVec 4) (idx64 rsv1 : Bool) (s : State) : Out :=
  .next (vecMem (.vmemStore c vd a b hint mk idx64 rsv1) c ([.s a, .s b, .v vd] ++ maskReg mk) [] [rWR] .write hint
    (fun x => if rsv1 then none else some (vmemElems a b mk x)) (fun x es => .store (getV x vd) es) s)

/-- R151, R176: the elements of a VGS access: none (ILLOP) in an MX format, with a reserved bit set, or with VL above the
number of offsets that Vb holds. -/
def vgsElems (a vb : BitVec 5) (mk : BitVec 4) (idx64 rsv1 : Bool) (x : Thread) : Option (List PreElem) :=
  let f := vfmtOf x
  if rsv1 || !(permFormat f) || decide ((if idx64 then 128 else 256) < x.vl) then none
  else some (gatherElems (fmtBits f) (actives (getM x mk) x.vl) (getS x a) (getV x vb) idx64)

/-- R176: VGS gather. -/
def execVgather (c : BitVec 8) (vd a vb : BitVec 5) (hint mk : BitVec 4) (idx64 rsv1 : Bool) (s : State) : Out :=
  .next (vecMem (.vgather c vd a vb hint mk idx64 rsv1) c ([.s a, .v vb] ++ maskReg mk) [.v vd] [rRD] .read hint (vgsElems a vb mk idx64 rsv1)
    (fun _ es => .load vd [] es) s)

/-- R176, R177: VGS scatter. -/
def execVscatter (c : BitVec 8) (vd a vb : BitVec 5) (hint mk : BitVec 4) (idx64 rsv1 : Bool) (s : State) : Out :=
  .next (vecMem (.vscatter c vd a vb hint mk idx64 rsv1) c ([.s a, .v vb, .v vd] ++ maskReg mk) [] [rWR] .write hint (vgsElems a vb mk idx64 rsv1)
    (fun x es => .store (getV x vd) es) s)

end Sys2Proof.Machine
end

