-- ==== Sys2Proof/Machine/CoreEvents.lean ====
section
/-!
DEFINITION. Sys2Proof/Machine/CoreEvents.lean: the events of a core beside its instructions: thread selection (R78, R79, R108), the vector
unit's passes and writes (R156, R157, R174, R177), interrupt sources (R96, R97) and the monitor's writes to a core (R87, R107).
-/

namespace Sys2Proof.Machine

/-- R78: TIMESLICE_SWITCH: a thread that has run 1,024 clocks without waiting gives way to another ready one, at a cost of 1
clock. -/
def execTimesliceSwitch (c : BitVec 8) (s : State) : Out :=
  let k := coreOf s c.toNat
  .next (if !k.ilv && isReady k k.cur && decide (1024 ≤ k.ran) && (List.range 8).any (fun t => t != k.cur && isReady k t) then
      setCore s c.toNat (switchThread (spend k k.cur 1))
    else s)

/-- R79: SHARE_WINDOW: a window of 4,096 clocks has ended and counting starts again; nothing within the window. -/
def execShareWindow (c : BitVec 8) (s : State) : Out :=
  let k := coreOf s c.toNat
  .next (setCore s c.toNat (rollWindow k k.clk))

/-- R108: INTERLEAVE_TURN: the turn of a thread that cannot run is passed in 1 clock; a ready thread's turn is its instruction. -/
def execInterleaveTurn (c : BitVec 8) (s : State) : Out :=
  let k := coreOf s c.toNat
  .next (if k.ilv && !(isReady k k.cur) then setCore s c.toNat { k with clk := k.clk + 1, cur := (k.cur + 1) % 8, ran := 0 } else s)

/-- R81, R157: a vector result in a thread's registers, its flags collected (R164) and its scoreboard bit cleared. -/
def writeVDst (x : Thread) (d : VDst) (g : BitVec 5) : Thread :=
  let y := match d with
    | .none => x
    | .v n val => clearBusy (putV x n val) (.v n)
    | .m n val => clearBusy (putM x n val) (.m n)
    | .s n val => clearBusy (putS x n val) (.s n)
  { y with nflags := orVector y.nflags g }

/-- R157: the entry of a list that writes first: the earliest write clock, and of several the first to have started. -/
def firstWrite : List VEnt → Option VEnt
  | [] => none
  | e :: l =>
    match firstWrite l with
    | some f => if f.wclk < e.wclk then some f else some e
    | none => some e

/-- R157: VECTOR_WRITE: of the passes that have run, the one whose write clock comes first writes its destination. -/
def execVectorWrite (c : BitVec 8) (s : State) : Out :=
  let k := coreOf s c.toNat
  match firstWrite k.vrun with
  | none => .next s
  | some e =>
    let s1 := setCore s c.toNat { k with clk := max k.clk e.wclk, vrun := k.vrun.erase e }
    let x := thOf s1 c.toNat e.t
    .next (wake (setTh s1 c.toNat e.t (match e.kind with
      | .reg d => writeVDst x d e.flags
      | _ => x)) c.toNat)

/-- The bytes that a vector load's elements read, in order. -/
def loadedElems (s : State) (sb : List SBuf) (es : List VElem) : List (VElem × List Byte) := es.map fun e => (e, readElem s sb e)

/-- R81: the registers that a queued vector instruction will write. -/
def vecMarks (e : VEnt) : List Reg :=
  match e.kind with
  | .op dst => dst
  | .load d _ _ => [.v d]
  | .reg (.v n _) => [.v n]
  | .reg (.m n _) => [.m n]
  | .reg (.s n _) => [.s n]
  | _ => []

/-- R53, R92, R158, R179: the instruction at the head of the queue takes an exception at the start of its pass: its thread, which has
issued no later instruction, enters it at that instruction. A thread that has stopped takes none. -/
def vecFault (s : State) (c : Nat) (e : VEnt) (cause va : Nat) : State :=
  let k := coreOf s c
  let s1 := setCore s c { k with vq := k.vq.tail }
  let x := thOf s1 c e.t
  let y := { (vecMarks e).foldl clearBusy x with icount := if x.st == .stopped then x.icount else x.icount - 1 }
  let s2 := setTh s1 c e.t y
  wake (if x.st == .stopped then s2 else enterOutside s2 c e.t cause (BitVec.ofNat 64 va) e.pc 0#18) c

/-- R156: the clock at which the pass at the head of the queue starts. -/
def passStart (k : Core) (e : VEnt) : Nat := max e.hand (k.vend + 1)

/-- R156, R180: the head of the queue starts its pass: its entry is freed, and the unit is busy to the pass's last clock. The second part
is the pass's write clock. -/
def beginPass (k : Core) (e : VEnt) (start : Nat) : Core × Nat :=
  let (n, delay) := match e.instr with
    | some i => vecClocks i ((fmtOfCode e.vfmt.toNat).getD .fp64) e.vl
    | none => (1, 0)
  ({ k with vq := k.vq.tail, vend := start + n - 1, clk := max k.clk start }, start + n - 1 + delay)

/-- R157: the head of the queue starts its pass and writes `d` at its write clock. -/
def runPass (s : State) (c : Nat) (e : VEnt) (start : Nat) (d : VDst) (g : BitVec 5) : State :=
  let (k, w) := beginPass (coreOf s c) e start
  wake (setCore s c { k with vrun := k.vrun ++ [{ e with kind := .reg d, flags := g, wclk := w }] }) c

/-- R157: the value of the register that a vector store or scatter stores, as its pass reads it. -/
def storeValue (x : Thread) (e : VEnt) (old : BitVec 8192) : BitVec 8192 :=
  match e.instr with
  | some (.vmemStore _ vd _ _ _ _ _ _) => getV x vd
  | some (.vscatter _ vd _ _ _ _ _ _) => getV x vd
  | _ => old

/-- R157, R174: the values that a VRSUM.HO hands over, as its pass reads them. -/
def hoNow (x : Thread) (e : VEnt) (old : List FVal) : List FVal :=
  match e.instr with
  | some (.vrsumHo _ _ va _ _ mk) => hoVals (asLatched e x) va mk
  | _ => old

/-- R53, R156, R157, R164, R174, R177, R179, R252, R421: VECTOR_PASS_START: the head of the queue starts its pass and reads its operands: an
instruction on registers computes its result, or takes NUMTRAP; a load reads the scratchpad, a store writes it, a VRSUM.HO hands its
values to the reduction unit when its place there has come. -/
def execVectorPassStart (c : BitVec 8) (s0 : State) : Out :=
  match (coreOf s0 c.toNat).vq with
  | [] => .next s0
  | e :: _ =>
    let start := passStart (coreOf s0 c.toNat) e
    let s := catchUpTo s0 c.toNat start
    let k := coreOf s c.toNat
    let x := thOf s c.toNat e.t
    match e.kind with
    | .reg d => .next (runPass s c.toNat e start d e.flags)
    | .op _ =>
      match vecGives s c.toNat e with
      | none => .next (vecFault s c.toNat e cIllop 0)
      | some (d, g) =>
        .next (if g &&& e.te != 0#5 && !e.exm then vecFault s c.toNat e (cNumtrap + g.toNat * 256) 0
          else runPass s c.toNat e start d g)
    | .store val es =>
      let s1 := es.foldl (fun s q => storeElem s (storeValue x e val) q) (setCore s c.toNat (beginPass k e start).1)
      .next (wake s1 c.toNat)
    | .load d fills es =>
      let s := decodeHalves s (elemHalves es)
      let run (s : State) : State :=
        runPass s c.toNat e start (.v d (loadInto (getV x d) fills (loadedElems s [] es))) 0#5
      match poisonedElem s [] es with
      | none => .next (run s)
      | some (h, second) =>
        if steepEn s then .next (decodeHalves s0 (elemHalves es))
        else if !e.exm then .next (vecFault s c.toNat e (cPoison + (if second then 0x2000 else 0)) h.va)
        else .next (run (countMasked s c.toNat e.t (poisonDrops s [] (e.vfmt == 0x8#4) es)))
    | .ho acc wide vals =>
      let r := k.ru
      match r.q with
      | q :: more =>
        if q.op == .ho && !r.busy then
          let r1 := { r with q := more }
          let r2 := if r.kind == wide && decide (acc < ruCount r.kind) then addAll r1 ((hoNow x e vals).map fun v => (acc, v)) else r1
          .next (wake (ruDrain (setCore s c.toNat { (beginPass k e (max start k.clk)).1 with ru := r2 }) c.toNat) c.toNat)
        else .next s0
      | [] => .next s0

/-- R97: whether a viewer may change source n of a core: the monitor, or level S of the world that owns it. -/
def srcMay (k : Core) (v : Viewer) (n : Nat) : Bool :=
  v.mon || (v.lvlS && (if (tabGet 0#30 k.icuSrc n).getLsbD 8 then World.T else World.P) == v.world)

/-- The bits of a word whose numbers satisfy a test. -/
def maskBits (p : Nat → Bool) : BitVec 64 := (List.range 64).foldl (fun m i => if p i then m ||| (1#64 <<< i) else m) 0#64

/-- R96, R97: a store to ICU_SWI. -/
def icuSwi (s : State) (c : Nat) (v : Viewer) (w : Word) : State :=
  let k := coreOf s c
  setCore s c { k with icuPend := k.icuPend ||| (w &&& maskBits fun i => decide (i < 8) && srcMay k v i) }

/-- R97: a store to ICU_PEND. -/
def icuPendClear (s : State) (c : Nat) (v : Viewer) (w : Word) : State :=
  let k := coreOf s c
  setCore s c { k with icuPend := k.icuPend &&& ~~~(w &&& maskBits (srcMay k v)) }

/-- R96: ICU_SWI_WRITE. -/
def execIcuSwiWrite (c : BitVec 8) (who : Agent) (v : Word) (s : State) : Out := .next (icuSwi s c.toNat (viewerOf s who) v)

/-- R97: ICU_PEND_CLEAR; a level source whose condition holds reads pending again at once. -/
def execIcuPendClear (c : BitVec 8) (who : Agent) (v : Word) (s : State) : Out :=
  .next (icuPendClear s c.toNat (viewerOf s who) v)

/-- R96: TIMER_INTERRUPT: TIME has come to `now`; the level sources of timers follow TIME. -/
def execTimerInterrupt (_c : BitVec 8) (_t : BitVec 3) (now : Word) (s : State) : Out :=
  .next { s with time := max s.time now.toNat }

/-- R96: MONITOR_MESSAGE sets source 40 + k pending. -/
def execMonitorMessage (c : BitVec 8) (k3 : BitVec 3) (s : State) : Out :=
  let k := coreOf s c.toNat
  .next (setCore s c.toNat { k with icuPend := k.icuPend ||| (1#64 <<< (40 + k3.toNat)) })

/-- R484: EXT_INT_N. -/
def execExtIntN (low : Bool) (s : State) : Out :=
  .next { s with board := { s.board with ext := { s.board.ext with intN := !low } } }

/-- R87: CORE_WORLD as it reads. -/
def coreWorldWord (k : Core) : Word :=
  BitVec.ofNat 64 (k.pShare.toNat + k.tShare.toNat * 2 ^ 8 + k.imSplit.toNat * 2 ^ 16 + k.threadT.toNat * 2 ^ 24)

/-- R87: whether a thread of the core is not stopped. -/
def anyRunning (k : Core) (p : Nat → Bool) : Bool := (List.range 8).any fun t => p t && (threadOf k t).st != .stopped

/-- R87: a store to CORE_WORLD by the monitor. IM_SPLIT is kept as written, above 16 too, where the whole memory is world P's (DESIGN
CHOICE, entry 130: the spec gives it as 0 to 16 and does not say what a larger value does). -/
def coreWorldWrite (s : State) (c : Nat) (v : Viewer) (w : Word) : State :=
  let k := coreOf s c
  let ps : BitVec 8 := w.truncate 8
  let ts : BitVec 8 := (w >>> 8).truncate 8
  let im : BitVec 5 := (w >>> 16).truncate 5
  let th : BitVec 8 := (w >>> 24).truncate 8
  let moved := anyRunning k fun t => im != k.imSplit || th.getLsbD t != k.threadT.getLsbD t
  if !v.mon || decide (256 < ps.toNat + ts.toNat) || moved then s
  else setCore s c { k with pShare := ps, tShare := ts, imSplit := im, threadT := th }

/-- R107: a store to CORE_MODE by the monitor; turns start with thread 0 (DEDUCED). -/
def coreModeWrite (s : State) (c : Nat) (v : Viewer) (w : Word) : State :=
  let k := coreOf s c
  if !v.mon || (w.getLsbD 0 != k.ilv && anyRunning k fun _ => true) then s
  else setCore s c { k with ilv := w.getLsbD 0, cur := if w.getLsbD 0 == k.ilv then k.cur else 0 }

/-- R87: CORE_WORLD_WRITE. -/
def execCoreWorldWrite (c : BitVec 8) (who : Agent) (v : Word) (s : State) : Out :=
  .next (coreWorldWrite s c.toNat (viewerOf s who) v)

/-- R107: CORE_MODE_WRITE. -/
def execCoreModeWrite (c : BitVec 8) (who : Agent) (v : Word) (s : State) : Out :=
  .next (coreModeWrite s c.toNat (viewerOf s who) v)

/-- R128, R215, R238, R239: MONITOR_THREAD_STOP: what the thread waits for is abandoned, and it stops. -/
def execMonitorThreadStop (c : BitVec 8) (t : BitVec 3) (s : State) : Out :=
  let s1 := dropWaits (orphan s c.toNat t.toNat) (.thread c.toNat t.toNat)
  let x := thOf s1 c.toNat t.toNat
  let y := match x.wait with
    | .reply r => (reqDst r).foldl clearBusy x
    | _ => x
  .next (stopThread (setTh s1 c.toNat t.toNat y) c.toNat t.toNat)

end Sys2Proof.Machine
end

