-- ==== Sys2Proof/Machine/Hierarchy.lean ====
section
/-!
DEFINITION. Sys2Proof/Machine/Hierarchy.lean: the shared memory hierarchy (R249 to R287): the DRAM map, the tags of the LLC, the
channel controllers, scrubbing and the poison decision, lanes and repair. Data stands in memory, which the LLC and its
stack share; the LLC model keeps tags, classes and states.
-/

namespace Sys2Proof.Machine

/-- R268: where a granule lies. -/
structure Dram where
  stack : Nat
  ch : Nat
  pc : Nat
  col : Nat
  bank : Nat
  row : Nat
  deriving DecidableEq, Repr

/-- R268: the stack of a slot. -/
def slotStack (p : Part) (slot : Nat) : Nat := if p = .a384 && slot = 5 then 6 else slot

/-- R268: the slot of a stack; none for a stack that is not fitted (R21). -/
def stackSlot (p : Part) (stack : Nat) : Option Nat :=
  match p with
  | .a384 => if stack < 5 then some stack else if stack = 6 then some 5 else none
  | _ => if stack < 8 then some stack else none

/-- R269: the bytes of a hash block. -/
def hashBlock (p : Part) : Nat := stacksOf p * 2 ^ 14 * 256

/-- R20, R269: whether the hash block of a row uses the hashed mapping: every block that the reserved areas reach, and elsewhere those in
which a hashed segment lies. -/
def hashRow (s : State) (row : Nat) : Bool :=
  let lo := row * hashBlock s.part
  let hi := lo + hashBlock s.part
  decide (parityBase s < hi) || s.ctxs.any fun e => e.2.segEn && e.2.segs.any fun g =>
    g.2.hash && (segOver s g.2 lo ||
      segOver s g.2 (paLocal g.2.pbase) && decide (lo ≤ paLocal g.2.pbase) && decide (paLocal g.2.pbase < hi))

/-- R268: the map of a local HBM address, with the setting of its hash block. -/
def dramOf (s : State) (pa : Nat) : Dram :=
  let n := stacksOf s.part
  let g := pa / 256
  let q := g / n
  let slot := g % n
  let ch := field q 0 5
  let pc := field q 5 1
  let bank := field q 8 6
  let row := field q 14 14
  if hashRow s row then
    let h := ((bank % 8) ^^^ (row % 8) ^^^ field row 10 3) % n
    { stack := slotStack s.part ((slot + h) % n), ch := ch ^^^ (bank % 32) ^^^ (row % 32) ^^^ field row 5 5,
      pc := pc ^^^ field bank 5 1 ^^^ field row 13 1, col := field q 6 2,
      bank := bank ^^^ (row % 64) ^^^ field row 6 6, row := row }
  else { stack := slotStack s.part slot, ch := ch, pc := pc, col := field q 6 2, bank := bank, row := row }

/-- R268: the local HBM address of a granule, from where it lies: the map's inverse. -/
def dramAddr (s : State) (slot : Nat) (d : Dram) : Nat :=
  let n := stacksOf s.part
  if hashRow s d.row then
    let bank := d.bank ^^^ (d.row % 64) ^^^ field d.row 6 6
    let h := ((bank % 8) ^^^ (d.row % 8) ^^^ field d.row 10 3) % n
    let ch := d.ch ^^^ (bank % 32) ^^^ (d.row % 32) ^^^ field d.row 5 5
    let pc := d.pc ^^^ field bank 5 1 ^^^ field d.row 13 1
    ((ch + pc * 32 + d.col * 64 + bank * 256 + d.row * 2 ^ 14) * n + (slot + n - h) % n) * 256
  else ((d.ch + d.pc * 32 + d.col * 64 + d.bank * 256 + d.row * 2 ^ 14) * n + slot) * 256

/-- R270: channel controller `ch` of a stack. -/
def chanOf (s : State) (stack ch : Nat) : Chan := tabGet {} s.memsys.chans (stack * 32 + ch)

/-- The state with a channel controller replaced. -/
def setChan (s : State) (stack ch : Nat) (k : Chan) : State :=
  { s with memsys := { s.memsys with chans := tabSet s.memsys.chans (stack * 32 + ch) k } }

/-- R270: the slot that a request may take beside those held: an urgent one a reserved slot first, whatever its bank's count; any other,
and an urgent one that finds none, a general slot, of which a bank has at most 32. -/
def slotFor (held : List HbmReq) (r : HbmReq) : ReqSlot :=
  let general := held.filter fun q => q.slot == .general
  let bank := general.filter fun q => q.pc == r.pc && q.bank == r.bank
  if r.urgent && decide ((held.filter fun q => q.slot == .kept).length < 8) then .kept
  else if decide (general.length < 248) && decide (bank.length < 32) then .general
  else .none

/-- R270: the requests of a channel with every waiting one that finds a slot admitted, in arrival order. -/
def admitSlots (reqs : List HbmReq) : List HbmReq :=
  reqs.zipIdx.foldl (fun l e =>
    if e.1.slot == .none then l.set e.2 { e.1 with slot := slotFor (l.filter fun q => q.slot != .none) e.1 } else l) reqs

/-- R270: a request for the channel word at `pa` handed to its channel controller. -/
def hbmPush (s : State) (pa : Nat) (write urgent : Bool) (user : Option MemUser) : State :=
  let d := dramOf s pa
  let k := chanOf s d.stack d.ch
  let r : HbmReq := { pc := d.pc == 1, bank := d.bank, row := d.row, col := d.col * 8 + pa % 256 / 32, write := write,
                      urgent := urgent, at_ := s.time, slot := .none, user := user, again := false }
  setChan s d.stack d.ch { k with reqs := admitSlots (k.reqs ++ [r]) }

/-- The two channel words of a 64-byte sector requested, as one request of its user. -/
def hbmSector (s : State) (pa : Nat) (write urgent : Bool) (user : Option MemUser) : State :=
  hbmPush (hbmPush s (pa / 64 * 64) write urgent none) (pa / 64 * 64 + 32) write urgent user

/-- R271: the requests that a user may have in flight. -/
def userCap : MemUser → Nat
  | .core _ => 256
  | .engines _ => 2048
  | .agent _ => 1024
  | .cluster _ => 64

/-- R271: the requests that a user has in flight. -/
def userFlight (s : State) (u : MemUser) : Nat :=
  (s.memsys.chans.map fun e => (e.2.reqs.filter fun r => r.user == some u).length).sum

/-- R258: set n of LLC half h. -/
def llcSetOf (s : State) (h n : Nat) : LlcSet := tabGet {} s.memsys.llc (h * 16384 + n)

/-- The state with a set replaced. -/
def setLlc (s : State) (h n : Nat) (x : LlcSet) : State :=
  { s with memsys := { s.memsys with llc := tabSet s.memsys.llc (h * 16384 + n) x } }

/-- R258: the set of an address within its half (DESIGN CHOICE: the granules of the stack in turn). -/
def llcIndex (s : State) (pa : Nat) : Nat := pa / 256 / stacksOf s.part % 16384

/-- R260: the class of PIN. -/
def clsPin : Nat := 0xA
/-- R260: the class of BYPASS. -/
def clsBypass : Nat := 0xB
/-- R260: the class of REUSE1. -/
def clsReuse1 : Nat := 0x2

/-- R260, R261: the eviction rank of a line in a set with `fills` fills. -/
def evictRank (fills : Nat) (l : LlcLine) : Nat :=
  if l.cls = 1 then 1
  else if l.cls = clsPin then 10
  else
    let n := l.cls - 1
    if fills - l.stamp ≥ 16 * n then 1 else 10 - n

/-- x put into a list before the first element that it is no later than. -/
def insertSorted {α : Type} (le : α → α → Bool) (x : α) : List α → List α
  | [] => [x]
  | y :: ys => if le x y then x :: y :: ys else y :: insertSorted le x ys

/-- A list in rising order; equal elements keep their order. -/
def sortRising {α : Type} (le : α → α → Bool) (l : List α) : List α := l.foldr (insertSorted le) []

/-- R262: the ways that a world's fills may use. -/
def waysFor (tways : Nat) (w : World) : List Nat :=
  (List.range 16).filter fun i =>
    if tways = 0 then true
    else match w with
      | .T => decide (16 - tways ≤ i)
      | .P => decide (i < 16 - tways)

/-- R261, R262: the way a fill takes: an invalid way first; otherwise, among lines that are not PIN, the lowest rank and within it the
least recently used; none where every line is PIN, since a PIN line within its quota is never chosen. -/
def victim (x : LlcSet) (ways : List Nat) : Option Nat :=
  let used := fun i => (x.ways.find? fun e => e.1 == i).map fun e => e.2
  match ways.find? fun i => (used i).isNone with
  | some i => some i
  | none =>
    let cands := (ways.filterMap fun i => (used i).map fun l => (i, l)).filter fun e => e.2.cls != clsPin
    (sortRising (fun a b =>
        let ra := evictRank x.fills a.2
        let rb := evictRank x.fills b.2
        decide (ra < rb) || (ra == rb && decide (a.2.used ≤ b.2.used))) cands).head?.map (·.1)

/-- R262: PIN lines of a context in a half. -/
def pinCount (s : State) (h cx : Nat) : Nat :=
  ((s.memsys.llc.filter fun e => e.1 / 16384 == h).map fun e =>
    (e.2.ways.filter fun l => l.2.cls == clsPin && l.2.cx == cx).length).sum

/-- R262: the class that a fill or hit of class PIN takes: PIN within the quota and with four lines left, else REUSE1. `way` is the way of
the line, and `hit` says that it is hit and not filled. -/
def pinClass (s : State) (h cx : Nat) (w : World) (x : LlcSet) (way : Nat) (hit : Bool) : Nat :=
  let line := if hit then tabFind x.ways fun j l => j == way && l.cls == clsPin else none
  let ways := waysFor s.memsys.tways.toNat w
  let pins := (x.ways.filter fun e => ways.contains e.1 && e.2.cls == clsPin).length
  let more := b2n (line.isNone && ways.contains way)
  if line.any fun e => e.2.cx == cx then clsPin
  else if pinCount s h cx + 1 ≤ (ctxOf s cx).pinq.toNat && decide (4 + pins + more ≤ ways.length) then clsPin
  else clsReuse1

/-- R118, R260: the class of an access: the hint it names, or the class of its context's segment. -/
def accessClass (s : State) (cx pa : Nat) (hint : Nat) : Nat :=
  if 1 ≤ hint && hint ≤ 0xB then hint
  else match (ctxOf s cx).segs.find? fun g => segOver s g.2 pa with
    | some g => g.2.cls.toNat
    | none => 1

/-- R259: the dirty sectors of an evicted line written back. -/
def writeBack (s : State) (l : LlcLine) : State :=
  (List.range 4).foldl (fun s i => if l.dirty.getLsbD i then hbmSector s (l.tag * 256 + i * 64) true false none else s) s

/-- What a request asks of one sector. -/
structure SectorReq where
  cx : Nat
  write : Bool
  /-- Its first byte, and its bytes within the sector. -/
  pa : Nat
  len : Nat
  cls : Nat
  urgent : Bool
  narrow : Bool
  user : MemUser
  finding : Finding

/-- R261, R262: a line after a hit of a class: BYPASS changes neither class nor order. -/
def touchLine (s : State) (h : Nat) (x : LlcSet) (way : Nat) (l : LlcLine) (r : SectorReq) : LlcLine :=
  if r.cls = clsBypass then l
  else
    let w := (ctxOf s r.cx).world
    let c := if r.cls = clsPin then pinClass s h r.cx w x way true else r.cls
    { l with cls := c, used := x.clock, stamp := x.fills, cx := if c = clsPin then r.cx else l.cx }

/-- R264, R281: the words of a sector that an uncorrectable error of a dirty sector poisons. -/
def poisonSector (s : State) (r : SectorReq) : State :=
  ((List.range 2).filter fun i => decide (r.pa / 64 * 64 + i * 32 < r.pa + r.len) &&
      decide (r.pa < r.pa / 64 * 64 + i * 32 + 32)).foldl (fun s i =>
    let a := r.pa / 64 * 64 + i * 32
    countAt (poisonAdd s a) a 16) s

/-- R273: an access that misses on the narrow path, or of class BYPASS: HBM itself, with the read of a partial write in ECCMODE 2
and 3. -/
def bypassMiss (s : State) (r : SectorReq) : State :=
  ((List.range 2).filter fun i => decide (r.pa / 64 * 64 + i * 32 < r.pa + r.len) &&
      decide (r.pa < r.pa / 64 * 64 + i * 32 + 32)).foldl (fun s i =>
    let a := r.pa / 64 * 64 + i * 32
    let whole := decide (r.pa ≤ a) && decide (a + 32 ≤ r.pa + r.len)
    let s1 := if r.write && !whole && s.memsys.eccNow.getLsbD 1 then hbmPush s a false r.urgent none else s
    hbmPush s1 a r.write r.urgent (some r.user)) s

/-- R259, R261, R264: a request that finds its line. -/
def sectorHit (s : State) (h n : Nat) (x : LlcSet) (way : Nat) (l : LlcLine) (r : SectorReq) : State :=
  let i := r.pa / 64 % 4
  let bit : BitVec 4 := 1#4 <<< i
  let t := touchLine s h x way l r
  let x1 := { x with clock := x.clock + 1 }
  let put := fun (s : State) (x : LlcSet) (l : LlcLine) => setLlc s h n { x with ways := tabSet x.ways way l }
  if l.valid.getLsbD i then
    let d := if r.write then { t with dirty := t.dirty ||| bit } else t
    match r.finding with
    | .clean => put s x1 d
    | .corrected => countAt (put s x1 d) r.pa 0
    | .uncorrectable =>
      if l.dirty.getLsbD i then poisonSector (put s x1 d) r
      else hbmSector (put s x1 { d with valid := d.valid &&& ~~~bit, fill := d.fill ||| bit }) r.pa false r.urgent (some r.user)
  else if l.fill.getLsbD i then put s x1 (if r.write then { t with dirty := t.dirty ||| bit } else t)
  else if r.cls = clsBypass then bypassMiss s r
  else if r.write && r.len = 64 then
    put s { x1 with fills := x.fills + 1 } { t with valid := t.valid ||| bit, dirty := t.dirty ||| bit, stamp := x.fills + 1 }
  else
    hbmSector (put s { x1 with fills := x.fills + 1 }
      { t with fill := t.fill ||| bit, dirty := if r.write then t.dirty ||| bit else t.dirty, stamp := x.fills + 1 }) r.pa false r.urgent
      (some r.user)

/-- R259, R261, R262: a request that misses its line and allocates it; where every way it may use is PIN, HBM serves it (entry 134). -/
def sectorFill (s : State) (h n : Nat) (x : LlcSet) (r : SectorReq) : State :=
  let i := r.pa / 64 % 4
  let bit : BitVec 4 := 1#4 <<< i
  let w := (ctxOf s r.cx).world
  match victim x (waysFor s.memsys.tways.toNat w) with
  | none => bypassMiss s r
  | some way =>
    let s1 := match x.ways.find? fun e => e.1 == way with
      | some e => writeBack s e.2
      | none => s
    let x1 : LlcSet := { x with ways := tabErase x.ways way, fills := x.fills + 1, clock := x.clock + 1 }
    let whole := r.write && r.len == 64
    let line : LlcLine :=
      { tag := r.pa / 256, valid := if whole then bit else 0#4, dirty := if r.write then bit else 0#4,
        fill := if whole then 0#4 else bit, cls := if r.cls = clsPin then pinClass s h r.cx w x1 way false else r.cls,
        world := w, cx := r.cx, stamp := x1.fills, used := x.clock }
    let s2 := setLlc s1 h n { x1 with ways := tabSet x1.ways way line }
    if whole then s2 else hbmSector s2 r.pa false r.urgent (some r.user)

/-- R259, R273: one sector of a request at its half. -/
def sectorRequest (s : State) (r : SectorReq) : State :=
  let h := (dramOf s r.pa).stack
  let n := llcIndex s r.pa
  let x := llcSetOf s h n
  match tabFind x.ways fun _ l => l.tag == r.pa / 256 with
  | some (way, l) =>
    if r.narrow && !(l.valid.getLsbD (r.pa / 64 % 4)) && !(l.fill.getLsbD (r.pa / 64 % 4)) then bypassMiss s r
    else sectorHit s h n x way l r
  | none => if r.narrow || r.cls == clsBypass then bypassMiss s r else sectorFill s h n x r

/-- R258, R259, R271, R273: LLC_REQUEST: the sectors of the access in ascending order. Nothing but HBM is cached. A user
that has all the requests in flight that it may have sends no more. -/
def execLlcRequest (cx : BitVec 6) (wr : Bool) (la : BitVec 48) (len : BitVec 12) (cls : BitVec 4) (ask : LlcAsk) (finding : Finding)
    (s : State) : Out :=
  match regionOf s.part la.toNat with
  | .void => .fault (.voidAddress la.toNat)
  | .hbm =>
    let a := la.toNat
    let c := accessClass s cx.toNat a cls.toNat
    let first := a / 64
    let count := if len = 0#12 then 0 else (a + len.toNat - 1) / 64 + 1 - first
    .next (if userCap ask.user < userFlight s ask.user + count then s else (List.range count).foldl (fun s i =>
      let lo := max a ((first + i) * 64)
      let hi := min (a + len.toNat) ((first + i + 1) * 64)
      if lo < hbmTop s.part then
        sectorRequest s { cx := cx.toNat, write := wr, pa := lo, len := hi - lo, cls := c, urgent := ask.urgent,
                          narrow := ask.elem || (c == clsBypass && decide (len.toNat ≤ 32)),
                          user := ask.user, finding := finding }
      else s) s)
  | _ => .next s

/-- R259: LLC_FILL: the sector is valid from now on, and the hits that wait for it complete. -/
def execLlcFill (half : BitVec 3) (sset : BitVec 14) (way : BitVec 4) (sector : BitVec 2) (s : State) : Out :=
  let x := llcSetOf s half.toNat sset.toNat
  match x.ways.find? fun e => e.1 == way.toNat with
  | some (_, l) =>
    if l.fill.getLsbD sector.toNat then
      let bit : BitVec 4 := 1#4 <<< sector.toNat
      let l1 := { l with fill := l.fill &&& ~~~bit, valid := l.valid ||| bit }
      .next (setLlc s half.toNat sset.toNat { x with ways := tabSet x.ways way.toNat l1 })
    else .next s
  | none => .next s

/-- R262: the lines of every set changed by `f`, which sees the half and the way. -/
def mapLines (s : State) (f : Nat → Nat → LlcLine → LlcLine) : State :=
  let sets := tabMap s.memsys.llc fun k x => { x with ways := tabMap x.ways fun i l => f (k / 16384) i l }
  { s with memsys := { s.memsys with llc := sets } }

/-- R262: the PIN lines of a list of ways within `room` for a world's ways, each counted there; the rest REUSE1. -/
def keepPins (ways : List Nat) (w : World) : Nat → List (Nat × LlcLine) → List (Nat × LlcLine)
  | _, [] => []
  | room, (i, l) :: more =>
    if l.cls = clsPin && l.world = w && ways.contains i then
      if room = 0 then (i, { l with cls := clsReuse1 }) :: keepPins ways w 0 more
      else (i, l) :: keepPins ways w (room - 1) more
    else (i, l) :: keepPins ways w room more

/-- R262: the PIN lines that a change of TWAYS puts outside their world's ways become REUSE1, and so do those beyond what leaves four
other lines among them. -/
def retuneWays (s : State) : State :=
  let tw := s.memsys.tways.toNat
  let s1 := mapLines s fun _ i l =>
    if l.cls = clsPin && !((waysFor tw l.world).contains i) then { l with cls := clsReuse1 } else l
  if tw = 0 then s1
  else
    let keep (w : World) := keepPins (waysFor tw w) w ((waysFor tw w).length - 4)
    { s1 with memsys := { s1.memsys with llc := tabMap s1.memsys.llc fun _ x => { x with ways := keep .P (keep .T x.ways) } } }

/-- R262: the PIN lines of context `cx` in a set, with room for `n` of them; and the room left. -/
def capPins (cx : Nat) : Nat → List (Nat × LlcLine) → Nat × List (Nat × LlcLine)
  | n, [] => (n, [])
  | n, (i, l) :: more =>
    if l.cls = clsPin && l.cx = cx then
      let r := capPins cx (n - 1) more
      (r.1, (i, if n = 0 then { l with cls := clsReuse1 } else l) :: r.2)
    else
      let r := capPins cx n more
      (r.1, (i, l) :: r.2)

/-- R262: the sets of half `h` with at most `n` PIN lines of context `cx`; those beyond become REUSE1. -/
def capHalf (h cx : Nat) : Nat → Tab LlcSet → Tab LlcSet
  | _, [] => []
  | n, (k, x) :: more =>
    if k / 16384 = h then
      let r := capPins cx n x.ways
      (k, { x with ways := r.2 }) :: capHalf h cx r.1 more
    else (k, x) :: capHalf h cx n more

/-- R262, R263: a context's PIN quota written; where a half holds more, the PIN lines beyond it become REUSE1 (entry 48). -/
def setPinq (s : State) (cx : Nat) (q : BitVec 16) : State :=
  let s1 := setCtx s cx { ctxOf s cx with pinq := q }
  { s1 with memsys := { s1.memsys with llc := (List.range 8).foldl (fun l h => capHalf h cx q.toNat l) s1.memsys.llc } }

/-- R262: the PIN lines of an invalidated range of a context become REUSE1. -/
def unpinRange (s : State) (cx lo hi : Nat) : State :=
  mapLines s fun _ _ l =>
    if l.cls = clsPin && l.cx = cx && decide (lo < l.tag * 256 + 256) && decide (l.tag * 256 < hi) then
      { l with cls := clsReuse1 }
    else l

/-- R263: MEM_CFG as it reads. -/
def memCfgWord (s : State) : Word :=
  BitVec.ofNat 64 (s.memsys.eccmode.toNat + s.memsys.scrubh.toNat * 2 ^ 2 + s.memsys.tways.toNat * 2 ^ 16
    + (if s.part = .a384 then 0x5F else 0xFF) * 2 ^ 24)

/-- R263, R453: MEM_CFG written by the monitor, while CLASS_EN is clear; a TWAYS outside 0 and 4 to 8 keeps the register's value.
ECCMODE takes effect at the next power-up (R279). -/
def memCfgWrite (s : State) (mon : Bool) (v : Word) : State :=
  let tw := field v.toNat 16 4
  if !mon || s.boot.devEn.getLsbD 11 then s
  else
    let ok := tw == 0 || (decide (4 ≤ tw) && decide (tw ≤ 8))
    retuneWays { s with memsys := { s.memsys with
      eccmode := v.truncate 2,
      scrubh := (v >>> 2).truncate 8,
      tways := if ok then BitVec.ofNat 4 tw else s.memsys.tways } }

/-- R263: MEM_CFG_WRITE. -/
def execMemCfgWrite (who : Agent) (v : Word) (s : State) : Out := .next (memCfgWrite s (who == .monitor) v)

/-- R281: every thread that waits for a poisoned word, and every reduction unit held by one, tries again. -/
def releasePoison (s : State) : State :=
  s.cores.foldl (fun s e =>
    let k := coreOf s e.1
    let th := tabMap k.th fun _ x =>
      if x.st == .waiting && x.wait == .poison then { x with st := .ready, wait := .none } else x
    ruDrain (setCore s e.1 (settle { k with th := th })) e.1) s

/-- R402: the POLICY of the segment that holds a LOCAL HBM address; LOGGED is 0, RECOMPUTE 1 and READONLY 2. -/
def policyAt (s : State) (a : Nat) : Option Nat := ((policiesAt s a).head?).map fun p => p.toNat

/-- R412: whether a line has been written since the cut of the last committed full steep. -/
def writtenSinceFull (s : State) (a : Nat) : Bool := s.steep.undo.any fun r => r.line == a / 256 * 256 && r.fullTier

/-- R281 step 3, R421: a word of a LOGGED segment that has not been written since the last full steep completed, or of a
READONLY one, is rebuilt from the shares of the full steep. -/
def rebuildable (s : State) (a : Nat) : Bool :=
  s.steep.full.isSome && (match policyAt s a with
    | some 0 => !(writtenSinceFull s a)
    | some 2 => true
    | _ => false)

/-- R281 step 4: free memory: outside every enabled segment and outside the reserved areas. -/
def isFree (s : State) (a : Nat) : Bool := (policiesAt s a).isEmpty && decide (a < parityBase s)

/-- R281 steps 1, 2 and 4: an uncorrectable word of HBM: poisoned, counted for its owner and logged; free memory found by the
scrubber is zeroed at once. Steps 3 and 5 leave it poisoned for WORD_REBUILD or a later write. -/
def wordUncorrectable (s : State) (a : Nat) (scrub : Bool) : State :=
  let s1 := poisonFound s a
  if scrub && !(rebuildable s a) && isFree s a then storeBytes s1 (poisonBase s.part a) (List.replicate 32 0#8) else s1

/-- R286: the number of a row of a stack: channel, pseudo-channel, bank and row. -/
def rowNumber (ch pc bank row : Nat) : Nat := ((ch * 2 + pc) * 64 + bank) * 2 ^ 14 + row

/-- R286: a row recorded for repair. -/
def recordRow (s : State) (stack row : Nat) : State :=
  if s.memsys.repair.contains (stack, row) then s
  else { s with memsys := { s.memsys with repair := s.memsys.repair ++ [(stack, row)] } }

/-- R286: a corrected error of a row: the third within 24 hours records it. -/
def rowCorrected (s : State) (stack row : Nat) : State :=
  let l := (s.memsys.corrAt.filter fun e => decide (s.time < e.2.2 + 86400000000000)) ++ [(stack, row, s.time)]
  let s1 := { s with memsys := { s.memsys with corrAt := l } }
  if 3 ≤ (l.filter fun e => e.1 == stack && e.2.1 == row).length then recordRow s1 stack row else s1

/-- R267, R276: what the controller makes of a word: under ECCMODE 2 and 3 the symbol code decides, which corrects one symbol, detects
errors in up to three and promises nothing beyond; under ECCMODE 1 an uncorrectable report of the stack's internal ECC. -/
def wordFinding (s : State) (e : WordErr) : Finding :=
  if s.memsys.eccNow.getLsbD 1 then
    match e.symbols.dedup.length with
    | 0 => .clean
    | 1 => .corrected
    | 2 => .uncorrectable
    | 3 => .uncorrectable
    | _ => Config.symbolDecode e.symbols
  else if e.internal = .uncorrectable then .uncorrectable
  else .clean

/-- R276, R277, R281, R282, R286: what follows the decoding of a word of a stack. -/
def wordDecoded (s : State) (a : Nat) (d : Dram) (e : WordErr) (scrub : Bool) : State :=
  let row := rowNumber d.ch d.pc d.bank d.row
  let s0 := if e.internal = .corrected then rowCorrected (countAt s a 0) d.stack row else s
  match wordFinding s e with
  | .clean => s0
  | .corrected =>
    let s1 := countAt s0 a 0
    rowCorrected { s1 with memsys := { s1.memsys with writebacks := s1.memsys.writebacks ++ [a / 32 * 32] } } d.stack row
  | .uncorrectable => recordRow (wordUncorrectable s0 a scrub) d.stack row

/-- R272, R275: the request a scheduler takes next among those that hold a slot of its pseudo-channel, by its place: the one to be
repeated, behind which the others wait; the oldest urgent one; the oldest that has waited 2 µs; the oldest that hits an open row; the
oldest. -/
def schedPick (s : State) (k : Chan) (pc : Bool) : Option (HbmReq × Nat) :=
  let held := k.reqs.zipIdx.filter fun e => e.1.slot != .none && e.1.pc == pc
  let first (f : HbmReq → Bool) := held.find? fun e => f e.1
  let open_ (r : HbmReq) : Bool :=
    (k.openRow.find? fun o => o.1 == b2n pc * 64 + r.bank) == some (b2n pc * 64 + r.bank, r.row)
  (first (·.again)).or ((first (·.urgent)).or ((first fun r => decide (r.at_ + 2000 ≤ s.time)).or ((first open_).or held.head?)))

/-- R272, R275: HBM_COLUMN_ACCESS: one attempt at the next column access. `good`: its parity holds; a parity error is seen in ECCMODE
1 and 3 only. -/
def execHbmColumnAccess (stack : BitVec 3) (ch : BitVec 5) (pc good : Bool) (err : WordErr) (s : State) : Out :=
  let k := chanOf s stack.toNat ch.toNat
  let tries := tabGet 0 k.tries (b2n pc)
  match stackSlot s.part stack.toNat, schedPick s k pc with
  | some slot, some (r, i) =>
    if k.outOfService.getLsbD (b2n pc) || decide (4 ≤ tries) then .next s
    else
      let d : Dram := { stack := stack.toNat, ch := ch.toNat, pc := b2n pc, col := r.col / 8, bank := r.bank, row := r.row }
      let a := dramAddr s slot d + r.col % 8 * 32
      let s1 := if 1 ≤ tries then countAt s a 48 else s
      if !good && s.memsys.eccNow.getLsbD 0 then
        .next (setChan s1 stack.toNat ch.toNat { k with
          reqs := k.reqs.set i { r with again := true }
          tries := tabSet k.tries (b2n pc) (tries + 1) })
      else
        let k1 := { k with
          reqs := admitSlots (k.reqs.eraseIdx i)
          openRow := tabSet k.openRow (b2n pc * 64 + r.bank) r.row
          tries := tabErase k.tries (b2n pc) }
        let s2 := setChan s1 stack.toNat ch.toNat k1
        .next (if r.write then s2 else wordDecoded s2 a d err false)
  | _, _ => .next s

/-- R267: HBM_REFRESH: a per-bank refresh closes the bank's row. -/
def execHbmRefresh (stack : BitVec 3) (ch : BitVec 5) (pc : Bool) (bank : BitVec 6) (s : State) : Out :=
  let k := chanOf s stack.toNat ch.toNat
  .next (setChan s stack.toNat ch.toNat { k with openRow := tabErase k.openRow (b2n pc * 64 + bank.toNat) })

/-- R280: the words of a pseudo-channel. -/
def pcWords : Nat := 2 ^ 25

/-- R270, R280, R281: HBM_SCRUB_READ: the scrubber reads the next word of a pseudo-channel in ascending DRAM address (row, bank, column
line and word, DESIGN CHOICE) and goes on. It needs a general slot: with none free, it waits; and it pauses while the stack's domain
sleeps (R490). -/
def execHbmScrubRead (stack : BitVec 3) (ch : BitVec 5) (pc : Bool) (err : WordErr) (s : State) : Out :=
  match stackSlot s.part stack.toNat with
  | none => .next s
  | some slot =>
    let k := chanOf s stack.toNat ch.toNat
    let n := if pc then k.scrub1 else k.scrub0
    let next := (n + 1) % pcWords
    let k1 := if pc then { k with scrub1 := next } else { k with scrub0 := next }
    let d : Dram := { stack := stack.toNat, ch := ch.toNat, pc := b2n pc, col := n / 8 % 4, bank := n / 32 % 64, row := n / 2048 }
    let a := dramAddr s slot d + n % 8 * 32
    let r : HbmReq := { pc := pc, bank := d.bank, row := d.row, col := n % 32, write := false, urgent := false, at_ := s.time,
                        slot := .none, user := none, again := false }
    .next (if !(s.power.domOn.getLsbD (if stack.toNat < 4 then 15 else 16)) || slotFor (k.reqs.filter fun q => q.slot != .none) r == .none then s
      else wordDecoded (setChan s stack.toNat ch.toNat k1) a d err true)

/-- R252, R253: SCRATCHPAD_PATROL: the patrol of core c's scratchpad reads its next granule, which is granule `gran`, and goes on: errors
that stand in it are met, and `finding` is what it finds beside them: a correctable error is corrected and counted, an uncorrectable word
is poisoned and counted. Which word that is, the read's draw says. -/
def execScratchpadPatrol (c : BitVec 8) (gran : BitVec 16) (finding : Finding) (s : State) : Out :=
  let a := spadBase c.toNat + gran.toNat * 64
  if tabGet 0 s.memsys.patrol c.toNat != gran.toNat then .next s
  else
    let s0 := decodeRead s a 64
    let s1 := { s0 with memsys := { s0.memsys with patrol := tabSet s0.memsys.patrol c.toNat ((gran.toNat + 1) % 65536) } }
    match finding with
    | .clean => .next s1
    | .corrected => .next (countAt s1 a 0)
    | .uncorrectable => .next (poisonFound { s1 with draws := s1.draws + 1 } (a + (Config.patrolWord s1.draws).toNat * 8))

/-- R256: IMEM_UNCORRECTABLE: a hardware fault, not an exception (R93). -/
def execImemUncorrectable (c : BitVec 8) (s : State) : Out := .next (imemFault s c.toNat)

/-- R281 step 3, R282: WORD_REBUILD: the rebuilt word is written back, its poison cleared and REBUILT counted, and reads that wait
for it go on. A word written in the meantime, which is no longer poisoned, stands as it is. -/
def execWordRebuild (la : BitVec 48) (bytes : List Byte) (s : State) : Out :=
  let a := poisonBase s.part la.toNat
  match regionOf s.part la.toNat with
  | .hbm =>
    if bytes.length != 32 then .refused .illFormed
    else if isPoisoned s a && rebuildable s a then .next (releasePoison (countAt (storeBytes s a bytes) a 32))
    else .next s
  | .void => .fault (.voidAddress la.toNat)
  | _ => .next s

/-- R282: CORRECTED_WRITEBACK: memory holds the corrected word already, so its write-back changes nothing but the list of those
to come. -/
def execCorrectedWriteback (la : BitVec 48) (s : State) : Out :=
  match regionOf s.part la.toNat with
  | .void => .fault (.voidAddress la.toNat)
  | _ =>
    .next { s with memsys := { s.memsys with writebacks := s.memsys.writebacks.erase (la.toNat / 32 * 32) } }

/-- R285: a stack's temperature has moved more than 10 °C from its value at the last training. -/
def tempMoved (s : State) (stack : Nat) : Bool :=
  decide (10 < (tabGet 0 s.memsys.temps stack - tabGet 0 s.memsys.trainTemps stack).natAbs)

/-- R284: the first 60 s of a job. -/
def jobYoung (s : State) : Bool :=
  s.cores.any fun e => e.2.th.any fun x => x.2.st != .stopped && decide (s.time < x.2.jobStart + 60000000000)

/-- R283, R285: whether every lane of a stack is admitted: measured at 0.50 UI, or at 0.35 UI at full load. -/
def lanesAdmitted (s : State) (stack : Nat) : Bool :=
  (List.range 32).all fun ch =>
    (chanOf s stack ch).eyes.all fun e =>
      decide (50 ≤ e.2) || (decide (35 ≤ e.2) && (chanOf s stack ch).loaded.contains e.1)

/-- R284: a channel with no free redundant lane retrains none. -/
def mayRotate (k : Chan) : Bool := decide (k.redundant < Config.redundantLanes)

/-- R285: every lane of a stack that the rotation can reach has been retrained. -/
def stackRetrained (s : State) (stack : Nat) : Bool :=
  (List.range 32).all fun c => !(mayRotate (chanOf s stack c)) || decide (64 ≤ (chanOf s stack c).retrained.length)

/-- R283 to R285: LANE_RETRAIN: one lane retrained by rotation: within the first 60 s of a job in an interval of at least 75 % load,
which measures it at full load, or whatever the load after a move of the temperature; not where every redundant lane is in use for
repair. -/
def execLaneRetrain (stack : BitVec 3) (ch : BitVec 5) (lane : BitVec 7) (busy75 : Bool) (eye : BitVec 7) (s : State) : Out :=
  let k := chanOf s stack.toNat ch.toNat
  let moved := tempMoved s stack.toNat
  if decide (64 ≤ lane.toNat) || k.retrained.contains lane.toNat || !(mayRotate k) || !(moved || (busy75 && jobYoung s)) then .next s
  else
    let others := k.loaded.filter (· != lane.toNat)
    let s1 := setChan s stack.toNat ch.toNat { k with
      eyes := tabSet k.eyes lane.toNat eye.toNat,
      retrained := lane.toNat :: k.retrained
      loaded := if busy75 then lane.toNat :: others else others }
    let s2 := if stackRetrained s1 stack.toNat then
        let tt := tabSet s1.memsys.trainTemps stack.toNat (tabGet 0 s1.memsys.temps stack.toNat)
        { s1 with memsys := { s1.memsys with trainTemps := tt } }
      else s1
    .next (if lanesAdmitted s2 stack.toNat then
      { s2 with memsys := { s2.memsys with slow := s2.memsys.slow.filter fun x => x != stack.toNat } }
    else s2)

/-- R285, R432: STACK_TEMP_READ, in degrees, two's complement: the highest is kept; a move of more than 10 °C makes the stack's lanes due for retraining. -/
def execStackTempRead (stack : BitVec 3) (temp : BitVec 8) (s : State) : Out :=
  let before := tempMoved s stack.toNat
  let s1 := { s with
    memsys := { s.memsys with temps := tabSet s.memsys.temps stack.toNat temp.toInt }
    steep := { s.steep with counts := tabMod 0 s.steep.counts 31 fun n => max n temp.toInt.toNat } }
  if !before && tempMoved s1 stack.toNat then
    let ch := tabMap s1.memsys.chans fun n k => if n / 32 = stack.toNat then { k with retrained := [] } else k
    .next { s1 with memsys := { s1.memsys with chans := ch } }
  else .next s1

/-- R286: the maintenance commands' answers: rows recorded and repaired, per stack. -/
def repairList (s : State) : List Nat :=
  ((List.range 8).map fun st =>
    let rec_ := (s.memsys.repair.filter fun r => r.1 == st).map fun r => r.2
    let done := (s.memsys.repaired.filter fun r => r.1 == st).map fun r => r.2
    (rec_.length :: rec_) ++ (done.length :: done)).flatten

/-- R286: redundant lanes in use and eye widths, per channel. -/
def laneMap (s : State) : List Nat :=
  ((List.range 256).map fun n =>
    let k : Chan := tabGet {} s.memsys.chans n
    k.redundant :: ((List.range 64).map fun i => tabGet 0 k.eyes i)).flatten

/-- R286: the last stack temperatures, as bytes. -/
def stackTemps (s : State) : List Nat := (List.range 8).map fun n => (tabGet 0 s.memsys.temps n % 256).toNat

/-- R475: a maintenance response, for MAINT_RSP. -/
def maintAnswer (s : State) (r : List Nat) : State := { s with board := { s.board with maintRsp := r } }

/-- R286: READ_REPAIR_LIST. -/
def execReadRepairList (s : State) : Out := .next (maintAnswer s (repairList s))

/-- R286: READ_LANE_MAP. -/
def execReadLaneMap (s : State) : Out := .next (maintAnswer s (laneMap s))

/-- R286: READ_TEMPERATURES. -/
def execReadTemperatures (s : State) : Out := .next (maintAnswer s (stackTemps s))

/-- R286: SCHEDULE_REPAIR adds a row to the list for the next power-up. -/
def execScheduleRepair (stack : BitVec 3) (rowaddr : BitVec 32) (s : State) : Out :=
  .next (maintAnswer (recordRow s stack.toNat rowaddr.toNat) [])

end Sys2Proof.Machine
end

