-- ==== Sys2Proof/Machine/SegTable.lean ====
section
/-!
DEFINITION. Sys2Proof/Machine/SegTable.lean: the segment tables: the Strainer's checks of contexts and descriptors (R300, R452 to
R458), writes to descriptors (R301), range invalidation (R302, R303), PRESENT (R327) and mirrors (R304).
-/

namespace Sys2Proof.Machine

/-- R455: a failing check: its reason code and STR_WHERE. -/
abbrev Reason := Nat × Word

/-- R455: STR_WHERE for a field of a register at a LOCAL CSR address. -/
def whereCsr (addr lsb msb : Nat) : Word := BitVec.ofNat 64 (addr + lsb * 2 ^ 48 + msb * 2 ^ 54)

/-- R291: the first address of a context block. -/
def cxBase (cx : Nat) : Nat := 0x01F000040000 + cx * 0x1000

/-- R291: the address of word `w` of a descriptor. -/
def sgAddr (cx sg w : Nat) : Nat := cxBase cx + 0x400 + sg * 0x40 + w * 8

/-- R452: the first failing check, in ascending reason code. -/
def leastReason : List Reason → Option Reason
  | [] => none
  | r :: rs => match leastReason rs with
    | some q => if q.1 < r.1 then some q else some r
    | none => some r

/-- What the run finds beyond the device, as reasons. -/
def envReasons (env : List (BitVec 8 × Word)) : List Reason := env.map fun e => (e.1.toNat, e.2)

/-- R458: the answers of other devices for a run that a store to CSR space starts: a free value. -/
def storeEnv (s : State) : List (BitVec 8 × Word) × State := (Config.peerVerdict s.draws, { s with draws := s.draws + 1 })

/-- R451: a bit of DEV_EN. -/
def devBit (s : State) (n : Nat) : Bool := s.boot.devEn.getLsbD n

/-- R451: DEV_EN with a bit written. -/
def setDevBit (s : State) (n : Nat) (b : Bool) : State :=
  let m : BitVec 15 := 1#15 <<< n
  { s with boot := { s.boot with devEn := if b then s.boot.devEn ||| m else s.boot.devEn &&& ~~~m } }

/-- R456: a clear prerequisite bit of DEV_EN. -/
def needDev (s : State) (n : Nat) : List Reason :=
  if devBit s n then [] else [(0xF0, whereCsr 0x01F0000C0000 n n)]

/-- R451: the WORLD_EN bit of a world. -/
def worldBit : World → Nat
  | .P => 0
  | .T => 1

/-- R289: the row of the local map that an address lies in, 5 for none. -/
def regionRow (p : Part) (a : Nat) : Nat :=
  match regionOf p a with
  | .hbm => 0
  | .spad _ => 1
  | .imem _ => 2
  | .so _ => 3
  | .csr => 4
  | .void => 5

/-- R300, R441: the part that a device is: what the loaded link map says of it, and the full one where it does not name it (DESIGN
CHOICE, entry 57). -/
def partOfDev (s : State) (dev : Nat) : Part := ((mapEntry s dev).map fun d => d.part).getD .a512

/-- R289, R300: the row of the map that an address of a segment's device lies in. -/
def rowOf (s : State) (g : Seg) (a : Nat) : Nat :=
  regionRow (if isRemote s g.pbase then partOfDev s (paDev g.pbase) else s.part) a

/-- R300: the local range of a segment, first byte and end; none for a remote one. -/
def localRange (s : State) (g : Seg) : Option (Nat × Nat) :=
  if isRemote s g.pbase then none else some (paLocal g.pbase, paLocal g.pbase + g.len.toNat)

/-- R300: the enabled segments of every context whose table is enabled: context, number and descriptor. -/
def deviceSegs (s : State) : List (Nat × Nat × Seg) :=
  (s.ctxs.map fun e => if e.2.segEn then (e.2.segs.filter fun g => g.2.en).map fun g => (e.1, g.1, g.2) else []).flatten

/-- Whether two ranges share a byte. -/
def meets (a b : Nat × Nat) : Bool := decide (a.1 < b.2) && decide (b.1 < a.2)

/-- The number of bytes that ranges, sorted by their first byte, cover together. -/
def coverFrom : Nat → List (Nat × Nat) → Nat
  | _, [] => 0
  | at_, (lo, hi) :: rest => (hi - max lo at_) + coverFrom (max at_ hi) rest

/-- R300, R411: the bytes of local HBM that an enabled segment maps LOGGED or READONLY, each once. -/
def protectedBytes (s : State) : Nat :=
  let rs := (deviceSegs s).filterMap fun e =>
    if e.2.2.policy = 0#2 || e.2.2.policy = 2#2 then
      match localRange s e.2.2 with
      | some r => if r.1 < hbmTop s.part then some r else none
      | none => none
    else none
  coverFrom 0 (sortRising (fun a b => decide (a.1 ≤ b.1)) rs)

/-- R269, R300: the hash blocks that a local HBM range meets, first and last. -/
def blocksOf (s : State) (r : Nat × Nat) : Nat × Nat := (r.1 / hashBlock s.part, (r.2 + hashBlock s.part - 1) / hashBlock s.part)

/-- R269: whether HASH breaks R269 for segment g of a context among the enabled segments of the device. -/
def hashBad (s : State) (cx n : Nat) (g : Seg) : Bool :=
  match localRange s g with
  | some r =>
    decide (r.1 < hbmTop s.part) &&
      ((!g.hash && !(r.1 % hashBlock s.part == 0 && g.len.toNat % hashBlock s.part == 0)) ||
       (deviceSegs s).any fun e => !(e.1 == cx && e.2.1 == n) && e.2.2.hash != g.hash &&
         (match localRange s e.2.2 with
          | some q => decide (q.1 < hbmTop s.part) && meets (blocksOf s r) (blocksOf s q)
          | none => false))
  | none => false

/-- R300: whether a CSR range lies wholly within the stream blocks of streams that a context owns. -/
def ownStreams (s : State) (cx : Nat) (r : Nat × Nat) : Bool :=
  let first := (r.1 - 0x01F008000000) / 0x40
  decide (0x01F008000000 ≤ r.1) && decide (r.2 ≤ 0x01F008100000) &&
    (List.range ((r.2 - r.1 + 0x3F) / 0x40)).all fun i =>
      (tsOf s (first + i)).ownValid && (tsOf s (first + i)).ownCx.toNat == cx

/-- R294, R458: a capability with SXM of an object of this device that no enabled RECOMPUTE segment maps whole. -/
def sxmBad (s : State) (k : BitVec 256) : Bool :=
  (capRights k).getLsbD rSXM && capOwner k == s.fab.devnum.toNat &&
    !((deviceSegs s).any fun e => e.2.2.policy == 1#2 && (match localRange s e.2.2 with
      | some r => decide (r.1 ≤ capBase k) && decide (capBase k + capLen k ≤ r.2)
      | none => false))

/-- R300, R458: the checks 0x20 to 0x2C of segment n of context cx; `s` has the segment enabled. -/
def segReasons (s : State) (cx n : Nat) : List Reason :=
  let x := ctxOf s cx
  let g := segOf x n
  let pb := g.pbase.toNat
  let at_ (w lsb msb : Nat) : Word := whereCsr (sgAddr cx n w) lsb msb
  let space := field pb 62 2
  let win := (g.vbase.toNat, g.vbase.toNat + g.len.toNat)
  let wr := g.rights.getLsbD rWR
  let phys := localRange s g
  let others := (deviceSegs s).filter fun e => !(e.1 == cx && e.2.1 == n)
  let clash := ((List.range 16).filter fun m => m != n && (segOf x m).en &&
    meets win ((segOf x m).vbase.toNat, (segOf x m).vbase.toNat + (segOf x m).len.toNat)).map fun m => max m n
  let readOnly (e : Nat × Nat × Seg) : Bool := e.2.2.policy == 2#2
  let writable (e : Nat × Nat × Seg) : Bool := e.2.2.rights.getLsbD rWR
  let laps (e : Nat × Nat × Seg) : Bool := match phys, localRange s e.2.2 with
    | some a, some b => meets a b
    | _, _ => false
  let row := rowOf s g (paLocal g.pbase)
  (if field g.rights.toNat 10 6 != 0 then [(0x20, at_ 3 10 15)] else [])
    ++ (if field g.cap.toNat 175 17 != 0 then [(0x20, at_ 6 47 63)] else [])
    ++ (if g.policy = 3#2 then [(0x20, at_ 3 16 17)] else [])
    ++ (if 2 ≤ space then [(0x20, at_ 2 62 63)] else [])
    ++ (if space = 0 && field pb 48 14 != 0 then [(0x20, at_ 2 48 61)] else [])
    ++ (if g.vbase.toNat % 4096 != 0 then [(0x21, at_ 0 0 47)] else [])
    ++ (if g.len.toNat = 0 || g.len.toNat % 4096 != 0 || decide (2 ^ 48 < win.2) then [(0x21, at_ 1 0 47)] else [])
    ++ (match clash with
        | m :: _ => [(0x22, whereCsr (sgAddr cx m 0) 0 47)]
        | [] => [])
    ++ (if row = 5 || rowOf s g (paLocal g.pbase + (g.len.toNat - 1)) != row then [(0x23, at_ 2 0 63)] else [])
    ++ (match phys with
        | some r => if meets r (parityBase s, hbmTop s.part) then [(0x24, at_ 2 0 63)] else []
        | none => [])
    ++ (if g.cls = 0#4 || decide (0xC ≤ g.cls.toNat) then [(0x25, at_ 3 18 21)] else [])
    ++ (if hashBad s cx n g then [(0x26, at_ 3 22 22)] else [])
    ++ (if (wr && g.policy == 2#2) || (others.any fun e => laps e && ((wr && readOnly e) || (g.policy == 2#2 && writable e)))
        then [(0x27, at_ 3 0 15)] else [])
    ++ (if jobGiB s * 2 ^ 30 < protectedBytes s then [(0x28, at_ 1 0 47)] else [])
    ++ (if row = 4 && !(g.rights.getLsbD rSUP) && !(match phys with | some r => ownStreams s cx r | none => false)
        then [(0x29, at_ 3 0 15)] else [])
    ++ (if (others.any fun e => laps e && (ctxOf s e.1).world != x.world)
          && capCheck s g.cap x.world [] true (paLocal g.pbase) g.len.toNat != 0 then [(0x2A, at_ 4 0 63)] else [])
    ++ (if phys.isNone && !(decide (capBase g.cap ≤ paLocal g.pbase)
          && decide (paLocal g.pbase + g.len.toNat ≤ capBase g.cap + capLen g.cap)
          && capOwner g.cap == paDev g.pbase && capWorld g.cap == x.world && sealOk s g.cap
          && g.rights &&& ~~~(capRights g.cap) == 0#16) then [(0x2B, at_ 4 0 63)] else [])
    ++ (if g.rights.getLsbD rURG && x.world == .T then [(0x2C, at_ 3 0 15)]
        else if ((capRights g.cap).getLsbD rURG && x.world == .T) || sxmBad s g.cap then [(0x2C, at_ 5 32 47)] else [])

/-- R10, R291: whether an agent may write a context's registers: the monitor, or level S of the owning world. -/
def cxMay (s : State) (v : Viewer) (cx : Nat) : Bool := v.mon || (v.lvlS && v.world == (ctxOf s cx).world)

/-- R455: the result of a run in a context's own copies. -/
def cxResult (s : State) (cx bit : Nat) (r : Option Reason) : State :=
  let x := ctxOf s cx
  match r with
  | none => setCtx s cx { x with strReason := 0#64, strWhere := 0#64 }
  | some (code, wher) => setCtx s cx { x with strReason := BitVec.ofNat 64 (code + bit * 256), strWhere := wher }

/-- R455: the result of a run in the device copies. -/
def devResult (s : State) (bit : Nat) (r : Option Reason) : State :=
  match r with
  | none => { s with boot := { s.boot with strReason := 0#64, strWhere := 0#64 } }
  | some (code, wher) => { s with boot := { s.boot with strReason := BitVec.ofNat 64 (code + bit * 256), strWhere := wher } }

/-- R458: check 0x10: an interrupt source of the other world bound to a stream of the context. -/
def ctxReasons (s : State) (cx : Nat) : List Reason :=
  let w := (ctxOf s cx).world
  ((s.cores.map fun k => (k.2.icuSrc.filter fun e =>
      decide (24 ≤ e.1) && decide (e.1 ≤ 31) && e.2.getLsbD 0 &&
        (tsOf s (field e.2.toNat 16 14)).ownValid && (tsOf s (field e.2.toNat 16 14)).ownCx.toNat == cx &&
        e.2.getLsbD 8 != (w == .T)).map fun e =>
          ((0x10, whereCsr (0x01F001000000 + k.1 * 0x10000 + 0x100 + e.1 * 8) 8 8) : Reason))).flatten

/-- R452, R453, R456: CTX_EN written by the monitor. -/
def ctxEnWrite (s : State) (cx : Nat) (en : Bool) (env : List (BitVec 8 × Word)) : State :=
  let x := ctxOf s cx
  if en == x.ctxEn then s
  else if !en then (if x.segEn then s else setCtx s cx { x with ctxEn := false })
  else
    let r := leastReason (ctxReasons s cx ++ needDev s (worldBit x.world) ++ envReasons env)
    let s1 := cxResult s cx 0x40 r
    if r.isNone then setCtx s1 cx { ctxOf s1 cx with ctxEn := true } else s1

/-- R301: some thread of a context is not stopped, or one of its streams runs. -/
def ctxBusy (s : State) (cx : Nat) : Bool :=
  (s.cores.any fun k => k.2.th.any fun x => x.2.cx.toNat == cx && x.2.st != .stopped) ||
  (s.ts.any fun e => e.2.ownValid && e.2.ownCx.toNat == cx && e.2.st == .running)

/-- R300, R301, R452: SEG_EN written by the monitor or by level S of the owning world. -/
def segEnWrite (s : State) (cx : Nat) (en : Bool) (env : List (BitVec 8 × Word)) : State :=
  let x := ctxOf s cx
  if en == x.segEn then s
  else if !en then (if ctxBusy s cx then s else setCtx s cx { x with segEn := false })
  else
    let s0 := setCtx s cx { x with segEn := true }
    let checks := (((List.range 16).filter fun n => (segOf x n).en).map fun n => segReasons s0 cx n).flatten
    let need : List Reason := if x.ctxEn then [] else [(0xF0, whereCsr (cxBase cx) 0 0)]
    let r := leastReason (checks ++ need ++ envReasons env)
    let s1 := cxResult s cx 0x41 r
    if r.isNone then setCtx s1 cx { ctxOf s1 cx with segEn := true } else s1

/-- R452: CTX_EN; only the monitor writes it (R292). -/
def execCtxEn (who : Agent) (cx : BitVec 6) (en : Bool) (env : List (BitVec 8 × Word)) (s : State) : Out :=
  if who = .monitor then .next (ctxEnWrite s cx.toNat en env) else .next s

/-- R300: SEG_EN. -/
def execSegEn (who : Agent) (cx : BitVec 6) (en : Bool) (env : List (BitVec 8 × Word)) (s : State) : Out :=
  if cxMay s (viewerOf s who) cx.toNat then .next (segEnWrite s cx.toNat en env) else .next s

/-- R293: a descriptor with a word written, but for PRESENT and EN. -/
def sgPut (g : Seg) (w : Nat) (v : Word) : Seg :=
  match w with
  | 0 => { g with vbase := v.truncate 48 }
  | 1 => { g with len := v.truncate 48 }
  | 2 => { g with pbase := v }
  | 3 => { g with rights := v.truncate 16, policy := (v >>> 16).truncate 2, cls := (v >>> 18).truncate 4, hash := v.getLsbD 22 }
  | k =>
    let sh := (k - 4) * 64
    { g with cap := (g.cap &&& ~~~((0xFFFFFFFFFFFFFFFF#256) <<< sh)) ||| (v.zeroExtend 256 <<< sh) }

/-- R293: a word of a descriptor as it reads. -/
def sgWord (g : Seg) (w : Nat) : Word :=
  match w with
  | 0 => g.vbase.zeroExtend 64
  | 1 => g.len.zeroExtend 64
  | 2 => g.pbase
  | 3 => BitVec.ofNat 64 (g.rights.toNat + g.policy.toNat * 2 ^ 16 + g.cls.toNat * 2 ^ 18 + b2n g.hash * 2 ^ 22
      + b2n g.present * 2 ^ 23 + b2n g.en * 2 ^ 24)
  | k => BitVec.ofNat 64 (field g.cap.toNat ((k - 4) * 64) 64)

/-- The state with a descriptor replaced. -/
def setSeg (s : State) (cx n : Nat) (g : Seg) : State :=
  let x := ctxOf s cx
  setCtx s cx { x with segs := tabSet x.segs n g }

/-- R301: the only changes to an enabled descriptor while SEG_EN is 1. -/
def sgLimited (g : Seg) (w : Nat) (v : Word) : Seg :=
  match w with
  | 0 => { g with vbase := v.truncate 48 }
  | 1 =>
    let n : BitVec 48 := v.truncate 48
    if n.toNat ≤ g.len.toNat && n.toNat != 0 && n.toNat % 4096 == 0 then { g with len := n } else g
  | 3 => { g with rights := g.rights &&& v.truncate 16, en := g.en && v.getLsbD 24 }
  | _ => g

/-- R300, R301: a store to word w of descriptor n of a context. -/
def sgWrite (s : State) (cx n w : Nat) (v : Word) (env : List (BitVec 8 × Word)) : State :=
  let x := ctxOf s cx
  let g := segOf x n
  if !x.segEn then
    setSeg s cx n (if w = 3 then { sgPut g w v with en := v.getLsbD 24 } else sgPut g w v)
  else if g.en then setSeg s cx n (sgLimited g w v)
  else
    let s1 := setSeg s cx n (sgPut g w v)
    if w = 3 && v.getLsbD 24 then
      let s2 := setSeg s1 cx n { sgPut g w v with en := true }
      let r := leastReason (segReasons s2 cx n ++ envReasons env)
      cxResult (if r.isNone then s2 else s1) cx 0x42 r
    else s1

/-- R301: SEGMENT_DESCRIPTOR_WRITE by the monitor or level S of the owning world. -/
def execSegmentDescriptorWrite (who : Agent) (cx : BitVec 6) (sg : BitVec 4) (word : BitVec 3) (v : Word)
    (env : List (BitVec 8 × Word)) (s : State) : Out :=
  if cxMay s (viewerOf s who) cx.toNat then .next (sgWrite s cx.toNat sg.toNat word.toNat v env) else .next s

/-- R299: the engines that acknowledge an invalidation. -/
def engines : List Nat := List.range 274

/-- R302: a range invalidation begins. PIN lines of the range become REUSE1 (R262). -/
def beginInval (s : State) (cx : Nat) (i : Inval) : State :=
  let x := ctxOf s cx
  let s1 := setCtx s cx { x with invals := x.invals ++ [i] }
  (x.segs.filter fun g => meets (i.lo, i.hi) (g.2.vbase.toNat, g.2.vbase.toNat + g.2.len.toNat)).foldl (fun s g =>
    match localRange s g.2 with
    | some r => unpinRange s cx r.1 r.2
    | none => s) s1

/-- R303: whether a context takes one more invalidation now: it holds up to four in progress, and an earlier store goes first. -/
def invalRoom (s : State) (cx : Nat) : Bool :=
  decide ((ctxOf s cx).invals.length < 4) && (ctxOf s cx).queued.isEmpty

/-- R303: an invalidation begins, or waits until one of the context's completes. -/
def addInval (s : State) (cx : Nat) (i : Inval) : State :=
  if invalRoom s cx then beginInval s cx i
  else
    let x := ctxOf s cx
    setCtx s cx { x with queued := x.queued ++ [i] }

/-- R303: an invalidation of the context has completed: the one that has waited longest begins. -/
def nextInval (s : State) (cx : Nat) : State :=
  let x := ctxOf s cx
  match x.queued with
  | i :: rest => if x.invals.length < 4 then beginInval (setCtx s cx { x with queued := rest }) cx i else s
  | [] => s

/-- R302: the invalidation that a store of `v` to CX_INVAL1 asks for. -/
def invalOf (s : State) (cx : Nat) (v : Word) : Inval :=
  let lo := (ctxOf s cx).inval0.toNat / 4096 * 4096
  { lo := lo, hi := lo + field v.toNat 0 36 * 4096, so := (v >>> 36).truncate 13, waitFor := engines, resume := none, ackTo := none }

/-- R302: a store to CX_INVAL1 by a thread or another requester that waits with it; none while it waits (R303). -/
def cxInval1 (s : State) (cx : Nat) (v : Word) : Option State :=
  if invalRoom s cx then some (beginInval s cx (invalOf s cx v)) else none

/-- R302, R303: CX_INVAL1_WRITE; a fifth invalidation waits until one completes. -/
def execCxInval1Write (who : Agent) (cx : BitVec 6) (v : Word) (s : State) : Out :=
  if cxMay s (viewerOf s who) cx.toNat then .next (addInval s cx.toNat (invalOf s cx.toNat v)) else .next s

/-- R302: parts of accesses that lie in a range. -/
def partsIn (lo hi : Nat) (hs : List Half) : Bool := hs.any fun h => decide (lo < h.va + h.len) && decide (h.va < hi)

/-- The parts a waiting thread's access still has on its way. -/
def reqHalves : Req → List Half
  | .load _ _ _ hs _ => hs
  | .store _ hs _ => hs
  | .atom _ _ _ _ h => [h]
  | .spill _ _ hs => hs
  | .fill _ _ hs => hs
  | .rsync _ _ _ h => [h]
  | .vec e => match e.kind with
    | .load _ _ es => (es.map fun e => e.halves).flatten
    | .store _ es => (es.map fun e => e.halves).flatten
    | _ => []
  | _ => []

/-- The parts of a queued vector instruction. -/
def entHalves (e : VEnt) : List Half := reqHalves (.vec e)

/-- R210, R302: remote pieces of a row that core c gathers for a thread of a context are on their way. -/
def rowInFlight (s : State) (c cx : Nat) : Bool :=
  match (coreOf s c).mx.pass with
  | some p => (thOf s c p.t).cx.toNat == cx && s.fab.outst.any fun o => match o.owner with
    | .mxRow c' _ => c' == c
    | _ => false
  | none => false

/-- R302: the context through which a request without its response was translated, as far as its owner tells it: a request that its
owner has abandoned still counts (R362). A host's and a service's requests are translated through the agent on IO-N. -/
def outstCx (s : State) (o : Outst) : Option Nat :=
  match o.owner with
  | .thread c t _ => some (thOf s c t).cx.toNat
  | .tsRead n _ => some (tsOf s n).ownCx.toNat
  | .tsWrite n _ => some (tsOf s n).ownCx.toNat
  | .tsMark n => some (tsOf s n).ownCx.toNat
  | .host _ => some s.board.hostCx
  | .svc c t _ _ => some (thOf s c t).cx.toNat
  | .mxRow _ _ => none

/-- R302, R362: a request of a context that no waiting part or row stands for is on its way: a stream's, a host's, a service's, or one
that its thread has abandoned. Which range it lies in is not kept: it counts for every range (DEDUCED, entry 57). -/
def askedInFlight (s : State) (eng cx : Nat) : Bool :=
  (s.fab.outst ++ s.fab.tc0Wait).any fun o => outstCx s o == some cx && (match o.owner with
    | .thread c _ i => c == eng && decide (65536 ≤ i)
    | .tsRead n _ => tsGroup n == eng
    | .tsWrite n _ => tsGroup n == eng
    | .tsMark n => tsGroup n == eng
    | .host _ => eng == 272
    | .svc _ _ _ _ => eng == 272
    | .mxRow _ _ => false)

/-- R302: an engine still has an access in flight that may have been translated through an entry of the range: a core's posted
stores, waiting accesses, queued vector accesses and gathered rows; a transfer engine's elements, descriptor and list reads and marks;
a host's and a service's accesses. The monitor's own addresses are physical, so nothing is translated through agent 273. -/
def inFlight (s : State) (eng cx lo hi : Nat) : Bool :=
  askedInFlight s eng cx ||
  if 272 ≤ eng then false
  else if eng < 256 then
    let k := coreOf s eng
    rowInFlight s eng cx || k.th.any fun e => e.2.cx.toNat == cx &&
      (!e.2.sb.isEmpty || (match e.2.wait with | .reply r => partsIn lo hi (reqHalves r) | _ => false) ||
        (k.vq.any fun q => q.t == e.1 && partsIn lo hi (entHalves q)))
  else s.ts.any fun e => tsGroup e.1 == eng && e.2.ownValid && e.2.ownCx.toNat == cx && e.2.inflight.any fun el =>
    (decide (lo ≤ tsDst e.2.desc el.idx) && decide (tsDst e.2.desc el.idx < hi)) ||
      e.2.desc.gather || (decide (lo ≤ tsSrc e.2.desc el.idx 0) && decide (tsSrc e.2.desc el.idx 0 < hi))

/-- R302 step 1: an engine's entries of a context whose window meets a range dropped. -/
def dropEntries (s : State) (eng cx lo hi : Nat) : State :=
  { s with segbuf := tabSet s.segbuf eng ((tabGet [] s.segbuf eng).filter fun e =>
      !(e.cx == cx && meets (lo, hi) (e.seg.vbase.toNat, e.seg.vbase.toNat + e.seg.len.toNat))) }

/-- R327, R329: the monitor resumes the streams of a context that faulted on a segment it has made present; the owner sees only the time,
so a stream goes on as its owner last resumed it. -/
def resumeFaulted (s : State) (cx sg : Nat) : State :=
  s.ts.foldl (fun s e =>
    if e.2.ownValid && e.2.ownCx.toNat == cx && e.2.st == .faulted &&
        (match e.2.fault with | some f => f.absent == some sg | none => false)
    then tsResume s e.1 e.2.zpois else s) s

/-- R304: the monitor messages that register a mapper, that give it a new base and capability, and that acknowledge them (their form is
a DESIGN CHOICE, entry 58). -/
def mirrorRegister : Byte := 0x10#8
/-- As above. -/
def mirrorMoved : Byte := 0x11#8
/-- As above. -/
def mirrorAck : Byte := 0x12#8

/-- R304, R327: what the monitor does once an invalidation of its own has completed: it resumes the streams that faulted on a segment made
present, or answers the owner whose object has moved. -/
def invalDone (s : State) (cx : Nat) (i : Inval) : State :=
  match i.resume, i.ackTo with
  | some sg, _ => if (segOf (ctxOf s cx) sg).present then resumeFaulted s cx sg else s
  | none, some (dev, sg) => sendSvc s (monitorAgent s) dev [mirrorAck, BitVec.ofNat 8 cx, BitVec.ofNat 8 sg]
  | none, none => s

/-- R302: INVAL_ACK: the engine drops its entries, and once its accesses have completed it signals the object. The engine's oldest
invalidation of the context is meant. A world's signal never reaches a monitor object (DEDUCED). -/
def execInvalAck (cx : BitVec 6) (eng : BitVec 9) (s : State) : Out :=
  let x := ctxOf s cx.toNat
  match x.invals.zipIdx.find? fun i => i.1.waitFor.contains eng.toNat with
  | none => .next s
  | some (i, n) =>
    let s1 := dropEntries s eng.toNat cx.toNat i.lo i.hi
    if inFlight s1 eng.toNat cx.toNat i.lo i.hi then .next s1
    else
      let rest := i.waitFor.erase eng.toNat
      let l := if rest.isEmpty then x.invals.eraseIdx n else x.invals.set n { i with waitFor := rest }
      let s2 := setCtx s1 cx.toNat { ctxOf s1 cx.toNat with invals := l }
      let s3 := if soMon i.so.toNat && i.resume.isNone && i.ackTo.isNone then s2 else signalSo s2 i.so.toNat 1#64
      .next (if rest.isEmpty then nextInval (invalDone s3 cx.toNat i) cx.toNat else s3)

/-- R302, R327: an invalidation that the monitor itself asks for. Its acknowledgements go to its own object SO8191 (DESIGN CHOICE). -/
def monInval (g : Seg) (resume : Option Nat) (ackTo : Option (Nat × Nat)) : Inval :=
  { lo := g.vbase.toNat, hi := g.vbase.toNat + g.len.toNat, so := 8191#13, waitFor := engines, resume := resume, ackTo := ackTo }

/-- R327: PRESENT_CHANGE: the monitor writes PRESENT and invalidates the segment's range; the invalidation waits while the context holds
four. -/
def execPresentChange (cx : BitVec 6) (sg : BitVec 4) (present : Bool) (s : State) : Out :=
  let g := segOf (ctxOf s cx.toNat) sg.toNat
  .next (addInval (setSeg s cx.toNat sg.toNat { g with present := present }) cx.toNat (monInval g (some sg.toNat) none))

/-- R304: the descriptor's eight words as bytes. -/
def sgBytes (g : Seg) : List Byte := ((List.range 8).map fun w => wordBytes 8 (sgWord g w)).flatten

/-- R304: a changed descriptor mirrored: written to the host's copy and the sequence word incremented, on a board with a host that named
one; a remote segment is registered with its owner's monitor. -/
def mirrorSegment (s : State) (cx sg : Nat) : State :=
  let g := segOf (ctxOf s cx) sg
  let b := s.board
  let s1 := if b.endpoint && b.mirror.isSome then
      { s with board := { b with mirrored := (cx, sg, g) :: b.mirrored, mirrorSeq := b.mirrorSeq + 1#64 } }
    else s
  if g.en && isRemote s g.pbase then
    sendSvc s1 (monitorAgent s) (paDev g.pbase) ([mirrorRegister, BitVec.ofNat 8 cx, BitVec.ofNat 8 sg] ++ sgBytes g)
  else s1

/-- R304: the bytes and the poison of `n` bytes at LOCAL address `a` brought to `b` by the monitor. -/
def moveBytes (s : State) (a b n : Nat) : State :=
  let offs := (s.mem.filterMap fun e =>
    if decide (a ≤ e.1) && decide (e.1 < a + n) then some (e.1 - a)
    else if decide (b ≤ e.1) && decide (e.1 < b + n) then some (e.1 - b) else none)
  let s1 := offs.foldl (fun t o => memStore t (b + o) [readByte s.mem (a + o)]) s
  (s.poison.filter fun p => decide (a ≤ p) && decide (p < a + n)).foldl (fun t p => poisonAdd t (p - a + b)) s1

/-- R304: a capability of a moved object, for its new base. -/
def movedCap (s : State) (k : BitVec 256) (old new : Nat) : BitVec 256 :=
  sealCap s (capBody (capBase k - old + new) (capLen k) (capRights k) (capObj k) (capEpoch k) (capOwner k) (capWorld k))

/-- R304: the monitor moves an object of this device: its bytes, its entry, and a message with the new base and a new capability to every
registered mapper of the object. -/
def moveObject (s : State) (obj new : Nat) : State :=
  let o := tabGet {} s.objs (obj % 65536)
  if !(o.valid && o.objHi.toNat == obj / 65536) || decide (2 ^ 48 < new + o.len) then s
  else
    let s1 := moveBytes s o.base new o.len
    let s2 := { s1 with objs := tabSet s1.objs (obj % 65536) { o with base := new } }
    (s.fab.mappers.filter fun m => capObj m.cap == obj).foldl (fun s m =>
      let pbase := BitVec.ofNat 64 (m.pbase.toNat / 2 ^ 48 * 2 ^ 48 + (paLocal m.pbase - o.base + new))
      let cap := movedCap s m.cap o.base new
      let s := { s with fab := { s.fab with
        mappers := s.fab.mappers.map fun q => if q == m then { q with pbase := pbase, cap := cap } else q } }
      sendSvc s (monitorAgent s) m.dev
        ([mirrorMoved, BitVec.ofNat 8 m.cx, BitVec.ofNat 8 m.sg] ++ wordBytes 8 pbase ++ natLe 32 cap.toNat)) s2

/-- R304: SEGMENT_MIRROR. -/
def execSegmentMirror (what : MirrorOf) (base : BitVec 48) (s : State) : Out :=
  .next (match what with
    | .segment cx sg => mirrorSegment s cx.toNat sg.toNat
    | .object obj => moveObject s obj.toNat base.toNat)

/-- R304: a mapper's registration: the segment of another device that maps memory of this one, in place of what it had registered under
the same number. -/
def registerMapper (s : State) (dev cx sg : Nat) (bytes : List Byte) : State :=
  let m : Mapper :=
    { dev := dev, cx := cx, sg := sg, pbase := BitVec.ofNat 64 (leNat ((bytes.drop 16).take 8)),
      cap := BitVec.ofNat 256 (leNat ((bytes.drop 32).take 32)) }
  { s with fab := { s.fab with
    mappers := (s.fab.mappers.filter fun q => !(q.dev == dev && q.cx == cx && q.sg == sg)) ++ [m] } }

/-- R304: a moved object's new base and capability: PBASE and SG_CAP are rewritten and the range is invalidated before the owner is
answered. -/
def rewriteSegment (s : State) (dev cx sg : Nat) (bytes : List Byte) : State :=
  let g := segOf (ctxOf s cx) sg
  if isRemote s g.pbase && paDev g.pbase == dev then
    addInval (setSeg s cx sg { g with
      pbase := BitVec.ofNat 64 (leNat (bytes.take 8)), cap := BitVec.ofNat 256 (leNat (bytes.drop 8)) }) cx
      (monInval g none (some (dev, sg)))
  else s

/-- R304: a monitor message of another device that concerns mirrored segments. -/
def takeMirror (s : State) (dev : Nat) (data : List Byte) : State :=
  match data with
  | tag :: cx :: sg :: bytes =>
    if tag == mirrorRegister && bytes.length == 64 then registerMapper s dev cx.toNat sg.toNat bytes
    else if tag == mirrorMoved && bytes.length == 40 && decide (cx.toNat < 64) && decide (sg.toNat < 16) then
      rewriteSegment s dev cx.toNat sg.toNat bytes
    else s
  | _ => s

end Sys2Proof.Machine
end

