-- ==== Sys2Proof/Machine/Steep.lean ====
section
/-!
DEFINITION. Sys2Proof/Machine/Steep.lean: local steeps and local rollback (R394 to R408): requests, the cut, forced steeps, the
seal, the logs, and the restoring of a steep; restarts from the full steep share the last.
-/

namespace Sys2Proof.Machine

/-- R394: WINDOW in ns. -/
def steepWindow (s : State) : Nat := field s.steep.ctl.toNat 16 12 * 1000

/-- R124, R432: an event entered in the ring, which keeps the last 64, with the identifier of the latest sealed steep. -/
def logEvent (s : State) (kind place gen : Nat) : State :=
  let e : EvEvent :=
    { time := s.time, kind := kind, place := place, gen := gen, ident := (s.steep.snap.map (·.ident)).getD 0 }
  { s with steep := { s.steep with ring := (e :: s.steep.ring).take 64 } }

/-- R432: a lifetime count. -/
def countLife (s : State) (item : Nat) : State :=
  { s with steep := { s.steep with counts := tabMod 0 s.steep.counts item (· + 1) } }

/-- R395: a steep request raised while none is pending and no steep is under way. -/
def raiseSteep (s : State) : State :=
  if steepEn s && !s.steep.pending && s.steep.cutting.isNone then
    { s with steep := { s.steep with pending := true, reqAt := s.time, forced := false, decls := [] } }
  else s

/-- R395: STEEP_REQUEST. -/
def execSteepRequest (now : Word) (s : State) : Out := .next (raiseSteep { s with time := max s.time now.toNat })

/-- R395, R401: LOG_SHARE_FULL: the running thread of a core waits for room in a log, and a steep is asked for at once. -/
def execLogShareFull (c : BitVec 8) (s : State) : Out :=
  if logFull s then
    let s1 := raiseSteep s
    match running s1 c.toNat with
    | some t => .next (goWait s1 c.toNat t (thOf s1 c.toNat t) .log 0)
    | none => .next s1
  else .next s

/-- Every thread of the device, by core and number. -/
def allThreads (s : State) : List (Nat × Nat) := (s.cores.map fun e => e.2.th.map fun x => (e.1, x.1)).flatten

/-- R395: what the cut waits for: a thread that is ready, or that its own vector instructions hold up, or an access that cannot be
abandoned. -/
def holdsCut (x : Thread) : Bool :=
  x.st == .ready || (x.st == .waiting && match x.wait with
    | .reply r => !(reqAbandons r)
    | .vecpass => true
    | .entry _ _ _ _ => true
    | _ => false)

/-- R109: what an interleave-mode core dumps: every V and M register. -/
def wholeDecl : Decl := { vlive := BitVec.allOnes 32, mlive := BitVec.allOnes 15 }

/-- R109, R395, R396: a thread's declaration at the cut: the one it latched, else its default one. -/
def threadDecl (s : State) (c t : Nat) : Decl :=
  if (coreOf s c).ilv then wholeDecl
  else match s.steep.decls.find? fun e => e.1 == c * 8 + t with
    | some e => e.2
    | none => tabGet {} s.steep.defaults (c * 8 + t)

/-- R395: at the cut, what each waiting thread waits for is abandoned, and it pauses. -/
def pauseThread (s : State) (e : Nat × Nat) : State :=
  let x := thOf s e.1 e.2
  if x.st == .waiting && x.wait != .parked then
    let s1 := abandonWait s e.1 e.2
    setTh s1 e.1 e.2 { thOf s1 e.1 e.2 with st := .waiting, wait := .parked }
  else s

/-- R399: what the islands record at the cut. -/
def takeSnap (s : State) : Snap :=
  let ds := (allThreads s).map fun e => (e.1 * 8 + e.2, threadDecl s e.1 e.2)
  let ranges := (ds.map fun d => d.2.ranges.map fun r => (spadBase (d.1 / 8) + r.1, r.2)).flatten
  { cores := s.cores, decls := ds, spads := ranges.map fun r => (r.1, loadBytes s r.1 r.2), so := s.so, ts := s.ts,
    groups := s.groups, dedup := s.fab.dedup, seqs := s.fab.seqs, lwms := s.fab.seqs.map fun e => (e.1, lowestOpen s e.1),
    outst := s.fab.outst, outLen := s.steep.outBase + s.steep.outcome.length, ident := s.steep.ident }

/-- R196, R219: the rows that a core's matrix unit has issued reach their entries: nothing can change what they meet. -/
def finishRows (s : State) (e : Nat × Core) : State :=
  let m := (coreOf s e.1).mx
  if m.rows.isEmpty || m.pass.isSome then s
  else mxFlush (setMx s e.1 (landRows m (m.rows.foldl (fun a r => max a r.final) 0 + 1024))) e.1

/-- R399, R401, R412: STEEP_CUT: with no thread ready and unparked, the state is recorded and the undo epoch switches; the cut is also
that of an announced full steep. -/
def execSteepCut (s : State) : Out :=
  if !s.steep.pending || s.steep.cutting.isSome || (s.cores.any fun k => k.2.th.any fun x => holdsCut x.2) then .next s
  else
    let s1 := s.cores.foldl finishRows ((allThreads s).foldl pauseThread s)
    let sn := takeSnap s1
    let full := s1.steep.announced.isSome && !s1.steep.cutTaken
    let rest := (s1.steep.undo.filter (·.fullTier)).map fun r => { r with localTier := false, oldGen := r.oldGen || full }
    .next { s1 with steep := { s1.steep with
      cutting := some sn
      prevUndo := (s1.steep.undo.filter (·.localTier)) ++ s1.steep.prevUndo
      undo := rest
      cutTaken := s1.steep.cutTaken || full
      fullNext := if full then some sn else s1.steep.fullNext } }

/-- R396: a forced thread stops at its boundary once its core's queues have drained, with its default declaration. -/
def forceThread (s : State) (e : Nat × Nat) : State :=
  let k := coreOf s e.1
  let x := threadOf k e.2
  if x.st == .ready && !k.ilv && unitsEmpty k && !(workInFlight s e.1 e.2) then
    let d := threadDecl s e.1 e.2
    let s1 := { s with steep := { s.steep with decls := tabSet s.steep.decls (e.1 * 8 + e.2) d } }
    putTh s1 e.1 e.2 { x with st := .waiting, wait := .parked }
  else s

/-- R109, R396: STEEP_FORCED: WINDOW has passed since the request with some thread still ready; those of cores in interleave mode never
cause it. -/
def execSteepForced (now : Word) (s : State) : Out :=
  let s0 := { s with time := max s.time now.toNat }
  if s0.steep.pending && s0.steep.cutting.isNone && decide (s0.steep.reqAt + steepWindow s0 ≤ s0.time)
      && (s0.cores.any fun k => !k.2.ilv && k.2.th.any fun x => x.2.st == .ready) then
    .next ((allThreads s0).foldl forceThread { s0 with steep := { s0.steep with forced := true } })
  else .next s0

/-- R400, R402, R404: STEEP_SEAL: the slot is sealed and becomes the latest local steep; the local-tier records of its epoch are freed,
low-water marks rise, and the parked threads resume. -/
def execSteepSeal (s : State) : Out :=
  match s.steep.cutting with
  | none => .next s
  | some sn =>
    .next (resumeParked { s with
      steep := { s.steep with
        snap := some sn
        cutting := none
        pending := false
        forced := false
        decls := []
        prevUndo := []
        replaying := false }
      fab := { s.fab with lwms := sn.lwms } })

/-- R404: a logged request that has no response yet, which no steep of the peer covers. -/
def unanswered (s : State) (m : MsgRec) : Bool :=
  m.sent.1 != opRdr && s.fab.outst.any fun o => o.agent == m.sent.2.agent.toNat && o.seq == m.sent.2.seq.toNat

/-- R404: PEER_STEEP_ACK: a peer's local steep has sealed, and the entries kept for it are freed. -/
def execPeerSteepAck (dev : BitVec 14) (s : State) : Out :=
  .next { s with steep := { s.steep with msgs := s.steep.msgs.filter fun m => m.peer != dev.toNat || unanswered s m } }

/-- R85, R450: a thread as the job loader starts it. -/
def startThread (s : State) (ti : ThreadInit) : State :=
  putTh s ti.c.toNat ti.t.toNat { st := .ready, cx := ti.cx, pc := ti.pc &&& 0x3FFFC#18, dsp := ti.dsp, jobStart := s.time }

/-- R431: a count of FH_WCNT for every world that `p` picks. -/
def countWorlds (s : State) (p : World → Bool) (lo len : Nat) : State :=
  let s1 := if p .P then { s with steep := { s.steep with wcntP := satAdd s.steep.wcntP lo len } } else s
  if p .T then { s1 with steep := { s1.steep with wcntT := satAdd s1.steep.wcntT lo len } } else s1

/-- R431: whether a world has threads on the device. -/
def hasThreads (s : State) (w : World) : Bool :=
  s.cores.any fun k => k.2.th.any fun x => x.2.st != .stopped && worldOf k.2 x.1 == w

/-- R219, R398: a thread after a rollback: its undeclared V and M registers hold free values, numbered from `n`. -/
def restoreThread (n : Nat) (d : Decl) (x : Thread) : Thread :=
  let v := (List.range 32).map fun i => (i, if d.vlive.getLsbD i then tabGet 0#8192 x.v i else Config.deadV (n + i))
  let m := (List.range 15).map fun i => (i + 1, if d.mlive.getLsbD i then tabGet 0#1024 x.m (i + 1) else Config.deadM (n + i))
  { x with v := v, m := m }

/-- R219: an undeclared bank reads zero after a rollback. -/
def restoreBank (live : Bool) (b : Bank) : Bank :=
  if live then b else { loads := (packBank b).loads.map fun l => { l with data := 0 } }

/-- R219: the declared entries of a matrix unit, where the entries it does not list are to hold the identity of its operation. -/
def restoreAcc (m : Matrix) (live : Nat → Bool) : Tab Acc :=
  if m.ident = opIdent (cOp m.cfg) then m.acc.filter fun e => live (e.1 / 128)
  else ((List.range (128 * formCap (cForm m.cfg))).filter fun i => live (i / 128)).map fun i => (i, tabGet m.ident m.acc i)

/-- R219, R242: a core after a rollback: its undeclared banks read zero, undeclared entries hold the identity and undeclared
accumulators canonical zero. -/
def restoreCore (decls : Tab Decl) (draws c : Nat) (k : Core) : Core :=
  let mine := decls.filter fun e => e.1 / 8 == c
  let any (p : Decl → Bool) : Bool := mine.any fun e => p e.2
  let cap := formCap (cForm k.mx.cfg)
  let liveA := any (·.banka)
  let liveS := any (·.banks)
  let acc := restoreAcc k.mx fun e => any fun d => (declEntries cap d).contains e
  let ru := k.ru.acc.filter fun e => any fun d => d.rulive.getLsbD e.1
  { k with
    th := tabMap k.th fun t x => restoreThread (draws + (c * 8 + t) * 32) (tabGet {} decls (c * 8 + t)) x
    mx := { k.mx with
      bankA := restoreBank (if k.mx.act then liveS else liveA) k.mx.bankA
      bankB := restoreBank (if k.mx.act then liveA else liveS) k.mx.bankB
      acc := acc
      ident := opIdent (cOp k.mx.cfg) }
    ru := { k.ru with acc := ru } }

/-- R331: a recorded stream: one that ran resumes from its prefix. -/
def restoreTs (x : Ts) : Ts :=
  if x.st == .running then { x with nxt := x.pre, above := [], inflight := [], fault := none } else x

/-- R391: a recorded object: its waiter entries are not recorded. -/
def restoreSo (o : SyncObj) : SyncObj := { o with waiters := [], early := [] }

/-- R401, R402: lines restored from records, newest first, so that the oldest contents stay. -/
def restoreLines (s : State) (rs : List UndoRec) : State := rs.foldl (fun s r => storeBytes s r.line r.old) s

/-- R421: the addresses of poisoned words that a rollback writes zero over: those of scratchpads outside the declared ranges, and
those of RECOMPUTE segments. -/
def deadPoison (s : State) (sn : Snap) : List Nat :=
  s.poison.filter fun a => match regionOf s.part a with
    | .spad _ => !(sn.spads.any fun r => decide (r.1 ≤ a) && decide (a < r.1 + r.2.length))
    | .hbm => (policiesAt s a).contains 1#2
    | _ => false

/-- R408: the outcome records from a steep's cut on. -/
def outcomesFrom (s : State) (sn : Snap) : List OutRec := s.steep.outcome.drop (sn.outLen - s.steep.outBase)

/-- R402: the recovery entries of RECOMPUTE contexts started, and the other threads held until each has stopped; with none, the parked
threads resume. A recovery entry names a thread that is stopped otherwise (DEDUCED). -/
def startRecovery (s : State) : State :=
  let due := s.steep.recovery.filter fun r =>
    ((ctxOf s r.cx.toNat).segs.any fun g => g.2.en && g.2.policy == 1#2) &&
      (thOf s r.c.toNat r.t.toNat).st == .stopped
  if due.isEmpty then resumeParked s
  else
    let s1 := { s with steep := { s.steep with recovering := due.map fun r => r.c.toNat * 8 + r.t.toNat } }
    due.foldl startThread s1

/-- R408: what is still outstanding after a rollback: requests from before the cut, sent again with REPLAY = 1 but for those of TC0, and
the TC0 requests of the lost epoch, whose responses are recorded as they come. -/
def replayOutst (s : State) (sn : Snap) (rep_ : List OutRec) : State :=
  let answered (o : Outst) : Bool := o.sent.2.tc == 0#2 && rep_.any fun r => r.ty == 9 && r.key == [o.agent, o.seq, 0]
  let orphaned (o : Outst) : Outst := match o.owner with
    | .thread c t p => { o with owner := .thread c t (p % 65536 + 65536) }
    | .tsRead n i => { o with owner := .tsRead n (i % 2 ^ 60 + 2 ^ 60) }
    | .tsWrite n i => { o with owner := .tsWrite n (i % 2 ^ 60 + 2 ^ 60) }
    | _ => o
  let old := (sn.outst.filter fun o => !(answered o)).map orphaned
  let lost := (s.fab.outst.filter fun o => o.sent.2.tc == 0#2 && decide (tabGet 0 sn.seqs o.agent ≤ o.seq)).map orphaned
  let s1 := { s with fab := { s.fab with outst := old ++ lost, tc0Wait := s.fab.tc0Wait.map orphaned } }
  (old.filter fun o => o.sent.2.tc != 0#2).foldl (fun s o => emit s none o.sent.1 { o.sent.2 with replay := true }) s1

/-- R407, R408, R421: the device restored to a steep, replaying the outcomes recorded since its cut. -/
def restoreSnap (s : State) (sn : Snap) : State :=
  let rep_ := outcomesFrom s sn
  let extReqs := (allThreads s).filter fun e => match (thOf s e.1 e.2).wait with
    | .reply (.ext _ _ _) => true
    | _ => false
  let marks := (allThreads s).map fun e => (e.1 * 8 + e.2, (thOf s e.1 e.2).icount)
  let s1 := replayOutst s sn rep_
  let dead := deadPoison s1 sn
  let s2 := dead.foldl (fun s a => storeBytes s a (List.replicate (poisonWord s.part a) 0#8)) s1
  let s3 := sn.spads.foldl (fun s r => storeBytes s r.1 r.2) s2
  let upto := s.fab.seqs.map fun e => (e.1, max e.2 (tabGet 0 s.steep.replayTo e.1))
  startRecovery { askPeers s3 with
    cores := tabMap sn.cores fun c k => restoreCore sn.decls s.draws c k
    draws := s.draws + 65536
    so := tabMap sn.so fun _ o => restoreSo o
    ts := tabMap sn.ts fun _ x => restoreTs x
    groups := sn.groups
    fab := { (askPeers s3).fab with dedup := sn.dedup, seqs := sn.seqs, held := [] }
    board := { s3.board with svcParts := [], svcEnds := [], ext := { s3.board.ext with waiting := [], outst := [] } }
    steep := { s3.steep with
      replay := rep_
      outcome := s3.steep.outcome.take (sn.outLen - s3.steep.outBase)
      replayTo := upto
      faultAt := marks
      extAgain := extReqs.map fun e => e.1 * 8 + e.2
      replaying := true
      rollback := false
      pending := false
      forced := false
      cutting := none
      decls := []
      prevUndo := []
      recovering := []
      haltedPairs := [] } }

/-- R408: replay has not yet passed the point of the fault: some thread has completed fewer instructions than before it. -/
def stillReplaying (s : State) : Bool :=
  s.steep.replaying && s.steep.faultAt.any fun e =>
    (thOf s (e.1 / 8) (e.1 % 8)).st != .stopped && decide ((thOf s (e.1 / 8) (e.1 % 8)).icount < e.2)

/-- R412, R417 steps 2, 6 and 7: a restart from the last committed full steep: lines restored from full-tier records, the newest
generation first, check lines from their pre-images, then the full slot. Without one, nothing changes. -/
def fullRestart (s : State) : State :=
  match s.steep.full with
  | none => s
  | some sn =>
    let s0 := { s with steep := { s.steep with snap := some sn } }
    let s1 := countLife (logEvent (countWorlds s0 (fun w => devBit s (worldBit w)) 16 16) 2 0 s.steep.gen) 2
    let s2 := restoreLines s1 (s1.steep.undo.filter (·.fullTier))
    let s3 := s2.steep.preimg.foldl (fun s p => storeBytes s p.1 p.2) s2
    restoreSnap { s3 with steep := { s3.steep with
      undo := []
      prevUndo := []
      preimg := []
      announced := none
      cutTaken := false
      fullNext := none
      snap := some sn } } sn

/-- R407: a local rollback: local-tier records restored, newest first, then the latest sealed steep. -/
def localRollback (s : State) (sn : Snap) : State :=
  let s1 := countLife (logEvent (countWorlds s (hasThreads s) 0 16) 1 0 0) 1
  let s2 := restoreLines s1 ((s1.steep.undo.filter (·.localTier)) ++ s1.steep.prevUndo)
  restoreSnap { s2 with steep := { s2.steep with
    undo := (s2.steep.undo.filter (·.fullTier)).map fun r => { r with localTier := false } } } sn

/-- R407, R408: LOCAL_ROLLBACK: the device, due to roll back, restores its latest sealed steep; a second fault before replay has
passed the first restarts it from the full steep. With no sealed steep there is nothing to restore. -/
def execLocalRollback (s : State) : Out :=
  if !s.steep.rollback || s.steep.halted then .next s
  else match s.steep.snap with
    | some sn => .next (if stillReplaying s then fullRestart s else localRollback s sn)
    | none => .next (fullRestart s)

end Sys2Proof.Machine
end

