-- ==== Sys2Proof/Machine/Recovery.lean ====
section
/-!
DEFINITION. Sys2Proof/Machine/Recovery.lean: full steeps and the 8+2 code (R409 to R414), device loss (R415 to R419), reads of
poisoned memory (R421), compute checks (R422, R423), the service clusters and the leader token (R424 to R429), and the field evidence
record (R432).
-/

namespace Sys2Proof.Machine

/-- R412: FULL_STEEP_ANNOUNCE: the next local steep is the cut of `gen`. -/
def execFullSteepAnnounce (gen : BitVec 32) (s : State) : Out :=
  if steepEn s && s.steep.announced.isNone then
    .next { s with steep := { s.steep with announced := some gen.toNat, cutTaken := false } }
  else .next s

/-- R410: twice an element of GF(2^8) under 0x11D. -/
def gfDouble (b : Byte) : Byte := if b.getLsbD 7 then (b <<< 1) ^^^ 0x1D#8 else b <<< 1

/-- R410: g^p times an element. -/
def gfTimes : Nat → Byte → Byte
  | 0, b => b
  | p + 1, b => gfTimes p (gfDouble b)

/-- R412: a check line after a delta: XOR for P, g^p times the delta for Q. -/
def deltaLine (old delta : List Byte) (pos : Nat) (isq : Bool) : List Byte :=
  (old.zip delta).map fun e => e.1 ^^^ (if isq then gfTimes pos e.2 else e.2)

/-- R412: DELTA_APPLY: a check member keeps the line's pre-image before its first change in g, then applies the delta; it waits while
the undo share is full (R401). A line outside the parity reserve is no check line. -/
def execDeltaApply (la : BitVec 48) (delta : List Byte) (pos : BitVec 3) (isq : Bool) (s : State) : Out :=
  let a := la.toNat / 256 * 256
  if regionOf s.part la.toNat = .void then .fault (.voidAddress la.toNat)
  else if delta.length != 256 then .refused .illFormed
  else if !(decide (parityBase s ≤ a) && decide (a < logBase s)) then .next s
  else
    let old := loadBytes s a 256
    let new := s.steep.preimg.all fun p => p.1 != a
    if new && decide (undoCap s ≤ undoUsed s) then .next s
    else
      let s1 := if new then { s with steep := { s.steep with preimg := (a, old) :: s.steep.preimg } } else s
      .next (storeBytes s1 a (deltaLine old delta pos.toNat isq))

/-- R365, R412: FULL_STEEP_COMMIT: with the cut of g sealed and every delta acknowledged, g is the steep to restart from; its
old-generation records, pre-images and older outcome records are freed, and an announced level comes into force. -/
def execFullSteepCommit (gen : BitVec 32) (s : State) : Out :=
  match s.steep.fullNext with
  | some sn =>
    if s.steep.announced = some gen.toNat && s.steep.cutTaken && s.steep.cutting.isNone then
      let n := sn.outLen - s.steep.outBase
      let undo := (s.steep.undo.map fun r => if r.oldGen then { r with fullTier := false } else r).filter fun r =>
        r.fullTier || r.localTier
      .next { s with
        steep := { s.steep with
          full := some sn
          fullNext := none
          gen := gen.toNat
          announced := none
          cutTaken := false
          undo := undo
          preimg := []
          outcome := s.steep.outcome.drop n
          outBase := s.steep.outBase + min n s.steep.outcome.length }
        fab := { s.fab with active := s.fab.nextLevel.getD s.fab.active, nextLevel := none } }
    else .next s
  | none => .next s

/-- R394: ARCHMIN in ns. -/
def archMin (s : State) : Nat := field s.steep.ctl.toNat 40 8 * 60000000000

/-- R412, R414: memory as of the cut of the last committed full steep. -/
def memAtFull (s : State) : State := restoreLines s (s.steep.undo.filter (·.fullTier))

/-- R471: the archive namespaces left hold two archives. -/
def archiveRoom (s : State) : Bool :=
  s.board.lostNs.isEmpty ||
    decide (2 * (jobGiB s + 2) ≤ Config.archiveGiB
      (match s.boot.image.sections.find? fun e => e.1 == 0x08 with | some e => e.2 | none => []) s.board.lostNs)

/-- R414: ARCHIVE_STEEP: the protected lines as of the cut of g and the full slot go to NVMe; the two most recent archives are
kept. Archive steeps stop where lost namespaces leave less than 2 × (J + 2) GiB (R471). -/
def execArchiveSteep (now : Word) (s : State) : Out :=
  let s0 := { s with time := max s.time now.toNat }
  match s0.steep.full with
  | some sn =>
    if archiveRoom s0 && !(s0.steep.archives.contains s0.steep.gen) && (s0.steep.archives.isEmpty || decide (s0.steep.archAt + archMin s0 ≤ s0.time))
    then
      let m := memAtFull s0
      .next { s0 with steep := { s0.steep with
        archives := (s0.steep.gen :: s0.steep.archives).take 2
        archAt := s0.time
        archive := some { gen := s0.steep.gen, mem := m.mem.filter fun e => decide (e.1 < hbmTop s0.part),
                          poison := m.poison.filter fun a => decide (a < hbmTop s0.part), snap := sn } } }
    else .next s0
  | none => .next s0

/-- R418, R419: one partner set has had three losses within the recovery window; where no STEEP section has been loaded, the device's own
set is meant. -/
def thirdLoss (s : State) : Bool :=
  (s.steep.sets.getD [s.steep.partners]).any fun m => decide (3 ≤ (s.steep.window.filter fun d => m.contains d).length)

/-- R419: ARCHIVE_RESUME: after a third loss in one set, a halted device reloads its protected lines and full slot from the latest archive, and resumes; what the
job keeps in no protected segment is left to the recovery entries. -/
def execArchiveResume (s : State) : Out :=
  match s.steep.archive with
  | some a =>
    if !s.steep.halted || !(thirdLoss s) then .next s
    else
      let s1 := countLife (logEvent (countWorlds s (fun w => devBit s (worldBit w)) 32 8) 4 0 a.gen) 3
      let s2 := { s1 with
        mem := normMem (a.mem ++ s1.mem.filter fun (e : Host.Cell) => !(decide (e.1 < hbmTop s1.part)))
        poison := a.poison ++ s1.poison.filter fun (p : Nat) => !(decide (p < hbmTop s1.part))
        fab := { s1.fab with recov := false } }
      .next (restoreSnap { s2 with steep := { s2.steep with
        undo := []
        prevUndo := []
        preimg := []
        announced := none
        cutTaken := false
        fullNext := none
        outcome := []
        outBase := a.snap.outLen
        full := some a.snap
        gen := a.gen
        snap := some a.snap
        halted := false
        lost := s2.steep.lost.filter fun d => d == s2.fab.devnum
        window := [] } } a.snap)
  | none => .next s

/-- R339, R415: every link fenced. -/
def fenceLinks (s : State) : State :=
  { s with fab := { s.fab with links := tabMap s.fab.links fun _ k => { k with st := .down } } }

/-- R415: a device added to those declared lost; RECOV is set and every device halts (R417 steps 1 and 2). -/
def loseDevice (s : State) (dev : BitVec 14) : State :=
  if s.steep.lost.contains dev then s
  else
    let s1 := logEvent s 3 dev.toNat s.steep.gen
    { s1 with
      steep := { s1.steep with lost := s1.steep.lost ++ [dev], halted := true, window := s1.steep.window ++ [dev] }
      fab := { s1.fab with recov := true } }

/-- R415, R423, R426: this device declares itself lost and fences its links. -/
def loseSelf (s : State) : State := fenceLinks (loseDevice s s.fab.devnum)

/-- R275: PC_RETRAIN: after four failed attempts the pseudo-channel retrains and the access is tried once more; where that
fails too (`ok` false), the pseudo-channel goes out of service and the device declares itself lost (R415). -/
def execPcRetrain (stack : BitVec 3) (ch : BitVec 5) (pc ok : Bool) (s : State) : Out :=
  let k := chanOf s stack.toNat ch.toNat
  if tabGet 0 k.tries (b2n pc) < 4 then .next s
  else
    match stackSlot s.part stack.toNat, schedPick s k pc with
    | some slot, some (r, i) =>
      let d : Dram := { stack := stack.toNat, ch := ch.toNat, pc := b2n pc, col := r.col / 8, bank := r.bank, row := r.row }
      let s1 := countAt s (dramAddr s slot d + r.col % 8 * 32) 48
      let k1 := { k with tries := tabErase k.tries (b2n pc) }
      .next (if ok then
          setChan s1 stack.toNat ch.toNat { k1 with
            reqs := admitSlots (k1.reqs.eraseIdx i)
            openRow := tabSet k1.openRow (b2n pc * 64 + r.bank) r.row }
        else
          loseSelf (notify (setChan s1 stack.toNat ch.toNat { k1 with outOfService := k1.outOfService ||| (1#2 <<< b2n pc) }) 6
            (stack.toNat * 64 + ch.toNat * 2 + b2n pc)))
    | _, _ => .next s

/-- R415: HEARTBEAT: heartbeats missed in a row. -/
def execHeartbeat (dev : BitVec 14) (ok : Bool) (s : State) : Out :=
  let m := if ok then tabErase s.steep.missed dev.toNat else tabMod 0 s.steep.missed dev.toNat (· + 1)
  .next { s with steep := { s.steep with missed := m } }

/-- R366, R387, R415: DEVICE_LOSS: three missed heartbeats and the confirmation of two neighbours, or a packet for which the monitor
treats its sender as failed; a loss of this device's own is its own
declaration. -/
def execDeviceLoss (dev : BitVec 14) (confirms : BitVec 3) (s : State) : Out :=
  if dev = s.fab.devnum then .next (loseSelf s)
  else if decide (3 ≤ tabGet 0 s.steep.missed dev.toNat) && decide (2 ≤ confirms.toNat) || s.fab.suspects.contains dev then
    .next (loseDevice { s with fab := { s.fab with suspects := s.fab.suspects.filter fun d => d != dev } } dev)
  else .next s

/-- R290, R409, R416: the identity of a device number assumed, with its link map section and its partner set. -/
def assumeIdentity (s : State) (dev : BitVec 14) : State :=
  let set_ := match s.steep.sets with
    | none => s.steep.partners
    | some l => (l.find? fun m => m.contains dev).getD []
  mapIdentity { s with
    steep := { s.steep with partners := set_ }
    fab := { s.fab with devnum := dev, x := BitVec.ofNat 3 (coordOf dev.toNat 0), y := BitVec.ofNat 3 (coordOf dev.toNat 1),
                        z := BitVec.ofNat 3 (coordOf dev.toNat 2), pot := BitVec.ofNat 5 (potOf dev.toNat) }
    boot := { s.boot with image := { s.boot.image with role := false } } }

/-- R416: a spare is of the lost device's part, as far as the loaded LINKMAP names both. -/
def spareFits (s : State) (dev spare : BitVec 14) : Bool :=
  match s.boot.linkmap, mapEntry s dev.toNat with
  | some m, some d => m.spares.all fun e => e.1 != spare || e.2 == d.part
  | _, _ => true

/-- R416, R417: DEVICE_RECOVERY: with a spare at hand, the spare assumes the lost identity and every other device restarts from the
last committed full steep; without one, recovery waits with the system halted, and after a third loss in one set for ARCHIVE_RESUME (R419). A spare is known by the number it carries, its plane
port (DESIGN CHOICE). -/
def execDeviceRecovery (dev spare : BitVec 14) (s : State) : Out :=
  if s.boot.image.role then
    if spare = s.fab.devnum then
      let s1 := assumeIdentity s dev
      .next { s1 with steep := { s1.steep with halted := false } }
    else .next s
  else if !(s.steep.lost.contains dev) || dev = s.fab.devnum then .next s
  else if !(s.steep.spares.contains spare) || !(spareFits s dev spare) || thirdLoss s then .next s
  else
    let l := s.steep.lost.erase dev
    let s1 := { s with
      steep := { s.steep with
        lost := l
        spares := s.steep.spares.erase spare
        missed := tabErase s.steep.missed dev.toNat
        halted := !l.isEmpty }
      fab := { s.fab with recov := !l.isEmpty } }
    .next (fullRestart s1)

/-- R418: CHECK_LINE_REBUILD: a check line rebuilt; the recovery window ends with the last of them. -/
def execCheckLineRebuild (la : BitVec 48) (bytes : List Byte) (s : State) : Out :=
  let a := la.toNat / 256 * 256
  if regionOf s.part la.toNat = .void then .fault (.voidAddress la.toNat)
  else if bytes.length != 256 then .refused .illFormed
  else if !(decide (parityBase s ≤ a) && decide (a < logBase s)) then .next s
  else
    let last := parityBase s + jobGiB s * 2 ^ 28 + 2 ^ 29 - 256
    let s1 := storeBytes s a bytes
    .next (if a = last then { s1 with steep := { s1.steep with window := [] } } else s1)

/-- R421: POISON_RECOVERY: while STEEP_EN is set, a poisoned word that is read is recovered as its place requires: `bytes` are those
that the stripe or the code gives. -/
def execPoisonRecovery (la : BitVec 48) (bytes : List Byte) (s : State) : Out :=
  let a := poisonBase s.part la.toNat
  let roll := { s with steep := { s.steep with rollback := true } }
  match regionOf s.part la.toNat with
  | .void => .fault (.voidAddress la.toNat)
  | .spad _ => if steepEn s && isPoisoned s a then .next roll else .next s
  | .hbm =>
    if bytes.length != 32 then .refused .illFormed
    else if !(steepEn s) || !(isPoisoned s a) then .next s
    else if parityBase s ≤ a then
      let s1 := releasePoison (storeBytes s a bytes)
      .next (if logBase s ≤ a then raiseSteep s1 else s1)
    else
      let now := (s.steep.undo ++ s.steep.prevUndo).any fun r => r.line == a / 256 * 256 && r.localTier
      match policyAt s a with
      | some 0 =>
        if now then .next roll
        else if rebuildable s a then .next (releasePoison (countAt (storeBytes s a bytes) a 32))
        else .next (fullRestart s)
      | some 1 => .next roll
      | some 2 => if rebuildable s a then .next (releasePoison (countAt (storeBytes s a bytes) a 32)) else .next s
      | _ => .next s
  | _ => .next s

/-- R13: the sites of a die that are spare at first, 4 at least. The rule does not say which of the 72 they are: those from 72 d + 64 on
(DESIGN CHOICE, entry 110). -/
def spareSites (d : Nat) : List Nat := (List.range (min 8 (4 + Config.extraSpares d))).map fun i => d * 72 + 64 + i

/-- R13: the site a logical core is bound to; at first core c of a die has the die's site c mod 64 (DESIGN CHOICE, entry 110). -/
def siteOf (s : State) (c : Nat) : Nat := tabGet (c / 64 * 72 + c % 64) s.steep.sites c

/-- R423: a site retired: its logical core moves to a spare site of the die, or the device is lost where none is left. The newly
bound site uses its guard-banded table (R496). -/
def retireSite (s : State) (site : Nat) : State :=
  let d := site / 72
  let s1 := countLife { s with steep := { s.steep with retired := site :: s.steep.retired } } (4 + d)
  match (List.range 256).find? fun c => siteOf s c == site with
  | none => s1
  | some c =>
    let bound := (List.range 256).map fun c => siteOf s c
    match (spareSites d).find? fun p => !(s1.steep.retired.contains p) && !(bound.contains p) with
    | some p =>
      let s1 := reloadImem s1 c
      { s1 with
        steep := { s1.steep with sites := tabSet s1.steep.sites c p }
        power := { s1.power with
          measured := s1.power.measured.filter fun x => x != c
          boosted := s1.power.boosted.filter fun x => x != c } }
    | none => loseSelf s1

/-- R422, R423: COMPUTE_CHECK_FAIL: the result is dropped and the device rolls back; the third failure of a site within 24 hours
retires it. -/
def execComputeCheckFail (site : BitVec 9) (now : Word) (s : State) : Out :=
  let s0 := { s with time := max s.time now.toNat }
  let l : List Nat := ((tabGet [] s0.steep.fails site.toNat).filter fun t => decide (s0.time < t + 86400000000000)) ++ [s0.time]
  let s1 := logEvent { s0 with steep := { s0.steep with fails := tabSet s0.steep.fails site.toNat l, rollback := true } } 5
    site.toNat 0
  .next (if decide (3 ≤ l.length) && !(s1.steep.retired.contains site.toNat) then retireSite s1 site.toNat else s1)

/-- R424: pair number n of SCA (false) or SCB. -/
def pairNo (cl : Bool) (pair : BitVec 2) : Nat := b2n cl * 4 + pair.toNat

/-- R425, R426: a pair retired; its work moves to the other cluster, and with no pair left in either the device is lost. -/
def retirePair (s : State) (cl : Bool) (n : Nat) : State :=
  let l := if s.steep.retiredPairs.contains n then s.steep.retiredPairs else n :: s.steep.retiredPairs
  let s1 := countLife { s with steep := { s.steep with retiredPairs := l } } (8 + b2n cl)
  if (List.range 8).all fun i => l.contains i then loseSelf s1 else s1

/-- R424, R425: INJECTION_TEST: a comparator that does not flag the injected mismatch retires its pair, and the system restarts from
the last committed full steep. -/
def execInjectionTest (cl : Bool) (pair : BitVec 2) (flagged : Bool) (s : State) : Out :=
  let n := pairNo cl pair
  if flagged || s.steep.retiredPairs.contains n then .next s
  else .next (fullRestart (countLife (retirePair (logEvent s 6 n 0) cl n) (10 + b2n cl)))

/-- R425: LOCKSTEP_MISMATCH: the pair halts and the device rolls back; a mismatch of the same pair during that replay or within 1 s of
it retires the pair. -/
def execLockstepMismatch (cl : Bool) (pair : BitVec 2) (now : Word) (s : State) : Out :=
  let s0 := { s with time := max s.time now.toNat }
  let n := pairNo cl pair
  if s0.steep.retiredPairs.contains n then .next s0
  else
    let again := match s0.steep.mismatchAt.find? fun e => e.1 == n with
      | some e => stillReplaying s0 || decide (s0.time ≤ e.2 + 1000000000)
      | none => false
    let s1 := logEvent { s0 with steep := { s0.steep with
      rollback := true
      haltedPairs := if s0.steep.haltedPairs.contains n then s0.steep.haltedPairs else n :: s0.steep.haltedPairs
      mismatchAt := tabSet s0.steep.mismatchAt n s0.time } } 7 n 0
    .next (if again then retirePair s1 cl n else s1)

/-- R427: HOLDER's code of a cluster. -/
def clusterCode (cl : Bool) : BitVec 2 := if cl then 2#2 else 1#2

/-- R427, R428: a claim evaluated by AON. -/
def aonClaim (s : State) (cl : Bool) (expect : BitVec 32) : State :=
  let p := s.steep
  let me := clusterCode cl
  if expect == p.epoch && (p.holder == me || p.holder == 0#2 || decide (p.leaseEnd ≤ s.time)) then
    let s1 := { s with steep := { p with
      holder := me
      epoch := if p.holder = me then p.epoch else p.epoch + 1#32
      leaseEnd := s.time + 3000000
      aonGate := true
      gateA := p.gateA || !cl
      gateB := p.gateB || cl
      claimA := if cl then p.claimA else s.time
      claimB := if cl then s.time else p.claimB } }
    if p.holder = me then s1 else countLife s1 17
  else s

/-- R428: AON_CLAIM. -/
def execAonClaim (cl : Bool) (expect : BitVec 32) (now : Word) (s : State) : Out :=
  .next (aonClaim { s with time := max s.time now.toNat } cl expect)

/-- R428, R429: LEASE_EXPIRY: LEASE has come to zero, and AON's gate closes. -/
def execLeaseExpiry (now : Word) (s : State) : Out :=
  let s0 := { s with time := max s.time now.toNat }
  .next (if s0.steep.leaseEnd ≤ s0.time then { s0 with steep := { s0.steep with aonGate := false } } else s0)

/-- R429: CLUSTER_GATE_CLOSE: 2 ms after its last successful claim a cluster's own gate closes. -/
def execClusterGateClose (cl : Bool) (now : Word) (s : State) : Out :=
  let s0 := { s with time := max s.time now.toNat }
  let last := if cl then s0.steep.claimB else s0.steep.claimA
  .next (if last + 2000000 ≤ s0.time then
      (if cl then { s0 with steep := { s0.steep with gateB := false } }
        else { s0 with steep := { s0.steep with gateA := false } })
    else s0)

/-- R427: LEASE in AON clocks of 10 ns. -/
def leaseClocks (s : State) : Nat := (s.steep.leaseEnd - s.time + 9) / 10

/-- R427: AON_LEADER as it reads. -/
def aonLeader (s : State) : Word :=
  BitVec.ofNat 64 (s.steep.holder.toNat + s.steep.epoch.toNat * 2 ^ 2 + leaseClocks s * 2 ^ 34)

/-- R429: the outputs of PCIe, I3C and xSPI are enabled. -/
def outputsOn (s : State) : Bool :=
  s.steep.aonGate && (match s.steep.holder with
    | 1#2 => s.steep.gateA
    | 2#2 => s.steep.gateB
    | _ => false)

/-- R429, R432: EVIDENCE_WRITE: the monitor writes the record to the flash, while its outputs are enabled. -/
def execEvidenceWrite (now : Word) (s : State) : Out :=
  let s0 := { s with time := max s.time now.toNat }
  .next (if outputsOn s0 then { s0 with steep := { s0.steep with
    evidence := s0.steep.ring
    evCounts := s0.steep.counts
    evMinA := s0.power.minA
    evMinB := s0.power.minB
    evidenceAt := s0.time } } else s0)

end Sys2Proof.Machine
end

