-- ==== Sys2Proof/Machine/Power.lean ====
section
/-!
DEFINITION. Sys2Proof/Machine/Power.lean: supplies and switch-over (R486 to R489), power domains (R490 to R492), reference clocks and
island clocks (R17, R27, R493 to R498), and thermal levels (R499 to R502).
-/

namespace Sys2Proof.Machine

/-- R487: a change of the input in use. -/
def changeInput (s : State) (toB : Bool) : State :=
  let p := s.power
  let n := if p.switches = BitVec.allOnes 16 then p.switches else p.switches + 1#16
  countLife { s with power := { p with inuseB := toB, switches := n } } 16

/-- R486, R487: INPUT_GOOD: the module returns to VIN_A when it is good again; a module that runs from no input takes the good one. -/
def execInputGood (isB : Bool) (s : State) : Out :=
  let p := s.power
  let s1 := { s with power := if isB then { p with bgood := true } else { p with agood := true } }
  .next (if !p.pwrgd then { s1 with power := { s1.power with inuseB := isB && !p.agood } }
    else if !isB && p.inuseB then changeInput s1 false
    else s1)

/-- R487: SUPPLY_SWITCH: the input in use has stayed below 44 V; with the other good, the module switches to it. -/
def execSupplySwitch (s : State) : Out :=
  let p := s.power
  let s1 := { s with power := if p.inuseB then { p with bgood := false } else { p with agood := false } }
  .next (if !p.pwrgd then s1
    else if p.inuseB then (if p.agood then changeInput s1 false else s1)
    else if p.bgood then changeInput s1 true else s1)

/-- The lower of a reading and the lowest before it. -/
def lowest (m : Option Nat) (v : Nat) : Option Nat := some (match m with | some x => min x v | none => v)

/-- R486, R488, R489: VIN_SAMPLE, in units of 10 mV; an input below 46 V is not good. -/
def execVinSample (va16 vb16 : BitVec 16) (s : State) : Out :=
  let p := s.power
  .next { s with power := { p with
    vina := va16
    vinb := vb16
    minA := lowest p.minA va16.toNat
    minB := lowest p.minB vb16.toNat
    agood := p.agood && decide (4600 ≤ va16.toNat)
    bgood := p.bgood && decide (4600 ≤ vb16.toNat) } }

/-- R489: PWR_SUPPLY as it reads. -/
def pwrSupply (s : State) : Word :=
  let p := s.power
  BitVec.ofNat 64 (b2n p.inuseB + b2n p.agood * 2 + b2n p.bgood * 4 + p.vina.toNat * 2 ^ 8 + p.vinb.toNat * 2 ^ 24
    + p.switches.toNat * 2 ^ 40)

/-- R490: memory without the bytes of an address range, which read as after power-on again. -/
def eraseMem (s : State) (lo hi : Nat) : State :=
  { s with
    mem := s.mem.filter fun (e : Host.Cell) => !(decide (lo ≤ e.1) && decide (e.1 < hi))
    poison := s.poison.filter fun (a : Nat) => !(decide (lo ≤ a) && decide (a < hi))
    flaws := s.flaws.filter fun (a : Nat) => !(decide (lo ≤ a) && decide (a < hi))
    unseen := s.unseen.filter fun (a : Nat) => !(decide (lo ≤ a) && decide (a < hi)) }

/-- R490: the core arrays of a die lose their state: scratchpads, instruction memories and core registers. -/
def sleepCores (s : State) (die : Nat) : State :=
  let s1 := eraseMem (eraseMem s (spadBase (die * 64)) (spadBase (die * 64 + 64))) (imemBase (die * 64)) (imemBase (die * 64 + 64))
  { s1 with cores := s1.cores.filter fun (e : Nat × Core) => e.1 / 64 != die }

/-- R490: the matrix cell columns of a die lose their state. -/
def sleepColumns (s : State) (die : Nat) : State :=
  { s with cores := tabMap s.cores fun c k => if c / 64 = die then { k with mx := { multi := k.mx.multi } } else k }

/-- R490: the LLC slices of a die are empty; what was dirty stands in memory. -/
def sleepLlc (s : State) (die : Nat) : State :=
  { s with memsys := { s.memsys with llc := s.memsys.llc.filter fun (e : Nat × LlcSet) => e.1 / 16384 / 2 != die } }

/-- R490: the torus links are DOWN. -/
def sleepTorus (s : State) : State :=
  { s with fab := { s.fab with links := tabMap s.fab.links fun l k => if l % 4 = 3 then k else { k with st := .down } } }

/-- R267, R490: self refresh of the stacks of an HBM domain: they keep their contents, and the all-bank refresh at its entry closes every
row. -/
def sleepHbm (s : State) (lo hi : Nat) : State :=
  let f (n : Nat) (k : Chan) : Chan := if decide (lo ≤ n / 32) && decide (n / 32 < hi) then { k with openRow := [] } else k
  { s with memsys := { s.memsys with chans := tabMap s.memsys.chans f } }

/-- R490: what a domain's blocks hold after a sleep. -/
def sleepEffect (s : State) (d : Nat) : State :=
  if 3 ≤ d && d ≤ 6 then sleepCores s (d - 3)
  else if 7 ≤ d && d ≤ 10 then sleepColumns s (d - 7)
  else if 11 ≤ d && d ≤ 14 then sleepLlc s (d - 11)
  else if d = 15 then sleepHbm s 0 4
  else if d = 16 then sleepHbm s 4 8
  else if d = 17 then sleepTorus s
  else s

/-- R451: either JOB_EN bit is set. -/
def jobOn (s : State) : Bool := devBit s 12 || devBit s 13

/-- R490: a core does nothing: every thread stopped, and no stream or armed program. -/
def coreIdle (k : Core) : Bool :=
  (k.th.all fun e => e.2.st == .stopped) && k.se.q.isEmpty && k.se.run.isNone && k.se.ending.isEmpty && k.se.arms.isEmpty

/-- R490: no core of a die has a matrix owner or matrix work. -/
def columnsIdle (s : State) (die : Nat) : Bool :=
  s.cores.all fun e => e.1 / 64 != die ||
    (e.2.mx.owner.isNone && e.2.mx.q.isEmpty && e.2.mx.pass.isNone && e.2.mx.rows.isEmpty && e.2.mx.drains.isEmpty &&
      e.2.mx.ends.isEmpty)

/-- R490: whether a domain may sleep. The segments of an enabled context map every stack, since granules are spread over all. -/
def maySleep (s : State) (d : Nat) : Bool :=
  if d = 1 || d = 2 then (List.range 4).all fun i => s.steep.retiredPairs.contains ((d - 1) * 4 + i)
  else if 3 ≤ d && d ≤ 6 then !(jobOn s) && s.cores.all fun e => e.1 / 64 != d - 3 || coreIdle e.2
  else if 7 ≤ d && d ≤ 10 then columnsIdle s (d - 7)
  else if 11 ≤ d && d ≤ 16 then
    !(jobOn s) && !((deviceSegs s).any fun e => match localRange s e.2.2 with
      | some r => decide (r.1 < hbmTop s.part)
      | none => false)
  else if d = 17 then [0, 1, 2, 4, 5, 6].all fun l => (linkOf s l).st == .down
  else false

/-- A 20-bit mask with one bit. -/
def domBit (d : Nat) : BitVec 20 := 1#20 <<< d

/-- R490: the HBM domain that LLC domain d sleeps and wakes with. -/
def hbmDomain (d : Nat) : Nat := if d = 11 || d = 12 then 15 else if d = 13 || d = 14 then 16 else d

/-- R491, R492: a store to PWR_DOMREQ by the monitor. A 0 for a domain that may not sleep is not taken; the LLC domains follow the HBM
domain they stand before; writes to bits 0, 7 to 10, 18 and 19 are ignored, and to bits 1 and 2 except by retirement. -/
def domReqWrite (s : State) (mon : Bool) (v : Word) : State :=
  if !mon then s
  else
    let take (d : Nat) : Bool :=
      let old := s.power.domReq.getLsbD d
      let want := v.getLsbD (hbmDomain d)
      if d = 0 || (7 ≤ d && d ≤ 10) || d = 18 || d = 19 then old
      else if d = 1 || d = 2 then old && (want || !(maySleep s d))
      else want || (old && !(maySleep s d))
    let r := (List.range 20).foldl (fun (m : BitVec 20) d => if take d then m ||| domBit d else m) 0#20
    { s with power := { s.power with domReq := r } }

/-- R491: PWR_DOMREQ_WRITE. -/
def execPwrDomreqWrite (who : Agent) (v : Word) (s : State) : Out := .next (domReqWrite s (who == .monitor) v)

/-- R491: DOMAIN_WAKE: the controller decides a requested wake, the lowest domain first and one at a time; the next such event of the
domain is the end of its wake, from which it accepts requests. D07 to D10 are woken by a hand-off's request. -/
def execDomainWake (dom : BitVec 5) (s : State) : Out :=
  let d := dom.toNat
  let p := s.power
  if decide (20 ≤ d) || p.domOn.getLsbD d then .next s
  else if p.domWake.getLsbD d then
    .next { s with power := { p with domWake := p.domWake &&& ~~~(domBit d), domOn := p.domOn ||| domBit d } }
  else if p.domReq.getLsbD d && p.domWake == 0#20 && !(p.domSleep.getLsbD d)
      && !((List.range d).any fun i => p.domReq.getLsbD i && !(p.domOn.getLsbD i)) then
    .next { s with power := { p with domWake := p.domWake ||| domBit d } }
  else .next s

/-- R490, R491: DOMAIN_SLEEP: the controller decides to sleep a domain that may; a wake request cancels it; the next such event of the
domain is the end of the sleep. -/
def execDomainSleep (dom : BitVec 5) (s : State) : Out :=
  let d := dom.toNat
  let p := s.power
  let hw := decide (7 ≤ d) && decide (d ≤ 10)
  if decide (20 ≤ d) || !(p.domOn.getLsbD d) || d == 0 || d == 18 || d == 19 then .next s
  else if !(maySleep s d) || (p.domReq.getLsbD d && !hw) then
    .next { s with power := { p with domSleep := p.domSleep &&& ~~~(domBit d) } }
  else if p.domSleep.getLsbD d then
    let s1 := sleepEffect s d
    .next { s1 with power := { p with
      domSleep := p.domSleep &&& ~~~(domBit d)
      domOn := p.domOn &&& ~~~(domBit d)
      domReq := p.domReq &&& ~~~(domBit d) } }
  else .next { s with power := { p with domSleep := p.domSleep ||| domBit d } }

/-- R488, R501: domains switched off at once: what they held is gone, HBM as after power-on. -/
def cutDomains (s : State) (ds : List Nat) : State :=
  let s1 := ds.foldl sleepEffect s
  let s2 := if ds.contains 15 then eraseMem s1 0 (hbmTop s1.part) else s1
  let off := ds.foldl (fun (m : BitVec 20) d => m ||| domBit d) 0#20
  { s2 with power := { s2.power with
    domOn := s2.power.domOn &&& ~~~off
    domReq := s2.power.domReq &&& ~~~off
    domWake := s2.power.domWake &&& ~~~off
    domSleep := s2.power.domSleep &&& ~~~off } }

/-- R488: the PCIe link goes down, and its windows with it. -/
def fencePcie (s : State) : State := { s with board := { s.board with width := 0#2, rate := 0#2 } }

/-- R488: POWER_LOSS: PWRGD goes low, links and PCIe are fenced, every domain but D00 is switched off, and the device is lost. -/
def execPowerLoss (s : State) : Out :=
  let s1 := cutDomains (fencePcie (loseSelf s)) ((List.range 19).map (· + 1))
  .next { s1 with
    power := { s1.power with pwrgd := false, agood := false, bgood := false }
    boot := { s1.boot with phase := .off } }

/-- R488: HOLD_UP_CHARGE_SPENT: D00 loses power too. What the flash and the fuses hold stays, the field evidence record among it;
everything else is as after reset. With an input good again before, nothing happens. -/
def execHoldUpChargeSpent (s : State) : Out :=
  if s.power.pwrgd then .next s
  else
    .next { State.reset with
      part := s.part
      draws := s.draws
      boot := { State.reset.boot with
        flash := s.boot.flash, flashOk := s.boot.flashOk, slotDigest := s.boot.slotDigest, revoked := s.boot.revoked,
        secmin := s.boot.secmin, slots := s.boot.slots, serial := s.boot.serial, devKey := s.boot.devKey }
      steep := { State.reset.steep with
        counts := s.steep.evCounts, ring := s.steep.evidence, evidence := s.steep.evidence, evCounts := s.steep.evCounts,
        evMinA := s.steep.evMinA, evMinB := s.steep.evMinB,
        archives := s.steep.archives, archAt := s.steep.archAt, archive := s.steep.archive }
      memsys := { State.reset.memsys with
        repair := s.memsys.repair, repaired := s.memsys.repaired, logA := s.memsys.logA, logB := s.memsys.logB }
      power := { State.reset.power with minA := s.steep.evMinA, minB := s.steep.evMinB }
      pending := s.pending }

/-- R494: FAB_REFCLK_LOSS: the device is declared lost and its links are fenced. -/
def execFabRefclkLoss (s : State) : Out := .next (loseSelf { s with power := { s.power with fabRef := false } })

/-- R494: FAB_REFCLK_PRESENT. -/
def execFabRefclkPresent (s : State) : Out := .next { s with power := { s.power with fabRef := true } }

/-- R494: AON_REFCLK_LOSS: held, and reported over PLDM. -/
def execAonRefclkLoss (s : State) : Out := .next (logEvent { s with power := { s.power with aonRef := false } } 8 0 0)

/-- R494: PCIE_REFCLK_LOSS: the PCIe link goes down. -/
def execPcieRefclkLoss (s : State) : Out := .next (fencePcie { s with power := { s.power with pcieRef := false } })

/-- R496: DROOP_MEASURE: an interval at full load; after 32 of them the island's table has been measured again. -/
def execDroopMeasure (c : BitVec 8) (s : State) : Out :=
  let p := s.power
  let n := tabGet 0 p.intervals c.toNat + 1
  if p.measured.contains c.toNat then .next s
  else if n < 32 then .next { s with power := { p with intervals := tabSet p.intervals c.toNat n } }
  else
    let t := tabGet 0 p.temps (c.toNat / 64)
    .next { s with power := { p with
      intervals := tabErase p.intervals c.toNat
      measured := c.toNat :: p.measured
      measTemp := tabSet p.measTemp c.toNat t } }

/-- R497: whether a core island may run at 2.1 GHz. The power manager leaves no headroom while it limits row issue. -/
def mayBoost (s : State) (c : Nat) : Bool :=
  s.power.boostEn && s.power.measured.contains c && tabGet 0 s.power.lvls (c / 64) == 0 && decide (256 ≤ s.power.cap)

/-- R497: BOOST_CHANGE. -/
def execBoostChange (c : BitVec 8) (up : Bool) (s : State) : Out :=
  let p := s.power
  if up then
    .next (if mayBoost s c.toNat && !(p.boosted.contains c.toNat) then
      { s with power := { p with boosted := c.toNat :: p.boosted } } else s)
  else .next { s with power := { p with boosted := p.boosted.filter fun x => x != c.toNat } }

/-- R27, R497: POWER_CAP_ADJUST: the power manager limits row issue only while FP64 vector and FP64 matrix work are both active on the
device, and boost is withdrawn from every island before it does. -/
def execPowerCapAdjust (cap9 : BitVec 9) (s : State) : Out :=
  let n := min 256 cap9.toNat
  let both := (s.cores.any fun k => fp64Vec k.2) && s.cores.any fun k => fp64Mat k.2
  .next (if n < 256 && !both then s
    else { s with power := { s.power with cap := n, boosted := if n < 256 then [] else s.power.boosted } })

/-- R500: the temperatures at which level n is entered and left. -/
def levelAt : Nat → Int × Int
  | 1 => (88, 86)
  | 2 => (91, 89)
  | 3 => (94, 92)
  | _ => (0, 0)

/-- R500: a die's level after a reading: up as soon as a threshold is reached, down only below the leaving threshold. -/
def nextLevel (old : Nat) (t : Int) : Nat :=
  let up := if t ≥ 94 then 3 else if t ≥ 91 then 2 else if t ≥ 88 then 1 else 0
  let rec down : Nat → Nat
    | 0 => 0
    | n + 1 => if t < (levelAt (n + 1)).2 then down n else n + 1
  max up (down old)

/-- R496: the islands of a die that return to their guard-banded table when its temperature has moved. -/
def coolMeasured (p : Power) (die : Nat) (t : Int) : List Nat :=
  p.measured.filter fun c => c / 64 != die || decide ((t - tabGet 0 p.measTemp c).natAbs ≤ 10)

/-- R496, R497, R500, R502: THERMAL_SAMPLE: the hottest sensor of a die, in degrees, two's complement; an island on its guard-banded table
runs at no more than its nominal clock. Dies are C0 to C3, IO-N and IO-S; no
other number names one. -/
def execThermalSample (die : BitVec 3) (temp : BitVec 8) (s : State) : Out :=
  let d := die.toNat
  let p := s.power
  if 6 ≤ d then .next s
  else
    let t := temp.toInt
    let temps := tabSet p.temps d t
    let lvl := nextLevel (tabGet 0 p.lvls d) t
    let hot := temps.foldl (fun m e => max m e.2.toNat) 0
    let s1 := { s with power := { p with
      temps := temps
      lvls := tabSet p.lvls d lvl
      tmax := BitVec.ofNat 8 hot
      measured := coolMeasured p d t
      boosted := p.boosted.filter fun c => !(1 ≤ lvl && c / 64 == d) && (coolMeasured p d t).contains c } }
    .next { s1 with steep := { s1.steep with counts := tabMod 0 s1.steep.counts 30 fun n => max n hot } }

/-- R502: PWR_THERM as it reads. -/
def pwrTherm (s : State) : Word :=
  BitVec.ofNat 64 (((List.range 6).map fun d => tabGet 0 s.power.lvls d * 4 ^ d).sum + b2n s.power.trip * 2 ^ 12
    + s.power.tmax.toNat * 2 ^ 16)

/-- R501: THERMAL_TRIP: a die has read 100 °C or more for 100 µs. -/
def execThermalTrip (s : State) : Out :=
  if s.power.temps.any fun e => decide (100 ≤ e.2) then
    let s1 := cutDomains (loseSelf s) ((List.range 15).map (· + 3))
    .next (countLife { s1 with power := { s1.power with trip := true, thermtripN := false } } 20)
  else .next s

/-- R17: CYCLE_STRETCH: a cycle stretched by up to one whole cycle, in eighths; no result changes. -/
def execCycleStretch (island : BitVec 10) (eighths : BitVec 4) (s : State) : Out :=
  let n := min 8 eighths.toNat
  .next { s with power := { s.power with stretched := tabMod 0 s.power.stretched island.toNat (· + n) } }

/-- R498: CLK_CTL as it reads: GUARD is 1 while some active core island uses a guard-banded table. -/
def clkCtl (s : State) : Word :=
  BitVec.ofNat 64 (b2n s.power.boostEn + 2 * b2n (!((List.range 256).all fun c => s.power.measured.contains c)))

/-- R498: CLK_MEAS as it reads. -/
def clkMeas (s : State) : Word :=
  BitVec.ofNat 64 ((List.range 4).map fun d => ((s.power.measured.filter fun c => c / 64 == d).length) * 2 ^ (7 * d)).sum

end Sys2Proof.Machine
end

