-- ==== Sys2Proof/Machine/Strainer.lean ====
section
/-!
DEFINITION. Sys2Proof/Machine/Strainer.lean: the device enable bits and their Strainer runs (R451 to R458), and the job loader
(R450).
-/

namespace Sys2Proof.Machine

/-- R456: the answers of a run's own reason codes, and 0xFE. -/
def envFor (env : List (BitVec 8 × Word)) (lo hi : Nat) : List (BitVec 8 × Word) :=
  env.filter fun e => (decide (lo ≤ e.1.toNat) && decide (e.1.toNat ≤ hi)) || e.1 == 0xFE#8

/-- The same without 0xFE, for runs that ask no other device. -/
def envOnly (env : List (BitVec 8 × Word)) (lo hi : Nat) : List (BitVec 8 × Word) :=
  env.filter fun e => decide (lo ≤ e.1.toNat) && decide (e.1.toNat ≤ hi)

/-- R452: a device run decided: the bit is set when no check fails. -/
def devRun (s : State) (bit : Nat) (rs : List Reason) (onPass : State → State) : State :=
  let r := leastReason rs
  let s1 := devResult s bit r
  if r.isNone then onPass (setDevBit s1 bit true) else s1

/-- R516: the first address of a core's CSR block. -/
def coreBase (c : Nat) : Nat := 0x01F001000000 + c * 0x10000

/-- R441: the staged bytes of a section. -/
def section_ (s : State) (ty : Nat) : List Byte :=
  match s.boot.image.sections.find? fun e => e.1 == ty with
  | some e => e.2
  | none => []

/-- R455: STR_WHERE for a field of a section of the active image that fails a check. -/
def whereImg (s : State) (code ty : Nat) : Word := BitVec.ofNat 64 (2 ^ 60 + (Config.placeIn code (section_ s ty)).toNat)

/-- R455: STR_WHERE for a field of a job description. -/
def whereJob (s : State) (code : Nat) : Word := BitVec.ofNat 64 (2 ^ 61 + (Config.jobPlace code s.draws).toNat)

/-- R455: STR_WHERE for a device that differs. -/
def whereDev (dev : BitVec 14) : Word := BitVec.ofNat 64 (3 * 2 ^ 60 + dev.toNat)

/-- R458: checks 0x01 and 0x03 of one core, with the worlds that are enabled or being enabled. -/
def coreWorldReasons (c : Nat) (k : Core) (p t : Bool) : List Reason :=
  (if 256 < k.pShare.toNat + k.tShare.toNat then [(0x01, whereCsr (coreBase c) 0 15)] else [])
    ++ (if (!t && k.imSplit.toNat < 16) || (!p && 0 < k.imSplit.toNat) then [(0x03, whereCsr (coreBase c) 16 20)] else [])
    ++ (if (!t && k.threadT != 0#8) || (!p && k.threadT != 0xFF#8) then [(0x03, whereCsr (coreBase c) 24 31)] else [])

/-- R458: checks 0x02 and 0x04, over the loaded WORLDS. -/
def worldsReasons (s : State) : List Reason :=
  match s.boot.worlds with
  | none => []
  | some m =>
    (if (List.range 64).any fun cx => m.ctxP.contains cx == m.ctxT.contains cx then [(0x02, whereImg s 0x02 0x05)] else [])
      ++ (if m.urgT then [(0x04, whereImg s 0x04 0x05)] else [])

/-- R458: the checks of a WORLD_EN run, with the worlds that are enabled or being enabled. -/
def worldReasons (s : State) (p t : Bool) : List Reason :=
  ((List.range 256).map fun c => coreWorldReasons c (coreOf s c) p t).flatten ++ worldsReasons s

/-- R452, R453, R456: WORLD_EN written; `both` says that the same store sets the bit of the other world too, which is then being
enabled (R458). -/
def worldEnWrite (s : State) (w : World) (en both : Bool) (env : List (BitVec 8 × Word)) : State :=
  let bit := worldBit w
  if en == devBit s bit then s
  else if !en then (if s.ctxs.any fun e => e.2.ctxEn && e.2.world == w then s else setDevBit s bit false)
  else
    let p := devBit s 0 || w == .P || both
    let t := devBit s 1 || w == .T || both
    devRun s bit (worldReasons s p t ++ envReasons (envOnly env 0x01 0x04)) fun s =>
      match w with
      | .P => { s with startP := s.time }
      | .T => { s with startT := s.time }

/-- R10: WORLD_EN, by the monitor. -/
def execWorldEn (w : World) (en : Bool) (env : List (BitVec 8 × Word)) (s : State) : Out := .next (worldEnWrite s w en false env)

/-- R335: the image of FAB_ID as the register holds it. -/
def fabIdWord (s : State) : Word :=
  BitVec.ofNat 64 (s.fab.x.toNat + s.fab.y.toNat * 2 ^ 3 + s.fab.z.toNat * 2 ^ 6 + s.fab.pot.toNat * 2 ^ 9
    + s.fab.devnum.toNat * 2 ^ 16)

/-- R348, R458: whether a torus link of a device lies on a minimal path to some device of a range. -/
def onMinimal (dev l lo hi : Nat) : Bool :=
  (List.range 512).any fun i =>
    let d := potOf dev * 512 + i
    let n := (coordOf d (l % 4) + 8 - coordOf dev (l % 4)) % 8
    decide (lo ≤ d) && decide (d ≤ hi) && (if l < 4 then decide (1 ≤ n) && decide (n ≤ 4) else decide (4 ≤ n))

/-- R443, R458: an override that names an absent link, or a torus link off every minimal path to its range. -/
def overrideBad (s : State) (w : Word) : Bool :=
  let l := field w.toNat 32 3
  !(linkPresent s l) || (l % 4 != 3 && !(onMinimal s.fab.devnum.toNat l (field w.toNat 0 14) (field w.toNat 16 14)))

/-- R334, R458: the up-links that a system must have: none where it is one pot that names no spare. -/
def upLinksDue (m : LinkmapImg) : Bool :=
  !m.spares.isEmpty || m.devs.any fun d => m.devs.any fun e => potOf d.num.toNat != potOf e.num.toNat

/-- R458: checks 0x30 to 0x32 over the loaded LINKMAP, for the run of link l. A spare holds no number and has no entry (R416). -/
def mapReasons (s : State) (l : Nat) : List Reason :=
  match s.boot.linkmap with
  | none => []
  | some m =>
    let me := s.fab.devnum.toNat
    let up (n : Nat) : Bool := linkPresent s n != upLinksDue m
    (if !s.boot.image.role && (mapEntry s me).isNone then [(0x30, whereCsr 0x01F000030000 16 29)] else [])
      ++ (match mapEntry s me with
        | some d =>
          if !s.boot.image.role && l % 4 != 3 && ((d.far.find? fun e => e.1 == l).map fun e => e.2.toNat) != farEnd me l then
            [(0x31, whereImg s 0x31 0x02)]
          else []
        | none => [])
      ++ (if up 3 || up 7 then [(0x32, whereImg s 0x32 0x02)] else [])

/-- R458: checks 0x30 to 0x34 of the run of link l. -/
def linkReasons (s : State) (l : Nat) : List Reason :=
  let f := s.fab
  (if f.devnum.toNat != f.pot.toNat * 512 + f.z.toNat * 64 + f.y.toNat * 8 + f.x.toNat then
      [(0x30, whereCsr 0x01F000030000 16 29)] else [])
    ++ mapReasons s l
    ++ (if f.lvlN.toNat < 2 || 3 < f.lvlN.toNat then [(0x33, whereCsr 0x01F000030008 4 7)] else [])
    ++ (if s.boot.image.overrides.any (overrideBad s) then [(0x34, whereImg s 0x34 0x03)] else [])

/-- R458: a prerequisite that is no bit of a register: STR_WHERE names nothing. -/
def needPhase (ok : Bool) : List Reason := if ok then [] else [(0xF0, 0#64)]

/-- R449: the services of event 4 and later run. -/
def booted (s : State) : Bool :=
  match s.boot.phase with
  | .clusters | .hbm | .links | .strained | .loader => true
  | _ => false

/-- R453: a link taken DOWN. -/
def linkDown (s : State) (l : Nat) : State := loseLink s l .down

/-- R452, R453: LINK_EN written; at event 6 the fabric domains are powered (R490). -/
def linkEnWrite (s : State) (l : Nat) (en : Bool) (env : List (BitVec 8 × Word)) : State :=
  let bit := 2 + l
  if en == devBit s bit then s
  else if !en then linkDown (setDevBit s bit false) l
  else devRun s bit (linkReasons s l ++ needPhase (booted s) ++ envReasons (envFor env 0x30 0x35)) fun s =>
    let m := domBit 17 ||| domBit 18
    { s with
      power := { s.power with domOn := s.power.domOn ||| m, domReq := s.power.domReq ||| m }
      boot := { s.boot with phase := if s.boot.phase = .hbm then .links else s.boot.phase } }

/-- R394, R458: check 0x40: the ranges of STEEP_CTL's fields: first bit, width, least and greatest value. -/
def steepFields : List (Nat × Nat × Nat × Nat) :=
  [(0, 16, 200, 60000), (16, 12, 10, 4000), (28, 6, 1, 60), (34, 6, 5, 25), (40, 8, 5, 240), (48, 10, 4, 64)]

/-- R409, R458: checks 0x41 and 0x42 over the loaded LINKMAP: the members that share a board with an earlier one, or are of another
part than the first. -/
def memberReasons (s : State) : List Reason :=
  let ms := s.steep.partners.filterMap fun n => mapEntry s n.toNat
  let sharing := ms.zipIdx.filter fun e => (ms.take e.2).any fun d => d.board == e.1.board
  let mixing := ms.filter fun d => (ms.take 1).any fun e => e.part != d.part
  (sharing.map fun e => ((0x41, whereDev e.1.num) : Reason)) ++ mixing.map fun d => (0x42, whereDev d.num)

/-- R409, R458: the loaded STEEP places the device in no set or in two. -/
def setsBad (s : State) : Bool :=
  match s.steep.sets with
  | none => false
  | some l => (l.map fun m => m.count s.fab.devnum).sum != 1

/-- R414, R458: the archive namespaces of the loaded image hold two archives. -/
def archiveHolds (s : State) : Bool :=
  s.steep.sets.isNone || decide (2 * (jobGiB s + 2) ≤ Config.archiveGiB (section_ s 0x08) [])

/-- R416, R458: the loaded LINKMAP names a spare of this part. -/
def spareNamed (s : State) : Bool :=
  match s.boot.linkmap with
  | none => true
  | some m => m.spares.any fun e => e.2 == s.part

/-- R458: the checks 0x40 to 0x45 that the device makes itself. -/
def steepReasons (s : State) : List Reason :=
  let bad := steepFields.filter fun f =>
    let v := field s.steep.ctl.toNat f.1 f.2.1
    decide (v < f.2.2.1) || decide (f.2.2.2 < v)
  let j := jobGiB s
  (bad.map fun f => ((0x40, whereCsr 0x01F0000A0000 f.1 (f.1 + f.2.1 - 1)) : Reason))
    ++ memberReasons s
    ++ (if s.steep.partners.length < 10 || 19 < s.steep.partners.length || setsBad s then [(0x43, whereImg s 0x43 0x08)] else [])
    ++ (if 4 * reserveGiB j < j + 6 || j * 2 ^ 30 < protectedBytes s then [(0x44, whereCsr 0x01F0000A0000 48 57)] else [])
    ++ (if !(archiveHolds s) then [(0x45, whereImg s 0x45 0x0D)] else if !(spareNamed s) then [(0x45, whereImg s 0x45 0x02)] else [])

/-- R456: WORLD_EN of a world. -/
def needWorld (s : State) : List Reason := if devBit s 0 || devBit s 1 then [] else needDev s 0

/-- R456: every segment table of the device checked: every context with an enabled descriptor has SEG_EN set. -/
def needTables (s : State) : List Reason :=
  match s.ctxs.find? fun e => e.2.ctxEn && !e.2.segEn && e.2.segs.any fun g => g.2.en with
  | some e => [(0xF0, whereCsr (cxBase e.1) 1 1)]
  | none => []

/-- R452, R453: STEEP_EN written. -/
def steepEnWrite (s : State) (en : Bool) (env : List (BitVec 8 × Word)) : State :=
  if en == devBit s 10 then s
  else if !en then (if jobOn s then s else setDevBit s 10 false)
  else devRun s 10 (steepReasons s ++ needWorld s ++ needTables s ++ envReasons (envFor env 0x40 0x45)) fun s =>
    { s with steep := { s.steep with reqAt := s.time } }

/-- R452: STEEP_EN. -/
def execSteepEn (en : Bool) (env : List (BitVec 8 × Word)) (s : State) : Out := .next (steepEnWrite s en env)

/-- R262: the ways of a world. -/
def waysOf (s : State) (w : World) : Nat := (waysFor s.memsys.tways.toNat w).length

/-- R458: the checks 0x50, 0x53 and 0x54. -/
def classReasons (s : State) : List Reason :=
  let quota := (s.fab.quota.map fun e => e.2).sum
  let tw := s.memsys.tways.toNat
  let sh := s.memsys.scrubh.toNat
  let pins (w : World) : Nat := (s.ctxs.map fun e => if e.2.world == w then e.2.pinq.toNat else 0).sum
  let tooMany (w : World) : Bool := decide (16384 * (waysOf s w - 4) < pins w)
  (if 64 < quota then [(0x50, whereImg s 0x50 0x07)] else [])
    ++ (if tw != 0 && (decide (tw < 4) || decide (8 < tw)) then [(0x53, whereCsr 0x01F000020000 16 19)] else [])
    ++ (if s.memsys.eccmode = 0#2 then [(0x53, whereCsr 0x01F000020000 0 1)] else [])
    ++ (if sh = 0 || 168 < sh then [(0x53, whereCsr 0x01F000020000 2 9)] else [])
    ++ (if tooMany .P || tooMany .T then
        match s.ctxs.find? fun e => tooMany e.2.world && e.2.pinq != 0#16 with
        | some e => [(0x54, whereCsr (cxBase e.1 + 0x40) 0 15)]
        | none => []
      else [])

/-- R456: LINK_EN of a link. -/
def needLink (s : State) : List Reason := if (List.range 8).any fun l => devBit s (2 + l) then [] else needDev s 2

/-- R452, R453: CLASS_EN written. -/
def classEnWrite (s : State) (en : Bool) (env : List (BitVec 8 × Word)) : State :=
  if en == devBit s 11 then s
  else if !en then (if jobOn s then s else setDevBit s 11 false)
  else devRun s 11 (classReasons s ++ needLink s ++ envReasons (envFor env 0x50 0x54)) id

/-- R452: CLASS_EN. -/
def execClassEn (en : Bool) (env : List (BitVec 8 × Word)) (s : State) : Out := .next (classEnWrite s en env)

/-- R458: a virtual address that a segment of a context maps with RD and WR for level S. -/
def mappedRW (s : State) (cx va : Nat) : Bool :=
  (List.range 16).any fun n => segHit (segOf (ctxOf s cx) n) va && grants (segOf (ctxOf s cx) n).rights [rRD, rWR] true

/-- R383, R458: n KiB from a virtual address on, all mapped with RD and WR; segments are of whole KiB (R293). -/
def mappedKiB (s : State) (cx va n : Nat) : Bool :=
  (List.range n).all fun i => mappedRW s cx (va + 1024 * i) && mappedRW s cx (va + 1024 * i + 1023)

/-- R384: sync object n is a counter of a context: of TYPE 0, and an enabled segment of the context maps it. -/
def counterOf (s : State) (cx n : Nat) : Bool :=
  (soOf s n).ty == 0#2 && (List.range 16).any fun i =>
    let g := segOf (ctxOf s cx) i
    g.en && !(isRemote s g.pbase) && decide (paLocal g.pbase ≤ soBase n) && decide (soBase n + 0x20 ≤ paLocal g.pbase + g.len.toNat)

/-- R386, R458: the exchange partners of a group to which this device sends. -/
def groupPartners (s : State) (x : Group) : List Nat :=
  let me := s.fab.devnum.toNat
  let lines := ((List.range 3).map fun d => [nextHop x me d true 0, nextHop x me d false 0].filterMap id).flatten
  let pots := (List.range 32).filter fun v => decide ((gRange x 3).1 ≤ v) && decide (v ≤ (gRange x 3).2) && v != potOf me
  lines ++ pots.map fun v => withCoord me 3 v

/-- R384, R458: the checks 0x65 to 0x67 of one group. -/
def groupReasons (s : State) (w : World) (g : Nat) (x : Group) : List Reason :=
  let at_ (word : Nat) : Nat := 0x01F000090000 + g * 0x40 + word * 8
  (if !(gMember x (gRoot x)) then [(0x65, whereCsr (at_ 0) 40 53)]
    else if gUrg x && w == .T then [(0x65, whereCsr (at_ 0) 4 4)] else [])
    ++ (if gKind x != 0 && !(counterOf s (gCtx x) (gCso x)) then [(0x66, whereCsr (at_ 1) 9 21)]
      else if !(counterOf s (gCtx x) (gDso x)) then [(0x66, whereCsr (at_ 1) 22 34)]
      else if !(mappedKiB s (gCtx x) x.stage.toNat (2 * gContrib x)) then [(0x66, whereCsr (at_ 2) 0 47)]
      else if !(mappedKiB s (gCtx x) x.result.toNat 2) then [(0x66, whereCsr (at_ 3) 0 47)] else [])
    ++ (if gUrg x && (groupPartners s x).any fun d => tabGet 0 s.fab.quota d == 0 then [(0x67, whereImg s 0x67 0x07)] else [])

/-- R109, R398: the bytes that count against a core's cap by its default declarations; a core in interleave mode dumps every V and M
register of its eight threads at each steep, 271 KiB, whatever its threads declare of them. -/
def coreDeclBytes (k : Core) (ds : List Decl) : Nat :=
  if k.ilv then 271 * 1024 + declBytes k (ds.map fun d => { d with vlive := 0#32, mlive := 0#15 }) else declBytes k ds

/-- R458: the checks 0x60 to 0x67 that the device makes itself, for a world's job whose threads are listed. -/
def jobReasons (s : State) (w : World) (threads : List (Nat × Nat)) : List Reason :=
  let mixed := (s.cores.filter fun e => e.2.ilv && e.2.threadT != 0#8 && e.2.threadT != 0xFF#8).map fun e =>
    ((0x60, whereCsr (coreBase e.1) 24 31) : Reason)
  let noDecl := threads.any fun e => !(coreOf s e.1).ilv && !(s.steep.defaults.any fun d => d.1 == e.1 * 8 + e.2)
  let tooBig := (List.range 256).any fun c =>
    let ds := (s.steep.defaults.filter fun d => d.1 / 8 == c).map fun d => d.2
    decide (512 * 1024 < coreDeclBytes (coreOf s c) ds)
  let noEntry := s.ctxs.any fun e => e.2.world == w && e.2.segEn && (e.2.segs.any fun g => g.2.en && g.2.policy == 1#2) &&
    !(s.steep.recovery.any fun r => r.cx.toNat == e.1)
  mixed
    ++ (if noDecl then [(0x61, whereJob s 0x61)] else [])
    ++ (if tooBig then [(0x62, whereJob s 0x62)] else [])
    ++ (if noEntry then [(0x63, whereJob s 0x63)] else [])
    ++ ((s.groups.filter fun g => gValid g.2 && gWorld g.2 == w).map fun g => groupReasons s w g.1 g.2).flatten

/-- R383: the operations of a world's groups start from number 0. -/
def clearGroups (s : State) (w : World) : State :=
  { s with groups := tabMap s.groups fun _ x =>
      if gWorld x == w then { word0 := x.word0, arg := x.arg, stage := x.stage, result := x.result } else x }

/-- R85, R287, R342, R383, R431, R464: what the monitor clears at job start; the lanes' retraining under load begins anew (R284). -/
def clearCounts (s : State) (w : World) : State :=
  let s := clearGroups s w
  let s1 := match w with
    | .P => { s with droppedP := false, memsys := { s.memsys with ecntP := 0#64 }, steep := { s.steep with wcntP := 0#64 } }
    | .T => { s with droppedT := false, memsys := { s.memsys with ecntT := 0#64 }, steep := { s.steep with wcntT := 0#64 } }
  { s1 with
    memsys := { s1.memsys with chans := tabMap s1.memsys.chans fun _ k => { k with retrained := [] } }
    fab := { s1.fab with links := tabMap s1.fab.links fun _ k => { k with retry := 0#16, storm := 0#8 } }
    board := { s1.board with retrain := 0#16 } }

/-- R447: after the first JOB_EN run that passes under a booted image: SECMIN raised, revoked slots blown. -/
def blowFuses (s : State) : State :=
  let b := s.boot
  if b.jobRan then s
  else { s with boot := { b with
    jobRan := true
    secmin := if b.secmin.toNat < b.image.secver then BitVec.ofNat 6 b.image.secver else b.secmin
    revoked := b.revoked ||| b.image.revoke
    slots := b.slots &&& ~~~b.image.revoke } }

/-- R453: some thread of a world is not stopped, or one of its streams runs. -/
def worldBusy (s : State) (w : World) : Bool :=
  hasThreads s w || s.ts.any fun e => e.2.ownValid && (ctxOf s e.2.ownCx.toNat).world == w && e.2.st == .running

/-- R456: CTX_EN of the job's contexts: of some context of the world. -/
def needCtx (s : State) (w : World) : List Reason :=
  if s.ctxs.any fun e => e.2.world == w && e.2.ctxEn then [] else [(0xF0, whereCsr (cxBase 0) 0 0)]

/-- R256: the job's code image: what the instruction memories hold as a job starts, which the job loader keeps in monitor memory. -/
def keepCode (s : State) : State :=
  { s with steep := { s.steep with code := s.mem.filter fun e => match regionOf s.part e.1 with
    | .imem _ => true
    | _ => false } }

/-- R452, R453, R456: JOB_EN written. -/
def jobEnWrite (s : State) (w : World) (en : Bool) (threads : List (Nat × Nat)) (env : List (BitVec 8 × Word)) : State :=
  let bit := 12 + worldBit w
  if en == devBit s bit then s
  else if !en then (if worldBusy s w then s else setDevBit s bit false)
  else devRun s bit (jobReasons s w threads ++ needDev s 10 ++ needDev s 11 ++ needCtx s w ++ envReasons (envFor env 0x60 0x67))
    fun s => keepCode (blowFuses (clearCounts s w))

/-- R452: JOB_EN. -/
def execJobEn (w : World) (en : Bool) (env : List (BitVec 8 × Word)) (s : State) : Out := .next (jobEnWrite s w en [] env)

/-- R458: the checks 0x70 to 0x72. -/
def extReasons (s : State) : List Reason :=
  let img (off lsb msb : Nat) : Word := BitVec.ofNat 64 (2 ^ 60 + s.boot.image.extOff + off + lsb * 2 ^ 48 + msb * 2 ^ 54)
  let c := s.boot.image.extCtl.toNat
  let bad (lo : Nat) : Bool := field c lo 10 == 0 || decide (1000 < field c lo 10)
  (if s.boot.image.hasExt && bad 0 then [(0x70, img 0 0 9)] else [])
    ++ (if s.boot.image.hasExt && bad 16 then [(0x70, img 0 16 25)] else [])
    ++ (if (bitAt c 30 || bitAt c 31) && s.board.ext.st != .up then [(0x71, img 0 30 31)] else [])
    ++ (if field s.boot.image.extLink.toNat 1 2 == 3 then [(0x72, img 8 1 2)] else [])

/-- R452, R453: EXT_EN written. -/
def extEnWrite (s : State) (en : Bool) (env : List (BitVec 8 × Word)) : State :=
  if en == devBit s 14 then s
  else if !en then setDevBit s 14 false
  else devRun s 14 (extReasons s ++ needWorld s ++ envReasons (envOnly env 0x70 0x72)) id

/-- R452: EXT_EN. -/
def execExtEn (en : Bool) (env : List (BitVec 8 × Word)) (s : State) : Out := .next (extEnWrite s en env)

/-- R452: the run of one bit of DEV_EN; `both`: the store sets both bits of WORLD_EN. -/
def devBitWrite (s : State) (bit : Nat) (en both : Bool) (env : List (BitVec 8 × Word)) : State :=
  if bit = 0 then worldEnWrite s .P en both env
  else if bit = 1 then worldEnWrite s .T en both env
  else if bit < 10 then linkEnWrite s (bit - 2) en env
  else if bit = 10 then steepEnWrite s en env
  else if bit = 11 then classEnWrite s en env
  else if bit = 12 then jobEnWrite s .P en [] env
  else if bit = 13 then jobEnWrite s .T en [] env
  else extEnWrite s en env

/-- R452: the runs of several bits in ascending position, stopping at the first refusal. -/
def devRuns (env : List (BitVec 8 × Word)) : List Nat → State → State
  | [], s => s
  | b :: bs, s =>
    let s1 := devBitWrite s b true (bs.contains 1) env
    if devBit s1 b then devRuns env bs s1 else s1

/-- R452, R453: a store to DEV_EN by the monitor: bits cleared take effect, bits set run in ascending position. -/
def devEnWrite (s : State) (v : Word) : State :=
  let cleared := (List.range 15).filter fun b => devBit s b && !(v.getLsbD b)
  let s1 := cleared.foldl (fun s b => devBitWrite s b false false []) s
  match (List.range 15).filter fun b => !(devBit s1 b) && v.getLsbD b with
  | [] => s1
  | set_ =>
    let (env, s2) := storeEnv s1
    devRuns env set_ s2

/-- R450 step 1: one context of a job enabled, its segments written and SEG_EN set; the reason where a run refuses. -/
def jobContext (w : World) (env : List (BitVec 8 × Word)) (s : State) (cx : Nat) (segs : List (BitVec 4 × List Word)) :
    State × Option Reason :=
  let s1 := ctxEnWrite s cx true (envOnly env 0x10 0x11)
  let refused (s : State) : State × Option Reason :=
    (s, some (field (ctxOf s cx).strReason.toNat 0 8, (ctxOf s cx).strWhere))
  if (ctxOf s cx).world != w then (s, some (0x02, 0#64))
  else if !(ctxOf s1 cx).ctxEn then refused s1
  else
    let s2 := segs.foldl (fun s g => (g.2.zipIdx).foldl (fun s v => sgWrite s cx g.1.toNat v.2 v.1 []) s) s1
    let s3 := segEnWrite s2 cx true (envOnly env 0x20 0x2C)
    if (ctxOf s3 cx).segEn then (s3, none) else refused s3

/-- R450 step 1, over the job's contexts; it stops at the first refusal. -/
def jobContexts (w : World) (env : List (BitVec 8 × Word)) :
    List (BitVec 6 × List (BitVec 4 × List Word)) → State → State × Option Reason
  | [], s => (s, none)
  | (cx, segs) :: rest, s =>
    match jobContext w env s cx.toNat segs with
    | (s1, none) => jobContexts w env rest s1
    | r => r

/-- R312: an object number that a REVOKE at the last epoch has retired. -/
def retiredObj (o : Obj) : Bool := !o.valid && o.epoch == 0xFFFF#16

/-- R307: an object created, and the capabilities that its description grants minted and placed. A retired number stays retired: no
object is created under it (R312). -/
def createObj (s : State) (o : ObjInit) : State :=
  let n := o.obj.toNat % 65536
  let old : Obj := tabGet {} s.objs n
  if retiredObj old then s
  else
  let new : Obj :=
    { old with valid := true, objHi := BitVec.ofNat 16 (o.obj.toNat / 65536), base := o.base.toNat, len := o.len.toNat,
               permP := o.permP, permT := o.permT }
  let s1 := { s with objs := tabSet s.objs n new }
  let mint (s : State) (w : World) (at_ : Nat) : State :=
    let k := sealCap s (capBody o.base.toNat o.len.toNat (o.rights ||| 0x20#16) o.obj.toNat old.epoch.toNat s.fab.devnum.toNat w)
    memStore s at_ (natLe 32 k.toNat)
  let s2 := if o.permP then mint s1 .P o.capP.toNat else s1
  if o.permT then mint s2 .T o.capT.toNat else s2

/-- R450 steps 2 and 3: what the loader assigns and copies. -/
def jobAssign (s : State) (j : JobDesc) : State :=
  let mon := viewerOf s .monitor
  let s1 := j.streams.foldl (fun s e => setTs s e.1.toNat { tsOf s e.1.toNat with ownCx := e.2, ownValid := true }) s
  let s2 := j.cores.foldl (fun s e => coreModeWrite (coreWorldWrite s e.1.toNat mon e.2.1) e.1.toNat mon e.2.2) s1
  let s3 := j.groups.foldl (fun s e =>
    let w (i : Nat) : Word := e.2.getD i 0#64
    setGrp s e.1.toNat { word0 := w 0, arg := w 1, stage := (w 2).truncate 48, result := (w 3).truncate 48 }) s2 |> markGroups
  let s4 := j.seeds.foldl (fun s e => setCtx s e.1.toNat { ctxOf s e.1.toNat with seed := e.2 }) s3
  let s5 := j.objs.foldl createObj s4
  let s6 := j.copies.foldl (fun s e => memStore s e.1.toNat e.2) s5
  let files := j.files.foldl (fun (t : Tab JobFile) f =>
    tabSet t (fileKey j.world f.1.toNat)
      { ns := f.2.1.toNat, base := f.2.2.1.toNat, len := f.2.2.2.1.toNat, output := f.2.2.2.2 }) s6.board.files
  let decls := j.threads.foldl (fun (t : Tab Decl) ti => match ti.decl with
    | some ws => match declOf (fun i => ws.getD i 0#64) with
      | some d => tabSet t (ti.c.toNat * 8 + ti.t.toNat) d
      | none => t
    | none => t) s6.steep.defaults
  { s6 with
    board := { s6.board with files := files }
    steep := { s6.steep with defaults := decls, recovery := s6.steep.recovery ++ j.recovery }
    power := { s6.power with boostEn := j.boost, boosted := if j.boost then s6.power.boosted else [] } }

/-- R469: STATUS of a mailbox command, and the reason of a Strainer refusal. -/
structure JobResult where
  status : Nat
  reason : Option Reason
  deriving DecidableEq, Repr

/-- R450: a job description loaded. It is refused before event 8, on a device that is admitted to no
job or whose TIME is not locked (R368), while its world runs a job, and
where its signature verifies under no unrevoked slot. -/
def jobLoad (s : State) (j : JobDesc) : JobResult × State :=
  let verified := match j.slot with
    | some k => s.boot.slots.getLsbD k.toNat
    | none => false
  if s.boot.phase != .loader || s.boot.barred || !(s.fab.locked || s.fab.role == 2#2) || devBit s (12 + worldBit j.world) || !verified then ({ status := 1, reason := none }, s)
  else
    match jobContexts j.world j.env j.ctxs s with
    | (s1, some r) => ({ status := 2, reason := some r }, s1)
    | (s1, none) =>
      let s2 := jobAssign s1 j
      let s3 := jobEnWrite s2 j.world true (j.threads.map fun ti => (ti.c.toNat, ti.t.toNat)) j.env
      if devBit s3 (12 + worldBit j.world) then ({ status := 0, reason := none }, j.threads.foldl startThread s3)
      else ({ status := 2, reason := some (field s3.boot.strReason.toNat 0 8, s3.boot.strWhere) }, s3)

/-- R450: JOB_LOAD: the job loader takes a description, and reports to its source. -/
def execJobLoad (job : JobDesc) (s : State) : Out :=
  let (r, s1) := jobLoad s job
  let data := match r.reason with
    | some (code, wher) => [code, wher.toNat]
    | none => []
  .next { s1 with board := { s1.board with answer := (r.status, data) } }

end Sys2Proof.Machine
end

