-- ==== Sys2Proof/Machine/Boot.lean ====
section
/-!
DEFINITION. Sys2Proof/Machine/Boot.lean: the flash, the boot sequence and device reset (R434 to R449, R457), and rolling upgrades
(R459 to R461).
-/

namespace Sys2Proof.Machine

/-- R435: a byte of the flash; erased flash reads 0xFF. -/
def flashByte (s : State) (off : Nat) : Byte := tabGet 0xFF#8 s.boot.flash off

/-- R435: the flash offset of a bank: A (false) or B. -/
def bankBase (b : Bool) : Nat := if b then 0x03C00000 else 0

/-- Bytes of a bank. -/
def flashBytes (s : State) (b : Bool) (off n : Nat) : List Byte := (List.range n).map fun i => flashByte s (bankBase b + off + i)

/-- R439: a multi-byte field of a bank, little-endian. -/
def bankNum (s : State) (b : Bool) (off n : Nat) : Nat := leNat (flashBytes s b off n)

/-- Bytes of a bank that must be zero. -/
def bankZero (s : State) (b : Bool) (lo hi : Nat) : Bool := (flashBytes s b lo (hi - lo)).all fun x => x == 0#8

/-- R440: a section entry. -/
structure SectEnt where
  ty : Nat
  flags : Nat
  off : Nat
  len : Nat
  digest : Nat
  /-- Its reserved bytes are zero. -/
  clean : Bool
  deriving DecidableEq, Repr

/-- R440: section entry i of a bank; the digest as the number its 48 bytes spell, the first byte lowest. -/
def sectEnt (s : State) (b : Bool) (i : Nat) : SectEnt :=
  let o := 0x80 + 64 * i
  { ty := bankNum s b o 2, flags := bankNum s b (o + 2) 1, off := bankNum s b (o + 4) 4, len := bankNum s b (o + 8) 4,
    digest := bankNum s b (o + 16) 48, clean := bankZero s b (o + 3) (o + 4) && bankZero s b (o + 12) (o + 16) }

/-- R439: the section entries in use. -/
def sectEnts (s : State) (b : Bool) : List SectEnt := (List.range (bankNum s b 0x006 2)).map fun i => sectEnt s b i

/-- R441: the greatest length of a section of a known type. -/
def sectMax : Nat → Option Nat
  | 0x01 => some 4096
  | 0x02 => some 0x100000
  | 0x03 => some 4096
  | 0x04 => some 8
  | 0x05 => some 0x10000
  | 0x06 => some 0x12000
  | 0x07 => some 0x4000
  | 0x08 => some 0x100000
  | 0x09 => some 256
  | 0x0A => some 16
  | 0x0B => some 0x1000000
  | 0x0C => some 0x800000
  | 0x0D => some 0x10000
  | _ => none

/-- R440: an entry breaks its table. -/
def entBad (len : Nat) (e : SectEnt) : Bool :=
  let known := sectMax e.ty
  !e.clean || decide (2 ≤ e.flags) || e.off % 4096 != 0 || decide (e.off < 0x1000) || e.len == 0
    || decide (len < e.off + e.len)
    || (match known with
        | some m => decide (m < e.len)
        | none => e.flags % 2 == 0)

/-- R440: two sections overlap, or a type appears twice. -/
def entsClash : List SectEnt → Bool
  | [] => false
  | e :: es => (es.any fun f => meets (e.off, e.off + e.len) (f.off, f.off + f.len) || f.ty == e.ty) || entsClash es

/-- R441: the types every image has. -/
def requiredTypes : List Nat := [1, 2, 3, 4, 5, 6, 7, 8, 9, 11, 12, 13]

/-- R440: the section table of a bank is malformed. -/
def tableBad (s : State) (b : Bool) : Bool :=
  let n := bankNum s b 0x006 2
  if n = 0 || 32 < n then true
  else
    let es := sectEnts s b
    !(bankZero s b (0x80 + 64 * n) 0x880) || (es.any fun e => entBad (bankNum s b 0x010 4) e) || entsClash es
      || requiredTypes.any fun t => es.all fun e => e.ty != t

/-- R441: the bytes of a section of a bank, by type. -/
def sectBytes (s : State) (b : Bool) (ty : Nat) : List Byte :=
  match (sectEnts s b).find? fun e => e.ty == ty with
  | some e => flashBytes s b e.off e.len
  | none => []

/-- R1: PART's code of a part. -/
def partCode : Part → Nat
  | .a512 => 0
  | .a384 => 1
  | .h512 => 2

/-- R439: the reserved bytes of a header are zero. -/
def headerClean (s : State) (b : Bool) : Bool :=
  bankZero s b 0x01A 0x020 && bankZero s b 0x028 0x080 && bankZero s b 0x8E1 0xF00 && bankZero s b 0xF60 0x1000

/-- R434: the flash answers, and its SFDP table is valid. -/
def flashAnswers (s : State) : Bool := s.boot.flashOk && Config.sfdpOk s.boot.flash

/-- R444: verify_bank: the boot cause of a bank; 0 is accepted. -/
def verifyBank (s : State) (b : Bool) : BitVec 8 :=
  let num := bankNum s b
  let slots := s.boot.slots
  let revoke := BitVec.ofNat 4 (num 0x019 1)
  let slot := num 0x018 1
  if !(flashAnswers s) then 0x09#8
  else if num 0x000 4 != 0x59444143 || num 0x004 2 != 1 || !(headerClean s b) then 0x01#8
  else if decide (num 0x010 4 < 4096) || decide (33554432 < num 0x010 4) then 0x01#8
  else if num 0x016 1 != partCode s.part || num 0x017 1 != 0xB0 then 0x02#8
  else if !(slots.getLsbD slot) || Config.sha384 (flashBytes s b 0x880 97) != tabGet 0 s.boot.slotDigest slot then 0x03#8
  else if revoke.getLsbD slot || slots &&& ~~~revoke == 0#4 then 0x03#8
  else if decide (63 < num 0x014 2) || decide (num 0x014 2 < s.boot.secmin.toNat) then 0x04#8
  else if !(Config.ecdsaOk (flashBytes s b 0x880 97) (flashBytes s b 0 0xF00) (flashBytes s b 0xF00 96)) then 0x05#8
  else if tableBad s b then 0x06#8
  else if (sectEnts s b).any fun e => Config.sha384 (flashBytes s b e.off e.len) != e.digest then 0x06#8
  else if (Config.identityOf (sectBytes s b 0x01)).serial != s.boot.serial then 0x07#8
  else if !(Config.firmwareOk (sectBytes s b 0x0B)) then 0x08#8
  else if (Config.unwrapKey (sectBytes s b 0x09) s.boot.devKey).isNone then 0x0A#8
  else 0x00#8

/-- R445: a bank that is tried last: its MAGIC fails, or it is marked STRFAIL. -/
def goesLast (s : State) (b : Bool) : Bool := bankNum s b 0 4 != 0x59444143 || s.boot.strfail.getLsbD (b2n b)

/-- R445: the banks in the order in which AON tries them. -/
def bankOrder (s : State) : List Bool :=
  let bFirst :=
    if goesLast s false == goesLast s true then decide (bankNum s false 0x008 8 < bankNum s true 0x008 8) else goesLast s false
  if bFirst then [true, false] else [false, true]

/-- R441: what the model keeps of an accepted image. -/
def imageOf (s : State) (b : Bool) : Image :=
  let id := Config.identityOf (sectBytes s b 0x01)
  let rt := sectBytes s b 0x03
  let ext := sectBytes s b 0x0A
  { seq := bankNum s b 0x008 8
    secver := bankNum s b 0x014 2
    revoke := BitVec.ofNat 4 (bankNum s b 0x019 1)
    version := bankNum s b 0x020 8
    role := id.role
    fabId := id.fabId
    level := id.level
    memcfg := BitVec.ofNat 64 (leNat (sectBytes s b 0x04))
    overrides := (List.range (rt.length / 8)).map fun i => BitVec.ofNat 64 (leNat ((rt.drop (8 * i)).take 8))
    hasExt := (sectEnts s b).any fun e => e.ty == 0x0A
    extCtl := BitVec.ofNat 64 (leNat (ext.take 8))
    extLink := BitVec.ofNat 64 (leNat ((ext.drop 8).take 8))
    extOff := match (sectEnts s b).find? fun e => e.ty == 0x0A with
      | some e => e.off
      | none => 0
    sections := (sectEnts s b).map fun e => (e.ty, flashBytes s b e.off e.len) }

/-- R437: SUPPLIES_GOOD: with an input good the module's rails are good; JTAG_SEL is sampled (R507). -/
def execSuppliesGood (jsel : Bool) (s : State) : Out :=
  if s.power.pwrgd || !(s.power.agood || s.power.bgood) then .next s
  else .next { s with
    power := { s.power with pwrgd := true }
    boot := { s.boot with phase := .supplies }
    board := { s.board with jtagSel := jsel } }

/-- R437 event 2: AON_START: AON reads the fuses and powers D01, D02 and D19. The slots and SECMIN read are those that fusing has
left. -/
def execAonStart (slots : BitVec 4) (secmin : BitVec 6) (serial : BitVec 128) (s : State) : Out :=
  match s.boot.phase with
  | .supplies =>
    let on := domBit 1 ||| domBit 2 ||| domBit 19
    .next { s with
      boot := { s.boot with
        phase := .aon
        slots := slots &&& ~~~s.boot.revoked
        secmin := if secmin.toNat < s.boot.secmin.toNat then s.boot.secmin else secmin
        serial := serial.toNat
        slotDigest := (List.range 4).map fun k => (k, Config.fuseDigest k)
        devKey := Config.fuseDevKey }
      steep := { s.steep with holder := 0#2 }
      power := { s.power with domOn := s.power.domOn ||| on, domReq := s.power.domReq ||| on } }
  | _ => .next s

/-- R446: the boot causes set. -/
def setCause (s : State) (b : Bool) (c : BitVec 8) : State :=
  { s with boot := if b then { s.boot with causeB := c } else { s.boot with causeA := c } }

/-- R445, R436: a bank accepted: its sections are staged, the system key is held, and the idle bank's error log is read. -/
def bootBank (s : State) (b fallback : Bool) : State :=
  { setCause s b 0x00#8 with
    memsys := { s.memsys with errlog := if b then s.memsys.logA else s.memsys.logB }
    boot := { (setCause s b 0x00#8).boot with
      phase := .loaded
      bank := b
      fallback := fallback
      boots := if s.boot.boots = BitVec.allOnes 16 then s.boot.boots else s.boot.boots + 1#16
      image := imageOf s b
      jobRan := false
      barred := false
      sysKey := Config.unwrapKey (sectBytes s b 0x09) s.boot.devKey } }

/-- R446: the cause of a bank before the banks are tried: 0xFF, or 0x0B where the bank is marked STRFAIL. -/
def untried (s : State) (b : Bool) : BitVec 8 := if s.boot.strfail.getLsbD (b2n b) then 0x0B#8 else 0xFF#8

/-- R445: AON tries the banks in their order and boots the first that it accepts; with both refused it keeps SCA and SCB in reset. -/
def tryBanks (s : State) : State :=
  let s0 := setCause (setCause s false (untried s false)) true (untried s true)
  match bankOrder s with
  | [b1, b2] =>
    let c1 := verifyBank s b1
    if c1 = 0#8 then bootBank s0 b1 (s.boot.strfail.getLsbD (b2n b2))
    else
      let s1 := setCause s0 b1 c1
      let c2 := verifyBank s b2
      if c2 = 0#8 then bootBank s1 b2 true
      else
        let s2 := setCause s1 b2 c2
        { s2 with boot := { s2.boot with phase := .refused } }
  | _ => s0

/-- R437 event 3: CADDY_LOAD. The device holds at event 2 without FAB_REFCLK, and each such hold is counted (R494); with JTAG_SEL high
it stops there (R478). -/
def execCaddyLoad (s : State) : Out :=
  match s.boot.phase with
  | .aon =>
    if !s.power.fabRef then .next (countLife s 19)
    else if s.board.jtagSel then .next s
    else .next (tryBanks s)
  | _ => .next s

/-- R335, R441: IDENTITY loaded. -/
def loadIdentity (s : State) : State :=
  let w := s.boot.image.fabId.toNat
  { s with fab := { s.fab with
    x := BitVec.ofNat 3 (field w 0 3), y := BitVec.ofNat 3 (field w 3 3), z := BitVec.ofNat 3 (field w 6 3),
    pot := BitVec.ofNat 5 (field w 9 5), devnum := BitVec.ofNat 14 (field w 16 14),
    lvlN := s.boot.image.level, active := s.boot.image.level - 1#4 } }

/-- R441: LINKMAP loaded: into monitor memory, and what it gives this device; the spares by plane port. -/
def loadLinkmap (s : State) : State :=
  let m := Config.linkmapOf (section_ s 0x02)
  let s1 := { s with boot := { s.boot with linkmap := some m } }
  let s2 := mapIdentity s1
  { s2 with steep := { s2.steep with spares := m.spares.map fun e => e.1 } }

/-- R441, R467: IO loaded; in endpoint mode the monitor serves the mailbox. -/
def loadIo (s : State) : State :=
  let m := Config.ioOf (section_ s 0x0D)
  { s with board := { s.board with endpoint := m.endpoint, hostCx := m.hostCx, hostBase := m.hostBase, ready := m.endpoint } }

/-- R485: a store to EXT_LINKCFG by the monitor, ignored while the link is not DOWN or FAILED. -/
def extLinkcfgWrite (s : State) (mon : Bool) (v : Word) : State :=
  let x := s.board.ext
  let open_ := match x.st with
    | .down | .failed => true
    | _ => false
  if !mon || !open_ then s
  else { s with board := { s.board with ext := { x with
    en := v.getLsbD 0, rate := BitVec.ofNat 2 (field v.toNat 1 2), txeq := BitVec.ofNat 4 (field v.toNat 3 4) } } }

/-- R437 event 4: CLUSTER_START: pairs self-tested, firmware started and the leader token granted to SCA; where no pair passes, the
device is lost (R426). -/
def execClusterStart (ok : Bool) (s : State) : Out :=
  match s.boot.phase with
  | .loaded =>
    if !ok then .next (loseSelf s)
    else
      let s1 := loadIo (loadLinkmap (loadIdentity s))
      let s2 := if s1.boot.image.hasExt then extLinkcfgWrite s1 true s1.boot.image.extLink else s1
      let s3 := aonClaim s2 false s2.steep.epoch
      .next { s3 with boot := { s3.boot with phase := .clusters } }
  | _ => .next s

/-- R283, R285: a lane measured in training: below 0.50 UI it is replaced by a free redundant lane, or else its stack runs at
7.2 Gb/s. -/
def trainLane (s : State) (e : BitVec 3 × BitVec 5 × BitVec 7 × BitVec 7) : State :=
  let (st, ch, lane, eye) := e
  let k := chanOf s st.toNat ch.toNat
  if 64 ≤ lane.toNat then s
  else if 50 ≤ eye.toNat then setChan s st.toNat ch.toNat { k with eyes := tabSet k.eyes lane.toNat eye.toNat }
  else if k.redundant < Config.redundantLanes then
    countLife (setChan s st.toNat ch.toNat { k with redundant := k.redundant + 1, eyes := tabErase k.eyes lane.toNat }) 14
  else
    let s1 := setChan s st.toNat ch.toNat { k with eyes := tabSet k.eyes lane.toNat eye.toNat }
    let slow := if s1.memsys.slow.contains st.toNat then s1.memsys.slow else st.toNat :: s1.memsys.slow
    { s1 with memsys := { s1.memsys with slow := slow } }

/-- R286: the recorded rows repaired; a row without a resource stays in use and is counted. -/
def repairRows (s : State) : State :=
  s.memsys.repair.foldl (fun s r =>
    if Config.rowRepairable r.1 r.2 then
      countLife { s with memsys := { s.memsys with
        repair := s.memsys.repair.filter fun x => x != r
        repaired := r :: s.memsys.repaired } } 12
    else countLife s 13) s

/-- R437 event 5: HBM_TRAINING: MEMORY applied, D15 and D16 on and with them the core arrays and the LLC slices, HBM trained, and the
recorded rows repaired. The error mode is the one written (R279). -/
def execHbmTraining (eyes : List (BitVec 3 × BitVec 5 × BitVec 7 × BitVec 7)) (s : State) : Out :=
  match s.boot.phase with
  | .clusters =>
    let on := ([3, 4, 5, 6, 11, 12, 13, 14, 15, 16]).foldl (fun (m : BitVec 20) d => m ||| domBit d) 0#20
    let s1 := memCfgWrite s true s.boot.image.memcfg
    let s2 := repairRows (eyes.foldl trainLane s1)
    .next { s2 with
      memsys := { s2.memsys with eccNow := s2.memsys.eccmode, trainTemps := s2.memsys.temps }
      power := { s2.power with domOn := s2.power.domOn ||| on, domReq := s2.power.domReq ||| on }
      boot := { s2.boot with phase := .hbm } }
  | _ => .next s

/-- R438: a device reset runs the sequence from event 2. AON keeps AON_BOOT and its fuses; the flash with the field evidence record and
the log areas, the repair list and what has been learnt of supplies and pins stay; the leader token returns to none. The record in
monitor memory is the flash's again (R436). R13 and R423 do not say whether site bindings and retired sites outlive a reset: here every
logical core returns to its first site (DESIGN CHOICE, entry 110). -/
def deviceReset (s : State) : State :=
  { State.reset with
    part := s.part
    time := s.time
    draws := s.draws
    boot := { State.reset.boot with
      phase := if s.power.pwrgd then .supplies else .off
      flash := s.boot.flash, flashOk := s.boot.flashOk, bank := s.boot.bank, fallback := s.boot.fallback,
      causeA := s.boot.causeA, causeB := s.boot.causeB, strfail := s.boot.strfail, secmin := s.boot.secmin,
      slots := s.boot.slots, boots := s.boot.boots, slotDigest := s.boot.slotDigest, revoked := s.boot.revoked,
      serial := s.boot.serial, devKey := s.boot.devKey, migrated := s.boot.migrated, resetN := s.boot.resetN }
    steep := { State.reset.steep with
      epoch := s.steep.epoch, counts := s.steep.evCounts, ring := s.steep.evidence, evidence := s.steep.evidence,
      evCounts := s.steep.evCounts, evMinA := s.steep.evMinA, evMinB := s.steep.evMinB, evidenceAt := s.steep.evidenceAt, archives := s.steep.archives, archAt := s.steep.archAt, archive := s.steep.archive }
    memsys := { State.reset.memsys with
      temps := s.memsys.temps, repair := s.memsys.repair, repaired := s.memsys.repaired, logA := s.memsys.logA,
      logB := s.memsys.logB }
    board := { State.reset.board with
      perstN := s.board.perstN, dynAddr := s.board.dynAddr, eid := s.board.eid, tid := s.board.tid,
      jtagSel := s.board.jtagSel, ext := { State.reset.board.ext with intN := s.board.ext.intN } }
    power := { State.reset.power with
      inuseB := s.power.inuseB, agood := s.power.agood, bgood := s.power.bgood, vina := s.power.vina, vinb := s.power.vinb,
      switches := s.power.switches, minA := s.power.minA, minB := s.power.minB, pwrgd := s.power.pwrgd,
      fabRef := s.power.fabRef, aonRef := s.power.aonRef, pcieRef := s.power.pcieRef, trip := s.power.trip,
      lvls := s.power.lvls, tmax := s.power.tmax, temps := s.power.temps }
    pending := s.pending }

/-- R438: DEVICE_RESET. -/
def execDeviceReset (s : State) : Out := .next (deviceReset s)

/-- R507: RESET_N: a recognised low stops the device; the sequence starts from event 2 when it rises. -/
def execResetN (high : Bool) (s : State) : Out :=
  if high then
    .next (if s.boot.resetN then s else deviceReset { s with boot := { s.boot with resetN := true } })
  else .next { s with boot := { s.boot with resetN := false } }

/-- R445: the other bank has been refused or marked during this power cycle of AON. -/
def otherSpoilt (s : State) : Bool :=
  let b := s.boot.bank
  let c := if b then s.boot.causeA else s.boot.causeB
  s.boot.strfail.getLsbD (b2n !b) || (c != 0xFF#8 && c != 0x00#8)

/-- R445: a boot-time Strainer refusal: the bank is marked, and the device is reset once, unless the other bank is spoilt too: then it
stays booted and is admitted to no job. -/
def bootRefused (s : State) : State :=
  let b := s.boot.bank
  let s1 := setCause s b 0x0B#8
  let s2 := { s1 with boot := { s1.boot with strfail := s1.boot.strfail ||| (if b then 2#2 else 1#2) } }
  if otherSpoilt s then { s2 with boot := { s2.boot with barred := true } } else deviceReset s2

/-- R457: the latest device run's reason code. -/
def devCode (s : State) : Nat := field s.boot.strReason.toNat 0 8

/-- R457: bits of DEV_EN set by the monitor while it boots: a refusal with 0xFE leaves its bit, and those after it, to be tried again;
any other is a boot-time refusal. -/
def bootBits (bits : List Nat) (env : List (BitVec 8 × Word)) (s : State) : State :=
  let s1 := devRuns env (bits.filter fun b => !(devBit s b)) s
  let left := bits.filter fun b => !(devBit s1 b)
  if left.isEmpty then s1
  else if devCode s1 = 0xFE then { s1 with boot := { s1.boot with retry := s1.boot.retry ++ left } }
  else bootRefused s1

/-- R452, R457: LINK_EN; at event 6 its run is one of those whose refusal is a boot-time refusal. -/
def execLinkEn (l : BitVec 3) (en : Bool) (env : List (BitVec 8 × Word)) (s : State) : Out :=
  let booting := match s.boot.phase with
    | .hbm | .links => true
    | _ => false
  if booting && en && !(devBit s (2 + l.toNat)) then .next (bootBits [2 + l.toNat] env s)
  else .next (linkEnWrite s l.toNat en env)

/-- R441: WORLDS loaded. -/
def loadWorlds (s : State) : State :=
  let m := Config.worldsOf (section_ s 0x05)
  let mon := viewerOf s .monitor
  let s := { s with boot := { s.boot with worlds := some m } }
  let s1 := (List.range 64).foldl (fun s cx => if m.ctxT.contains cx then setCtx s cx { ctxOf s cx with world := .T } else s) s
  let s2 := m.cores.foldl (fun s e => coreModeWrite (coreWorldWrite s e.1 mon e.2.1) e.1 mon e.2.2) s1
  let s3 := m.ruT.foldl (fun s c => setCore s c { coreOf s c with ru := { (coreOf s c).ru with world := .T } }) s2
  m.srcT.foldl (fun s e =>
    let k := coreOf s e.1
    setCore s e.1 { k with icuSrc := tabSet k.icuSrc e.2 (tabGet 0#30 k.icuSrc e.2 ||| 0x100#30) }) s3

/-- R441: CONTEXTS loaded. -/
def loadContexts (s : State) : State :=
  (Config.contextsOf (section_ s 0x06)).foldl (fun s m =>
    let s1 := m.segs.foldl (fun s g => g.2.zipIdx.foldl (fun s v => sgWrite s m.cx g.1 v.2 v.1 []) s) s
    let s2 := setPinq s1 m.cx m.pinq
    setCtx s2 m.cx { ctxOf s2 m.cx with seed := m.seed }) s

/-- R441: CLASSES, STEEP and EXT loaded. -/
def loadRest (s : State) : State :=
  let quota := (Config.classesOf (section_ s 0x07)).foldl (fun (t : Tab Nat) e =>
    (List.range (e.2.1 + 1 - e.1)).foldl (fun t i => tabSet t (e.1 + i) e.2.2) t) s.fab.quota
  let st := Config.steepOf (section_ s 0x08)
  let w := s.boot.image.extCtl.toNat
  let mine := (st.sets.find? fun m => m.contains s.fab.devnum).getD []
  let s1 := { s with
    fab := { s.fab with quota := quota }
    steep := { s.steep with ctl := BitVec.ofNat 58 st.ctl.toNat, sets := some st.sets, partners := mine } }
  if s.boot.image.hasExt then
    (List.range 256).foldl (fun s c => setCore s c { coreOf s c with
      tmoP := BitVec.ofNat 10 (field w 0 10), tmoT := BitVec.ofNat 10 (field w 16 10), enP := bitAt w 30, enT := bitAt w 31 }) s1
  else s1

/-- R457: CTX_EN and SEG_EN set for each context that CONTEXTS gives segments; false at the first refusal. -/
def bootContexts (env : List (BitVec 8 × Word)) : List ContextImg → State → State × Bool
  | [], s => (s, true)
  | m :: rest, s =>
    if m.segs.isEmpty then bootContexts env rest s
    else
      let s1 := ctxEnWrite s m.cx true (envOnly env 0x10 0x11)
      let s2 := segEnWrite s1 m.cx true (envOnly env 0x20 0x2C)
      if (ctxOf s2 m.cx).segEn then bootContexts env rest s2 else (s2, false)

/-- R457: the worlds that WORLDS enables, as bits of DEV_EN. -/
def bootWorlds (s : State) : List Nat :=
  let m := Config.worldsOf (section_ s 0x05)
  (if m.enP then [0] else []) ++ (if m.enT then [1] else [])

/-- R437 event 7: BOOT_STRAINER. `env` holds what the runs find beyond the device (R456). -/
def execBootStrainer (env : List (BitVec 8 × Word)) (s : State) : Out :=
  match s.boot.phase with
  | .hbm | .links =>
    let s0 := loadRest (loadContexts (loadWorlds s))
    let s1 := { s0 with boot := { s0.boot with phase := .strained } }
    let s2 := devRuns env (bootWorlds s1) s1
    if (bootWorlds s1).any fun b => !(devBit s2 b) then .next (bootRefused s2)
    else
      match bootContexts env (Config.contextsOf (section_ s 0x06)) s2 with
      | (s3, false) => .next (bootRefused s3)
      | (s3, true) => .next (bootBits ([10, 11] ++ (if s.boot.image.hasExt then [14] else [])) env s3)
  | _ => .next s

/-- R457: STRAINER_RETRY: runs refused with 0xFE are repeated. -/
def execStrainerRetry (env : List (BitVec 8 × Word)) (s : State) : Out :=
  match s.boot.retry with
  | [] => .next s
  | bits => .next (bootBits bits env { s with boot := { s.boot with retry := [] } })

/-- R437 event 8: JOB_LOADER_START. -/
def execJobLoaderStart (s : State) : Out :=
  match s.boot.phase with
  | .strained => .next { s with boot := { s.boot with phase := .loader } }
  | _ => .next s

/-- R460: MIGRATION at the commit of a full steep. Every device restores to its cut. A device whose upgrade has asked for it gives its
state to the spare and resets to boot its new image; on the way back the state comes to it again and the spare gives the identity
up. -/
def execMigration (back : Bool) (s : State) : Out :=
  if s.steep.full.isNone && !(back && s.boot.migrated) then .next s
  else if back && s.boot.migrated then
    .next { s with
      boot := { s.boot with migrated := false }
      steep := { s.steep with halted := false, lost := s.steep.lost.filter fun d => d != s.fab.devnum } }
  else if !back && s.boot.migWanted then
    .next (deviceReset { s with boot := { s.boot with migrated := true, migWanted := false } })
  else .next (fullRestart s)

/-- R435: the bank an update is written to: the idle one, or bank A where both banks were refused (R445). -/
def updateBank (s : State) : Bool :=
  match s.boot.phase with
  | .refused => false
  | _ => !s.boot.bank

/-- R445, R474: a PLDM request of Type 5 is answered: by AON where both banks were refused, from event 4 by the monitor while its
outputs are enabled. -/
def updateOn (s : State) : Bool :=
  match s.boot.phase with
  | .refused => true
  | _ => booted s && outputsOn s

/-- R475: a PLDM answer: completion code and data. -/
def pldmAnswer (s : State) (code : Nat) (data : List Nat) : State := { s with board := { s.board with answer := (code, data) } }

/-- R436: flash bytes from `lo` on, below `hi`, erased. -/
def flashErase (s : State) (lo hi : Nat) : State :=
  { s with boot := { s.boot with flash := s.boot.flash.filter fun (e : Nat × Byte) => !(decide (lo ≤ e.1) && decide (e.1 < hi)) } }

/-- R475: the completion code of DSP0240 for success (PRESUMED). -/
def pldmSuccess : Nat := 0x00
/-- R475: the completion code of DSP0240 for a general error (PRESUMED). -/
def pldmError : Nat := 0x01
/-- R476: the completion code ALREADY_IN_UPDATE_MODE of DSP0267 (PRESUMED). -/
def pldmUpdating : Nat := 0x81
/-- R475: the completion code of DSP0267 for a command outside update mode (PRESUMED). -/
def pldmNotUpdating : Nat := 0x80

/-- R476: REQUEST_UPDATE: one update at a time; the idle bank is erased, its log area included (R436). -/
def execRequestUpdate (s : State) : Out :=
  if !(updateOn s) then .next s
  else if s.boot.updating then .next (pldmAnswer s pldmUpdating [])
  else
    let lo := bankBase (updateBank s)
    let s0 := flashErase s lo (lo + 0x03C00000)
    let s1 := { s0 with memsys := if updateBank s then { s0.memsys with logB := [] } else { s0.memsys with logA := [] } }
    .next (pldmAnswer { s1 with boot := { s1.boot with updating := true, verified := false } } pldmSuccess [])

/-- Bytes written to the flash from an offset on. -/
def flashPut (t : Tab Byte) (off : Nat) : List Byte → Tab Byte
  | [] => t
  | b :: bs => flashPut (tabSet t off b) (off + 1) bs

/-- R436, R475: FIRMWARE_DATA_WRITE: a transfer of up to 4,096 bytes into the 32 MiB of the image; rewriting a bank clears its STRFAIL
mark (R445). -/
def execFirmwareDataWrite (off32 : BitVec 32) (bytes : List Byte) (s : State) : Out :=
  if !(updateOn s) then .next s
  else if !s.boot.updating then .next (pldmAnswer s pldmNotUpdating [])
  else if decide (4096 < bytes.length) || decide (33554432 < off32.toNat + bytes.length) then .next (pldmAnswer s pldmError [])
  else
    let b := updateBank s
    let s1 := { s with boot := { s.boot with
      flash := flashPut s.boot.flash (bankBase b + off32.toNat) bytes
      strfail := s.boot.strfail &&& (if b then 1#2 else 2#2)
      verified := false } }
    .next (pldmAnswer s1 pldmSuccess [])

/-- R461: VERIFY_COMPLETE: the written image is checked under R444; one that fails is erased. The answer carries the boot cause. -/
def execVerifyComplete (s : State) : Out :=
  if !(updateOn s) then .next s
  else if !s.boot.updating then .next (pldmAnswer s pldmNotUpdating [])
  else
    let b := updateBank s
    let c := verifyBank s b
    let s1 := if c = 0#8 then s else flashErase s (bankBase b) (bankBase b + 33554432)
    .next (pldmAnswer { s1 with boot := { s1.boot with verified := c == 0#8 } } pldmSuccess [c.toNat])

/-- R461, R476: ACTIVATE_FIRMWARE: in no job the device resets at once; in a job it asks the system master for a migration. -/
def execActivateFirmware (s : State) : Out :=
  if !(updateOn s) then .next s
  else if !s.boot.updating then .next (pldmAnswer s pldmNotUpdating [])
  else if !s.boot.verified then .next (pldmAnswer s pldmError [])
  else
    let s1 := pldmAnswer { s with boot := { s.boot with updating := false } } pldmSuccess []
    .next (if jobOn s then { s1 with boot := { s1.boot with migWanted := true } } else deviceReset s1)

end Sys2Proof.Machine
end

