-- ==== Sys2Proof/Machine/Extension.lean ====
section
/-!
DEFINITION. Sys2Proof/Machine/Extension.lean: the extension block of a core (R137 to R141) and the port's queue of requests (R481,
R482).
-/

namespace Sys2Proof.Machine

/-- The state with the extension link replaced. -/
def setExt (s : State) (e : ExtLink) : State := { s with board := { s.board with ext := e } }

/-- R481, R482: requests leave the port in order while the link is UP, a credit is held and fewer than 64 flits are held. -/
def extPumpList : List ExtReq → ExtLink → ExtLink
  | [], e => { e with waiting := [] }
  | r :: rest, e =>
    if e.st == .up && decide (0 < e.credits) && decide (e.unacked.length < 64) then
      extPumpList rest { e with credits := e.credits - 1, unacked := e.unacked ++ [(e.txSeq, r)], txSeq := e.txSeq + 1#8 }
    else { e with waiting := r :: rest }

/-- R482: what can leave the port leaves. -/
def extPump (e : ExtLink) : ExtLink := extPumpList e.waiting e

/-- R137: whether a request is that of a thread with a number. -/
def extMatches (c t : Nat) (seq : BitVec 8) (r : ExtReq) : Bool := r.core.toNat == c && r.thread.toNat == t && r.seq == seq

/-- R138: a core's enable and timeout of a world. -/
def extEnabled (k : Core) (w : World) : Bool := match w with | .P => k.enP | .T => k.enT
/-- R138. -/
def extTmo (k : Core) (w : World) : Nat := match w with | .P => k.tmoP.toNat | .T => k.tmoT.toNat

/-- R141: what replay holds for the extension instruction with number `seq` of a thread: whether it completed with EXTTO, and its RESULT
or, for EXTTO, whether it was masked. -/
def extLogged (s : State) (c t : Nat) (seq : BitVec 8) : Option (Bool × Word) :=
  (s.steep.replay.find? fun r => r.ty == 7 && (r.key == [c, t, seq.toNat] || r.key == [c, t, seq.toNat, 1])).map fun r =>
    (r.key != [c, t, seq.toNat], r.val)

/-- R94, R139, R141: EXTTO of an instruction in replay, at its own turn, handled as it was: masked it gives zero and counts, otherwise the
thread takes it. Its late reply is awaited from then on (R140). -/
def exttoNow (s : State) (c t : Nat) (x : Thread) (d : BitVec 5) (masked : Bool) : State :=
  let y := { x with extSeq := x.extSeq + 1#8, extLate := x.extLate ++ [x.extSeq] }
  if masked then retire (setDropped s (worldOf (coreOf s c) t)) c t (putS (addDrop y 1) d 0#64) (x.pc + 4#18) 2
  else enter s c t y cExtto 0#64 x.pc 0#18 2

/-- R141: whether the request that a thread is about to send was outstanding when the device rolled back. -/
def extResend (s : State) (c t : Nat) (x : Thread) : Bool :=
  s.steep.extAgain.contains (c * 8 + t) && tabGet 0 s.steep.faultAt (c * 8 + t) == x.icount

/-- R137, R138, R141: an extension instruction of majors 0x38 to 0x3B. In replay one that completed in the replayed span completes with
its logged outcome, and takes its number all the same. -/
def execExtensionInstruction (c : BitVec 8) (maj2 : BitVec 2) (d a b : BitVec 5) (xfunc : BitVec 11) (s : State) : Out :=
  .next (issue c 4#18 [.s d, .s a, .s b] (fun t x s =>
    let k := coreOf s c.toNat
    let w := worldOf k t
    let next : Thread := { x with extSeq := x.extSeq + 1#8 }
    if !(s.boot.devEn.getLsbD 14) || !(extEnabled k w) then illop s c.toNat t x 4#18 2
    else if !x.xlPort.isEmpty then goWait s c.toNat t x .late 2
    else match extLogged s c.toNat t x.extSeq with
      | some (true, m) =>
        exttoNow (outcome s 7 [c.toNat, t, x.extSeq.toNat, 1] m).2 c.toNat t x d (m != 0#64)
      | some (false, v) =>
        retire (outcome s 7 [c.toNat, t, x.extSeq.toNat] v).2 c.toNat t (putS next d v) (x.pc + 4#18) 3
      | none =>
        if decide (64 < outstanding k + 1) then goWait s c.toNat t x .slot 2
        else
          let again := extResend s c.toNat t x
          let rq : ExtReq :=
            { func := (maj2 ++ xfunc : BitVec 13), opa := getS x a, opb := getS x b, core := c, thread := BitVec.ofNat 3 t,
              world := w, seq := x.extSeq, replay := again }
          let e := s.board.ext
          let s1 := setExt s (extPump { e with waiting := e.waiting ++ [rq], outst := e.outst ++ [rq] })
          let s2 := { s1 with steep := { s1.steep with extAgain := s1.steep.extAgain.filter fun n => n != c.toNat * 8 + t } }
          goWait s2 c.toNat t (markBusy next (.s d))
            (.reply (.ext d x.extSeq (s.time + 1000 * extTmo k w))) 2) s)

/-- R94, R139, R141: the waiting request `q` of thread t times out: EXTTO, or under mask zero and counted. -/
def extTimeout (s : State) (c t : Nat) (d : BitVec 5) (q : BitVec 8) : State :=
  let x := thOf s c t
  let (_, s1) := outcome s 7 [c, t, q.toNat, 1] (b2w x.exm)
  let y := { x with extLate := x.extLate ++ [q] }
  wake (if x.exm then
      finishWait (setDropped s1 (worldOf (coreOf s1 c) t)) c t (clearBusy (putS (addDrop y 1) d 0#64) (.s d)) (x.pc + 4#18)
    else asyncEnter (setTh s1 c t y) c t cExtto 0#18) c

/-- R137, R140: a reply whose request has timed out goes to XLATE and XLATEV, or waits in the port. -/
def lateReply (s : State) (c t : Nat) (seq : BitVec 8) (v : Word) : State :=
  let x := thOf s c t
  let e := s.board.ext
  if x.extLate.contains seq then
    let s1 := setExt s { e with outst := e.outst.filter fun r => !(extMatches c t seq r) }
    let y := { x with extLate := x.extLate.erase seq, xlPort := x.xlPort ++ [(seq, v)] }
    setTh s1 c t (moveLate y)
  else s

/-- R137, R139: EXT_REPLY: a reply that crosses in while its instruction waits completes it, up to the clock in which TIME reaches the
deadline; past it the instruction has timed out, and the reply is late. -/
def execExtReply (c : BitVec 8) (t : BitVec 3) (seq : BitVec 8) (v : Word) (s : State) : Out :=
  let x := thOf s c.toNat t.toNat
  match x.wait with
  | .reply (.ext d q dl) =>
    if q != seq then .next s
    else if dl < s.time then .next (lateReply (extTimeout s c.toNat t.toNat d q) c.toNat t.toNat seq v)
    else
      let e := s.board.ext
      let s1 := setExt s { e with outst := e.outst.filter fun r => !(extMatches c.toNat t.toNat seq r) }
      let (r, s2) := outcome s1 7 [c.toNat, t.toNat, seq.toNat] v
      .next (wake (finishWait s2 c.toNat t.toNat (clearBusy (putS x d r) (.s d)) (x.pc + 4#18)) c.toNat)
  | _ => .next s

/-- R139: EXTTO: TIME reaches the deadline of a waiting request; its late reply is awaited from then on. -/
def execExtto (c : BitVec 8) (t : BitVec 3) (now : BitVec 64) (s : State) : Out :=
  let s0 := { s with time := max s.time now.toNat }
  match (thOf s0 c.toNat t.toNat).wait with
  | .reply (.ext d q dl) => .next (if dl ≤ s0.time then extTimeout s0 c.toNat t.toNat d q else s0)
  | _ => .next s0

/-- R137, R140: LATE_REPLY. -/
def execLateReply (c : BitVec 8) (t : BitVec 3) (seq : BitVec 8) (v : Word) (s : State) : Out :=
  .next (lateReply s c.toNat t.toNat seq v)

/-- R140: XLATE_VALID_CLEAR: software clears VALID, and a reply held in the port moves into the registers. -/
def execXlateValidClear (c : BitVec 8) (t : BitVec 3) (s : State) : Out :=
  .next (wake (setTh s c.toNat t.toNat (clearXlate (thOf s c.toNat t.toNat))) c.toNat)

end Sys2Proof.Machine
end

