-- ==== Sys2Proof/Machine/Services.lean ====
section
/-!
DEFINITION. Sys2Proof/Machine/Services.lean: the monitor services that an MCALL reaches (R86, R311, R312, R472, R473): DERIVE, REVOKE,
CHECK and IOSUBMIT, and the completion of an I/O request.
-/

namespace Sys2Proof.Machine

/-- R86: the service thread t waits for, where it waits for service n. -/
def waitsFor (x : Thread) (n : BitVec 8) : Bool := x.wait == .reply (.mcall n)

/-- R86: the monitor's reply to thread t is on its way into S1. -/
def svcReply (s : State) (c t : Nat) (v : Word) : State :=
  setTh s c t { thOf s c t with wait := .reply (.synced 1#5 v) }

/-- A capability read from memory. -/
def capAt (s : State) (cx va : Nat) : BitVec 256 := BitVec.ofNat 256 (leNat (svcRead s cx va 32))

/-- R311: what is known of the piece at `va` of thread t's service: the response of the device it lies on, if any. -/
def svcPart (s : State) (c t va : Nat) (wr : Bool) : Option SvcPart :=
  s.board.svcParts.find? fun p => p.c == c && p.t == t && p.ic == (thOf s c t).icount && p.va == va && p.wr == wr

/-- The bytes of one piece: none while they are on their way, or where the service may not read them. -/
def svcPieceBytes (s : State) (c t cx : Nat) (p : Nat × Nat) : List Byte :=
  match svcAt s cx [rRD] p.1 p.2 with
  | .here a => loadZeroPoison s a p.2
  | _ => match svcPart s c t p.1 false with
    | some q => (q.got.map (·.2)).getD []
    | none => []

/-- R311: n bytes at `va` of an argument that the monitor has at hand. -/
def svcArg (s : State) (c t cx va n : Nat) : List Byte := ((pieces va n).map (svcPieceBytes s c t cx)).flatten

/-- R311: a piece that a service may not read, or whose device refuses it. -/
def svcPieceBad (s : State) (c t cx : Nat) (p : Nat × Nat) : Bool :=
  match svcAt s cx [rRD] p.1 p.2 with
  | .here _ => false
  | .bad => true
  | .there _ _ => match svcPart s c t p.1 false with
    | some q => (match q.got with | some (st, _) => st != stOk | none => false)
    | none => false

/-- R311: a piece on another device whose bytes have not come. -/
def svcPieceAway (s : State) (c t cx : Nat) (p : Nat × Nat) : Bool :=
  match svcAt s cx [rRD] p.1 p.2 with
  | .there _ _ => ((svcPart s c t p.1 false).bind fun q => q.got).isNone
  | _ => false

/-- R311: whether level S of the caller may write n bytes at `va`, here or on another device. -/
def svcMayWrite (s : State) (cx va n : Nat) : Bool := (pieces va n).all fun p => svcAt s cx [rWR] p.1 p.2 != .bad

/-- R311, R359: the monitor asks another device for a piece, or sends it one. -/
def svcSend (s : State) (c t : Nat) (wr : Bool) (pa : Word) (g : Seg) (va n : Nat) (data : List Byte) : State :=
  let x := thOf s c t
  let p : SvcPart := { c := c, t := t, ic := x.icount, va := va, wr := wr, got := none }
  let s1 := { s with board := { s.board with svcParts := s.board.svcParts ++ [p] } }
  submit s1 (monitorAgent s1) (if wr then opWr else opRd)
    { tc := 1#2, world := worldOf (coreOf s c) t, lvlS := true, cls := g.cls, dest := paDev pa, bytes := n, addr := paLocal pa,
      fn := 0#16, operand := 0#64, cap := g.cap, data := data } (.svc c t x.icount va)

/-- R311: the pieces of an argument on other devices that have not been asked for. -/
def svcAsk (c t cx : Nat) (s : State) (r : Nat × Nat) : State :=
  (pieces r.1 r.2).foldl (fun s p => match svcAt s cx [rRD] p.1 p.2 with
    | .there pa g => if (svcPart s c t p.1 false).isNone then svcSend s c t false pa g p.1 p.2 [] else s
    | _ => s) s

/-- R346, R362: the response to a service's request. -/
def respSvc (s : State) (c t ic va : Nat) (wr : Bool) (st : BitVec 16) (data : List Byte) : State :=
  { s with board := { s.board with svcParts := s.board.svcParts.map fun p =>
    if p.c == c && p.t == t && p.ic == ic && p.va == va && p.wr == wr then { p with got := some (st, data) } else p } }

/-- What the board keeps of thread t's service dropped. -/
def svcForget (s : State) (c t : Nat) : State :=
  { s with board := { s.board with
    svcParts := s.board.svcParts.filter fun p => !(p.c == c && p.t == t)
    svcEnds := s.board.svcEnds.filter fun e => !(e.c == c && e.t == t) } }

/-- R297, R299, R309: what the translation of n bytes at `va` does to the monitor's segment buffer, CX_MULTI and the error counters. -/
def svcTouch (cx n : Nat) (need : List Nat) (s : State) (va : Nat) : State :=
  (pieces va n).foldl (fun s p => match translate s 272 cx p.1 need true with
    | (.ok pa _ g _ _, s1) =>
      if isRemote s pa || ownCheck s pa g (ctxOf s cx).world need true p.2 then s1 else countCapRef s1 (ctxOf s cx).world
    | (.bad _ _ _ _, s1) => s1) s

/-- R312: a part that was admitted under a capability of an object. -/
def halfUnder (s : State) (obj : Nat) (h : Half) : Bool :=
  !h.bad && !(isRemote s h.pa) && paSpace h.pa == 1 && capObj h.cap == obj

/-- R312: accesses that core k holds which were admitted under a capability of an object, or which may have been: those of its threads
that wait and of its queued vector instructions; and, by their place, its posted stores and what its MLOAD has still to read. -/
def coreUnder (s : State) (k : Core) (obj lo hi : Nat) : Bool :=
  (k.th.any fun e => (e.2.sb.any fun b => meets (b.pa, b.pa + b.bytes.length) (lo, hi)) ||
    (match e.2.wait with | .reply r => (reqHalves r).any (halfUnder s obj) | _ => false)) ||
  ((k.vq ++ k.vrun).any fun q => (entHalves q).any (halfUnder s obj)) ||
  k.mx.loadSrc.any fun p => meets (p.1, p.1 + p.2) (lo, hi)

/-- R312: a waiter entry of another device, or of a thread that reaches the object by this device's number. -/
def waiterUnder (s : State) (n : Nat) (w : WaitEnt) : Bool :=
  match w.who with
  | .remote _ _ _ _ _ => true
  | .thread c t => (ctxOf s (thOf s c t).cx.toNat).segs.any fun g => paSpace g.2.pbase == 1 && segOver s g.2 (soBase n)

/-- R312 step 3: some request admitted under an object's old epoch has not completed. -/
def underWay (s : State) (obj lo hi : Nat) : Bool :=
  (s.cores.any fun k => coreUnder s k.2 obj lo hi) ||
    s.so.any fun o => decide (lo ≤ soBase o.1) && decide (soBase o.1 < hi) && o.2.waiters.any (waiterUnder s o.1)

/-- R311, R312: a service that has had its effect replies, once what it waits for has completed and what it writes is written. -/
def svcClose (s : State) (e : SvcEnd) : State :=
  let cx := (thOf s e.c e.t).cx.toNat
  let keep (s : State) (e : SvcEnd) : State :=
    { s with board := { s.board with svcEnds := (s.board.svcEnds.filter fun q => !(q.c == e.c && q.t == e.t)) ++ [e] } }
  if decide (e.lo < e.hi) && underWay s e.obj e.lo e.hi then keep s e
  else match e.out with
  | some (va, bs) =>
    let s1 := svcWrite s cx va bs
    let away := (pieces va bs.length).filter fun p => match svcAt s cx [rWR] p.1 p.2 with | .there _ _ => true | _ => false
    if away.isEmpty then svcForget (svcReply s1 e.c e.t (BitVec.ofNat 64 e.code)) e.c e.t
    else keep (away.foldl (fun s p => match svcAt s cx [rWR] p.1 p.2 with
      | .there pa g => svcSend s e.c e.t true pa g p.1 p.2 ((bs.drop (p.1 - va)).take p.2)
      | _ => s) s1) { e with out := none, lo := 0, hi := 0 }
  | none =>
    let ws := s.board.svcParts.filter fun p => p.c == e.c && p.t == e.t && p.ic == e.ic && p.wr
    if ws.any fun p => p.got.isNone then keep s e
    else
      let bad := ws.any fun p => match p.got with | some (st, _) => st != stOk | none => false
      svcForget (svcReply s e.c e.t (if bad then 1#64 else BitVec.ofNat 64 e.code)) e.c e.t

/-- R311: a service refused. -/
def svcRefuse (s : State) (c t : Nat) : State := svcForget (svcReply s c t 1#64) c t

/-- R311: a capability service of thread t: it ends what it has begun; it is refused where it may not read an argument or write its output;
it asks other devices for the arguments that lie there; and with all of them at hand it has its effect. -/
def capService (s : State) (c t : Nat) (n : BitVec 8) (args : List (Nat × Nat)) (out : Option Nat) (go : State → State) : Out :=
  let x := thOf s c t
  let cx := x.cx.toNat
  if !(waitsFor x n) then .next s
  else match s.board.svcEnds.find? fun e => e.c == c && e.t == t && e.ic == x.icount with
  | some e => .next (svcClose s e)
  | none =>
    let ps := (args.map fun r => pieces r.1 r.2).flatten
    let first := !(s.board.svcParts.any fun p => p.c == c && p.t == t && p.ic == x.icount)
    let s1 := if first then args.foldl (fun s r => svcTouch cx r.2 [rRD] s r.1) s else s
    let s2 := match out with
      | some va => if first then svcTouch cx 32 [rWR] s1 va else s1
      | none => s1
    .next (if (ps.any (svcPieceBad s2 c t cx)) || (match out with | some va => !(svcMayWrite s2 cx va 32) | none => false) then
        svcRefuse s2 c t
      else if ps.any (svcPieceAway s2 c t cx) then args.foldl (svcAsk c t cx) s2
      else go s2)

/-- R311: DERIVE: what it writes, where the held capability and the request allow it. -/
def derived (s : State) (w : World) (k : BitVec 256) (base len rights : Nat) : Option (BitVec 256) :=
  if sealOk s k && capWorld k == w && (capRights k).getLsbD rDLG && decide (0 < len) && decide (capBase k ≤ base)
      && decide (base + len ≤ capBase k + capLen k) && decide (rights < 65536) && rights &&& (capRights k).toNat == rights then
    some (sealCap s (capBody base len (BitVec.ofNat 16 rights) (capObj k) (capEpoch k) (capOwner k) w))
  else none

/-- R311: DERIVE. -/
def execDerive (c : BitVec 8) (t : BitVec 3) (s : State) : Out :=
  let x := thOf s c.toNat t.toNat
  let a (r : BitVec 5) : Nat := (getS x r).toNat
  capService s c.toNat t.toNat 0x20#8 [(a 2, 32), (a 3, 24)] (some (a 4)) fun s =>
    let cx := x.cx.toNat
    let rq := wordsOf 3 (svcArg s c.toNat t.toNat cx (a 3) 24)
    let k := BitVec.ofNat 256 (leNat (svcArg s c.toNat t.toNat cx (a 2) 32))
    match derived s (worldOf (coreOf s c.toNat) t.toNat) k (rq.getD 0 0#64).toNat (rq.getD 1 0#64).toNat (rq.getD 2 0#64).toNat with
    | some d => svcClose s { c := c.toNat, t := t.toNat, ic := x.icount, obj := 0, lo := 0, hi := 0, out := some (a 4, natLe 32 d.toNat), code := 0 }
    | none => svcRefuse s c.toNat t.toNat

/-- R312: both I/O dies drop every verified capability of an object. -/
def dropVerified (s : State) (obj : Nat) : State :=
  { s with vercaps := tabMap s.vercaps fun _ l => l.filter fun k => capObj k != obj }

/-- R312: whether a held capability passes R308 for REVOKE: DLG, over the whole object. -/
def mayRevoke (s : State) (w : World) (k : BitVec 256) : Bool :=
  let o := tabGet {} s.objs (capObj k % 65536)
  capCheck s k w [rDLG] true o.base o.len == 0

/-- R311, R312: REVOKE: the epoch is written and the verified entries are dropped at once; the reply, and the fresh capability, wait until
every request admitted under the old epoch has completed. A further REVOKE command of the thread asks again. -/
def execRevoke (c : BitVec 8) (t : BitVec 3) (s : State) : Out :=
  let x := thOf s c.toNat t.toNat
  let a (r : BitVec 5) : Nat := (getS x r).toNat
  capService s c.toNat t.toNat 0x21#8 [(a 2, 32)] (some (a 4)) fun s =>
    let k := BitVec.ofNat 256 (leNat (svcArg s c.toNat t.toNat x.cx.toNat (a 2) 32))
    let w := worldOf (coreOf s c.toNat) t.toNat
    let i := capObj k % 65536
    let o := tabGet {} s.objs i
    if !(mayRevoke s w k) then svcRefuse s c.toNat t.toNat
    else
      let e : SvcEnd := { c := c.toNat, t := t.toNat, ic := x.icount, obj := capObj k, lo := o.base, hi := o.base + o.len, out := none, code := 2 }
      if o.epoch = 0xFFFF#16 then
        svcClose (dropVerified { s with objs := tabSet s.objs i { o with valid := false } } (capObj k)) e
      else
        let d := sealCap s (capBody (capBase k) (capLen k) (capRights k) (capObj k) (o.epoch.toNat + 1) (capOwner k) w)
        svcClose (dropVerified { s with objs := tabSet s.objs i { o with epoch := o.epoch + 1#16 } } (capObj k))
          { e with out := some (a 4, natLe 32 d.toNat), code := 0 }

/-- R308, R311: CHECK: the first failing check over the capability's own range. A capability that cannot be read fails the
first. -/
def execCheck (c : BitVec 8) (t : BitVec 3) (s : State) : Out :=
  let x := thOf s c.toNat t.toNat
  let va := (getS x 2#5).toNat
  capService s c.toNat t.toNat 0x22#8 [(va, 32)] none fun s =>
    let k := BitVec.ofNat 256 (leNat (svcArg s c.toNat t.toNat x.cx.toNat va 32))
    svcForget (svcReply s c.toNat t.toNat (BitVec.ofNat 64
      (capCheck s k (worldOf (coreOf s c.toNat) t.toNat) [] true (capBase k) (capLen k)))) c.toNat t.toNat

/-- R472: a request block's fields, where none of them is refused; `host`: its addresses are host addresses (R469). -/
def ioParse (s : State) (w : World) (cx : Nat) (host : Bool) (ws : List Word) : Option IoReq :=
  let f (i lo len : Nat) : Nat := field (ws.getD i 0#64).toNat lo len
  let file := f 0 2 8
  let op := f 0 0 2
  let r : IoReq :=
    { key := [], cx := cx, op := op, file := fileKey w file, so := f 0 10 13, off := f 1 0 48, va := f 2 0 48, len := f 3 0 32,
      blk := 0, done := none, retried := false, host := host }
  match tabFind s.board.files fun k _ => k == fileKey w file with
  | none => none
  | some (_, jf) =>
    if (op != 1 && op != 2) || f 0 23 41 != 0 || f 1 48 16 != 0 || f 2 48 16 != 0 || f 3 40 24 != 0 || soMon r.so
        || r.off % 4096 != 0 || r.va % 4096 != 0 || r.len % 4096 != 0 || r.len == 0 || decide (0x4000000 < r.len)
        || (if op = 1 then jf.output else !jf.output) || decide (jf.len < r.off + r.len)
        || !(host || svcOk s cx [if op = 1 then rWR else rRD] r.va r.len) then none
    else some r

/-- R472: a request completes: STATUS is written, then the object is signalled with 1. -/
def ioFinish (s : State) (r : IoReq) (status : Nat) : State :=
  let s1 := if r.host then s else svcWrite s r.cx (r.blk + 28) [BitVec.ofNat 8 status]
  let s2 := { s1 with board := { s1.board with io := s1.board.io.map fun q =>
    if q.key = r.key then { q with done := some status } else q } }
  signalSo s2 r.so 1#64

/-- R471, R472: an accepted request joins the service's requests; one on a lost namespace completes with STATUS 2. -/
def ioAccept (s : State) (r : IoReq) : State :=
  let s1 := { s with board := { s.board with io := s.board.io ++ [r] } }
  let ns := (tabGet ({ ns := 0, base := 0, len := 0, output := false } : JobFile) s.board.files r.file).ns
  if s.board.lostNs.contains ns then ioFinish s1 r 2 else s1

/-- R472, R473: IOSUBMIT; a write whose key has completed completes at once with its recorded STATUS. -/
def execIosubmit (c : BitVec 8) (t : BitVec 3) (s : State) : Out :=
  let x := thOf s c.toNat t.toNat
  if !(waitsFor x 0x30#8) then .next s
  else
    let cx := x.cx.toNat
    let blk := (getS x 2#5).toNat
    let w := worldOf (coreOf s c.toNat) t.toNat
    let key := [cx, c.toNat, t.toNat, x.icount]
    let fin (s : State) (v : Word) : Out := .next (svcReply s c.toNat t.toNat v)
    if blk % 8 != 0 || !(svcOk s cx [rRD, rWR] blk 32) then fin s 1#64
    else match ioParse s w cx false (wordsOf 4 (svcRead s cx blk 32)) with
      | none => fin s 1#64
      | some r0 =>
        let r : IoReq := { r0 with key := key, blk := blk }
        match s.board.io.find? fun q => q.key == key with
        | some q => match q.done with
          | some st => if r.op = 2 then fin (ioFinish s { r with key := key } st) 0#64
              else fin (ioAccept { s with board := { s.board with io := s.board.io.filter fun p => p.key != key } } r) 0#64
          | none => fin s 0#64
        | none =>
          if decide (256 ≤ (s.board.io.filter fun q => q.cx == cx && q.done.isNone).length) then fin s 2#64
          else fin (ioAccept s r) 0#64

end Sys2Proof.Machine
end

