-- ==== Sys2Proof/Machine/Board.lean ====
section
/-!
DEFINITION. Sys2Proof/Machine/Board.lean: the board interfaces (R462 to R485): PCIe and the mailbox, the NVMe service, management over
MCTP, the test access port and the extension link's port.
-/

namespace Sys2Proof.Machine

/-- R474: the monitor answers PLDM from event 4 on, while its outputs are enabled. -/
def pldmOn (s : State) : Bool := booted s && outputsOn s

/-- R475: BASE_DISCOVERY: a Base request, by its DSP0240 command number (PRESUMED): 2 asks for the TID, 4 for the types. -/
def execBaseDiscovery (sensor : BitVec 8) (s : State) : Out :=
  .next (if !(pldmOn s) then s
    else if sensor = 2#8 then pldmAnswer s pldmSuccess [s.board.tid.toNat]
    else if sensor = 4#8 then pldmAnswer s pldmSuccess [0, 2, 5, 7]
    else pldmAnswer s pldmSuccess (Config.pldmBase sensor.toNat))

/-- R475: the device-state sensor: 0 booting, 1 ready, 2 in job, 3 recovering, 4 lost. -/
def deviceState (s : State) : Nat :=
  if s.steep.lost.contains s.fab.devnum then 4
  else if s.steep.halted || s.fab.recov then 3
  else if jobOn s then 2
  else match s.boot.phase with
    | .loader => 1
    | _ => 0

/-- A temperature as a byte, two's complement. -/
def tempByte (t : Int) : Nat := (t % 256).toNat

/-- R475: the reading of a sensor. The numbers are the model's: 0 to 5 the dies, 6 to 13 the stacks, 14 and 15 VIN_A and VIN_B, 16 the
input power, 17 the device state, 18 the leader holder, 19 the supply in use. -/
def sensorReading (s : State) (n : Nat) : Option Nat :=
  if n < 6 then some (tempByte (tabGet 0 s.power.temps n))
  else if n < 14 then some (tempByte (tabGet 0 s.memsys.temps (n - 6)))
  else match n with
    | 14 => some s.power.vina.toNat
    | 15 => some s.power.vinb.toNat
    | 16 => some (Config.inputPower s.draws)
    | 17 => some (deviceState s)
    | 18 => some s.steep.holder.toNat
    | 19 => some (b2n s.power.inuseB)
    | _ => none

/-- R475: GET_SENSOR_READING; an unknown sensor is answered with an error. -/
def execGetSensorReading (sensor : BitVec 8) (s : State) : Out :=
  .next (if !(pldmOn s) then s
    else match sensorReading s sensor.toNat with
      | some v => pldmAnswer { s with draws := s.draws + 1 } pldmSuccess [v]
      | none => pldmAnswer s pldmError [])

/-- R432: an event of the ring as numbers, with the cause, outcome and duration that the monitor gives it. -/
def eventNums (e : EvEvent) : List Nat := [e.time, e.kind, e.place, e.ident] ++ Config.eventRest e.time e.kind e.place

/-- R475: EVIDENCE_READ: the record from monitor memory: identity, power-on hours, the lowest voltages seen, the counts with the highest
temperatures among them, and the events. -/
def execEvidenceRead (s : State) : Out :=
  .next (if !(pldmOn s) then s
    else pldmAnswer s pldmSuccess
      ([partCode s.part, 0xB0, s.boot.serial, Config.lot, s.boot.image.version, Config.powerHours s.time, s.power.minA.getD 0,
          s.power.minB.getD 0]
        ++ (s.steep.counts.map fun e => [e.1, e.2]).flatten ++ (s.steep.ring.map eventNums).flatten))

/-- R446: AON_BOOT as it reads. -/
def aonBoot (s : State) : Word :=
  let b := s.boot
  BitVec.ofNat 64 (b2n b.bank + b2n b.fallback * 2 + b.causeA.toNat * 2 ^ 2 + b.causeB.toNat * 2 ^ 10 + b.strfail.toNat * 2 ^ 18
    + b.secmin.toNat * 2 ^ 20 + b.slots.toNat * 2 ^ 26 + b.boots.toNat * 2 ^ 32)

/-- R475: ERRLOG_READ: the monitor's error log, with AON_BOOT. -/
def execErrlogRead (s : State) : Out :=
  .next (if !(pldmOn s) then s
    else pldmAnswer s pldmSuccess ((aonBoot s).toNat :: (s.memsys.errlog.map fun e => [e.1, e.2]).flatten))

/-- R475: DEVKEY_READ: the device public key. -/
def execDevkeyRead (s : State) : Out :=
  .next (if pldmOn s then pldmAnswer s pldmSuccess (Config.publicKey s.boot.devKey) else s)

/-- R286, R475: MAINT_REQ: a maintenance command served: 0 the repair list, 1 the lane map, 2 a row scheduled (its stack in arg64[34:32],
the row in [31:0]), 3 the temperatures; the spec gives no numbers. Any other is no maintenance command, and changes nothing. -/
def execMaintReq (cmd8 : BitVec 8) (arg64 : Word) (s : State) : Out :=
  .next (if !(pldmOn s) then s
    else match cmd8.toNat with
      | 0 => maintAnswer s (repairList s)
      | 1 => maintAnswer s (laneMap s)
      | 2 => maintAnswer (recordRow s (field arg64.toNat 32 3) (field arg64.toNat 0 32)) []
      | 3 => maintAnswer s (stackTemps s)
      | _ => s)

/-- R475: MAINT_RSP: the response to the latest maintenance command. -/
def execMaintRsp (s : State) : Out := .next (if pldmOn s then pldmAnswer s pldmSuccess s.board.maintRsp else s)

/-- R474: ENTDAA: the I3C dynamic address. -/
def execEntdaa (da7 : BitVec 7) (s : State) : Out := .next { s with board := { s.board with dynAddr := da7 } }

/-- R474: EID_ASSIGNMENT by the bus owner. -/
def execEidAssignment (eid8 : BitVec 8) (s : State) : Out := .next { s with board := { s.board with eid := eid8 } }

/-- R468: MB_CMDTAIL_WRITE: the doorbell, in endpoint mode. -/
def execMbCmdtailWrite (tail8 : BitVec 8) (s : State) : Out :=
  .next (if s.board.endpoint then { s with board := { s.board with cmdTail := tail8 } } else s)

/-- R468, R469: MB_RSPHEAD_WRITE: the host has consumed responses. -/
def execMbRspheadWrite (head8 : BitVec 8) (s : State) : Out :=
  .next (if s.board.endpoint then { s with board := { s.board with rspHead := head8 } } else s)

/-- R469: the monitor reads the next command: the mailbox is served, a command waits, and the response ring has room. With indices of 8
bits a ring of 256 slots is full one slot before HEAD. -/
def mbReady (s : State) : Bool :=
  let b := s.board
  b.endpoint && b.ready && booted s && outputsOn s && b.cmdHead != b.cmdTail && b.rspTail + 1#8 != b.rspHead

/-- R469: the response to a command, and MSI-X vector 0. -/
def mbRespond (s : State) (tag : BitVec 16) (status : Nat) (reason : Option Reason) (result : List Word) : State :=
  let b := s.board
  let r : MbRsp :=
    { tag := tag, status := BitVec.ofNat 8 status,
      code := match reason with | some e => BitVec.ofNat 8 e.1 | none => 0#8,
      wher := match reason with | some e => e.2 | none => 0#64, result := result }
  { s with board := { b with
    cmdHead := b.cmdHead + 1#8, rspTail := b.rspTail + 1#8, rsps := r :: b.rsps, msix := b.msix + 1 } }

/-- R469: a mailbox command, taken when the monitor reads it. -/
def mbCommand (s : State) (f : State → State) : Out := .next (if mbReady s then f s else s)

/-- R450, R469: JOB_SUBMIT. -/
def execJobSubmit (tag : BitVec 16) (job : JobDesc) (s : State) : Out :=
  mbCommand s fun s =>
    let (r, s1) := jobLoad s job
    mbRespond s1 tag r.status r.reason []

/-- R85, R469: TIME since a world's job was started: since the first of its threads that is not stopped. -/
def jobElapsed (s : State) (w : World) : Nat :=
  let starts := (s.cores.map fun e =>
    (e.2.th.filter fun x => x.2.st != .stopped && worldOf e.2 x.1 == w).map fun x => x.2.jobStart).flatten
  match starts with
  | [] => 0
  | t :: ts => s.time - ts.foldl min t

/-- R431: the recovery counts of a world. -/
def wcnt (s : State) (w : World) : Word := match w with | .P => s.steep.wcntP | .T => s.steep.wcntT

/-- R469: JOB_STATUS: 1 while the world runs a job, its elapsed time and its recovery counts. -/
def execJobStatus (tag : BitVec 16) (w : World) (s : State) : Out :=
  mbCommand s fun s =>
    mbRespond s tag 0 none [b2w (devBit s (12 + worldBit w)), BitVec.ofNat 64 (jobElapsed s w), wcnt s w]

/-- R469: SEG_CHANGE: the monitor writes the descriptor's eight words; a Strainer run that refuses EN is reported. Only words of the
list's first eight are the descriptor's. -/
def execSegChange (tag : BitVec 16) (cx : BitVec 6) (sg : BitVec 4) (words : List Word) (s : State) : Out :=
  if words.length != 8 then .refused .illFormed
  else mbCommand s fun s =>
    let (env, s0) := storeEnv s
    -- EN is written last, with word 3
    let order := ((words.zipIdx).filter fun v => v.2 != 3) ++ ((words.zipIdx).filter fun v => v.2 == 3)
    let s1 := order.foldl (fun s v => sgWrite s cx.toNat sg.toNat v.2 v.1 (envOnly env 0x20 0x2C)) s0
    let g := segOf (ctxOf s1 cx.toNat) sg.toNat
    let x := ctxOf s1 cx.toNat
    if (words.getD 3 0#64).getLsbD 24 && !g.en then
      mbRespond s1 tag 2 (some (field x.strReason.toNat 0 8, x.strWhere)) []
    else mbRespond s1 tag 0 none []

/-- R304, R469: MIRROR_SET: the copy of every context's descriptors begins. -/
def execMirrorSet (tag : BitVec 16) (addr64 : Word) (s : State) : Out :=
  mbCommand s fun s =>
    let all := (s.ctxs.map fun e => e.2.segs.map fun g => (e.1, g.1, g.2)).flatten
    mbRespond { s with board := { s.board with mirror := some addr64, mirrorSeq := 0#64, mirrored := all } } tag 0 none []

/-- R469, R472: HOST_IO: an I/O request whose data and block lie in host memory; the result is that of IOSUBMIT. -/
def execHostIo (tag : BitVec 16) (cx : BitVec 6) (words : List Word) (s : State) : Out :=
  if words.length != 4 then .refused .illFormed
  else mbCommand s fun s =>
    match ioParse s (ctxOf s cx.toNat).world cx.toNat true words with
    | none => mbRespond s tag 0 none [1#64]
    | some r0 =>
      let r : IoReq := { r0 with key := [cx.toNat, 256, s.board.msix, s.board.rsps.length] }
      if decide (256 ≤ (s.board.io.filter fun q => q.cx == cx.toNat && q.done.isNone).length) then mbRespond s tag 0 none [2#64]
      else mbRespond (ioAccept s r) tag 0 none [0#64]

/-- R472: IO_COMPLETE: the ioidx-th request that is not complete ends with a STATUS; the data of a read are written first. `bytes` are
the file's bytes, with zeros where a 4 KiB block met a media error. -/
def execIoComplete (ioidx status8 : BitVec 8) (bytes : List Byte) (s : State) : Out :=
  match (s.board.io.filter fun q => q.done.isNone)[ioidx.toNat]? with
  | none => .next s
  | some r =>
    if r.op = 1 && decide (status8.toNat < 2) && bytes.length != r.len then .refused .illFormed
    else
      let s1 := if r.op = 1 && decide (status8.toNat < 2) && !r.host then svcWrite s r.cx r.va bytes else s
      .next (ioFinish s1 r status8.toNat)

/-- R470: the controller of a namespace, as the IO section names it. -/
def ctrlOf (s : State) (ns : Nat) : Option Nat :=
  ((Config.ioOf (section_ s 0x0D)).nsCtrl.find? fun e => e.1 == ns).map fun e => e.2

/-- R470: the namespace a request reads or writes. -/
def nsOf (s : State) (r : IoReq) : Nat :=
  (tabGet ({ ns := 0, base := 0, len := 0, output := false } : JobFile) s.board.files r.file).ns

/-- R470: NVME_TIMEOUT: the controller's oldest command is aborted, the controller reset and the command issued once more; the second
failure marks the controller failed and its namespaces lost, and every request to a file on them completes with STATUS 2 (R471). -/
def execNvmeTimeout (ctrl : BitVec 4) (s : State) : Out :=
  let b := s.board
  let n := ctrl.toNat
  if b.failed.contains n then .next s
  else
    match b.io.find? fun q => q.done.isNone && ctrlOf s (nsOf s q) == some n with
    | none => .next s
    | some r =>
      if !r.retried then
        .next { s with board := { b with io := b.io.map fun q => if q.key = r.key then { q with retried := true } else q } }
      else
        let lost := ((Config.ioOf (section_ s 0x0D)).nsCtrl.filter fun e => e.2 == n).map fun e => e.1
        let s1 := { s with board := { b with failed := n :: b.failed, lostNs := b.lostNs ++ lost } }
        .next ((s1.board.io.filter fun q => q.done.isNone && lost.contains (nsOf s1 q)).foldl (fun s q => ioFinish s q 2) s1)

/-- R466: PCIE_ENUMERATE: at link-up in root-port mode; at most 16 controllers are used (R470). -/
def execPcieEnumerate (ctrls : List (BitVec 4)) (s : State) : Out :=
  .next (if booted s && !s.board.endpoint then
    { s with board := { s.board with ctrls := (ctrls.map fun c => c.toNat).dedup, failed := [] } } else s)

/-- Stretches of which each begins where the one before ends are one. -/
def joinStretches : List (Nat × Nat) → List (Nat × Nat)
  | [] => []
  | w :: ws => match joinStretches ws with
    | v :: vs => if w.1 + w.2 = v.1 then (w.1, w.2 + v.2) :: vs else w :: v :: vs
    | [] => [w]

/-- R466: the memory that the I/O service has opened to the controller of a command in progress: the stretches of the request's range, with
the LOCAL address as the address on PCIe. -/
def openWindows (s : State) (wr : Bool) : List (Nat × Nat) :=
  ((s.board.io.filter fun q => q.done.isNone && !q.host && q.op == (if wr then 1 else 2)).map fun q =>
    joinStretches ((pieces q.va q.len).filterMap fun p =>
      (svcPa s q.cx [if wr then rWR else rRD] p.1 p.2).map fun a => (a, p.2))).flatten

/-- R466: INBOUND_TLP: admitted within a window open for a command in progress or within the interrupt window; any other request is
answered Unsupported Request and logged. A read asks for as many bytes as the list has. -/
def execInboundTlp (wr : Bool) (addr64 : Word) (bytes : List Byte) (s : State) : Out :=
  let a := addr64.toNat
  let inside (w : Nat × Nat) : Bool := decide (w.1 ≤ a) && decide (a + bytes.length ≤ w.1 + w.2)
  .next (if !s.board.endpoint && s.board.rate != 0#2 && (openWindows s wr).any inside then
      (if wr then memStore s a bytes
        else { s with board := { s.board with hostData := loadZeroPoison s a bytes.length } })
    else if !s.board.endpoint && s.board.rate != 0#2 && wr && inside (Config.intWindow, 4096) then s
    else { notify s 9 a with board := { (notify s 9 a).board with hostData := [] } })

/-- R464, R465: PCIE_LINK_RETRAIN: the link trains at a rate and a width; rate 0 leaves it down. It needs its reference clock (R494). -/
def execPcieLinkRetrain (rate2 width2 : BitVec 2) (s : State) : Out :=
  let b := s.board
  let up := s.power.pcieRef && rate2 != 0#2
  let n := if b.retrain = BitVec.allOnes 16 then b.retrain else b.retrain + 1#16
  .next { s with board := { b with
    retrain := n, rate := if up then rate2 else 0#2, width := if up then width2 else 0#2 } }

/-- R510: PCIE_PERST_N, an input in endpoint mode: low resets the PCIe port. -/
def execPciePerstN (high : Bool) (s : State) : Out :=
  if !s.board.endpoint then .next s
  else
    let s1 := { s with board := { s.board with perstN := high } }
    .next (if high then s1 else fencePcie s1)

/-- R464: PCIE_STAT as it reads. -/
def pcieStat (s : State) : Word :=
  let b := s.board
  BitVec.ofNat 64 (b2n b.endpoint + b.rate.toNat * 2 + b.width.toNat * 2 ^ 3 + b.retrain.toNat * 2 ^ 16)

/-- R478: IDCODE: version 0xB, part number 0x4B31, Gelvan's JEP106 code and the 1 of IEEE 1149.1. -/
def idcodeWord : BitVec 32 := (0xB#4 ++ 0x4B31#16 ++ Config.jep106 ++ 1#1)

/-- R478: an instruction of the test access port; with JTAG_SEL low every one but BYPASS, IDCODE and SAMPLE/PRELOAD acts as BYPASS. The
bypass register captures 0 (PRESUMED: IEEE 1149.1). -/
def tapSelect (s : State) (i : TapInstr) : State :=
  let basic := match i with
    | .bypass | .idcode | .samplePreload => true
    | _ => false
  let j := if basic || s.board.jtagSel then i else .bypass
  let dr := match j with
    | .idcode => some idcodeWord
    | .bypass => some 0#32
    | _ => none
  { s with board := { s.board with tap := j, tapDr := dr } }

/-- R478. -/
def execBypass (s : State) : Out := .next (tapSelect s .bypass)
/-- R478. -/
def execIdcode (s : State) : Out := .next (tapSelect s .idcode)
/-- R478: the boundary is sampled; nothing else of the device changes. -/
def execSamplePreload (s : State) : Out := .next (tapSelect s .samplePreload)
/-- R478. -/
def execExtest (s : State) : Out := .next (tapSelect s .extest)
/-- R478. -/
def execClamp (s : State) : Out := .next (tapSelect s .clamp)
/-- R478. -/
def execHighz (s : State) : Out := .next (tapSelect s .highz)
/-- R478. -/
def execExtestPulse (s : State) : Out := .next (tapSelect s .extestPulse)
/-- R478. -/
def execExtestTrain (s : State) : Out := .next (tapSelect s .extestTrain)

/-- R507: TRST_N: the test access port is reset; IDCODE is selected (PRESUMED: IEEE 1149.1). -/
def execTrstN (s : State) : Out := .next { s with board := { s.board with tap := .idcode, tapDr := none } }

/-- R483: every request without its reply is sent again with REPLAY = 1; those that have not been sent yet follow as they are. -/
def extAgain (e : ExtLink) : List ExtReq :=
  ((e.outst.filter fun r => !(e.waiting.contains r)).map fun r => { r with replay := true }) ++ e.waiting

/-- R483: EXT_TRAINING: the link comes UP with the credits that TRAIN names; after three failures in a row it is FAILED until the next
device reset. -/
def execExtTraining (ok : Bool) (credinit : BitVec 12) (chipid : BitVec 35) (s : State) : Out :=
  let e := s.board.ext
  let may := e.en && booted s && (match e.st with
    | .down | .training => true
    | _ => false)
  if !may then .next s
  else if ok then
    let w := extAgain e
    .next (setExt s (extPump { e with
      st := .up, credinit := credinit, chipid := chipid, credits := credinit.toNat, txSeq := 0#8, unacked := [],
      rxSeq := 0#8, nakSent := false, tries := 0, waiting := w,
      outst := (e.outst.filter fun r => e.waiting.contains r) ++ (w.filter fun r => !(e.waiting.contains r)) }))
  else if e.tries + 1 < 3 then .next (setExt s { e with st := .training, tries := e.tries + 1 })
  else .next (setExt s { e with st := .failed, tries := 0, unacked := [], waiting := [], outst := [] })

/-- R483: EXT_LINK_DOWN: no good flit for 256 flit times. -/
def execExtLinkDown (s : State) : Out :=
  let e := s.board.ext
  if e.st == .up then
    .next (setExt s { e with st := .down, nakSent := false, downs := if e.downs = 255#8 then e.downs else e.downs + 1#8 })
  else .next s

/-- R481: the flits up to ACK are no longer held. -/
def extAcked (e : ExtLink) (ack : BitVec 8) : ExtLink :=
  match e.unacked.findIdx? fun u => u.1 == ack with
  | some i => { e with unacked := e.unacked.drop (i + 1) }
  | none => e

/-- R481, R485: a NAK: counted, and the flits from ACK + 1 on go out again. -/
def extNak (e : ExtLink) (ack : BitVec 8) : ExtLink :=
  extAcked { e with retry := if e.retry = BitVec.allOnes 16 then e.retry else e.retry + 1#16 } ack

/-- R481: EXT_RESEND. -/
def execExtResend (ack8 : BitVec 8) (s : State) : Out :=
  .next (if s.board.ext.st == .up then setExt s (extPump (extNak s.board.ext ack8)) else s)

/-- R485: UNMATCHED incremented. -/
def extUnmatched (e : ExtLink) : ExtLink :=
  { e with unmatched := if e.unmatched = BitVec.allOnes 16 then e.unmatched else e.unmatched + 1#16 }

/-- R137, R482: a reply answers a request that is open or whose late reply is awaited. -/
def extKnown (s : State) (f : ExtFlit) : Bool :=
  s.board.ext.outst.any (extMatches f.core.toNat f.thread.toNat f.seq)
    || (thOf s f.core.toNat f.thread.toNat).extLate.contains f.seq

/-- R480, R481: EXT_FLIT_RECEIVE at the port. A flit that is bad or out of sequence is discarded, with every later one, until the one
expected comes again; a reply crosses to its core as EXT_REPLY or LATE_REPLY. -/
def execExtFlitReceive (good : Bool) (flit : ExtFlit) (s : State) : Out :=
  let e := s.board.ext
  let seqd := flit.ty == 1#4 || flit.ty == 2#4
  if e.st != .up then .next s
  else if !good || ((seqd || e.nakSent) && flit.lseq != e.rxSeq) then .next (setExt s { e with nakSent := true })
  else if flit.ty == 4#4 then .next s
  else if flit.ty != 0#4 && !seqd then .next (setExt s (extUnmatched e))
  else
    let e1 := if flit.nak then extNak e flit.ack else extAcked e flit.ack
    let e2 := { e1 with
      nakSent := false
      credits := e1.credits + flit.cred.toNat
      rxSeq := if seqd then e1.rxSeq + 1#8 else e1.rxSeq }
    let e3 := if flit.ty == 2#4 && !(extKnown s flit) then extUnmatched e2 else e2
    .next (setExt s (extPump e3))

/-- R485: EXT_LINKCFG_WRITE. -/
def execExtLinkcfgWrite (who : Agent) (v : Word) (s : State) : Out := .next (extLinkcfgWrite s (who == .monitor) v)

/-- R485: EXT_LINKCFG as it reads. -/
def extLinkcfg (s : State) : Word :=
  let e := s.board.ext
  BitVec.ofNat 64 (b2n e.en + e.rate.toNat * 2 + e.txeq.toNat * 2 ^ 3)

/-- R485: EXT_LINKSTAT as it reads. -/
def extLinkstat (s : State) : Word :=
  let e := s.board.ext
  let st := match e.st with
    | .down => 0
    | .training => 1
    | .up => 2
    | .failed => 3
  BitVec.ofNat 64 (st + e.credinit.toNat * 2 ^ 3 + e.retry.toNat * 2 ^ 16 + e.unmatched.toNat * 2 ^ 32 + e.downs.toNat * 2 ^ 48)

end Sys2Proof.Machine
end

