-- ==== Sys2Proof/Machine/Response.lean ====
section
/-!
DEFINITION. Sys2Proof/Machine/Response.lean: what the response to a request of this device does for whoever waits for it (R309, R325,
R346, R359, R362).
-/

namespace Sys2Proof.Machine

/-- R92, R93: a fault that a waiting access meets: it is abandoned, and its thread enters the exception at the instruction. -/
def faultWaiting (s : State) (c t cause : Nat) (va : Nat) : State :=
  let s1 := abandonWait s c t
  enterOutside s1 c t cause (BitVec.ofNat 64 va) (thOf s1 c t).pc 0#18

/-- Part i of a list changed by `f`. -/
def modPart (f : Half → Half) : Nat → List Half → List Half
  | _, [] => []
  | 0, h :: hs => f h :: hs
  | i + 1, h :: hs => h :: modPart f i hs

/-- Part i of the parts of a list of vector elements changed by `f`. -/
def modElem (f : Half → Half) : Nat → List VElem → List VElem
  | _, [] => []
  | i, e :: es =>
    if i < e.halves.length then { e with halves := modPart f i e.halves } :: es
    else e :: modElem f (i - e.halves.length) es

/-- Part i of an access in flight changed by `f`. -/
def modReq (f : Half → Half) (i : Nat) : Req → Req
  | .load d size u hs len => .load d size u (modPart f i hs) len
  | .store bytes hs len => .store bytes (modPart f i hs) len
  | .atom op d size b h => .atom op d size b (f h)
  | .spill b n hs => .spill b n (modPart f i hs)
  | .fill b n hs => .fill b n (modPart f i hs)
  | .rsync op d v h => .rsync op d v (f h)
  | .vec e => .vec (match e.kind with
    | .load d fills es => { e with kind := .load d fills (modElem f i es) }
    | .store val es => { e with kind := .store val (modElem f i es) }
    | _ => e)
  | r => r

/-- The parts of an access in flight. -/
def waitParts : Req → List Half
  | .load _ _ _ hs _ => hs
  | .store _ hs _ => hs
  | .atom _ _ _ _ h => [h]
  | .spill _ _ hs => hs
  | .fill _ _ hs => hs
  | .rsync _ _ _ h => [h]
  | .vec e => match e.kind with
    | .load _ _ es => elemHalves es
    | .store _ es => elemHalves es
    | _ => []
  | _ => []

/-- R346: the cause that a status other than OK and BUSY raises. -/
def statusCause (st : BitVec 16) : Nat := if st = stAlignf then cAlignf else if st = stPoison then cPoison else cCapf

/-- R94: a vector access's masked outcomes are counted as they come; a scalar access's when it completes. -/
def isVec : Req → Bool
  | .vec _ => true
  | _ => false

/-- R104, R179: the parts of an access in flight, by element: only a second part of one element reports SPLIT. -/
def reqGroups : Req → List (List Half)
  | .load _ _ _ hs _ => [hs]
  | .store _ hs _ => [hs]
  | .vec e => match e.kind with
    | .load _ _ es => es.map (·.halves)
    | .store _ es => es.map (·.halves)
    | _ => []
  | r => (waitParts r).map fun h => [h]

/-- Whether an access in flight reads local memory when it completes. -/
def reqReads : Req → Bool
  | .load _ _ _ _ _ => true
  | .fill _ _ _ => true
  | .vec e => match e.kind with
    | .load _ _ _ => true
    | _ => false
  | _ => false

/-- A part that reads local memory. -/
def memPart (s : State) (h : Half) : Bool :=
  !h.bad && !(isRemote s h.pa) && (match regionOf s.part (paLocal h.pa) with
    | .csr => false
    | .so _ => false
    | _ => true)

/-- R359: every part on another device has its response. -/
def partsBack (s : State) (hs : List Half) : Bool := hs.all fun h => h.bad || !(isRemote s h.pa) || h.data.isSome || h.err != 0

/-- R94, R252, R346: the cause that one part of an access in flight meets, or 0: a refusal by another device, or poison of local memory
that it reads. -/
def partCause (s : State) (sb : List SBuf) (rd : Bool) (h : Half) : Nat :=
  if h.bad then 0
  else if h.err != 0 then h.err
  else if rd && memPart s h && readPoison s sb (paLocal h.pa) h.len then cPoison else 0

/-- R104, R179: the first part of an access in flight, by element, that meets a fault: its cause, address and whether it is a second
half. -/
def firstBad (s : State) (sb : List SBuf) (r : Req) : Option (Nat × Nat × Bool) :=
  ((reqGroups r).map fun g => g.zipIdx.map fun e => (partCause s sb (reqReads r) e.1, e.1.va, e.2 != 0)).flatten.find? fun e =>
    e.1 != 0

/-- R94, R179: how often the masked outcome of part i of an access counts: twice for a byte that holds two MXFP4 elements. -/
def partDrops (r : Req) (i : Nat) : Nat :=
  match r with
  | .vec e =>
    let es := match e.kind with
      | .load _ _ es => es
      | .store _ es => es
      | _ => []
    let el := ((es.map fun q => q.halves.map fun _ => q).flatten)[i]?
    (match el with
      | some q => if (fmtOfCode e.vfmt.toNat) == some .mxfp4 && q.bits == 8 && decide (q.pos < 4096) then 2 else 1
      | none => 1)
  | _ => 1

/-- R104, R179, R346: a waiting access some part of which another device has refused takes its fault once every part has its response:
that of its lowest-numbered element. -/
def refusedFault (s : State) (c t : Nat) (r : Req) : State :=
  if !(partsBack s (waitParts r)) || !((waitParts r).any fun h => h.err != 0) then s
  else match firstBad s (thOf s c t).sb r with
    | none => s
    | some (cause, va, second) => faultWaiting s c t (cause + (if second then 0x2000 else 0)) va

/-- R346: the response to part i of thread t's access. -/
def respThread (s : State) (c t i : Nat) (st : BitVec 16) (data : List Byte) : State :=
  let x := thOf s c t
  match x.wait with
  | .reply r =>
    if st != stOk && x.exm then
      let y := { x with wait := .reply (modReq (fun h => { h with bad := true }) i r) }
      if isVec r then setTh (setDropped s (worldOf (coreOf s c) t)) c t (addDrop y (partDrops r i)) else setTh s c t y
    else
      let q := modReq (fun h => if st = stOk then { h with data := some data } else { h with err := statusCause st }) i r
      refusedFault (setTh s c t { x with wait := .reply q }) c t q
  | _ => s

/-- R210, R218: the response to piece k of a gathered row of core c's pass: poison reads zero and marks the pass; a refused read gives
zeros, and the thread takes the fault at its next boundary or counts it (DEDUCED). -/
def respRow (s : State) (c k : Nat) (st : BitVec 16) (data : List Byte) (len : Nat) : State :=
  let m := (coreOf s c).mx
  match m.pass with
  | none => s
  | some p =>
    let bytes := if st = stOk then data else List.replicate len 0#8
    let s1 := setMx s c { m with pass := some { p with got := tabSet p.got k bytes, poisoned := p.poisoned || st == stPoison } }
    if st = stOk || (st = stPoison && p.poisoned) then s1 else unitFault s1 c p.t (statusCause st)

/-- R316, R329: the source bytes of element idx of stream n have come: what will be written, and the flags. -/
def elemRead (x : Ts) (idx : Nat) (bs : List Byte) (zero : Bool) : List TsElem :=
  let (out, fl) := if zero then (List.replicate (tsDstBytes x.desc) 0#8, 0#4) else tsConvert x idx bs
  x.inflight.map fun e => if e.idx = idx && e.data.isNone then { e with data := some out, fl := fl, zero := zero } else e

/-- R325: an element whose request has failed leaves the elements in flight. -/
def elemFault (s : State) (n idx cause : Nat) (side : BitVec 3) : State :=
  let x := tsOf s n
  setTs s n (tsFaultAt { x with inflight := x.inflight.filter fun e => e.idx != idx }
    { idx := idx, cause := BitVec.ofNat 8 cause, side := side, absent := none })

/-- R317, R320, R346: the response to read number idx of stream n: a source element, a piece of its descriptor or a gather entry. -/
def respTsRead (s : State) (n idx : Nat) (st : BitVec 16) (data : List Byte) : State :=
  let x := tsOf s n
  if 2 ^ 60 ≤ idx then s
  else if tsListBase ≤ idx then
    let j := idx - tsListBase
    if st = stOk then setTs s n { x with gl := tabSet x.gl j (sint (8 * data.length) (leNat data)) }
    else elemFault s n (j * x.desc.counts.headD 1) (statusCause st) 3#3
  else if tsDescBase ≤ idx then
    if st = stOk then tsLoadDesc (setTs s n { x with dbuf := tabSet x.dbuf (idx - tsDescBase) data }) n
    else tsEnterFault s n { idx := 0, cause := BitVec.ofNat 8 (descCause (statusCause st)), side := 0#3, absent := none }
  else if st = stOk then setTs s n { x with inflight := elemRead x idx data false }
  else if st = stPoison && x.zpois then setTs s n { x with inflight := elemRead x idx [] true }
  else elemFault s n idx (statusCause st) 1#3

/-- R320, R346: the response to the write of element idx. -/
def respTsWrite (s : State) (n idx : Nat) (st : BitVec 16) : State :=
  if 2 ^ 60 ≤ idx then s
  else if st = stOk then tsDelivered s n idx
  else elemFault s n idx (statusCause st) 2#3

/-- R321, R325, R346: the response to a mark of stream n; a refused mark has not been signalled. -/
def respTsMark (s : State) (n : Nat) (st : BitVec 16) : State :=
  let x := tsOf s n
  if st = stOk then tsAdvance s n
  else setTs s n (tsFaultAt { x with marks := x.marks - 1 }
    { idx := tsDue x.desc x.marks - 1, cause := BitVec.ofNat 8 (statusCause st), side := 4#3, absent := none })

/-- R467: a refused access: counted in the error log; a read completes with zeros. -/
def hostRefused (s : State) (wr : Bool) (va len : Nat) : State :=
  let s1 := notify s 10 va
  if wr then s1 else { s1 with board := { s1.board with hostData := List.replicate len 0#8 } }

/-- R346, R362: a response other than BUSY delivered to whoever waits for it; `o` is no longer outstanding. -/
def deliver (s : State) (o : Outst) (st : BitVec 16) (data : List Byte) : State :=
  match o.owner with
  | .thread c t i => if 65536 ≤ i then s else respThread s c t i st data
  | .mxRow c k => respRow s c k st data o.sent.2.bytes.toNat
  | .tsRead n idx => respTsRead s n idx st data
  | .tsWrite n idx => respTsWrite s n idx st
  | .tsMark n => respTsMark s n st
  | .svc c t ic va => respSvc s c t ic va (o.sent.1 == opWr) st data
  | .host len =>
    if st = stOk then
      (if o.sent.1 = opRd then { s with board := { s.board with hostData := data } } else s)
    else hostRefused s (o.sent.1 == opWr) o.sent.2.addr.toNat len

/-- R403: a type 0x9 record that replay has still to return, by its place in the response: 0 is the status. -/
def recordAt (s : State) (o : Outst) (i : Nat) : Option Word :=
  (s.steep.replay.find? fun r => r.ty == 9 && r.key == [o.agent, o.seq, i]).map fun r => r.val

/-- R353, R403: the words after the status of a recorded response: OPERAND, or the data of a read, which fills 256 bytes at most. -/
def recordWords (s : State) (o : Outst) : List Word :=
  (((List.range 32).map fun i => recordAt s o (i + 1)).takeWhile Option.isSome).map fun v => v.getD 0#64

/-- R408: one repeated TC0 request answered from the outcome log. -/
def answerOne (s : State) (o : Outst) : State :=
  match recordAt s o 0 with
  | none => s
  | some st =>
    let vals := st :: recordWords s o
    let s1 := vals.zipIdx.foldl (fun s e => (outcome s 9 [o.agent, o.seq, e.2] e.1).2) s
    let data := (vals.drop 1 |>.map (wordBytes 8)).flatten
    deliver (dropOutst s1 o) o (st.truncate 16)
      (if o.sent.1 = opRd then data.take o.sent.2.bytes.toNat else if o.sent.1 = opWr then [] else data.take 8)

/-- R408: every repeated TC0 request whose response is recorded is answered. -/
def answerReplay (s : State) : State :=
  (s.fab.outst.filter fun o => o.sent.2.tc == 0#2 && o.sent.2.replay).foldl answerOne s

end Sys2Proof.Machine
end

