-- ==== Sys2Proof/Machine/Csr.lean ====
section
/-!
DEFINITION. Sys2Proof/Machine/Csr.lean: CSR space (R7 to R11, R516): what every register reads and what a store to it does, for the
monitor and for a world's context at a level.
-/

namespace Sys2Proof.Machine

/-- R516: the first address of CSR space. -/
def csrBase : Nat := 0x01F000000000

/-- R516: the block that a CSR address lies in, and the offset in it. -/
inductive CsrBlock where
  | mem | fab
  | ctx (n : Nat)
  | group (g : Nat)
  | steep | aon | strainer | board | power
  | core (c : Nat)
  | stream (n : Nat)
  | none
  deriving DecidableEq, Repr

/-- R516. -/
def csrBlock (a : Nat) : CsrBlock × Nat :=
  let o := a - csrBase
  let page := o / 0x10000
  let low := o % 0x10000
  if a < csrBase then (.none, 0)
  else if 0x1000000 ≤ o && o < 0x2000000 then (.core ((o - 0x1000000) / 0x10000), low)
  else if 0x8000000 ≤ o && o < 0x8100000 then (.stream ((o - 0x8000000) / 0x40), o % 0x40)
  else if 0x40000 ≤ o && o < 0x80000 then (.ctx ((o - 0x40000) / 0x1000), o % 0x1000)
  else if 0x90000 ≤ o && o < 0x91000 then (.group ((o - 0x90000) / 0x40), o % 0x40)
  else match page with
    | 0x2 => (.mem, low)
    | 0x3 => (.fab, low)
    | 0xA => (.steep, low)
    | 0xB => (.aon, low)
    | 0xC => (.strainer, low)
    | 0xD => (.board, low)
    | 0xE => (.power, low)
    | _ => (.none, low)

/-- R10: what a reader who may not read a register gets. -/
def ifMay (b : Bool) (w : Word) : Word := if b then w else 0#64

/-- R291: the monitor, or level S of a world. -/
def worldS (v : Viewer) (w : World) : Bool := v.mon || (v.lvlS && v.world == w)

/-- R263, R287: the device memory block. -/
def memBlockRead (s : State) (v : Viewer) (off : Nat) : Word :=
  match off with
  | 0x000 => ifMay v.lvlS (memCfgWord s)
  | 0x010 => ifMay (worldS v .P) s.memsys.ecntP
  | 0x018 => ifMay (worldS v .T) s.memsys.ecntT
  | _ => 0#64

/-- R342: FAB_LINKn as it reads. -/
def linkWord (k : Link) : Word :=
  let st := match k.st with
    | .down => 0
    | .training => 1
    | .up => 2
    | .upSpare => 3
    | .failed => 4
  BitVec.ofNat 64 (st + k.splane.toNat * 2 ^ 3 + k.nbr.toNat * 2 ^ 8 + k.nlvl.toNat * 2 ^ 22 + k.retry.toNat * 2 ^ 32
    + k.storm.toNat * 2 ^ 48)

/-- R364: FAB_LEVEL as it reads; NMAX is 3. -/
def levelWord (s : State) : Word := BitVec.ofNat 64 (3 + s.fab.lvlN.toNat * 2 ^ 4 + s.fab.active.toNat * 2 ^ 8)

/-- R369: FAB_TSYNC as it reads. -/
def tsyncWord (s : State) : Word :=
  BitVec.ofNat 64 (s.fab.role.toNat + s.fab.parent.toNat * 2 ^ 2 + b2n s.fab.locked * 2 ^ 5 + s.fab.corr.toNat * 2 ^ 16)

/-- R335, R342, R354, R364, R369, R443: the fabric block. -/
def fabBlockRead (s : State) (v : Viewer) (off : Nat) : Word :=
  if 0x040 ≤ off && off < 0x080 && off % 8 == 0 then ifMay v.mon (linkWord (linkOf s ((off - 0x040) / 8)))
  else match off with
    | 0x000 => ifMay v.lvlS (fabIdWord s)
    | 0x008 => ifMay v.lvlS (levelWord s)
    | 0x010 => ifMay v.mon (b2w s.fab.recov)
    | 0x080 => ifMay v.mon (tsyncWord s)
    | 0x0C0 => ifMay v.mon (s.boot.rmulti.zeroExtend 64)
    | _ => 0#64

/-- R263, R291, R292: a context block. LLC_CXQ reads for level S of either world, as R263 says of it, although R291 has reads of the block
from the other world return zero (DEDUCED, entry 136: the register's own rule goes before the block's). -/
def ctxBlockRead (s : State) (v : Viewer) (cx off : Nat) : Word :=
  let x := ctxOf s cx
  if off = 0x040 then ifMay v.lvlS (x.pinq.zeroExtend 64)
  else if !(cxMay s v cx) then 0#64
  else if 0x400 ≤ off && off < 0x800 && off % 8 == 0 then
    sgWord (segOf x ((off - 0x400) / 0x40)) (off % 0x40 / 8)
  else match off with
    | 0x000 => BitVec.ofNat 64 (b2n x.ctxEn + b2n x.segEn * 2 + (match x.world with | .P => 0 | .T => 4))
    | 0x008 => x.multi.zeroExtend 64
    | 0x020 => 0x112#64
    | 0x028 => x.strReason
    | 0x030 => x.strWhere
    | 0x038 => x.seed
    | _ => 0#64

/-- R383: a collective group's block. -/
def groupBlockRead (s : State) (v : Viewer) (g off : Nat) : Word :=
  let x := grpOf s g
  if !(worldS v (gWorld x)) then 0#64
  else match off with
    | 0x00 => x.word0
    | 0x08 => x.arg
    | 0x10 => x.stage.zeroExtend 64
    | 0x18 => x.result.zeroExtend 64
    | 0x20 => BitVec.ofNat 64 (x.doneN % 2 ^ 32)
    | _ => 0#64

/-- R394, R431: the steep block. -/
def steepBlockRead (s : State) (v : Viewer) (off : Nat) : Word :=
  match off with
  | 0x000 => ifMay v.lvlS (s.steep.ctl.zeroExtend 64)
  | 0x010 => ifMay (worldS v .P) s.steep.wcntP
  | 0x018 => ifMay (worldS v .T) s.steep.wcntT
  | _ => 0#64

/-- R427, R446: the AON block. -/
def aonBlockRead (s : State) (v : Viewer) (off : Nat) : Word :=
  match off with
  | 0x000 => ifMay v.mon (aonLeader s)
  | 0x010 => ifMay v.mon (aonBoot s)
  | _ => 0#64

/-- R451, R455: the Strainer block. -/
def strainerBlockRead (s : State) (v : Viewer) (off : Nat) : Word :=
  match off with
  | 0x000 => ifMay v.mon (s.boot.devEn.zeroExtend 64)
  | 0x008 => ifMay v.mon s.boot.strReason
  | 0x010 => ifMay v.mon s.boot.strWhere
  | _ => 0#64

/-- R463, R464, R485: the board-interface block. -/
def boardBlockRead (s : State) (v : Viewer) (off : Nat) : Word :=
  match off with
  | 0x000 => ifMay v.mon (extLinkcfg s)
  | 0x008 => ifMay v.mon (extLinkstat s)
  | 0x010 => ifMay v.mon (pcieStat s)
  | _ => 0#64

/-- R492: PWR_DOMSTAT as it reads. -/
def domStat (s : State) : Word :=
  BitVec.ofNat 64 (s.power.domOn.toNat + (s.power.domWake ||| s.power.domSleep).toNat * 2 ^ 20)

/-- R489, R492, R498, R502: the power block. -/
def powerBlockRead (s : State) (v : Viewer) (off : Nat) : Word :=
  match off with
  | 0x000 => ifMay v.mon (pwrSupply s)
  | 0x008 => ifMay v.mon (domStat s)
  | 0x010 => ifMay v.mon (s.power.domReq.zeroExtend 64)
  | 0x018 => ifMay v.mon (clkCtl s)
  | 0x020 => ifMay v.mon (clkMeas s)
  | 0x028 => ifMay v.mon (pwrTherm s)
  | _ => 0#64

/-- R138: EXT_CTL as it reads. -/
def extCtlWord (k : Core) : Word :=
  BitVec.ofNat 64 (k.tmoP.toNat + k.tmoT.toNat * 2 ^ 16 + b2n k.enP * 2 ^ 30 + b2n k.enT * 2 ^ 31)

/-- R97: the pending bits a viewer sees. -/
def pendWord (s : State) (k : Core) (v : Viewer) : Word := maskBits fun i => icuPending s k i && srcMay k v i

/-- R87, R97, R107, R138, R216, R240, R244: a core's block. -/
def coreBlockRead (s : State) (v : Viewer) (c off : Nat) : Word :=
  let k := coreOf s c
  if 0x100 ≤ off && off < 0x300 && off % 8 == 0 then
    let n := (off - 0x100) / 8
    ifMay (srcMay k v n) ((tabGet 0#30 k.icuSrc n).zeroExtend 64)
  else if 0x040 ≤ off && off < 0x080 && off % 8 == 0 then
    let t := (off - 0x040) / 8
    ifMay (worldS v (worldOf k t)) (tabGet 0#64 k.icuTmr t)
  else match off with
    | 0x000 => ifMay v.lvlS (coreWorldWord k)
    | 0x008 => ifMay v.lvlS (b2w k.ilv)
    | 0x010 => pendWord s k v
    | 0x020 => ifMay v.mon (k.icuMulti.zeroExtend 64)
    | 0x080 => ifMay v.lvlS (extCtlWord k)
    | 0x0C0 => ifMay v.mon (mxProg { k with mx := landRows k.mx k.clk })
    | 0x0C8 => ifMay v.mon (k.mx.multi.zeroExtend 64)
    | 0x0D0 => ifMay v.mon (seProg k)
    | 0x0E0 => ifMay v.lvlS (match k.ru.world with | .P => 0#64 | .T => 1#64)
    | _ => 0#64

/-- Two 32-bit values in one word. -/
def pair32 (l : List Nat) (i : Nat) : Word := BitVec.ofNat 64 (l.getD i 0 % 2 ^ 32 + l.getD (i + 1) 0 % 2 ^ 32 * 2 ^ 32)

/-- R313: a stream's block. -/
def streamBlockRead (s : State) (v : Viewer) (n off : Nat) : Word :=
  let x := tsOf s n
  if !(tsMay s n v) then 0#64
  else match off with
    | 0x00 => BitVec.ofNat 64 (x.ownCx.toNat + b2n x.ownValid * 64)
    | 0x10 => tsStat x
    | 0x18 => x.fidx.zeroExtend 64
    | 0x20 => pair32 x.fdim 0
    | 0x28 => pair32 x.fdim 2
    | 0x30 => pair32 x.fdim 4
    | _ => 0#64

/-- R7 to R10, R516: what an aligned 64-bit load of CSR space reads. -/
def csrRead (s : State) (v : Viewer) (a : Nat) : Word :=
  match csrBlock a with
  | (.mem, off) => memBlockRead s v off
  | (.fab, off) => fabBlockRead s v off
  | (.ctx n, off) => ctxBlockRead s v n off
  | (.group g, off) => groupBlockRead s v g off
  | (.steep, off) => steepBlockRead s v off
  | (.aon, off) => aonBlockRead s v off
  | (.strainer, off) => strainerBlockRead s v off
  | (.board, off) => boardBlockRead s v off
  | (.power, off) => powerBlockRead s v off
  | (.core c, off) => coreBlockRead s v c off
  | (.stream n, off) => streamBlockRead s v n off
  | (.none, _) => 0#64

/-- R364: a store to FAB_LEVEL by the monitor: N, only while every link is DOWN. -/
def fabLevelWrite (s : State) (mon : Bool) (v : Word) : State :=
  let n := field v.toNat 4 4
  if mon && decide (2 ≤ n) && decide (n ≤ 3) && ((List.range 8).all fun l => (linkOf s l).st == .down) then
    { s with fab := { s.fab with lvlN := BitVec.ofNat 4 n, active := BitVec.ofNat 4 (n - 1) } }
  else s

/-- R364: FAB_LEVEL_WRITE. -/
def execFabLevelWrite (who : Agent) (v : Word) (s : State) : Out := .next (fabLevelWrite s (who == .monitor) v)

/-- R354: a store to FAB_CTL by the monitor. -/
def fabBlockWrite (s : State) (v : Viewer) (off : Nat) (w : Word) : State :=
  match off with
  | 0x008 => fabLevelWrite s v.mon w
  | 0x010 => if v.mon then { s with fab := { s.fab with recov := w.getLsbD 0 } } else s
  | _ => s

/-- R292, R300: a store to CX_CTL: bits that clear act before bits that set, SEG_EN before CTX_EN as it clears. -/
def cxCtlWrite (s : State) (v : Viewer) (cx : Nat) (w : Word) : State :=
  let (env, s0) := storeEnv s
  let s1 := if w.getLsbD 1 then s0 else segEnWrite s0 cx false []
  let s2 := if v.mon then ctxEnWrite s1 cx (w.getLsbD 0) (envOnly env 0x10 0x11) else s1
  if w.getLsbD 1 then segEnWrite s2 cx true (envOnly env 0x20 0x2C) else s2

/-- R49, R263, R291, R301, R302: a store to a context block; none: the store waits (R303). PINQ is covered by CLASS_EN (R453). -/
def ctxBlockWrite (s : State) (v : Viewer) (cx off : Nat) (w : Word) : Option State :=
  let x := ctxOf s cx
  if !(cxMay s v cx) then some s
  else if 0x400 ≤ off && off < 0x800 && off % 8 == 0 then
    let (env, s0) := storeEnv s
    some (sgWrite s0 cx ((off - 0x400) / 0x40) (off % 0x40 / 8) w (envOnly env 0x20 0x2C))
  else match off with
    | 0x000 => some (cxCtlWrite s v cx w)
    | 0x010 => some (setCtx s cx { x with inval0 := w.truncate 48 })
    | 0x018 => cxInval1 s cx w
    | 0x038 => some (setCtx s cx { x with seed := w })
    | 0x040 => some (if v.mon && !(devBit s 11) then setPinq s cx (w.truncate 16) else s)
    | _ => some s

/-- R383: a store to a group's block by the monitor, while the group has no operation in progress. Reserved bits read zero (R8). -/
def groupBlockWrite (s : State) (v : Viewer) (g off : Nat) (w : Word) : State :=
  let x := grpOf s g
  if !v.mon || x.started != x.doneN then s
  else match off with
    | 0x00 => markGroups (setGrp s g { x with word0 := w &&& 0x003FFFFFFFFFFFFF#64 })
    | 0x08 => markGroups (setGrp s g { x with arg := w &&& 0x00000007FFFFFFFF#64 })
    | 0x10 => setGrp s g { x with stage := w.truncate 48 }
    | 0x18 => setGrp s g { x with result := w.truncate 48 }
    | _ => s

/-- R394, R453: a store to STEEP_CTL by the monitor, while STEEP_EN is clear. -/
def steepBlockWrite (s : State) (v : Viewer) (off : Nat) (w : Word) : State :=
  match off with
  | 0x000 => if v.mon && !(devBit s 10) then { s with steep := { s.steep with ctl := w.truncate 58 } } else s
  | _ => s

/-- R427: a store to AON_CLAIM: the claimant is the writing cluster, the one that does the monitor's work. -/
def aonBlockWrite (s : State) (v : Viewer) (off : Nat) (w : Word) : State :=
  match off with
  | 0x008 => if v.mon then aonClaim s (s.steep.holder == 2#2) (w.truncate 32) else s
  | _ => s

/-- R492, R497, R498: a store to the power block by the monitor; with BOOST_EN clear no island runs at 2.1 GHz. -/
def powerBlockWrite (s : State) (v : Viewer) (off : Nat) (w : Word) : State :=
  match off with
  | 0x010 => domReqWrite s v.mon w
  | 0x018 => if v.mon then { s with power := { s.power with
      boostEn := w.getLsbD 0, boosted := if w.getLsbD 0 then s.power.boosted else [] } } else s
  | _ => s

/-- R138: a store to EXT_CTL by the monitor, while EXT_EN is clear (R453). -/
def extCtlWrite (s : State) (c : Nat) (v : Viewer) (w : Word) : State :=
  let p := field w.toNat 0 10
  let t := field w.toNat 16 10
  let bad (n : Nat) : Bool := n == 0 || decide (1000 < n)
  if !v.mon || devBit s 14 || bad p || bad t then s
  else setCore s c { coreOf s c with
    tmoP := BitVec.ofNat 10 p, tmoT := BitVec.ofNat 10 t, enP := w.getLsbD 30, enT := w.getLsbD 31 }

/-- R97: a store to ICU_SRCn: EN, PRIO, THREAD and, for sources 8 to 31, BIND; a world keeps THREAD where it names a thread of the
other world; WORLD is the monitor's. -/
def icuSrcWrite (s : State) (c n : Nat) (v : Viewer) (w : Word) : State :=
  let k := coreOf s c
  let old := tabGet 0#30 k.icuSrc n
  if !(srcMay k v n) then s
  else
    let th := field w.toNat 5 3
    let t := if v.mon || worldOf k th == v.world then th else field old.toNat 5 3
    let wb := if v.mon then field w.toNat 8 1 else field old.toNat 8 1
    let bind := if 8 ≤ n && n < 32 then field w.toNat 16 14 else 0
    let v30 : BitVec 30 := BitVec.ofNat 30 (field w.toNat 0 5 + t * 2 ^ 5 + wb * 2 ^ 8 + bind * 2 ^ 16)
    setCore s c { k with icuSrc := tabSet k.icuSrc n v30 }

/-- R97: a store to ICU_TMRt by the monitor or level S of the thread's world. -/
def icuTmrWrite (s : State) (c t : Nat) (v : Viewer) (w : Word) : State :=
  let k := coreOf s c
  if worldS v (worldOf k t) then setCore s c { k with icuTmr := tabSet k.icuTmr t w } else s

/-- R87, R97, R107, R138, R244: a store to a core's block. -/
def coreBlockWrite (s : State) (v : Viewer) (c off : Nat) (w : Word) : State :=
  if 0x100 ≤ off && off < 0x300 && off % 8 == 0 then icuSrcWrite s c ((off - 0x100) / 8) v w
  else if 0x040 ≤ off && off < 0x080 && off % 8 == 0 then icuTmrWrite s c ((off - 0x040) / 8) v w
  else match off with
    | 0x000 => coreWorldWrite s c v w
    | 0x008 => coreModeWrite s c v w
    | 0x010 => icuPendClear s c v w
    | 0x018 => icuSwi s c v w
    | 0x080 => extCtlWrite s c v w
    | 0x0E0 => if v.mon then ruWorld s c (if w.getLsbD 0 then .T else .P) else s
    | _ => s

/-- R313: a store to a stream's block. -/
def streamBlockWrite (s : State) (v : Viewer) (n off : Nat) (w : Word) : State :=
  match off with
  | 0x00 => if v.mon then setTs s n { tsOf s n with ownCx := w.truncate 6, ownValid := w.getLsbD 6 } else s
  | 0x08 => tsStart s n v w
  | 0x38 => tsCommand s n v w
  | _ => s

/-- R7 to R10, R516: an aligned 64-bit store to CSR space; none: the store waits (R303). -/
def csrWrite (s : State) (v : Viewer) (a : Nat) (w : Word) : Option State :=
  match csrBlock a with
  | (.mem, off) => some (if off = 0 then memCfgWrite s v.mon w else s)
  | (.fab, off) => some (fabBlockWrite s v off w)
  | (.ctx n, off) => ctxBlockWrite s v n off w
  | (.group g, off) => some (groupBlockWrite s v g off w)
  | (.steep, off) => some (steepBlockWrite s v off w)
  | (.aon, off) => some (aonBlockWrite s v off w)
  | (.strainer, off) => some (if off = 0 && v.mon then devEnWrite s w else s)
  | (.board, off) => some (if off = 0 then extLinkcfgWrite s v.mon w else s)
  | (.power, off) => some (powerBlockWrite s v off w)
  | (.core c, off) => some (coreBlockWrite s v c off w)
  | (.stream n, off) => some (streamBlockWrite s v n off w)
  | (.none, _) => some s

/-- R303: a store to CSR space by a requester that nothing else holds up: one that waits takes its effect when it can. -/
def csrStore (s : State) (v : Viewer) (a : Nat) (w : Word) : State :=
  match csrWrite s v a w with
  | some s1 => s1
  | none => match csrBlock a with
    | (.ctx n, _) => addInval s n (invalOf s n w)
    | _ => s

/-- R7, R9: CSR_WRITE; an access that is not aligned to 8 bytes is no store to a register: ALIGNF for the thread that makes it, or its
masked outcome; the monitor makes none. -/
def execCsrWrite (who : Agent) (addr : Word) (v : Word) (s : State) : Out :=
  if addr.toNat % 8 != 0 then
    .next (match who with
      | .monitor => s
      | .thread c t =>
        let x := thOf s c.toNat t.toNat
        if x.st == .stopped then s
        else if x.exm then countMasked s c.toNat t.toNat 1
        else faultWaiting s c.toNat t.toNat cAlignf addr.toNat)
  else .next (csrStore s (viewerOf s who) addr.toNat v)

end Sys2Proof.Machine
end

