-- ==== Sys2Proof/Machine/Reply.lean ====
section
/-!
DEFINITION. Sys2Proof/Machine/Reply.lean: the replies that waiting threads get (R76), and accesses of a host through BAR2 (R467); both
read and write registers, sync objects and memory of this device in one way.
-/

namespace Sys2Proof.Machine

/-- R9, R371: what lies at a LOCAL address in CSR space or in a sync object, as the 8 bytes a viewer reads; none elsewhere. -/
def regRead (s : State) (v : Viewer) (la : Nat) : Option Word :=
  match regionOf s.part la with
  | .csr => some (csrRead s v la)
  | .so k => some (soRead s k (la - soBase k))
  | _ => none

/-- R9, R371: 8 bytes written to a register of CSR space or of a sync object; the outer none: there is no register there, the inner
one: the store waits. -/
def regWrite (s : State) (v : Viewer) (la : Nat) (w : Word) : Option (Option State) :=
  match regionOf s.part la with
  | .csr => some (csrWrite s v la w)
  | .so k => some (some (soStore s k (la - soBase k) v.lvlS w))
  | _ => none

/-- The bytes of one part of a read: those another device has sent, a register's, or memory as the thread sees it, poison read as
zero. -/
def partRead (s : State) (v : Viewer) (sb : List SBuf) (h : Half) : List Byte :=
  if h.bad then List.replicate h.len 0#8
  else if isRemote s h.pa then (h.data.getD []).take h.len ++ List.replicate (h.len - (h.data.getD []).length) 0#8
  else match regRead s v (paLocal h.pa) with
    | some w => wordBytes h.len w
    | none => readParts s sb [h]

/-- The bytes of every part of a read, in order. -/
def partsRead (s : State) (v : Viewer) (sb : List SBuf) (hs : List Half) : List Byte := (hs.map (partRead s v sb)).flatten

/-- One part of a write takes effect here; a part on another device has taken effect there. None: the store waits (R303). -/
def partWrite (s : State) (v : Viewer) (h : Half) (bs : List Byte) : Option State :=
  if h.bad || isRemote s h.pa then some s
  else match regWrite s v (paLocal h.pa) (BitVec.ofNat 64 (leNat bs)) with
    | some r => r
    | none => some (memStore s (paLocal h.pa) bs)

/-- Every part of a write, in order. -/
def partsWrite (v : Viewer) : List (Half × List Byte) → State → Option State
  | [], s => some s
  | (h, bs) :: more, s =>
    match partWrite s v h bs with
    | some s1 => partsWrite v more s1
    | none => none

/-- R76: a waiting instruction of `len` bytes completes with the registers of `x`. -/
def replyDone (s : State) (c t : Nat) (x : Thread) (len : Nat) : State :=
  wake (finishWait s c t x (x.pc + BitVec.ofNat 18 len)) c

/-- R252, R277, R421: a waiting read of local memory meets poison at `va`: under full failure protection its thread waits for the
recovery, otherwise it takes POISON, or completes with zero and counts `n` outcomes. -/
def poisonWaiting (s : State) (c t : Nat) (regs : List Reg) (va : Nat) (second : Bool) (n : Nat)
    (masked : Thread → State → State) : State :=
  let x := thOf s c t
  if steepEn s then setTh s c t { regs.foldl clearBusy x with wait := .poison }
  else if x.exm then masked (addDrop x n) (setDropped s (worldOf (coreOf s c) t))
  else faultWaiting s c t (cPoison + (if second then 0x2000 else 0)) va

/-- The parts of an access in flight that read poisoned local memory. -/
def poisonedParts (s : State) (sb : List SBuf) (hs : List Half) : List Half :=
  hs.filter fun h => memPart s h && readPoison s sb (paLocal h.pa) h.len

/-- A waiting read completed by `done`, or held or ended by the poison of its lowest-numbered part (R179); each poisoned part counts, as
often as `weight` says. -/
def readReply (s : State) (c t : Nat) (regs : List Reg) (r : Req) (weight : Half → Nat) (done : Thread → State → State) : State :=
  let x := thOf s c t
  let s := decodeHalves s ((waitParts r).filter (memPart s))
  match firstBad s x.sb r with
  | none => done x s
  | some (_, va, second) =>
    poisonWaiting s c t regs va second (((poisonedParts s x.sb (waitParts r)).map weight).sum) done

/-- R94: the masked outcomes of an access's parts counted as it completes. -/
def countBad (s : State) (c t : Nat) (x : Thread) (hs : List Half) : Thread × State :=
  countDrops s c t x (hs.filter fun h => h.bad).length

/-- R76, R118: a load's reply. -/
def replyLoad (s : State) (c t : Nat) (d : BitVec 5) (size : Nat) (u : Bool) (hs : List Half) (len : Nat) : State :=
  let v := viewerOf s (.thread (BitVec.ofNat 8 c) (BitVec.ofNat 3 t))
  let done (x : Thread) (s : State) : State :=
    let (x1, s1) := countBad s c t x hs
    replyDone s1 c t (clearBusy (putS x1 d (extendLoad size u (partsRead s1 v x1.sb hs))) (.s d)) len
  readReply s c t [.s d] (.load d size u hs len) (fun _ => 1) done

/-- R119: an atomic's reply. -/
def replyAtom (s : State) (c t : Nat) (op : AtomOp) (d : BitVec 5) (size : Nat) (b : Word) (h : Half) : State :=
  let x := thOf s c t
  let done (old : Word) (x : Thread) (s : State) : State := replyDone s c t (clearBusy (putS x d old) (.s d)) 4
  if h.bad then
    let (x1, s1) := countBad s c t x [h]
    done 0#64 x1 s1
  else if isRemote s h.pa then
    let (old, s1) := outcome s 4 [c, t, x.icount] (BitVec.ofNat 64 (leNat ((h.data.getD []).take size)))
    done old x s1
  else
    let s := decodeHalves s [h]
    if anyPoison s (paLocal h.pa) size then poisonWaiting s c t [.s d] h.va false 1 (done 0#64)
    else
      let (old, s1) := doAtom s op size (paLocal h.pa) b (getS x d)
      done old x s1

/-- R175, R177: whether a vector store's lone nibble on another device has been read and is still to be written. -/
def nibbleDue (s : State) (e : VElem) : Bool :=
  e.bits == 4 && e.halves.any fun h => !h.bad && isRemote s h.pa && h.data.isSome

/-- R177, R359: the bytes with a merged nibble leave; an element of width 0 has nothing more to write here. -/
def sendNibbles (c t : Nat) (w : World) (lvlS : Bool) (val : BitVec 8192) : Nat → List VElem → State → State × List VElem
  | _, [], s => (s, [])
  | i, e :: es, s =>
    if nibbleDue s e then
      let old := leNat ((e.halves.map fun h => h.data.getD []).flatten)
      let new := [BitVec.ofNat 8 (setBits old e.sub 4 (field val.toNat e.pos 4))]
      let hs := e.halves.map fun h => { h with data := none }
      let (s1, rest) := sendNibbles c t w lvlS val (i + hs.length) es (submitWrites s c t w lvlS i new hs)
      (s1, { e with bits := 0, halves := hs } :: rest)
    else
      let (s1, rest) := sendNibbles c t w lvlS val (i + e.halves.length) es s
      (s1, e :: rest)

/-- The parts of a vector store on other devices have been written there. -/
def localElem (s : State) (e : VElem) : VElem :=
  { e with halves := e.halves.map fun h => if isRemote s h.pa then { h with bad := true } else h }

/-- R9, R175: an element of a vector store written here: a register, or memory. None: the store waits (R303). -/
def putElem (v : Viewer) (val : BitVec 8192) (s : State) (e : VElem) : Option State :=
  match e.halves with
  | [h] =>
    if h.bad then some s
    else if e.bits = 64 then partWrite s v h (elemBytes val e)
    else some (storeElem s val e)
  | _ => some (storeElem s val e)

/-- R177, R303: the elements of a vector store written in ascending order, up to one that waits: those still to be written. -/
def putElems (v : Viewer) (val : BitVec 8192) : List VElem → State → State × List VElem
  | [], s => (s, [])
  | e :: es, s =>
    match putElem v val s (localElem s e) with
    | some s1 => putElems v val es s1
    | none => (s, e :: es)

/-- R178: the reply of a vector memory instruction with an element beyond the scratchpad. -/
def replyVec (s : State) (c t : Nat) (e : VEnt) : State :=
  let x := thOf s c t
  let v := viewerOf s (.thread (BitVec.ofNat 8 c) (BitVec.ofNat 3 t))
  match e.kind with
  | .load d fills es =>
    let done (x : Thread) (s : State) : State :=
      let got := es.map fun q => (q, partsRead s v x.sb q.halves)
      replyDone s c t (clearBusy (putV x d (loadInto (getV x d) fills got)) (.v d)) 4
    readReply s c t [.v d] (.vec e)
      (fun h => if (fmtOfCode e.vfmt.toNat) == some .mxfp4 && es.any (fun q => q.halves.contains h && q.bits == 8 && decide (q.pos < 4096))
        then 2 else 1) done
  | .store val es =>
    if es.any (nibbleDue s) then
      let (s1, es1) := sendNibbles c t (worldOf (coreOf s c) t) (isS x) val 0 es s
      setTh s1 c t { thOf s1 c t with wait := .reply (.vec { e with kind := .store val es1 }) }
    else match putElems v val es s with
    | (s1, []) => replyDone s1 c t x 4
    | (s1, rest) => setTh s1 c t { thOf s1 c t with wait := .reply (.vec { e with kind := .store val rest }) }
  | _ => s

/-- R86: the services whose replies are commands of their own. -/
def ownService (n : BitVec 8) : Bool := n == 0x20#8 || n == 0x21#8 || n == 0x22#8 || n == 0x30#8

/-- R89: RSSPILL's reply. -/
def replySpill (s : State) (c t : Nat) (b : BitVec 5) (n : Nat) (hs : List Half) : State :=
  let x := thOf s c t
  let v := viewerOf s (.thread (BitVec.ofNat 8 c) (BitVec.ofNat 3 t))
  match partsWrite v (partBytes hs (entryBytes (oldest x.rs n))) s with
  | some s1 =>
    let (x1, s2) := countBad s1 c t x hs
    replyDone s2 c t (spilled x1 b n) 4
  | none => s

/-- R89: RSFILL's reply. -/
def replyFill (s : State) (c t : Nat) (b : BitVec 5) (n : Nat) (hs : List Half) : State :=
  let v := viewerOf s (.thread (BitVec.ofNat 8 c) (BitVec.ofNat 3 t))
  let done (x : Thread) (s : State) : State :=
    let (x1, s1) := countBad s c t x hs
    replyDone s1 c t (filled x1 b (entriesOf n (partsRead s1 v x1.sb hs))) 4
  readReply s c t [] (.fill b n hs) (fun _ => 1) done

/-- R102: the reply of a store that is not posted. -/
def replyStore (s : State) (c t : Nat) (bytes : List Byte) (hs : List Half) (len : Nat) : State :=
  let v := viewerOf s (.thread (BitVec.ofNat 8 c) (BitVec.ofNat 3 t))
  match partsWrite v (partBytes hs bytes) s with
  | some s1 =>
    let (x, s2) := countBad s1 c t (thOf s1 c t) hs
    replyDone s2 c t x len
  | none => s

/-- R123: the reply of a sync operation: its result, recorded in the outcome log where it comes from another device. -/
def replyRsync (s : State) (c t : Nat) (d : BitVec 5) (h : Half) : State :=
  let x := thOf s c t
  if h.bad then
    let (x1, s1) := countBad s c t x [h]
    replyDone s1 c t (clearBusy (putS x1 d 0#64) (.s d)) 4
  else
    let (v, s1) := outcome s 1 [c, t, x.icount] (BitVec.ofNat 64 (leNat (h.data.getD [])))
    replyDone s1 c t (clearBusy (putS x d v) (.s d)) 4

/-- R76, R80: ACCESS_REPLY: what thread t waits for has come: the thread completes its instruction. A core that idles has come to clock
`atc` by then. Repeated TC0 requests are answered from the outcome log first (R408). -/
def execAccessReply (c : BitVec 8) (t : BitVec 3) (atc : Word) (s0 : State) : Out :=
  let k := coreOf s0 c.toNat
  let s := answerReplay
    (if (running s0 c.toNat).isNone then setCore s0 c.toNat { k with clk := max k.clk atc.toNat } else s0)
  let x := thOf s c.toNat t.toNat
  let ci := c.toNat
  let ti := t.toNat
  match x.wait with
  | .reply r =>
    if !(partsBack s (waitParts r)) then .next s
    else match inboundParts s (some ci) (!(reqReads r)) (waitParts r) with
    | none => .next s
    | some s => match r with
      | .load d size u hs len => .next (replyLoad s ci ti d size u hs len)
      | .store bytes hs len => .next (replyStore s ci ti bytes hs len)
      | .atom op d size b h => .next (replyAtom s ci ti op d size b h)
      | .spill b n hs => .next (replySpill s ci ti b n hs)
      | .fill b n hs => .next (replyFill s ci ti b n hs)
      | .rsync _ d _ h => .next (replyRsync s ci ti d h)
      | .synced d v => .next (replyDone s ci ti (clearBusy (putS x d v) (.s d)) 4)
      | .vec e => .next (replyVec s ci ti e)
      | .mcall n => if ownService n then .next s else .next (replyDone s ci ti (putS x 1#5 (BitVec.allOnes 64)) 4)
      | .syncWait _ _ => .next s
      | .ext _ _ _ => .next s
  | _ => .next s

/-- R467: the viewer that a host access is: the host context at level U (DESIGN CHOICE). -/
def hostViewer (s : State) : Viewer :=
  { mon := false, world := (ctxOf s s.board.hostCx).world, cx := s.board.hostCx, lvlS := false, rm := 0 }

/-- R359, R467: the part of a host access on another device is sent there. -/
def hostSubmit (s : State) (wr : Bool) (h : Half) (bs : List Byte) : State :=
  submit s (monitorAgent s) (if wr then opWr else opRd)
    { tc := 1#2, world := (hostViewer s).world, lvlS := false, cls := h.cls, dest := paDev h.pa, bytes := h.len,
      addr := paLocal h.pa, fn := 0#16, operand := 0#64, cap := h.cap, data := if wr then bs else [] } (.host h.len)

/-- R298, R467: HOST_BAR_ACCESS: a host access through BAR2 is an access of the host context at its virtual base plus the offset. -/
def execHostBarAccess (wr : Bool) (off36 : BitVec 36) (len12 : BitVec 12) (bytes : List Byte) (s : State) : Out :=
  let len := len12.toNat
  if wr && bytes.length != len then .refused .illFormed
  else if !s.board.endpoint || !(booted s) || len == 0 then .next s
  else
    let v := hostViewer s
    let va := (s.board.hostBase + off36.toNat) % 2 ^ 48
    let (rs, s1) := checkParts s 272 v.cx v.world false [if wr then rWR else rRD] 0#4 (if wr then .write else .read)
      (len == 8 && va % 8 == 0) (pieces va len)
    let hs := rs.map fun r => r.half
    if rs.any fun r => r.code != 0 then .next (hostRefused s1 wr va len)
    else match inboundParts s1 none wr hs with
    | none => .next s
    | some s1 => if wr then
      let s2 := (partBytes hs bytes).foldl (fun s p => if isRemote s p.1.pa then hostSubmit s true p.1 p.2 else s) s1
      .next ((partsWrite v (partBytes hs bytes) s2).getD s2)
    else
      let s2 := hs.foldl (fun s h => if isRemote s h.pa then hostSubmit s false h [] else s) s1
      .next { s2 with board := { s2.board with hostData := partsRead s2 v [] hs } }

end Sys2Proof.Machine
end

