-- ==== Sys2Proof/Machine/Elements.lean ====
section
/-!
DEFINITION. Sys2Proof/Machine/Elements.lean: the elements of a transfer stream (R315 to R320, R325, R329): their source reads at issue and
their writes at delivery.
-/

namespace Sys2Proof.Machine

/-- R10, R313: a stream's access to CSR space is one of its owner's, at the level of the store that started it. -/
def tsViewer (s : State) (n : Nat) : Viewer :=
  { mon := false, world := tsWorld s n, cx := (tsOf s n).ownCx.toNat, lvlS := (tsOf s n).lvlS, rm := 0 }

/-- R320, R325, R330: whether the engine issues an element of a stream: below P + 256, with no fault and no STOP. -/
def tsCanIssue (x : Ts) : Bool :=
  x.st == .running && x.desc.ndim != 0 && x.fault.isNone && !x.stopping && decide (x.nxt < tsN x.desc)
    && decide (x.nxt < x.pre + 256)

/-- R325: element idx of stream n faults before its request has left. -/
def tsElemFault (s : State) (n idx cause : Nat) (side : BitVec 3) (absent : Option Nat) : State :=
  let x := tsOf s n
  setTs s n (tsFaultAt { x with inflight := x.inflight.filter fun e => e.idx != idx }
    { idx := idx, cause := BitVec.ofNat 8 cause, side := side, absent := absent })

/-- R320: the next element is in flight. -/
def tsFly (s : State) (n : Nat) (e : TsElem) : State :=
  let x := tsOf s n
  setTs s n { x with nxt := e.idx + 1, inflight := x.inflight ++ [e] }

/-- R316, R329: the element's source bytes are at hand, or stand for poison that is delivered as zero. -/
def tsHave (s : State) (n idx : Nat) (bs : List Byte) (zero : Bool) : State :=
  let d := (tsOf s n).desc
  let (out, fl) := if zero then (List.replicate (tsDstBytes d) 0#8, 0#4) else tsConvert (tsOf s n) idx bs
  tsFly s n { idx := idx, data := some out, fl := fl, zero := zero, sent := false }

/-- R298, R319, R329, R421: the source read of element idx. -/
def tsReadSrc (s : State) (n idx va : Nat) : State :=
  let x := tsOf s n
  let m := tsSrcBytes x.desc
  match tsTrans s n va [rRD] m with
  | (.error (c, a), s1) => tsElemFault s1 n idx c 1#3 a
  | (.ok (pa, g), s1) =>
    let la := paLocal pa
    if isRemote s1 pa then
      let s2 := tsSubmit s1 n opRd pa g x.desc.scls m 0#64 [] (.tsRead n idx)
      tsFly s2 n { idx := idx, data := none, fl := 0#4, zero := false, sent := false }
    else match regRead s1 (tsViewer s1 n) la with
      | some w => if m = 8 then tsHave s1 n idx (wordBytes 8 w) false else tsElemFault s1 n idx cAlignf 1#3 none
      | none => match inboundAt s1 la false m with
        | none => s1
        | some s2 =>
        let s1 := decodeRead s2 la m
        if !(anyPoison s1 la m) then tsHave s1 n idx (loadBytes s1 la m) false
        else if steepEn s1 then s1
        else if x.zpois then tsHave s1 n idx [] true
        else tsElemFault s1 n idx cPoison 1#3 none

/-- R319: an element's two addresses checked for its sizes at each end, then its source read. -/
def tsIssueAt (s : State) (n idx src : Nat) : State :=
  let d := (tsOf s n).desc
  if src % tsSrcBytes d != 0 then tsElemFault s n idx cAlignf 1#3 none
  else if tsDst d idx % tsDstBytes d != 0 then tsElemFault s n idx cAlignf 2#3 none
  else tsReadSrc s n idx src

/-- R317: the gather entry of the next element, read once before any element of its run; an entry at an address that is no multiple of
its size faults (DEDUCED from R319). -/
def tsIssueGather (s : State) (n idx : Nat) : State :=
  let x := tsOf s n
  let j := tsRun x.desc idx
  let m := if x.desc.glw then 8 else 4
  let va := (x.desc.glva + j * m) % 2 ^ 48
  match tabFind x.gl fun k _ => k == j with
  | some e => tsIssueAt s n idx (tsSrc x.desc idx e.2)
  | none =>
    if va % m != 0 then tsElemFault s n idx cAlignf 3#3 none
    else match tsFetch s n va m none (tsListBase + j) with
      | (.wait, s1) => s1
      | (.bad c a, s1) => tsElemFault s1 n idx c 3#3 a
      | (.bytes b, s1) =>
        let g := sint (8 * m) (leNat b)
        tsIssueAt (setTs s1 n { tsOf s1 n with gl := tabSet (tsOf s1 n).gl j g }) n idx (tsSrc x.desc idx g)

/-- R323: how far stream n stands behind the stream that its group served last, in the order of stream numbers. -/
def tsTurnDist (s : State) (n : Nat) : Nat := (n + 16383 - tabGet 16383 s.tsTurn (tsGroup n)) % 16384

/-- R323: whether it is stream n's turn: no other stream of its group that could issue comes before it. -/
def tsMyTurn (s : State) (n : Nat) : Bool :=
  s.ts.all fun e => !(tsGroup e.1 == tsGroup n && tsCanIssue e.2) || decide (tsTurnDist s n ≤ tsTurnDist s e.1)

/-- R271, R323: the elements in flight of the streams of stream n's I/O die leave one of its 2,048 request tags free. -/
def tsTagFree (s : State) (n : Nat) : Bool :=
  decide (((s.ts.filter fun e => e.1 / 8192 == n / 8192).map fun e => e.2.inflight.length).sum < 2048)

/-- R315 to R320, R323: ELEMENT_ISSUE: the engine issues the stream's next element, where it is the stream's turn; whatever keeps the
element itself waiting, its turn has passed. A descriptor on another device that has not come yet is asked for. -/
def execElementIssue (ts : BitVec 14) (s : State) : Out :=
  let n := ts.toNat
  let s0 := tsLoadDesc (answerReplay s) n
  let x := tsOf s0 n
  let s1 := { s0 with tsTurn := tabSet s0.tsTurn (tsGroup n) n }
  .next (if !(tsCanIssue x) || !(tsMyTurn s0 n) || !(tsTagFree s0 n) then s0
    else if x.desc.gather then tsIssueGather s1 n x.nxt
    else tsIssueAt s1 n x.nxt (tsSrc x.desc x.nxt 0))

/-- R254: a transfer writes instruction memory only where it may; elsewhere its segment's WR suffices. -/
def tsWriteOk (s : State) (n : Nat) (rights : BitVec 16) (la : Nat) : Bool := imemWriteOk s (tsWorld s n) rights la

/-- R320, R401: the write of an element's bytes on this device: it is accepted, it waits (R303, R401), or it may not be made. -/
def tsWriteHere (s : State) (n idx la : Nat) (rights : BitVec 16) (bs : List Byte) : State :=
  match regWrite s (tsViewer s n) la (BitVec.ofNat 64 (leNat bs)) with
  | some r =>
    if bs.length = 8 then
      match r with
      | some s1 => tsDelivered s1 n idx
      | none => s
    else tsElemFault s n idx cAlignf 2#3 none
  | none =>
    if !(tsWriteOk s n rights la) then tsElemFault s n idx cSegf 2#3 none
    else if steepEn s && decide (la < hbmTop s.part) && decide (undoCap s ≤ undoUsed s) then s
    else match inboundAt s la true bs.length with
    | none => s
    | some s1 => tsDelivered (memStore s1 la bs) n idx

/-- R320: ELEMENT_DELIVERY: an element whose source has been read is written: it becomes visible here, or its write leaves for another
device, whose acknowledgement delivers it. -/
def execElementDelivery (ts : BitVec 14) (idx48 : BitVec 48) (s0 : State) : Out :=
  let n := ts.toNat
  let s := answerReplay s0
  let x := tsOf s n
  let idx := idx48.toNat
  match x.inflight.find? fun e => e.idx == idx && !e.sent with
  | none => .next s
  | some e =>
    match e.data with
    | none => .next s
    | some bs =>
      match tsTrans s n (tsDst x.desc idx) [rWR] bs.length with
      | (.error (c, a), s1) => .next (tsElemFault s1 n idx c 2#3 a)
      | (.ok (pa, g), s1) =>
        if isRemote s1 pa then
          if imwMissing s1 g.rights (paLocal pa) then .next (tsElemFault s1 n idx cSegf 2#3 none)
          else if steepEn s1 && decide (msgCap s1 ≤ msgUsed s1) then .next s1
          else
            let y := tsOf s1 n
            let s2 := setTs s1 n { y with inflight := y.inflight.map fun q => if q.idx = idx then { q with sent := true } else q }
            .next (tsSubmit s2 n opWr pa g x.desc.dcls bs.length 0#64 bs (.tsWrite n idx))
        else .next (tsWriteHere s1 n idx (paLocal pa) g.rights bs)

end Sys2Proof.Machine
end

