-- ==== Sys2Proof/Machine/Links.lean ====
section
/-!
DEFINITION. Sys2Proof/Machine/Links.lean: the link layer (R333, R338 to R342): training and admission, retry groups, lane sparing, link
loss and new routes.
-/

namespace Sys2Proof.Machine

/-- R339: the groups up to and with an acknowledged one are free. -/
def ackGroups (k : Link) (ack : BitVec 12) : Link :=
  if k.unacked.any fun e => e.1 == ack then
    { k with unacked := (k.unacked.dropWhile fun e => e.1 != ack).drop 1 }
  else k

/-- R339: packets that wait leave while the sender holds fewer than 64 unacknowledged groups. -/
def linkPump (k : Link) : Link := k.waiting.foldl linkSend { k with waiting := [] }

/-- R348, R351: the packets that wait on a link are routed again. -/
def rerouteLink (s : State) (l : Nat) : State :=
  let k := linkOf s l
  k.waiting.foldl (fun s p => emit s none p.1 p.2) (setLink s l { k with waiting := [] })

/-- R333: the number and the level that the far end of a link sends admit it. -/
def linkAdmits (s : State) (k : Link) (num : BitVec 14) (lvl : BitVec 4) : Bool :=
  num == k.expect && decide (lvl.toNat ≤ s.fab.lvlN.toNat + 1) && decide (s.fab.lvlN.toNat ≤ lvl.toNat + 1)

/-- R332, R342: whether link n is an up-link, for which NBR reads zero. -/
def isUpLink (n : Nat) : Bool := n % 4 == 3

/-- R333, R340, R342: LINK_TRAINING: a link that LINK_EN enables trains; it is admitted, with its spare in place of a lane that fails in
training, or stays DOWN and the mismatch is logged. A link that LINKMAP marks absent stays powered down (R334). -/
def execLinkTraining (l : BitVec 3) (num : BitVec 14) (lvl : BitVec 4) (bad : Option (BitVec 4)) (s : State) : Out :=
  let n := l.toNat
  let k := linkOf s n
  if linkUp s n || !(devBit s (2 + n)) || !(linkPresent s n) then .next s
  else if !(linkAdmits s k num lvl) then .next (notify (setLink s n { k with st := .down }) 11 num.toNat)
  else
    let s1 := setLink s n { k with
      st := if bad.isSome then .upSpare else .up
      splane := bad.getD 0#4
      nbr := if isUpLink n then 0#14 else num
      nlvl := lvl
      txSeq := 0#12
      rxSeq := 0#12
      nakSent := false
      resend := none
      sparing := none
      storms := [] }
    .next (rerouteLink (if bad.isSome then countLife s1 15 else s1) n)

/-- R340: both ends use lane 16 in place of the lane trained onto it. -/
def switchSpare (s : State) (n : Nat) : State :=
  let k := linkOf s n
  match k.sparing with
  | some lane =>
    if linkUp s n then countLife (setLink s n { k with st := .upSpare, splane := lane, sparing := none, storms := [] }) 15 else s
  | none => s

/-- R340: three CRC-storm intervals of a link lie within the last second. -/
def stormsDue (s : State) (k : Link) : Bool :=
  decide (3 ≤ (k.storms.filter fun m => decide (s.time / 1000000 < m + 1000)).length)

/-- R340, R342: n groups resent in the millisecond `ms`: RETRY, and STORM once more than 64 of one millisecond have been. -/
def countResent (k : Link) (ms n : Nat) : Link :=
  let before := if k.stormMs = ms then k.stormN else 0
  let storm := decide (before ≤ 64) && decide (64 < before + n)
  { k with
    retry := BitVec.ofNat 16 (min (k.retry.toNat + n) 0xFFFF)
    stormMs := ms
    stormN := before + n
    storm := if storm then BitVec.ofNat 8 (min (k.storm.toNat + 1) 0xFF) else k.storm
    storms := if storm then (ms :: k.storms).take 8 else k.storms }

/-- R339: GROUP_RESEND: on a NAK, the sender resends every group after ACK, in order; packets that waited follow. -/
def execGroupResend (l : BitVec 3) (ack : BitVec 12) (s : State) : Out :=
  let n := l.toNat
  let k := linkOf s n
  if !(linkUp s n) || k.resend != some ack then .next s
  else
    let k1 := countResent { ackGroups k ack with resend := none } (s.time / 1000000) (ackGroups k ack).unacked.length
    .next (setLink s n (linkPump k1))

/-- R340: LANE_SPARE: after three CRC-storm intervals within 1 s, the lane is copied onto lane 16, which trains; a link whose spare is in
use is taken down. -/
def execLaneSpare (l : BitVec 3) (llane : BitVec 4) (s : State) : Out :=
  let n := l.toNat
  let k := linkOf s n
  if !(stormsDue s k) then .next s
  else match k.st with
    | .up => .next (setLink s n { k with sparing := some llane })
    | .upSpare => .next (loseLink s n .failed)
    | _ => .next s

/-- R340: SPSW: from the next group boundary, lane 16 takes the place of the picked lane. -/
def execSpsw (l : BitVec 3) (s : State) : Out := .next (switchSpare s l.toNat)

/-- R341: LINK_LOSS: no good group for 64 group times. -/
def execLinkLoss (l : BitVec 3) (s : State) : Out :=
  .next (if linkUp s l.toNat then loseLink s l.toNat .failed else s)

/-- R343: NOP: an idle slot; no router forwards it. -/
def execNop (_l : BitVec 3) (s : State) : Out := .next s

/-- R351: ROUTE_TABLE_INSTALL: new tables replace the old, and packets that wait take the new routes. -/
def execRouteTableInstall (routes : List (BitVec 14 × BitVec 3)) (s : State) : Out :=
  let s1 := { s with fab := { s.fab with
    routes := routes.foldl (fun (t : Tab Nat) (e : BitVec 14 × BitVec 3) => tabSet t e.1.toNat e.2.toNat) [] } }
  .next ((List.range 8).foldl rerouteLink s1)

/-- R365: LEVEL_VOTE: at the system master, a vote for a level is counted; any other device's monitor sends its vote for its N (the
message's form is a DESIGN CHOICE). -/
def execLevelVote (lvl : BitVec 4) (s : State) : Out :=
  if s.fab.devnum = s.fab.master then
    .next { s with fab := { s.fab with votes := tabMod 0 s.fab.votes lvl.toNat (· + 1) } }
  else if lvl = s.fab.lvlN then
    .next (sendSvc s (monitorAgent s) s.fab.master.toNat [0x01#8, lvl.setWidth 8])
  else .next s

/-- R365: LEVEL_ANNOUNCE: the master, with a vote of every device for a level, announces it over TC3; every device makes it ACTIVE at the
next full steep boundary. A device whose N is below the level does not take it. -/
def execLevelAnnounce (lvl : BitVec 4) (s : State) : Out :=
  let take (s : State) : State :=
    if lvl.toNat ≤ s.fab.lvlN.toNat then { s with fab := { s.fab with nextLevel := some lvl } } else s
  if s.fab.devnum = s.fab.master then
    if tabGet 0 s.fab.votes lvl.toNat = s.fab.count && decide (0 < s.fab.count) then
      .next (take ((otherDevices s).foldl (fun s d => sendSvc s (monitorAgent s) d [0x02#8, lvl.setWidth 8]) s))
    else .next s
  else .next (take s)

/-- R368: a rate correction of at most 100 ppm, in units of 0.01 ppm. -/
def steerClip (corr : BitVec 16) : BitVec 16 := BitVec.ofInt 16 (max (-10000) (min 10000 corr.toInt))

/-- R367, R368: TIME_STEER: TIME has come to `now` and its rate follows the parent; the system master follows no one, and while the
parent link is lost the rate holds. -/
def execTimeSteer (now : Word) (corr : BitVec 16) (locked : Bool) (s : State) : Out :=
  let s1 := { s with time := max s.time now.toNat }
  .next (if s1.fab.role = 2#2 || !(linkUp s1 s1.fab.parent.toNat) then s1
    else { s1 with fab := { s1.fab with corr := steerClip corr, locked := locked } })

/-- R368: TIME_PARENT_LOSS: the lost parent link gives way to a new parent; the rate holds, and LOCKED waits for it. -/
def execTimeParentLoss (l parent : BitVec 3) (s : State) : Out :=
  .next (if s.fab.role != 2#2 && s.fab.parent == l && !(linkUp s l.toNat) then
      { s with fab := { s.fab with parent := parent, locked := false } }
    else s)

end Sys2Proof.Machine
end

