-- ==== Sys2Proof/Machine/Inbound.lean ====
section
/-!
DEFINITION. Sys2Proof/Machine/Inbound.lean: packets that come in (R343 to R346, R359 to R362, R366, R403 to R408): forwarding, requests
performed for other devices with deduplication, and responses to this device's requests.
-/

namespace Sys2Proof.Machine

/-- R352, R366: whether an OP is allowed in a class; in TC0 requests and responses carry at most 256 bytes. -/
def opInClass (op : Nat) (tc : BitVec 2) (bytes : Nat) : Bool :=
  if decide (opSvc ≤ op) then tc == 3#2 else tc != 3#2 && (tc != 0#2 || decide (bytes ≤ 256))

/-- R345, R347: the data bytes a packet of an OP must carry: BYTES of them, or for an ACAS the flit with the compare value. -/
def dataFits (op : Nat) (p : Packet) : Bool :=
  if op = opRd || op = opWrr || op = opAtomr || op = opSync || op = opSyncr then p.data.isEmpty
  else if op = opAtom then p.data.length == (if field p.fn.toNat 0 4 == 5 then 8 else 0)
  else if op = opRdr then p.data.isEmpty || p.data.length == p.bytes.toNat
  else p.data.length == p.bytes.toNat

/-- R366, R387: a sender that the monitor treats as failed. -/
def suspect (s : State) (kind : Nat) (p : Packet) : State :=
  notify { s with fab := { s.fab with
    suspects := if s.fab.suspects.contains p.src then s.fab.suspects else p.src :: s.fab.suspects } } kind p.src.toNat

/-- R344, R348, R366: a packet that comes in on link l: discarded and reported where it has passed 63 routers or its level or class is
not allowed, passed on to another device, or taken here by `f`. On a link that is not UP nothing comes in. -/
def arrive (l : BitVec 3) (op : Nat) (p : Packet) (s : State) (f : State → State) : Out :=
  if !(dataFits op p) then .refused .illFormed
  else if !(linkUp s l.toNat) then .next s
  else if p.hops = 63#6 then .next (notify s 12 p.src.toNat)
  else if !(p.level == s.fab.lvlN || p.level + 1#4 == s.fab.lvlN) || !(opInClass op p.tc p.data.length) then .next (suspect s 13 p)
  else if p.dest != s.fab.devnum then .next (emit s (some l.toNat) op { p with hops := p.hops + 1#6 })
  else .next (f s)

/-- R359: request number a lies below b, modulo 2^22. -/
def seqBelow (a b : Nat) : Bool :=
  let d := (b + 2 ^ 22 - a % 2 ^ 22) % 2 ^ 22
  decide (0 < d) && decide (d < 2 ^ 21)

/-- R360: the deduplication entries of an agent of another device below its low-water mark are dropped. -/
def dropBelow (s : State) (src agent lwm : Nat) : State :=
  { s with fab := { s.fab with dedup := s.fab.dedup.filter fun e => !(e.src == src && e.agent == agent && seqBelow e.seq lwm) } }

/-- R360, R362: the entry of a request. -/
def dedupOf (s : State) (p : Packet) : Option Dedup :=
  s.fab.dedup.find? fun e => e.src == p.src.toNat && e.agent == p.agent.toNat && e.seq == p.seq.toNat

/-- R379: a repeat of a WAITS whose entry still waits. -/
def stillWaits (s : State) (p : Packet) : Bool :=
  s.so.any fun o => o.2.waiters.any fun w => match w.who with
    | .remote dev agent seq _ _ => dev == p.src.toNat && agent == p.agent.toNat && seq == p.seq.toNat
    | .thread _ _ => false

/-- R360, R361: whether the part of a fabric memory agent's table for a class is full: 1,024 entries for TC0, 64,512 for the others. -/
def dedupFull (s : State) (p : Packet) : Bool :=
  let n := (s.fab.dedup.filter fun e => e.die == agentDie s p.src.toNat && e.tc0 == (p.tc == 0#2)).length
  decide ((if p.tc = 0#2 then 1024 else 64512) ≤ n)

/-- R360: the entry that a performed request makes. -/
def dedupAdd (s : State) (p : Packet) (st : BitVec 16) (v : Word) : State :=
  let e : Dedup :=
    { die := agentDie s p.src.toNat, src := p.src.toNat, agent := p.agent.toNat, seq := p.seq.toNat, tc0 := p.tc == 0#2,
      status := st, operand := v, made := s.time }
  { s with fab := { s.fab with dedup := s.fab.dedup ++ [e] } }

/-- R310: a capability that has passed is kept by the fabric memory agent, the most recently used first, 1,024 at most. -/
def capHeld (s : State) (p : Packet) : State :=
  let die := b2n (agentDie s p.src.toNat)
  { s with vercaps := tabMod [] s.vercaps die fun l => (p.cap :: l.filter fun k => k != p.cap).take 1024 }

/-- What performing a request gives: its answer, that it must wait, or that its answer comes later. -/
inductive Served where
  | done (status : BitVec 16) (operand : Word) (data : List Byte) (s : State)
  | hold
  | later (s : State)

/-- R403: the record of an applied inbound request: SRC, AGENT, SEQ. -/
def inRec (p : Packet) : Word := BitVec.ofNat 64 (p.src.toNat * 2 ^ 32 + p.agent.toNat * 2 ^ 22 + p.seq.toNat)

/-- R404, R408: the requests whose order is recorded: those that a peer sends again. An RD, and a request through a capability with SXM,
is in no message log (DEDUCED). -/
def ordered (op : Nat) (p : Packet) : Bool := op != opRd && !((capRights p.cap).getLsbD rSXM)

/-- R408: in a replay, inbound requests are applied in the recorded order of their fabric agent. -/
def inTurn (s : State) (op : Nat) (p : Packet) : Bool :=
  !(ordered op p) || match s.steep.replay.find? fun r => r.ty == 8 && r.key == [b2n (agentDie s p.src.toNat)] with
  | some r => r.val == inRec p
  | none => true

/-- R294: the rights an inbound request needs of its capability. -/
def reqNeed (s : State) (op : Nat) (p : Packet) : List Nat :=
  if op = opRd then [rRD]
  else if op = opWr then
    (match regionOf s.part p.addr.toNat with
      | .imem _ => [rWR, rIMW]
      | _ => [rWR])
  else if op = opAtom then [rAT]
  else if p.fn = 2#16 then [rWAIT]
  else if p.fn = 3#16 then [rWAIT, rSIG]
  else [rSIG]

/-- R308: the bytes of a request that its capability must cover. -/
def reqBytes (op : Nat) (p : Packet) : Nat := if op = opSync then 1 else p.bytes.toNat

/-- R254, R371: whether a request may touch what lies at its address: instruction memory is for transfer engines, and for a write the
part of the packet's world; the monitor's sync objects and unmapped addresses are for no one. -/
def reqRegion (s : State) (op : Nat) (p : Packet) : Bool :=
  let te := decide (256 ≤ p.agent.toNat) && decide (p.agent.toNat < 272)
  match regionOf s.part p.addr.toNat with
  | .imem _ => te && (op == opRd || (op == opWr && imemWriteOk s p.world (capRights p.cap) p.addr.toNat))
  | .so k => decide (k < 8128) && op != opAtom
  | .csr => op != opSync
  | .void => false
  | _ => op != opSync

/-- R9, R105, R345, R371: what makes a request misaligned: RD and WR outside one aligned 2 KiB block, a register access that is not of 8
aligned bytes, an atomic at no multiple of its size or of a size or operation that R119 does not give (DESIGN CHOICE). -/
def reqAligned (s : State) (op : Nat) (p : Packet) : Bool :=
  let a := p.addr.toNat
  let n := p.bytes.toNat
  if op = opSync then decide (p.fn.toNat < 4)
  else if op = opAtom then
    let m := 2 ^ field p.fn.toNat 4 2
    decide (2 ≤ field p.fn.toNat 4 2) && decide (field p.fn.toNat 0 4 ≤ 9) && a % m == 0 && n == m
      && (match regionOf s.part a with | .csr => false | _ => true)
  else
    decide (a % 2048 + n ≤ 2048) &&
      (match regionOf s.part a with
        | .so _ => n == 8 && a % 8 == 0
        | .csr => n == 8 && a % 8 == 0
        | _ => true)

/-- R10: a request of another device reads and writes CSR space as its world's, of no context of this device (DEDUCED). -/
def reqViewer (p : Packet) : Viewer := { mon := false, world := p.world, cx := 1000, lvlS := p.lvlS, rm := 0 }

/-- R119: the operation that FN[3:0] names. -/
def atomOfFn (k : Nat) : AtomOp :=
  match k with
  | 0 => .aadd | 1 => .aand | 2 => .aor | 3 => .axor | 4 => .aswap | 5 => .acas | 6 => .amin | 7 => .amax
  | 8 => .aminu | _ => .amaxu

/-- R401: a write to local HBM for which no undo record finds room waits. -/
def undoFull (s : State) (a : Nat) : Bool := steepEn s && decide (a < hbmTop s.part) && decide (undoCap s ≤ undoUsed s)

/-- R345, R405, R421: RD. -/
def serveRd (s : State) (p : Packet) : Served :=
  let a := p.addr.toNat
  let n := p.bytes.toNat
  let logged := s.steep.msgs.find? fun m => m.peer == p.src.toNat && m.sent.1 == opRdr && m.sent.2.agent == p.agent
    && m.sent.2.seq == p.seq
  match if p.replay then logged else none with
  | some m => .done m.sent.2.fn m.sent.2.operand m.sent.2.data s
  | none =>
    match regRead s (reqViewer p) a with
    | some w => .done stOk 0#64 (wordBytes 8 w) s
    | none => match inboundAt s a false n with
      | none => .hold
      | some s1 =>
      let s := decodeRead s1 a n
      if !(anyPoison s a n) then .done stOk 0#64 (loadBytes s a n) s
      else if steepEn s then .hold
      else .done stPoison 0#64 (List.replicate n 0#8) s

/-- R345: WR. -/
def serveWr (s : State) (p : Packet) : Served :=
  match regWrite s (reqViewer p) p.addr.toNat (BitVec.ofNat 64 (leNat p.data)) with
  | some (some s1) => .done stOk 0#64 [] s1
  | some none => .hold
  | none =>
    if undoFull s p.addr.toNat then .hold
    else match inboundAt s p.addr.toNat true p.data.length with
    | none => .hold
    | some s1 => .done stOk 0#64 [] (memStore s1 p.addr.toNat p.data)

/-- R119, R345: ATOM. -/
def serveAtom (s : State) (p : Packet) : Served :=
  let a := p.addr.toNat
  let size := 2 ^ field p.fn.toNat 4 2
  if undoFull s a then .hold
  else match inboundAt s a true size with
  | none => .hold
  | some s1 =>
  let s := decodeRead s1 a size
  if anyPoison s a size then (if steepEn s then .hold else .done stPoison 0#64 [] s)
  else
    let (old, s1) := doAtom s (atomOfFn (field p.fn.toNat 0 4)) size a p.operand (BitVec.ofNat 64 (leNat p.data))
    .done stOk old [] s1

/-- R123, R373, R379, R380: SYNC on object n; a BARRIER of another device is answered 3, and a WAITS that finds no waiter entry BUSY. -/
def serveSync (s : State) (p : Packet) : Served :=
  match regionOf s.part p.addr.toNat with
  | .so n =>
    if p.fn = 0#16 then
      let (r, s1) := doSignal s n p.operand
      .done stOk r [] s1
    else if p.fn = 1#16 then
      let (r, s1) := doFetchadd s n p.operand
      .done stOk r [] s1
    else if p.fn = 2#16 then
      let tc0 := p.tc == 0#2
      match doWaits s n (.remote p.src.toNat p.agent.toNat p.seq.toNat p.tc p.world) p.operand with
      | (some r, s1) => .done stOk r [] s1
      | (none, s1) =>
        if (if tc0 then 64 else 1984) ≤ remoteWaiters s tc0 then .done stBusy 0#64 [] s else .later s1
    else .done stOk 3#64 [] s
  | _ => .done stCapf 0#64 [] s

/-- R308, R309, R345, R361: a request checked and performed. -/
def serve (s : State) (op : Nat) (p : Packet) : Served :=
  let entry := op != opRd
  if capCheck s p.cap p.world (reqNeed s op p) p.lvlS p.addr.toNat (reqBytes op p) != 0 || !(reqRegion s op p) then
    .done stCapf 0#64 [] (countCapRef s p.world)
  else
    let s1 := capHeld s p
    if !(reqAligned s op p) then .done stAlignf 0#64 [] s1
    else if entry && dedupFull s1 p then .done stBusy 0#64 [] s1
    else if op = opRd then serveRd s1 p
    else if op = opWr then serveWr s1 p
    else if op = opAtom then serveAtom s1 p
    else serveSync s1 p

/-- R345: the OP of a request's response. -/
def replyOp (op : Nat) : Nat := op + 1

/-- R360, R362, R401, R403: a request applied: repeated ones are answered from the table, and an applied one is recorded and, but for an
RD, entered. None: it waits in the fabric agent. -/
def applyReq (s : State) (op : Nat) (p : Packet) : Option State :=
  match if op = opRd then none else dedupOf s p with
  | some e => some (respond s (replyOp op) p e.status e.operand [])
  | none =>
    if op != opRd && stillWaits s p then some s
    else if s.steep.rollback || deviceHalted s || !(inTurn s op p) then none
    else if op = opRd && steepEn s && decide (msgCap s ≤ msgUsed s) then none
    else
      let record (s : State) : State :=
        if ordered op p then (outcome s 8 [b2n (agentDie s p.src.toNat)] (inRec p)).2 else s
      match serve s op p with
      | .hold => none
      | .later s1 => some (record s1)
      | .done st v data s1 =>
        let s2 := if st = stOk then record s1 else s1
        let s3 := if op != opRd && st == stOk then dedupAdd s2 p st v else s2
        some (respond s3 (replyOp op) p st v data)

/-- R408: the requests that wait in the fabric agent, tried once each in the order they came. -/
def releaseHeld (s : State) : State :=
  s.fab.held.foldl (fun s h =>
    let rest := s.fab.held.erase h
    match applyReq { s with fab := { s.fab with held := rest } } h.2.1 h.2.2 with
    | some s1 => s1
    | none => { s with fab := { s.fab with held := rest ++ [h] } }) s

/-- R359, R408: a request taken at its target; one that must wait is held in the fabric agent. -/
def takeReq (l : BitVec 3) (op : Nat) (p : Packet) (s : State) : State :=
  let s1 := dropBelow s p.src.toNat p.agent.toNat p.lwm.toNat
  match applyReq s1 op p with
  | some s2 => releaseHeld s2
  | none => { s1 with fab := { s1.fab with held := s1.fab.held ++ [(l.toNat, (op, p))] } }

/-- R345: RD. -/
def execRd (l : BitVec 3) (p : Packet) (s : State) : Out := arrive l opRd p s (takeReq l opRd p)
/-- R345: WR. -/
def execWr (l : BitVec 3) (p : Packet) (s : State) : Out := arrive l opWr p s (takeReq l opWr p)
/-- R345: ATOM. -/
def execAtom (l : BitVec 3) (p : Packet) (s : State) : Out := arrive l opAtom p s (takeReq l opAtom p)
/-- R345: SYNC. -/
def execSync (l : BitVec 3) (p : Packet) (s : State) : Out := arrive l opSync p s (takeReq l opSync p)

/-- R339: GROUP_RECEIVE: a good group in order: its ACK frees groups, its NAK asks for a resend, its SPSW takes the spare lane; what waits
in the fabric agents is tried again. Any other group is discarded and answered with one NAK. -/
def execGroupReceive (l : BitVec 3) (good : Bool) (gseq ack : BitVec 12) (nak spsw : Bool) (s : State) : Out :=
  let n := l.toNat
  let k := linkOf s n
  if !(linkUp s n) then .next s
  else if !good || gseq != k.rxSeq then .next (setLink s n { k with nakSent := true })
  else
    let k1 := ackGroups k ack
    let k2 := { k1 with rxSeq := k1.rxSeq + 1#12, nakSent := false, resend := if nak then some ack else k1.resend }
    let s1 := setLink s n (if nak then k2 else linkPump k2)
    .next (releaseHeld (if spsw then switchSpare s1 n else s1))

/-- R362: an owner that waits no longer. -/
def isOrphan : ReqOwner → Bool
  | .thread _ _ i => decide (65536 ≤ i)
  | .tsRead _ i => decide (2 ^ 60 ≤ i)
  | .tsWrite _ i => decide (2 ^ 60 ≤ i)
  | _ => false

/-- R403: what the outcome log keeps of a TC0 response: status, and OPERAND or the words of a read's data. -/
def tc0Words (op : Nat) (p : Packet) : List Word :=
  if op = opRdr then wordsOf ((p.data.length + 7) / 8) (p.data ++ List.replicate 7 0#8) else [p.operand]

/-- R403, R408: a TC0 response recorded; one for a request of the lost epoch that comes while the device replays waits to be returned. -/
def recordTc0 (s : State) (o : Outst) (op : Nat) (p : Packet) : State :=
  if p.tc != 0#2 || !(steepEn s) then s
  else
    let vals := (p.fn.setWidth 64 : Word) :: tc0Words op p
    let recs : List OutRec := vals.zipIdx.map fun e => { ty := 9, key := [o.agent, o.seq, e.2], val := e.1 }
    if isOrphan o.owner && s.steep.replaying then { s with steep := { s.steep with replay := s.steep.replay ++ recs } }
    else recs.foldl (fun s r => (outcome s 9 r.key r.val).2) s

/-- R346, R361, R362: a response: discarded where nothing waits for it, BUSY noted, or delivered. -/
def takeResp (op : Nat) (p : Packet) (s : State) : State :=
  match findOutst s p.agent.toNat p.seq.toNat with
  | none => s
  | some o =>
    if replyOp o.sent.1 != op then s
    else if p.fn = stBusy then
      { s with fab := { s.fab with outst := s.fab.outst.map fun q =>
          if q.agent == o.agent && q.seq == o.seq then { q with busy := true } else q } }
    else
      let data := if op = opRdr then p.data else if op = opWrr then [] else wordBytes 8 p.operand
      deliver (dropOutst (recordTc0 s o op p) o) o p.fn data

/-- R345: RDR. -/
def execRdr (l : BitVec 3) (p : Packet) (s : State) : Out := arrive l opRdr p s (takeResp opRdr p)
/-- R346: WRR. -/
def execWrr (l : BitVec 3) (p : Packet) (s : State) : Out := arrive l opWrr p s (takeResp opWrr p)
/-- R346: ATOMR. -/
def execAtomr (l : BitVec 3) (p : Packet) (s : State) : Out := arrive l opAtomr p s (takeResp opAtomr p)
/-- R346: SYNCR. -/
def execSyncr (l : BitVec 3) (p : Packet) (s : State) : Out := arrive l opSyncr p s (takeResp opSyncr p)

/-- R387: COMB. -/
def execComb (l : BitVec 3) (p : Packet) (s : State) : Out := arrive l opComb p s fun s => combAccept s opComb p
/-- R388: COMBR. -/
def execCombr (l : BitVec 3) (p : Packet) (s : State) : Out := arrive l opCombr p s fun s => combAccept s opCombr p

/-- R345, R359, R408: a monitor message kept for the monitor; its header carries the agent's low-water mark, and a peer's replay request
is answered from the message log. What concerns mirrored segments takes its effect (R304). -/
def takeSvc (p : Packet) (s : State) : State :=
  let s0 := dropBelow s p.src.toNat p.agent.toNat p.lwm.toNat
  let s1 := if p.data == replayAsk then resendLog s0 p.src.toNat else s0
  takeMirror { s1 with fab := { s1.fab with svc := s1.fab.svc ++ [(p.src, p.data)] } } p.src.toNat p.data

/-- R345: SVC. -/
def execSvc (l : BitVec 3) (p : Packet) (s : State) : Out := arrive l opSvc p s (takeSvc p)

/-- R345: SVCR. -/
def execSvcr (l : BitVec 3) (p : Packet) (s : State) : Out :=
  arrive l opSvcr p s fun s => { s with fab := { s.fab with svc := s.fab.svc ++ [(p.src, p.data)] } }

/-- R367, R368: TSYNC: a pot master that is not the system master follows a time message that comes in on plane 0: its rate changes, by at
most 100 ppm. -/
def execTsync (l : BitVec 3) (p : Packet) (s : State) : Out :=
  arrive l opTsync p s fun s =>
    if s.fab.role = 1#2 && l == 3#3 then
      { s with fab := { s.fab with corr := steerClip (Config.tsyncCorr s.time p.operand) } }
    else s

/-- R379: what is left of a WAITS' timeout when its request is sent again. -/
def operandLeft (s : State) (o : Outst) : Word :=
  if o.sent.1 = opSync && o.sent.2.fn == 2#16 then BitVec.ofNat 64 (o.sent.2.operand.toNat - (s.time - o.since)) else o.sent.2.operand

/-- R361, R379: BUSY_RESEND: 1 µs after BUSY, the request is sent again with the same SEQ; a WAITS whose timeout has passed completes
with TIMEOUT. -/
def execBusyResend (agent : BitVec 10) (seq22 : BitVec 22) (s : State) : Out :=
  match findOutst s agent.toNat seq22.toNat with
  | none => .next s
  | some o =>
    if !o.busy then .next s
    else
      let left := operandLeft s o
      if o.sent.1 = opSync && o.sent.2.fn == 2#16 && left == 0#64 then
        .next (deliver (dropOutst s o) o stOk (wordBytes 8 1#64))
      else
        let s1 := { s with fab := { s.fab with outst := s.fab.outst.map fun q =>
          if q.agent == o.agent && q.seq == o.seq then { q with busy := false } else q } }
        .next (emit s1 none o.sent.1 { o.sent.2 with operand := left })

/-- R359: LWM_UPDATE: of this device's agent, with nothing outstanding for 10 µs, to every device that may hold entries for it, as a
TC3 message whose header carries it (DEDUCED); of another device's agent, taken here. -/
def execLwmUpdate (dev : BitVec 14) (agent : BitVec 10) (seq22 : BitVec 22) (s : State) : Out :=
  let a := agent.toNat
  if dev != s.fab.devnum then .next (dropBelow s dev.toNat a seq22.toNat)
  else if (s.fab.outst ++ s.fab.tc0Wait).any fun o => o.agent == a then .next s
  else
    let dests := (s.fab.touched.filter fun e => e.1 == a).map (·.2)
    let s1 := { s with fab := { s.fab with touched := s.fab.touched.filter fun e => e.1 != a } }
    .next (dests.foldl (fun s d => sendSvc s a d []) s1)

/-- R360: DEDUP_EXPIRY: a TC0 entry is dropped 4 µs after it was made. -/
def execDedupExpiry (dev : BitVec 14) (agent : BitVec 10) (seq22 : BitVec 22) (now : Word) (s : State) : Out :=
  let s1 := { s with time := max s.time now.toNat }
  .next { s1 with fab := { s1.fab with dedup := s1.fab.dedup.filter fun e =>
    !(e.tc0 && e.src == dev.toNat && e.agent == agent.toNat && e.seq == seq22.toNat && decide (e.made + 4000 ≤ s1.time)) } }

end Sys2Proof.Machine
end

