-- ==== Sys2Proof/Machine/Dispatch.lean ====
section
/-!
DEFINITION. Sys2Proof/Machine/Dispatch.lean: one arm per command, each one direct call of its meaning.
-/

namespace Sys2Proof.Machine

def exec (i : Instr) (s : State) : Host.Outcome State Fault Refusal :=
  match i with
  | .add c d a b => Sys2Proof.Machine.execAdd c d a b s
  | .sub c d a b => Sys2Proof.Machine.execSub c d a b s
  | .andS c d a b => Sys2Proof.Machine.execAndS c d a b s
  | .orS c d a b => Sys2Proof.Machine.execOrS c d a b s
  | .xorS c d a b => Sys2Proof.Machine.execXorS c d a b s
  | .sll c d a b => Sys2Proof.Machine.execSll c d a b s
  | .srl c d a b => Sys2Proof.Machine.execSrl c d a b s
  | .sra c d a b => Sys2Proof.Machine.execSra c d a b s
  | .rotr c d a b => Sys2Proof.Machine.execRotr c d a b s
  | .slt c d a b => Sys2Proof.Machine.execSlt c d a b s
  | .sltu c d a b => Sys2Proof.Machine.execSltu c d a b s
  | .minS c d a b => Sys2Proof.Machine.execMinS c d a b s
  | .maxS c d a b => Sys2Proof.Machine.execMaxS c d a b s
  | .minu c d a b => Sys2Proof.Machine.execMinu c d a b s
  | .maxu c d a b => Sys2Proof.Machine.execMaxu c d a b s
  | .clz c d a b => Sys2Proof.Machine.execClz c d a b s
  | .ctz c d a b => Sys2Proof.Machine.execCtz c d a b s
  | .popc c d a b => Sys2Proof.Machine.execPopc c d a b s
  | .sextb c d a b => Sys2Proof.Machine.execSextb c d a b s
  | .sexth c d a b => Sys2Proof.Machine.execSexth c d a b s
  | .sextw c d a b => Sys2Proof.Machine.execSextw c d a b s
  | .addi c d a imm16 => Sys2Proof.Machine.execAddi c d a imm16 s
  | .andi c d a imm16 => Sys2Proof.Machine.execAndi c d a imm16 s
  | .ori c d a imm16 => Sys2Proof.Machine.execOri c d a imm16 s
  | .xori c d a imm16 => Sys2Proof.Machine.execXori c d a imm16 s
  | .slti c d a imm16 => Sys2Proof.Machine.execSlti c d a imm16 s
  | .sltiu c d a imm16 => Sys2Proof.Machine.execSltiu c d a imm16 s
  | .shi c d a imm16 => Sys2Proof.Machine.execShi c d a imm16 s
  | .mul c d a b => Sys2Proof.Machine.execMul c d a b s
  | .mulh c d a b => Sys2Proof.Machine.execMulh c d a b s
  | .mulhu c d a b => Sys2Proof.Machine.execMulhu c d a b s
  | .div c d a b => Sys2Proof.Machine.execDiv c d a b s
  | .divu c d a b => Sys2Proof.Machine.execDivu c d a b s
  | .rem c d a b => Sys2Proof.Machine.execRem c d a b s
  | .remu c d a b => Sys2Proof.Machine.execRemu c d a b s
  | .addiL c d a immHi immLo => Sys2Proof.Machine.execAddiL c d a immHi immLo s
  | .andiL c d a immHi immLo => Sys2Proof.Machine.execAndiL c d a immHi immLo s
  | .oriL c d a immHi immLo => Sys2Proof.Machine.execOriL c d a immHi immLo s
  | .xoriL c d a immHi immLo => Sys2Proof.Machine.execXoriL c d a immHi immLo s
  | .lihL c d a immHi immLo => Sys2Proof.Machine.execLihL c d a immHi immLo s
  | .ldL c d a immHi immLo => Sys2Proof.Machine.execLdL c d a immHi immLo s
  | .stL c d a immHi immLo => Sys2Proof.Machine.execStL c d a immHi immLo s
  | .ld c d a sz u hint off9 => Sys2Proof.Machine.execLd c d a sz u hint off9 s
  | .st c d a sz u hint off9 => Sys2Proof.Machine.execSt c d a sz u hint off9 s
  | .aadd c d a b size rsv5 => Sys2Proof.Machine.execAadd c d a b size rsv5 s
  | .aand c d a b size rsv5 => Sys2Proof.Machine.execAand c d a b size rsv5 s
  | .aor c d a b size rsv5 => Sys2Proof.Machine.execAor c d a b size rsv5 s
  | .axor c d a b size rsv5 => Sys2Proof.Machine.execAxor c d a b size rsv5 s
  | .aswap c d a b size rsv5 => Sys2Proof.Machine.execAswap c d a b size rsv5 s
  | .acas c d a b size rsv5 => Sys2Proof.Machine.execAcas c d a b size rsv5 s
  | .amin c d a b size rsv5 => Sys2Proof.Machine.execAmin c d a b size rsv5 s
  | .amax c d a b size rsv5 => Sys2Proof.Machine.execAmax c d a b size rsv5 s
  | .aminu c d a b size rsv5 => Sys2Proof.Machine.execAminu c d a b size rsv5 s
  | .amaxu c d a b size rsv5 => Sys2Proof.Machine.execAmaxu c d a b size rsv5 s
  | .beq c a b off16 => Sys2Proof.Machine.execBeq c a b off16 s
  | .bne c a b off16 => Sys2Proof.Machine.execBne c a b off16 s
  | .blt c a b off16 => Sys2Proof.Machine.execBlt c a b off16 s
  | .bge c a b off16 => Sys2Proof.Machine.execBge c a b off16 s
  | .bltu c a b off16 => Sys2Proof.Machine.execBltu c a b off16 s
  | .bgeu c a b off16 => Sys2Proof.Machine.execBgeu c a b off16 s
  | .call c off26 => Sys2Proof.Machine.execCall c off26 s
  | .jmp c off26 => Sys2Proof.Machine.execJmp c off26 s
  | .fence c => Sys2Proof.Machine.execFence c s
  | .ret c => Sys2Proof.Machine.execRet c s
  | .jmpr c a => Sys2Proof.Machine.execJmpr c a s
  | .callr c a => Sys2Proof.Machine.execCallr c a s
  | .stop c => Sys2Proof.Machine.execStop c s
  | .xret c => Sys2Proof.Machine.execXret c s
  | .rsspill c a b => Sys2Proof.Machine.execRsspill c a b s
  | .rsfill c a b => Sys2Proof.Machine.execRsfill c a b s
  | .trap c n rsv18 => Sys2Proof.Machine.execTrap c n rsv18 s
  | .mcall c n rsv18 => Sys2Proof.Machine.execMcall c n rsv18 s
  | .derive c t => Sys2Proof.Machine.execDerive c t s
  | .revoke c t => Sys2Proof.Machine.execRevoke c t s
  | .check c t => Sys2Proof.Machine.execCheck c t s
  | .iosubmit c t => Sys2Proof.Machine.execIosubmit c t s
  | .mftr c d trn rsv7 => Sys2Proof.Machine.execMftr c d trn rsv7 s
  | .mttr c a trn rsv7 => Sys2Proof.Machine.execMttr c a trn rsv7 s
  | .signal c d a b => Sys2Proof.Machine.execSignal c d a b s
  | .fetchadd c d a b => Sys2Proof.Machine.execFetchadd c d a b s
  | .waits c d a b => Sys2Proof.Machine.execWaits c d a b s
  | .barrier c d a b => Sys2Proof.Machine.execBarrier c d a b s
  | .steep c d a imm16 => Sys2Proof.Machine.execSteep c d a imm16 s
  | .vadd c vd va vb rm mk sf => Sys2Proof.Machine.execVadd c vd va vb rm mk sf s
  | .vsub c vd va vb rm mk sf => Sys2Proof.Machine.execVsub c vd va vb rm mk sf s
  | .vmul c vd va vb rm mk sf => Sys2Proof.Machine.execVmul c vd va vb rm mk sf s
  | .vdiv c vd va vb rm mk sf => Sys2Proof.Machine.execVdiv c vd va vb rm mk sf s
  | .vsqrt c vd va vb rm mk sf => Sys2Proof.Machine.execVsqrt c vd va vb rm mk sf s
  | .vmin c vd va vb rm mk sf => Sys2Proof.Machine.execVmin c vd va vb rm mk sf s
  | .vmax c vd va vb rm mk sf => Sys2Proof.Machine.execVmax c vd va vb rm mk sf s
  | .vminnum c vd va vb rm mk sf => Sys2Proof.Machine.execVminnum c vd va vb rm mk sf s
  | .vmaxnum c vd va vb rm mk sf => Sys2Proof.Machine.execVmaxnum c vd va vb rm mk sf s
  | .vabs c vd va vb rm mk sf => Sys2Proof.Machine.execVabs c vd va vb rm mk sf s
  | .vneg c vd va vb rm mk sf => Sys2Proof.Machine.execVneg c vd va vb rm mk sf s
  | .vcopysign c vd va vb rm mk sf => Sys2Proof.Machine.execVcopysign c vd va vb rm mk sf s
  | .viadd c vd va vb rm mk sf => Sys2Proof.Machine.execViadd c vd va vb rm mk sf s
  | .visub c vd va vb rm mk sf => Sys2Proof.Machine.execVisub c vd va vb rm mk sf s
  | .vimul c vd va vb rm mk sf => Sys2Proof.Machine.execVimul c vd va vb rm mk sf s
  | .vimulh c vd va vb rm mk sf => Sys2Proof.Machine.execVimulh c vd va vb rm mk sf s
  | .vimulhu c vd va vb rm mk sf => Sys2Proof.Machine.execVimulhu c vd va vb rm mk sf s
  | .vand c vd va vb rm mk sf => Sys2Proof.Machine.execVand c vd va vb rm mk sf s
  | .vor c vd va vb rm mk sf => Sys2Proof.Machine.execVor c vd va vb rm mk sf s
  | .vxor c vd va vb rm mk sf => Sys2Proof.Machine.execVxor c vd va vb rm mk sf s
  | .vshl c vd va vb rm mk sf => Sys2Proof.Machine.execVshl c vd va vb rm mk sf s
  | .vshr c vd va vb rm mk sf => Sys2Proof.Machine.execVshr c vd va vb rm mk sf s
  | .vsra c vd va vb rm mk sf => Sys2Proof.Machine.execVsra c vd va vb rm mk sf s
  | .vimin c vd va vb rm mk sf => Sys2Proof.Machine.execVimin c vd va vb rm mk sf s
  | .vimax c vd va vb rm mk sf => Sys2Proof.Machine.execVimax c vd va vb rm mk sf s
  | .viminu c vd va vb rm mk sf => Sys2Proof.Machine.execViminu c vd va vb rm mk sf s
  | .vimaxu c vd va vb rm mk sf => Sys2Proof.Machine.execVimaxu c vd va vb rm mk sf s
  | .feq c vd va vb rm mk => Sys2Proof.Machine.execFeq c vd va vb rm mk s
  | .fne c vd va vb rm mk => Sys2Proof.Machine.execFne c vd va vb rm mk s
  | .flt c vd va vb rm mk => Sys2Proof.Machine.execFlt c vd va vb rm mk s
  | .fle c vd va vb rm mk => Sys2Proof.Machine.execFle c vd va vb rm mk s
  | .fgt c vd va vb rm mk => Sys2Proof.Machine.execFgt c vd va vb rm mk s
  | .fge c vd va vb rm mk => Sys2Proof.Machine.execFge c vd va vb rm mk s
  | .funord c vd va vb rm mk => Sys2Proof.Machine.execFunord c vd va vb rm mk s
  | .ieq c vd va vb rm mk => Sys2Proof.Machine.execIeq c vd va vb rm mk s
  | .ine c vd va vb rm mk => Sys2Proof.Machine.execIne c vd va vb rm mk s
  | .ilt c vd va vb rm mk => Sys2Proof.Machine.execIlt c vd va vb rm mk s
  | .ile c vd va vb rm mk => Sys2Proof.Machine.execIle c vd va vb rm mk s
  | .iltu c vd va vb rm mk => Sys2Proof.Machine.execIltu c vd va vb rm mk s
  | .ileu c vd va vb rm mk => Sys2Proof.Machine.execIleu c vd va vb rm mk s
  | .vwmulBf c vd va vb rm mk accf => Sys2Proof.Machine.execVwmulBf c vd va vb rm mk accf s
  | .vwmulS c vd va vb rm mk accf => Sys2Proof.Machine.execVwmulS c vd va vb rm mk accf s
  | .vwmulH c vd va vb rm mk accf => Sys2Proof.Machine.execVwmulH c vd va vb rm mk accf s
  | .vdot2 c vd va vb rm mk accf => Sys2Proof.Machine.execVdot2 c vd va vb rm mk accf s
  | .vdot4 c vd va vb rm mk accf => Sys2Proof.Machine.execVdot4 c vd va vb rm mk accf s
  | .vdot8 c vd va vb rm mk accf => Sys2Proof.Machine.execVdot8 c vd va vb rm mk accf s
  | .vdoti8 c vd va vb rm mk accf => Sys2Proof.Machine.execVdoti8 c vd va vb rm mk accf s
  | .vcvt c vd va tfmt sat rm mk rsv4 => Sys2Proof.Machine.execVcvt c vd va tfmt sat rm mk rsv4 s
  | .vfma c vd va vb rm mk negp negc rsv2 => Sys2Proof.Machine.execVfma c vd va vb rm mk negp negc rsv2 s
  | .vpermute c vd va vb rm mk => Sys2Proof.Machine.execVpermute c vd va vb rm mk s
  | .vrev c vd va vb rm mk => Sys2Proof.Machine.execVrev c vd va vb rm mk s
  | .vzip c vd va vb rm mk => Sys2Proof.Machine.execVzip c vd va vb rm mk s
  | .vunzip c vd va vb rm mk => Sys2Proof.Machine.execVunzip c vd va vb rm mk s
  | .vcompress c vd va vb rm mk => Sys2Proof.Machine.execVcompress c vd va vb rm mk s
  | .vexpand c vd va vb rm mk => Sys2Proof.Machine.execVexpand c vd va vb rm mk s
  | .vrsum c vd va accn rm mk => Sys2Proof.Machine.execVrsum c vd va accn rm mk s
  | .vrmin c vd va accn rm mk => Sys2Proof.Machine.execVrmin c vd va accn rm mk s
  | .vrmax c vd va accn rm mk => Sys2Proof.Machine.execVrmax c vd va accn rm mk s
  | .vrsumHo c vd va accn rm mk => Sys2Proof.Machine.execVrsumHo c vd va accn rm mk s
  | .vsetvl c d a => Sys2Proof.Machine.execVsetvl c d a s
  | .vsetfmt c a => Sys2Proof.Machine.execVsetfmt c a s
  | .mand c vd va vb => Sys2Proof.Machine.execMand c vd va vb s
  | .mor c vd va vb => Sys2Proof.Machine.execMor c vd va vb s
  | .mxor c vd va vb => Sys2Proof.Machine.execMxor c vd va vb s
  | .mnot c vd va vb => Sys2Proof.Machine.execMnot c vd va vb s
  | .mcount c d va => Sys2Proof.Machine.execMcount c d va s
  | .vmemLoad c vd a b hint mk idx64 rsv1 => Sys2Proof.Machine.execVmemLoad c vd a b hint mk idx64 rsv1 s
  | .vmemStore c vd a b hint mk idx64 rsv1 => Sys2Proof.Machine.execVmemStore c vd a b hint mk idx64 rsv1 s
  | .vgather c vd a vb hint mk idx64 rsv1 => Sys2Proof.Machine.execVgather c vd a vb hint mk idx64 rsv1 s
  | .vscatter c vd a vb hint mk idx64 rsv1 => Sys2Proof.Machine.execVscatter c vd a vb hint mk idx64 rsv1 s
  | .vectorPassStart c => Sys2Proof.Machine.execVectorPassStart c s
  | .vectorWrite c => Sys2Proof.Machine.execVectorWrite c s
  | .mload c a b fmt sp24 rsv11 => Sys2Proof.Machine.execMload c a b fmt sp24 rsv11 s
  | .mloadLoadEnd c => Sys2Proof.Machine.execMloadLoadEnd c s
  | .mpass c a b wait sref rsv8 => Sys2Proof.Machine.execMpass c a b wait sref rsv8 s
  | .mswap c wait rsv10 => Sys2Proof.Machine.execMswap c wait rsv10 s
  | .mzero c wait rsv10 => Sys2Proof.Machine.execMzero c wait rsv10 s
  | .mcfg c a wait rsv10 => Sys2Proof.Machine.execMcfg c a wait rsv10 s
  | .mrel c wait rsv10 => Sys2Proof.Machine.execMrel c wait rsv10 s
  | .mrd c vd tfmt sat rm wait rsv6 => Sys2Proof.Machine.execMrd c vd tfmt sat rm wait rsv6 s
  | .matrixEffect c => Sys2Proof.Machine.execMatrixEffect c s
  | .matrixRowIssue c held j => Sys2Proof.Machine.execMatrixRowIssue c held j s
  | .skipCheck c => Sys2Proof.Machine.execSkipCheck c s
  | .predictorReply c => Sys2Proof.Machine.execPredictorReply c s
  | .predictorUpdate c => Sys2Proof.Machine.execPredictorUpdate c s
  | .drainRow c => Sys2Proof.Machine.execDrainRow c s
  | .drainComplete c => Sys2Proof.Machine.execDrainComplete c s
  | .mpassSuspend c => Sys2Proof.Machine.execMpassSuspend c s
  | .matrixWorldClear c => Sys2Proof.Machine.execMatrixWorldClear c s
  | .spass c a b wait ref rsv8 => Sys2Proof.Machine.execSpass c a b wait ref rsv8 s
  | .sarm c a b rsv12 => Sys2Proof.Machine.execSarm c a b rsv12 s
  | .sdisarm c a b rsv12 => Sys2Proof.Machine.execSdisarm c a b rsv12 s
  | .armFiring c => Sys2Proof.Machine.execArmFiring c s
  | .streamPassStart c => Sys2Proof.Machine.execStreamPassStart c s
  | .streamGroup c => Sys2Proof.Machine.execStreamGroup c s
  | .streamPassComplete c => Sys2Proof.Machine.execStreamPassComplete c s
  | .streamSuspend c => Sys2Proof.Machine.execStreamSuspend c s
  | .ruclr c d a acc6 fmt rm => Sys2Proof.Machine.execRuclr c d a acc6 fmt rm s
  | .ruaddv c d a acc6 fmt rm => Sys2Proof.Machine.execRuaddv c d a acc6 fmt rm s
  | .rumrg c d a acc6 fmt rm => Sys2Proof.Machine.execRumrg c d a acc6 fmt rm s
  | .ruspill c d a acc6 fmt rm => Sys2Proof.Machine.execRuspill c d a acc6 fmt rm s
  | .rurd c d a acc6 fmt rm => Sys2Proof.Machine.execRurd c d a acc6 fmt rm s
  | .rucfg c d a acc6 fmt rm => Sys2Proof.Machine.execRucfg c d a acc6 fmt rm s
  | .ruCtlWrite c v => Sys2Proof.Machine.execRuCtlWrite c v s
  | .extensionInstruction c maj2 d a b xfunc => Sys2Proof.Machine.execExtensionInstruction c maj2 d a b xfunc s
  | .extReply c t seq v => Sys2Proof.Machine.execExtReply c t seq v s
  | .extto c t now => Sys2Proof.Machine.execExtto c t now s
  | .lateReply c t seq v => Sys2Proof.Machine.execLateReply c t seq v s
  | .xlateValidClear c t => Sys2Proof.Machine.execXlateValidClear c t s
  | .accessReply c t atc => Sys2Proof.Machine.execAccessReply c t atc s
  | .timesliceSwitch c => Sys2Proof.Machine.execTimesliceSwitch c s
  | .shareWindow c => Sys2Proof.Machine.execShareWindow c s
  | .storeDrain c t => Sys2Proof.Machine.execStoreDrain c t s
  | .interruptEntry c t => Sys2Proof.Machine.execInterruptEntry c t s
  | .icuSwiWrite c who v => Sys2Proof.Machine.execIcuSwiWrite c who v s
  | .icuPendClear c who v => Sys2Proof.Machine.execIcuPendClear c who v s
  | .timerInterrupt c t now => Sys2Proof.Machine.execTimerInterrupt c t now s
  | .monitorMessage c k3 => Sys2Proof.Machine.execMonitorMessage c k3 s
  | .extIntN low => Sys2Proof.Machine.execExtIntN low s
  | .coreWorldWrite c who v => Sys2Proof.Machine.execCoreWorldWrite c who v s
  | .coreModeWrite c who v => Sys2Proof.Machine.execCoreModeWrite c who v s
  | .interleaveTurn c => Sys2Proof.Machine.execInterleaveTurn c s
  | .csrWrite who addr v => Sys2Proof.Machine.execCsrWrite who addr v s
  | .soStore who so tgt v => Sys2Proof.Machine.execSoStore who so tgt v s
  | .soCfgStore who so v => Sys2Proof.Machine.execSoCfgStore who so v s
  | .waitsTimeout so idx now => Sys2Proof.Machine.execWaitsTimeout so idx now s
  | .combineStart g => Sys2Proof.Machine.execCombineStart g s
  | .collectiveDone g => Sys2Proof.Machine.execCollectiveDone g s
  | .cxInval1Write who cx v => Sys2Proof.Machine.execCxInval1Write who cx v s
  | .invalAck cx eng => Sys2Proof.Machine.execInvalAck cx eng s
  | .segmentDescriptorWrite who cx sg word v env => Sys2Proof.Machine.execSegmentDescriptorWrite who cx sg word v env s
  | .presentChange cx sg present => Sys2Proof.Machine.execPresentChange cx sg present s
  | .segmentMirror what base => Sys2Proof.Machine.execSegmentMirror what base s
  | .tsStart who ts v => Sys2Proof.Machine.execTsStart who ts v s
  | .tsResume who ts zpois => Sys2Proof.Machine.execTsResume who ts zpois s
  | .tsStop who ts => Sys2Proof.Machine.execTsStop who ts s
  | .tsAbort who ts => Sys2Proof.Machine.execTsAbort who ts s
  | .elementIssue ts => Sys2Proof.Machine.execElementIssue ts s
  | .elementDelivery ts idx48 => Sys2Proof.Machine.execElementDelivery ts idx48 s
  | .streamFault ts => Sys2Proof.Machine.execStreamFault ts s
  | .streamStopped ts => Sys2Proof.Machine.execStreamStopped ts s
  | .scratchpadPatrol c gran finding => Sys2Proof.Machine.execScratchpadPatrol c gran finding s
  | .imemUncorrectable c => Sys2Proof.Machine.execImemUncorrectable c s
  | .llcRequest cx wr la len cls ask finding => Sys2Proof.Machine.execLlcRequest cx wr la len cls ask finding s
  | .llcFill half sset way sector => Sys2Proof.Machine.execLlcFill half sset way sector s
  | .hbmColumnAccess stack ch pc good err => Sys2Proof.Machine.execHbmColumnAccess stack ch pc good err s
  | .hbmRefresh stack ch pc bank => Sys2Proof.Machine.execHbmRefresh stack ch pc bank s
  | .pcRetrain stack ch pc ok => Sys2Proof.Machine.execPcRetrain stack ch pc ok s
  | .hbmScrubRead stack ch pc err => Sys2Proof.Machine.execHbmScrubRead stack ch pc err s
  | .wordRebuild la bytes => Sys2Proof.Machine.execWordRebuild la bytes s
  | .correctedWriteback la => Sys2Proof.Machine.execCorrectedWriteback la s
  | .laneRetrain stack ch lane busy75 eye => Sys2Proof.Machine.execLaneRetrain stack ch lane busy75 eye s
  | .stackTempRead stack temp => Sys2Proof.Machine.execStackTempRead stack temp s
  | .readRepairList => Sys2Proof.Machine.execReadRepairList s
  | .readLaneMap => Sys2Proof.Machine.execReadLaneMap s
  | .scheduleRepair stack rowaddr => Sys2Proof.Machine.execScheduleRepair stack rowaddr s
  | .readTemperatures => Sys2Proof.Machine.execReadTemperatures s
  | .memCfgWrite who v => Sys2Proof.Machine.execMemCfgWrite who v s
  | .linkTraining l num lvl bad => Sys2Proof.Machine.execLinkTraining l num lvl bad s
  | .groupReceive l good gseq ack nak spsw => Sys2Proof.Machine.execGroupReceive l good gseq ack nak spsw s
  | .groupResend l ack => Sys2Proof.Machine.execGroupResend l ack s
  | .laneSpare l llane => Sys2Proof.Machine.execLaneSpare l llane s
  | .spsw l => Sys2Proof.Machine.execSpsw l s
  | .linkLoss l => Sys2Proof.Machine.execLinkLoss l s
  | .nop l => Sys2Proof.Machine.execNop l s
  | .rd l p => Sys2Proof.Machine.execRd l p s
  | .rdr l p => Sys2Proof.Machine.execRdr l p s
  | .wr l p => Sys2Proof.Machine.execWr l p s
  | .wrr l p => Sys2Proof.Machine.execWrr l p s
  | .atom l p => Sys2Proof.Machine.execAtom l p s
  | .atomr l p => Sys2Proof.Machine.execAtomr l p s
  | .sync l p => Sys2Proof.Machine.execSync l p s
  | .syncr l p => Sys2Proof.Machine.execSyncr l p s
  | .comb l p => Sys2Proof.Machine.execComb l p s
  | .combr l p => Sys2Proof.Machine.execCombr l p s
  | .svc l p => Sys2Proof.Machine.execSvc l p s
  | .svcr l p => Sys2Proof.Machine.execSvcr l p s
  | .tsync l p => Sys2Proof.Machine.execTsync l p s
  | .busyResend agent seq22 => Sys2Proof.Machine.execBusyResend agent seq22 s
  | .lwmUpdate dev agent seq22 => Sys2Proof.Machine.execLwmUpdate dev agent seq22 s
  | .dedupExpiry dev agent seq22 now => Sys2Proof.Machine.execDedupExpiry dev agent seq22 now s
  | .routeTableInstall routes => Sys2Proof.Machine.execRouteTableInstall routes s
  | .levelVote lvl => Sys2Proof.Machine.execLevelVote lvl s
  | .levelAnnounce lvl => Sys2Proof.Machine.execLevelAnnounce lvl s
  | .fabLevelWrite who v => Sys2Proof.Machine.execFabLevelWrite who v s
  | .timeSteer now corr locked => Sys2Proof.Machine.execTimeSteer now corr locked s
  | .timeParentLoss l parent => Sys2Proof.Machine.execTimeParentLoss l parent s
  | .steepRequest now => Sys2Proof.Machine.execSteepRequest now s
  | .steepCut => Sys2Proof.Machine.execSteepCut s
  | .steepForced now => Sys2Proof.Machine.execSteepForced now s
  | .steepSeal => Sys2Proof.Machine.execSteepSeal s
  | .logShareFull c => Sys2Proof.Machine.execLogShareFull c s
  | .peerSteepAck dev => Sys2Proof.Machine.execPeerSteepAck dev s
  | .fullSteepAnnounce gen => Sys2Proof.Machine.execFullSteepAnnounce gen s
  | .deltaApply la delta pos isq => Sys2Proof.Machine.execDeltaApply la delta pos isq s
  | .fullSteepCommit gen => Sys2Proof.Machine.execFullSteepCommit gen s
  | .archiveSteep now => Sys2Proof.Machine.execArchiveSteep now s
  | .computeCheckFail site now => Sys2Proof.Machine.execComputeCheckFail site now s
  | .localRollback => Sys2Proof.Machine.execLocalRollback s
  | .poisonRecovery la bytes => Sys2Proof.Machine.execPoisonRecovery la bytes s
  | .heartbeat dev ok => Sys2Proof.Machine.execHeartbeat dev ok s
  | .deviceLoss dev confirms => Sys2Proof.Machine.execDeviceLoss dev confirms s
  | .deviceRecovery dev spare => Sys2Proof.Machine.execDeviceRecovery dev spare s
  | .checkLineRebuild la bytes => Sys2Proof.Machine.execCheckLineRebuild la bytes s
  | .archiveResume => Sys2Proof.Machine.execArchiveResume s
  | .injectionTest cl pair flagged => Sys2Proof.Machine.execInjectionTest cl pair flagged s
  | .lockstepMismatch cl pair now => Sys2Proof.Machine.execLockstepMismatch cl pair now s
  | .aonClaim cl expect now => Sys2Proof.Machine.execAonClaim cl expect now s
  | .leaseExpiry now => Sys2Proof.Machine.execLeaseExpiry now s
  | .clusterGateClose cl now => Sys2Proof.Machine.execClusterGateClose cl now s
  | .evidenceWrite now => Sys2Proof.Machine.execEvidenceWrite now s
  | .suppliesGood jsel => Sys2Proof.Machine.execSuppliesGood jsel s
  | .aonStart slots secmin serial => Sys2Proof.Machine.execAonStart slots secmin serial s
  | .caddyLoad => Sys2Proof.Machine.execCaddyLoad s
  | .clusterStart ok => Sys2Proof.Machine.execClusterStart ok s
  | .hbmTraining eyes => Sys2Proof.Machine.execHbmTraining eyes s
  | .bootStrainer env => Sys2Proof.Machine.execBootStrainer env s
  | .jobLoaderStart => Sys2Proof.Machine.execJobLoaderStart s
  | .deviceReset => Sys2Proof.Machine.execDeviceReset s
  | .resetN high => Sys2Proof.Machine.execResetN high s
  | .worldEn w en env => Sys2Proof.Machine.execWorldEn w en env s
  | .linkEn l en env => Sys2Proof.Machine.execLinkEn l en env s
  | .steepEn en env => Sys2Proof.Machine.execSteepEn en env s
  | .classEn en env => Sys2Proof.Machine.execClassEn en env s
  | .jobEn w en env => Sys2Proof.Machine.execJobEn w en env s
  | .extEn en env => Sys2Proof.Machine.execExtEn en env s
  | .ctxEn who cx en env => Sys2Proof.Machine.execCtxEn who cx en env s
  | .segEn who cx en env => Sys2Proof.Machine.execSegEn who cx en env s
  | .strainerRetry env => Sys2Proof.Machine.execStrainerRetry env s
  | .jobLoad job => Sys2Proof.Machine.execJobLoad job s
  | .migration back => Sys2Proof.Machine.execMigration back s
  | .baseDiscovery sensor => Sys2Proof.Machine.execBaseDiscovery sensor s
  | .getSensorReading sensor => Sys2Proof.Machine.execGetSensorReading sensor s
  | .requestUpdate => Sys2Proof.Machine.execRequestUpdate s
  | .firmwareDataWrite off32 bytes => Sys2Proof.Machine.execFirmwareDataWrite off32 bytes s
  | .verifyComplete => Sys2Proof.Machine.execVerifyComplete s
  | .activateFirmware => Sys2Proof.Machine.execActivateFirmware s
  | .evidenceRead => Sys2Proof.Machine.execEvidenceRead s
  | .errlogRead => Sys2Proof.Machine.execErrlogRead s
  | .devkeyRead => Sys2Proof.Machine.execDevkeyRead s
  | .maintReq cmd8 arg64 => Sys2Proof.Machine.execMaintReq cmd8 arg64 s
  | .maintRsp => Sys2Proof.Machine.execMaintRsp s
  | .mbCmdtailWrite tail8 => Sys2Proof.Machine.execMbCmdtailWrite tail8 s
  | .mbRspheadWrite head8 => Sys2Proof.Machine.execMbRspheadWrite head8 s
  | .jobSubmit tag job => Sys2Proof.Machine.execJobSubmit tag job s
  | .jobStatus tag w => Sys2Proof.Machine.execJobStatus tag w s
  | .segChange tag cx sg words => Sys2Proof.Machine.execSegChange tag cx sg words s
  | .mirrorSet tag addr64 => Sys2Proof.Machine.execMirrorSet tag addr64 s
  | .hostIo tag cx words => Sys2Proof.Machine.execHostIo tag cx words s
  | .ioComplete ioidx status8 bytes => Sys2Proof.Machine.execIoComplete ioidx status8 bytes s
  | .nvmeTimeout ctrl => Sys2Proof.Machine.execNvmeTimeout ctrl s
  | .pcieEnumerate ctrls => Sys2Proof.Machine.execPcieEnumerate ctrls s
  | .inboundTlp wr addr64 bytes => Sys2Proof.Machine.execInboundTlp wr addr64 bytes s
  | .hostBarAccess wr off36 len12 bytes => Sys2Proof.Machine.execHostBarAccess wr off36 len12 bytes s
  | .bypass => Sys2Proof.Machine.execBypass s
  | .idcode => Sys2Proof.Machine.execIdcode s
  | .samplePreload => Sys2Proof.Machine.execSamplePreload s
  | .extest => Sys2Proof.Machine.execExtest s
  | .clamp => Sys2Proof.Machine.execClamp s
  | .highz => Sys2Proof.Machine.execHighz s
  | .extestPulse => Sys2Proof.Machine.execExtestPulse s
  | .extestTrain => Sys2Proof.Machine.execExtestTrain s
  | .extTraining ok credinit chipid => Sys2Proof.Machine.execExtTraining ok credinit chipid s
  | .extFlitReceive good flit => Sys2Proof.Machine.execExtFlitReceive good flit s
  | .extResend ack8 => Sys2Proof.Machine.execExtResend ack8 s
  | .extLinkDown => Sys2Proof.Machine.execExtLinkDown s
  | .extLinkcfgWrite who v => Sys2Proof.Machine.execExtLinkcfgWrite who v s
  | .inputGood isB => Sys2Proof.Machine.execInputGood isB s
  | .supplySwitch => Sys2Proof.Machine.execSupplySwitch s
  | .powerLoss => Sys2Proof.Machine.execPowerLoss s
  | .vinSample va16 vb16 => Sys2Proof.Machine.execVinSample va16 vb16 s
  | .pwrDomreqWrite who v => Sys2Proof.Machine.execPwrDomreqWrite who v s
  | .domainWake dom => Sys2Proof.Machine.execDomainWake dom s
  | .domainSleep dom => Sys2Proof.Machine.execDomainSleep dom s
  | .fabRefclkLoss => Sys2Proof.Machine.execFabRefclkLoss s
  | .aonRefclkLoss => Sys2Proof.Machine.execAonRefclkLoss s
  | .pcieRefclkLoss => Sys2Proof.Machine.execPcieRefclkLoss s
  | .droopMeasure c => Sys2Proof.Machine.execDroopMeasure c s
  | .boostChange c up => Sys2Proof.Machine.execBoostChange c up s
  | .powerCapAdjust cap9 => Sys2Proof.Machine.execPowerCapAdjust cap9 s
  | .thermalSample die temp => Sys2Proof.Machine.execThermalSample die temp s
  | .thermalTrip => Sys2Proof.Machine.execThermalTrip s
  | .pciePerstN high => Sys2Proof.Machine.execPciePerstN high s
  | .trstN => Sys2Proof.Machine.execTrstN s
  | .pcieLinkRetrain rate2 width2 => Sys2Proof.Machine.execPcieLinkRetrain rate2 width2 s
  | .entdaa da7 => Sys2Proof.Machine.execEntdaa da7 s
  | .eidAssignment eid8 => Sys2Proof.Machine.execEidAssignment eid8 s
  | .cycleStretch island eighths => Sys2Proof.Machine.execCycleStretch island eighths s
  | .fabRefclkPresent => Sys2Proof.Machine.execFabRefclkPresent s
  | .holdUpChargeSpent => Sys2Proof.Machine.execHoldUpChargeSpent s
  | .monitorThreadStop c t => Sys2Proof.Machine.execMonitorThreadStop c t s

end Sys2Proof.Machine
end

