-- ==== Sys2Proof/Machine/Step.lean ====
section
/-!
DEFINITION. Sys2Proof/Machine/Step.lean: one step takes the command at the front of the queue; on an empty queue a nanosecond
of device time passes.
-/

namespace Sys2Proof.Machine

/-- One step: the front command's effect on the state with the queue's rest. On an empty queue TIME advances by one nanosecond, in which
upsets may strike (DESIGN CHOICE: the table has no row for the passing of time). -/
def step (s : State) : Host.Outcome State Fault Refusal :=
  match s.pending with
  | [] => .next { strike s with time := s.time + 1 }
  | c :: rest => exec c { s with pending := rest }

/-- The state with the command that a word spells put at the front of its queue. -/
def State.withFetchWord (s : State) (nbits w : Nat) : State :=
  match decodeTableWord nbits w with
  | some c => { s with pending := c :: s.pending }
  | none => s

end Sys2Proof.Machine
end

