-- ==== Sys2Proof/Machine/Program.lean ====
section
/-!
DEFINITION. Sys2Proof/Machine/Program.lean: a core's program as its instruction memory holds it (R87, R110): the words that its running
thread fetches, the instruction that they spell, and the ILLOP of those that spell none (R113).
-/

namespace Sys2Proof.Machine

/-- R87, R110: the 32-bit word at an offset of core c's instruction memory. -/
def fetchWord (s : State) (c : Nat) (pc : BitVec 18) : BitVec 32 :=
  BitVec.ofNat 32 (leNat (loadBytes s (imemBase c + pc.toNat) 4))

/-- R110, R113: core c's running thread issues the instruction that a word spells, with the word after it for a long form; a word that
spells none raises ILLOP at its fetch, or does nothing under mask. -/
def execWord (c : BitVec 8) (w lo : BitVec 32) (s : State) : Out :=
  match decodeInstr c w lo with
  | some i => exec i s
  | none =>
    let len := BitVec.ofNat 18 (instrBytes w)
    .next (issue c len [] (fun t x s => illop s c.toNat t x len 3) s)

/-- R110: core c's running thread issues what its instruction memory holds at its PC. -/
def execFetched (c : BitVec 8) (s : State) : Out :=
  match running s c.toNat with
  | none => .next s
  | some t =>
    let pc := (thOf s c.toNat t).pc
    execWord c (fetchWord s c.toNat pc) (fetchWord s c.toNat (pc + 4#18)) s

end Sys2Proof.Machine
end

