-- ==== Sys2Proof/WellFormed.lean ====
section
/-!
DEFINITION. Sys2Proof/WellFormed.lean: which terms stand for commands of the block: the lists of data that a command carries have the
lengths its rule gives. Every other operand is a bit field of the rule's own width.
-/

namespace Sys2Proof

/-- R344, R345: a packet of an operation without payload. -/
def Packet.bare (p : Packet) : Bool := p.data.isEmpty

/-- R345: a packet whose payload is BYTES long. -/
def Packet.full (p : Packet) : Bool := p.data.length == p.bytes.toNat

/-- R119, R345: an ATOM carries one flit, the compare value, for an ACAS only. -/
def Packet.atomic (p : Packet) : Bool := p.data.length == (if p.fn.toNat % 16 = 5 then 8 else 0)

/-- R346: a read response carries its data, or none with a status other than OK. -/
def Packet.reply (p : Packet) : Bool := p.bare || p.full

/-- The terms that stand for commands. -/
def Instr.wf : Instr → Bool
  | .rd _ p => p.bare
  | .wr _ p => p.full
  | .atom _ p => p.atomic
  | .sync _ p => p.bare
  | .rdr _ p => p.reply
  | .wrr _ p => p.bare
  | .atomr _ p => p.bare
  | .syncr _ p => p.bare
  | .comb _ p => p.full
  | .combr _ p => p.full
  | .svc _ p => p.full
  | .svcr _ p => p.full
  | .tsync _ p => p.full
  | .segChange _ _ _ words => words.length == 8
  | .hostIo _ _ words => words.length == 4
  | .hostBarAccess w _ len12 bytes => !w || bytes.length == len12.toNat
  | .wordRebuild _ bytes => bytes.length == 32
  | .poisonRecovery _ bytes => bytes.length == 32
  | .checkLineRebuild _ bytes => bytes.length == 256
  | .deltaApply _ delta _ _ => delta.length == 256
  | _ => true

end Sys2Proof
end

