-- ==== Sys2Proof/Safety.lean ====
section
/-!
DEFINITION. Sys2Proof/Safety.lean: the terms in which claims about the device are made: the invariant of memory, when an instruction
issues, and what a command leaves as it was.
-/

namespace Sys2Proof.Machine

/-- The canonical form of memory. -/
def Memory.wf (s : State) : Bool := memWf s.mem

/-- R75, R81, R87, R92, R256: core c's running thread is t, no vector instruction before it may still take an exception, its fetch lies in
its world's part and meets no error, and no register the instruction names is busy: an instruction of `len` bytes issues. -/
def CanIssue (s : State) (c : BitVec 8) (t : Nat) (len : BitVec 18) (regs : List Reg) : Prop :=
  running s c.toNat = some t ∧ vecMayFault (coreOf s c.toNat) t = false ∧
    fetchFlaws c.toNat (thOf s c.toNat t).pc len s.unseen = [] ∧ fetchFlaws c.toNat (thOf s c.toNat t).pc len s.flaws = [] ∧
    inPart (coreOf s c.toNat) (worldOf (coreOf s c.toNat) t) (thOf s c.toNat t).pc = true ∧
    (len = 8#18 → inPart (coreOf s c.toNat) (worldOf (coreOf s c.toNat) t) ((thOf s c.toNat t).pc + 4#18) = true) ∧
    anyBusy (thOf s c.toNat t) regs = false

/-- A command of core c's thread t changed nothing but cores, and of the cores only c; of c's threads only t; and of c itself only
its clock, its turn, the clocks its worlds have used and the clocks at which its threads last issued. -/
def OnlyThread (s s' : State) (c t : Nat) : Prop :=
  s' = { s with cores := s'.cores } ∧ (∀ c', c' ≠ c → coreOf s' c' = coreOf s c') ∧ (∀ t', t' ≠ t → thOf s' c t' = thOf s c t') ∧
    ∃ th clk ran cur usedP usedT win issued, coreOf s' c =
      { coreOf s c with th := th, clk := clk, ran := ran, cur := cur, usedP := usedP, usedT := usedT, win := win, issued := issued }

/-- A thread's fields but for its scalar registers, its place in the program, the count of completed instructions and its state. -/
def ThreadKept (x y : Thread) : Prop :=
  y = { x with s := y.s, pc := y.pc, icount := y.icount, st := y.st, wait := y.wait }

/-- R112: a scalar register holds a value, or reads zero where it is S0; every other scalar register is as before. -/
def Wrote (x y : Thread) (d : BitVec 5) (v : Word) : Prop :=
  getS y d = (if d = 0#5 then 0#64 else v) ∧ ∀ r, r ≠ d → getS y r = getS x r

/-- Every byte of memory and every poisoned word is as before. -/
def SameMemory (s s' : State) : Prop := s'.mem = s.mem ∧ s'.poison = s.poison

/-- A command ends in no fault and no refusal. -/
def Completes (i : Instr) (s : State) : Prop := ∃ t, exec i s = .next t

end Sys2Proof.Machine
end

