-- ==== Sys2Proof/Certificates/Slice0/Obligations.lean ====
section
/-!
DEFINITION. Sys2Proof/Certificates/Slice0/Obligations.lean: the statements about the device, by family: the queue and reset, the scalar
core, memory, sync objects, the vector, matrix, stream and reduction units, the fabric, failure hiding, start-up, services and power.
-/

namespace Sys2Proof.Machine

/-- A scalar instruction of core c's thread t has completed: the thread is at `pc`, the core's clock has advanced by n, and nothing but
the thread's scalar registers and the core's turn has changed. -/
def ScalarDone (s s' : State) (c : BitVec 8) (t : Nat) (pc : BitVec 18) (n : Nat) : Prop :=
  OnlyThread s s' c.toNat t ∧ ThreadKept (thOf s c.toNat t) (thOf s' c.toNat t) ∧ (thOf s' c.toNat t).pc = pc ∧
    (coreOf s' c.toNat).clk = (coreOf s c.toNat).clk + n

/-- R115: the register forms of the scalar ALU and what they compute from a and b. -/
def scalarRR (c : BitVec 8) (d a b : BitVec 5) : List (Instr × (Word → Word → Word)) :=
  [(.add c d a b, fun x y => x + y), (.sub c d a b, fun x y => x - y), (.andS c d a b, fun x y => x &&& y),
   (.orS c d a b, fun x y => x ||| y), (.xorS c d a b, fun x y => x ^^^ y),
   (.sll c d a b, fun x y => x <<< (y.toNat % 64)), (.srl c d a b, fun x y => x >>> (y.toNat % 64)),
   (.sra c d a b, fun x y => x.sshiftRight (y.toNat % 64)), (.rotr c d a b, fun x y => x.rotateRight (y.toNat % 64)),
   (.slt c d a b, fun x y => if x.toInt < y.toInt then 1#64 else 0#64),
   (.sltu c d a b, fun x y => if x.toNat < y.toNat then 1#64 else 0#64),
   (.minS c d a b, fun x y => if x.toInt ≤ y.toInt then x else y), (.maxS c d a b, fun x y => if x.toInt ≤ y.toInt then y else x),
   (.minu c d a b, fun x y => if x.toNat ≤ y.toNat then x else y), (.maxu c d a b, fun x y => if x.toNat ≤ y.toNat then y else x)]

/-- R115: the forms of the scalar ALU that compute from a alone. -/
def scalarUnary (c : BitVec 8) (d a b : BitVec 5) : List (Instr × (Word → Word)) :=
  [(.clz c d a b, fun x => x.clz), (.ctz c d a b, fun x => x.ctz), (.popc c d a b, fun x => x.cpop),
   (.sextb c d a b, fun x => (x.extractLsb' 0 8).signExtend 64), (.sexth c d a b, fun x => (x.extractLsb' 0 16).signExtend 64),
   (.sextw c d a b, fun x => (x.extractLsb' 0 32).signExtend 64)]

/-- R116: multiplication and division. -/
def scalarMulDiv (c : BitVec 8) (d a b : BitVec 5) : List (Instr × (Word → Word → Word)) :=
  [(.mul c d a b, fun x y => x * y),
   (.mulh c d a b, fun x y => (x.signExtend 128 * y.signExtend 128).extractLsb' 64 64),
   (.mulhu c d a b, fun x y => (x.zeroExtend 128 * y.zeroExtend 128).extractLsb' 64 64),
   (.div c d a b, fun x y => if y = 0#64 then BitVec.allOnes 64 else BitVec.ofInt 64 (x.toInt.tdiv y.toInt)),
   (.divu c d a b, fun x y => if y = 0#64 then BitVec.allOnes 64 else BitVec.ofNat 64 (x.toNat / y.toNat)),
   (.rem c d a b, fun x y => if y = 0#64 then x else BitVec.ofInt 64 (x.toInt.tmod y.toInt)),
   (.remu c d a b, fun x y => if y = 0#64 then x else BitVec.ofNat 64 (x.toNat % y.toNat))]

/-- R115: the immediate forms of the scalar ALU. -/
def scalarImm (c : BitVec 8) (d a : BitVec 5) (imm : BitVec 16) : List (Instr × (Word → Word)) :=
  [(.addi c d a imm, fun x => x + imm.signExtend 64), (.andi c d a imm, fun x => x &&& imm.zeroExtend 64),
   (.ori c d a imm, fun x => x ||| imm.zeroExtend 64), (.xori c d a imm, fun x => x ^^^ imm.zeroExtend 64),
   (.slti c d a imm, fun x => if x.toInt < (imm.signExtend 64).toInt then 1#64 else 0#64),
   (.sltiu c d a imm, fun x => if x.toNat < (imm.signExtend 64).toNat then 1#64 else 0#64)]

/-- R117: the long-immediate forms that compute; IMM44 is IMMHI × 2^32 + IMMLO, sign-extended from bit 43. -/
def scalarLong (c : BitVec 8) (d a : BitVec 5) (hi : BitVec 12) (lo : BitVec 32) : List (Instr × (Word → Word)) :=
  let k : Word := BitVec.ofInt 64 ((BitVec.ofNat 44 (hi.toNat * 2 ^ 32 + lo.toNat)).toInt)
  [(.addiL c d a hi lo, fun x => x + k), (.andiL c d a hi lo, fun x => x &&& k), (.oriL c d a hi lo, fun x => x ||| k),
   (.xoriL c d a hi lo, fun x => x ^^^ k),
   (.lihL c d a hi lo, fun x => BitVec.ofNat 64 (x.toNat % 2 ^ 44 + lo.toNat % 2 ^ 20 * 2 ^ 44))]

/-- R120: the branches and the relations they test. -/
def scalarBranch (c : BitVec 8) (a b : BitVec 5) (off : BitVec 16) : List (Instr × (Word → Word → Prop)) :=
  [(.beq c a b off, fun x y => x = y), (.bne c a b off, fun x y => x ≠ y), (.blt c a b off, fun x y => x.toInt < y.toInt),
   (.bge c a b off, fun x y => y.toInt ≤ x.toInt), (.bltu c a b off, fun x y => x.toNat < y.toNat),
   (.bgeu c a b off, fun x y => y.toNat ≤ x.toNat)]

/-- R119: the atomics and the value each leaves, from the old value and Sb as numbers of `bits` bits and from what Sd held. -/
def atomicOps (c : BitVec 8) (d a b : BitVec 5) (size : BitVec 2) : List (Instr × (Nat → Nat → Nat → Nat → Nat)) :=
  [(.aadd c d a b size 0#5, fun bits o v _ => (o + v) % 2 ^ bits), (.aand c d a b size 0#5, fun _ o v _ => o &&& v),
   (.aor c d a b size 0#5, fun _ o v _ => o ||| v), (.axor c d a b size 0#5, fun _ o v _ => o ^^^ v),
   (.aswap c d a b size 0#5, fun _ _ v _ => v), (.acas c d a b size 0#5, fun _ o v p => if o = p then v else o),
   (.amin c d a b size 0#5, fun bits o v _ => if sint bits o ≤ sint bits v then o else v),
   (.amax c d a b size 0#5, fun bits o v _ => if sint bits o ≤ sint bits v then v else o),
   (.aminu c d a b size 0#5, fun _ o v _ => min o v), (.amaxu c d a b size 0#5, fun _ o v _ => max o v)]

/-- R92: what exception entry saves and where the thread goes; its general registers and return stack stay. A thread with vector
instructions in flight waits for them first and enters once they have completed. -/
def EntersAt (k : Core) (t : Nat) (x y : Thread) (cause : Nat) (addr : Word) (resume off : BitVec 18) : Prop :=
  y.s = x.s ∧ y.v = x.v ∧ y.m = x.m ∧ y.rs = x.rs ∧
    (vecDone k t = true → y.xpc = resume &&& 0x3FFFC#18 ∧ y.xcause.toNat = cause % 2 ^ 30 ∧ y.xaddr = addr ∧ y.pexm = x.exm ∧
      y.plvl = x.lvl ∧ y.exm = true ∧ y.lvl = .S ∧ y.pc = (x.xvec.zeroExtend 18 <<< 6) + off ∧ y.st = .ready) ∧
    (vecDone k t = false → y.st = .waiting ∧ y.wait = .entry cause addr resume off ∧ y.pc = x.pc ∧ y.exm = x.exm ∧ y.lvl = x.lvl)

end Sys2Proof.Machine

open Sys2Proof Sys2Proof.Machine

/-- The block's own rule: a step with a command at the front of the queue is that command's meaning on the state with the queue's
rest. -/
def Obligations.StepRunsFrontCommand : Prop :=
  ∀ (i : Instr) (rest : List Instr) (s : State), step { s with pending := i :: rest } = exec i { s with pending := rest }

/-- The model's own choice (assumptions 1 and 132): with no command waiting, a nanosecond of TIME passes; upsets may strike words of
scratchpads and instruction memories, whatever words the free value names, and nothing else changes. -/
def Obligations.EmptyQueuePassesTime : Prop :=
  ∀ s : State, s.pending = [] → ∃ s', step s = .next s' ∧
    s' = { s with time := s.time + 1, draws := s.draws + 1, flaws := s'.flaws, unseen := s'.unseen, poison := s'.poison } ∧
    (∀ a ∈ s.poison, a ∈ s'.poison) ∧ (∀ a ∈ s'.poison, a ∈ s.poison ∨ a ∈ s'.unseen) ∧
    (∀ a, (a ∈ s'.unseen ∧ a ∉ s.unseen) ∨ (a ∈ s'.flaws ∧ a ∉ s.flaws) → codedWord s a = true)

/-- R115: the register forms of the scalar ALU. -/
def Sys2Proof.Machine.ScalarRegisterForms : Prop :=
  ∀ (c : BitVec 8) (d a b : BitVec 5) (s : State) (t : Nat), CanIssue s c t 4#18 [.s d, .s a, .s b] →
    ∀ e ∈ scalarRR c d a b, ∃ s', exec e.1 s = .next (catchUp s' c.toNat) ∧
      Wrote (thOf s c.toNat t) (thOf s' c.toNat t) d (e.2 (getS (thOf s c.toNat t) a) (getS (thOf s c.toNat t) b)) ∧
      ScalarDone s s' c t ((thOf s c.toNat t).pc + 4#18) 3

/-- R115: the counts and sign extensions. -/
def Sys2Proof.Machine.ScalarUnaryForms : Prop :=
  ∀ (c : BitVec 8) (d a b : BitVec 5) (s : State) (t : Nat), CanIssue s c t 4#18 [.s d, .s a] →
    ∀ e ∈ scalarUnary c d a b, ∃ s', exec e.1 s = .next (catchUp s' c.toNat) ∧
      Wrote (thOf s c.toNat t) (thOf s' c.toNat t) d (e.2 (getS (thOf s c.toNat t) a)) ∧
      ScalarDone s s' c t ((thOf s c.toNat t).pc + 4#18) 3

/-- R75, R116: multiplication and division: the results, corner cases included, and the clocks, those of a division by the bit lengths p and q
of the magnitudes. -/
def Obligations.ScalarMulDiv : Prop :=
  ∀ (c : BitVec 8) (d a b : BitVec 5) (s : State) (t : Nat), CanIssue s c t 4#18 [.s d, .s a, .s b] →
    ∀ e ∈ scalarMulDiv c d a b, ∃ s' n, exec e.1 s = .next (catchUp s' c.toNat) ∧
      Wrote (thOf s c.toNat t) (thOf s' c.toNat t) d (e.2 (getS (thOf s c.toNat t) a) (getS (thOf s c.toNat t) b)) ∧
      ScalarDone s s' c t ((thOf s c.toNat t).pc + 4#18) n ∧ (e.1 = .mul c d a b → n = 8) ∧
      (e.1 = .mulh c d a b → n = 10) ∧
      (let long (m p : Nat) : Prop := m < 2 ^ p ∧ (p = 0 ∨ 2 ^ (p - 1) ≤ m)
       let x := getS (thOf s c.toNat t) a
       let y := getS (thOf s c.toNat t) b
       ∀ p q, (e.1 = .div c d a b ∨ e.1 = .rem c d a b → long x.toInt.natAbs p → long y.toInt.natAbs q →
          n = 8 + (min 64 (p + 1 - q) + 1) / 2) ∧
        (e.1 = .divu c d a b ∨ e.1 = .remu c d a b → long x.toNat p → long y.toNat q → n = 8 + (min 64 (p + 1 - q) + 1) / 2))

/-- R113, R115: the immediate forms, SHI with its four kinds among them; a 1 in SHI's reserved bits raises ILLOP. -/
def Sys2Proof.Machine.ScalarImmediateForms : Prop :=
  ∀ (c : BitVec 8) (d a : BitVec 5) (imm : BitVec 16) (s : State) (t : Nat), CanIssue s c t 4#18 [.s d, .s a] →
    (∀ e ∈ scalarImm c d a imm, ∃ s', exec e.1 s = .next (catchUp s' c.toNat) ∧
      Wrote (thOf s c.toNat t) (thOf s' c.toNat t) d (e.2 (getS (thOf s c.toNat t) a)) ∧
      ScalarDone s s' c t ((thOf s c.toNat t).pc + 4#18) 3) ∧
    (imm.toNat < 256 → ∃ s', exec (.shi c d a imm) s = .next (catchUp s' c.toNat) ∧
      (let x := getS (thOf s c.toNat t) a
       let n := imm.toNat % 64
       Wrote (thOf s c.toNat t) (thOf s' c.toNat t) d
        (if imm.toNat < 64 then x <<< n else if imm.toNat < 128 then x >>> n
          else if imm.toNat < 192 then x.sshiftRight n else x.rotateRight n)) ∧
      ScalarDone s s' c t ((thOf s c.toNat t).pc + 4#18) 3) ∧
    (256 ≤ imm.toNat → (thOf s c.toNat t).exm = false → ∃ s', exec (.shi c d a imm) s = .next (catchUp s' c.toNat) ∧
      EntersAt (coreOf s c.toNat) t (thOf s c.toNat t) (thOf s' c.toNat t) 0x0A 0#64 (thOf s c.toNat t).pc 0#18)

/-- R117: the long-immediate forms: 8 bytes, one clock more than the short ones. -/
def Sys2Proof.Machine.ScalarLongForms : Prop :=
  ∀ (c : BitVec 8) (d a : BitVec 5) (hi : BitVec 12) (lo : BitVec 32) (s : State) (t : Nat), CanIssue s c t 8#18 [.s d, .s a] →
    ∀ e ∈ scalarLong c d a hi lo, ∃ s', exec e.1 s = .next (catchUp s' c.toNat) ∧
      Wrote (thOf s c.toNat t) (thOf s' c.toNat t) d (e.2 (getS (thOf s c.toNat t) a)) ∧
      ScalarDone s s' c t ((thOf s c.toNat t).pc + 8#18) 4

/-- R115, R117: the scalar ALU: the register forms, those with one operand, the immediate forms and the long-immediate forms. -/
def Obligations.ScalarArithmetic : Prop :=
  Sys2Proof.Machine.ScalarRegisterForms ∧ Sys2Proof.Machine.ScalarUnaryForms ∧ Sys2Proof.Machine.ScalarImmediateForms ∧ Sys2Proof.Machine.ScalarLongForms

/-- R120: branches: taken to PC + 4 × OFF16 modulo 2^18, otherwise to the next instruction; no register changes. -/
def Sys2Proof.Machine.Branches : Prop :=
  ∀ (c : BitVec 8) (a b : BitVec 5) (off : BitVec 16) (s : State) (t : Nat), CanIssue s c t 4#18 [.s a, .s b] →
    ∀ e ∈ scalarBranch c a b off, ∃ s', exec e.1 s = .next (catchUp s' c.toNat) ∧ (thOf s' c.toNat t).s = (thOf s c.toNat t).s ∧
      (e.2 (getS (thOf s c.toNat t) a) (getS (thOf s c.toNat t) b) →
        ScalarDone s s' c t (BitVec.ofInt 18 ((thOf s c.toNat t).pc.toNat + 4 * off.toInt)) 3) ∧
      (¬ e.2 (getS (thOf s c.toNat t) a) (getS (thOf s c.toNat t) b) →
        ScalarDone s s' c t ((thOf s c.toNat t).pc + 4#18) 3)

namespace Sys2Proof.Machine

/-- The thread has nothing that a FENCE waits for. -/
def Drained (s : State) (c t : Nat) : Prop := (thOf s c t).sb = [] ∧ vecMemPending (coreOf s c) t = false

/-- R113: encodings that hold a reserved one: each raises ILLOP. -/
def reservedForms (c : BitVec 8) (d a b : BitVec 5) : List Instr :=
  [.shi c d a 0x100#16, .st c d a 3#2 true 0#4 0#9, .aadd c d a b 3#2 1#5, .aadd c d a b 1#2 0#5, .aadd c d a b 0#2 0#5,
   .trap c 0#8 1#18, .mftr c d 0x02#8 1#7, .mftr c d 0x03#8 0#7, .mttr c a 0x02#8 1#7, .mttr c a 0x80#8 0#7]

end Sys2Proof.Machine

/-- R88, R120, R121: jumps, calls and returns: where the thread continues and what its return stack holds; a relative target is PC + 4 ×
OFF26, a register target Sa[17:0] with bits 1:0 zero. A call on a full return stack raises RSOVF and a return on an empty one RSUNF, with XPC
at the instruction. -/
def Sys2Proof.Machine.JumpsCallsReturns : Prop :=
  ∀ (c : BitVec 8) (off : BitVec 26) (a : BitVec 5) (s : State) (t : Nat), CanIssue s c t 4#18 [.s a] →
    let x := thOf s c.toNat t
    let rel : BitVec 18 := BitVec.ofInt 18 (x.pc.toNat + 4 * off.toInt)
    let reg : BitVec 18 := BitVec.ofNat 18 ((getS x a).toNat % 2 ^ 18 / 4 * 4)
    let goes (i : Instr) (rs : List (BitVec 18)) (pc : BitVec 18) : Prop := ∃ s' st w, exec i s = .next (catchUp s' c.toNat) ∧
      thOf s' c.toNat t = { x with rs := rs, pc := pc, icount := x.icount + 1, st := st, wait := w } ∧
      OnlyThread s s' c.toNat t ∧ (coreOf s' c.toNat).clk = (coreOf s c.toNat).clk + 3
    goes (.jmp c off) x.rs rel ∧ goes (.jmpr c a) x.rs reg ∧
      (x.rs.length < (if x.lvl = .U then 496 else 512) →
        goes (.call c off) ((x.pc + 4#18) :: x.rs) rel ∧ goes (.callr c a) ((x.pc + 4#18) :: x.rs) reg) ∧
      (∀ top rest, x.rs = top :: rest → goes (.ret c) rest top) ∧
      ((if x.lvl = .U then 496 else 512) ≤ x.rs.length → x.exm = false → x.sb = [] → ∀ i ∈ [Instr.call c off, .callr c a],
        ∃ s', exec i s = .next (catchUp s' c.toNat) ∧ EntersAt (coreOf s c.toNat) t x (thOf s' c.toNat t) 0x08 0#64 x.pc 0#18 ∧ OnlyThread s s' c.toNat t) ∧
      (x.rs = [] → x.exm = false → x.sb = [] → ∃ s', exec (.ret c) s = .next (catchUp s' c.toNat) ∧
        EntersAt (coreOf s c.toNat) t x (thOf s' c.toNat t) 0x09 0#64 x.pc 0#18 ∧ OnlyThread s s' c.toNat t)

/-- R87, R94, R120: a fetch from outside the thread's world's part of instruction memory raises SEGF with the offset in XADDR, whatever stands
there; with EXM = 1 the thread stops, the monitor is notified and the outcome is counted. -/
def Sys2Proof.Machine.FetchOutsidePart : Prop :=
  ∀ (c n : BitVec 8) (d a b : BitVec 5) (o16 : BitVec 16) (o26 : BitVec 26) (s : State) (t : Nat), running s c.toNat = some t →
    vecMayFault (coreOf s c.toNat) t = false →
    inPart (coreOf s c.toNat) (worldOf (coreOf s c.toNat) t) (thOf s c.toNat t).pc = false →
    let x := thOf s c.toNat t
    ∀ i ∈ [Instr.add c d a b, .addi c d a o16, .beq c a b o16, .jmp c o26, .ret c, .fence c, .trap c n 0#18],
      ∃ s', exec i s = .next (catchUp s' c.toNat) ∧
      (x.exm = false → x.sb = [] → EntersAt (coreOf s c.toNat) t x (thOf s' c.toNat t) 0x01 (x.pc.zeroExtend 64) x.pc 0#18) ∧
      (x.exm = true → (thOf s' c.toNat t).st = .stopped ∧ (thOf s' c.toNat t).pc = x.pc ∧ (thOf s' c.toNat t).s = x.s ∧
        (thOf s' c.toNat t).xdrop.toNat = min (x.xdrop.toNat + 1) 0xFFFFFFFF ∧
        s'.memsys.errlog = (1, c.toNat * 8 + t) :: s.memsys.errlog ∧ SameMemory s s')

/-- R87, R88, R120, R121: branches, jumps, calls and returns, and fetches from outside the part.
Entries of the error log have the model's form (assumption 93). -/
def Obligations.ControlFlow : Prop :=
  Sys2Proof.Machine.Branches ∧ Sys2Proof.Machine.JumpsCallsReturns ∧ Sys2Proof.Machine.FetchOutsidePart

/-- R92, R113: a reserved encoding raises ILLOP: with EXM = 0 the exception is taken at the instruction; with EXM = 1 nothing happens, and
the outcome is counted in XDROP and in the world's DROPPED. -/
def Sys2Proof.Machine.ReservedEncodings : Prop :=
  ∀ (c : BitVec 8) (d a b : BitVec 5) (s : State) (t : Nat), CanIssue s c t 4#18 [.s d, .s a, .s b] →
    (thOf s c.toNat t).sb = [] → ∀ i ∈ reservedForms c d a b, ∃ s', exec i s = .next (catchUp s' c.toNat) ∧
      ((thOf s c.toNat t).exm = false →
        EntersAt (coreOf s c.toNat) t (thOf s c.toNat t) (thOf s' c.toNat t) 0x0A 0#64 (thOf s c.toNat t).pc 0#18 ∧ OnlyThread s s' c.toNat t) ∧
      ((thOf s c.toNat t).exm = true →
        (thOf s' c.toNat t).pc = (thOf s c.toNat t).pc + 4#18 ∧ (thOf s' c.toNat t).s = (thOf s c.toNat t).s ∧
        (thOf s' c.toNat t).xpc = (thOf s c.toNat t).xpc ∧ (thOf s' c.toNat t).xcause = (thOf s c.toNat t).xcause ∧
        (thOf s' c.toNat t).xdrop.toNat = min ((thOf s c.toNat t).xdrop.toNat + 1) 0xFFFFFFFF ∧
        (match worldOf (coreOf s c.toNat) t with | .P => s'.droppedP | .T => s'.droppedT) = true ∧ SameMemory s s')

/-- R91, R92, R94: TRAP #n with EXM = 0 enters level S with XPC after it, code 0x10 and n in TRAPN; with EXM = 1 nothing happens, counted.
XRET at level S returns to XPC with the saved level and mask; at level U it raises ILLOP. -/
def Sys2Proof.Machine.TrapAndReturn : Prop :=
  ∀ (c n : BitVec 8) (s : State) (t : Nat), CanIssue s c t 4#18 [] → Drained s c.toNat t →
    let x := thOf s c.toNat t
    (x.exm = false → ∃ s', exec (.trap c n 0#18) s = .next (catchUp s' c.toNat) ∧
      EntersAt (coreOf s c.toNat) t x (thOf s' c.toNat t) (0x10 + n.toNat * 2 ^ 22) 0#64 (x.pc + 4#18) 0x80#18 ∧ OnlyThread s s' c.toNat t) ∧
    (x.exm = true → ∃ s', exec (.trap c n 0#18) s = .next (catchUp s' c.toNat) ∧ (thOf s' c.toNat t).pc = x.pc + 4#18 ∧
      (thOf s' c.toNat t).xpc = x.xpc ∧ (thOf s' c.toNat t).xdrop.toNat = min (x.xdrop.toNat + 1) 0xFFFFFFFF) ∧
    (x.lvl = .S → ∃ s', exec (.xret c) s = .next (catchUp s' c.toNat) ∧ (thOf s' c.toNat t).pc = x.xpc ∧ (thOf s' c.toNat t).lvl = x.plvl ∧
      (thOf s' c.toNat t).exm = x.pexm ∧ (thOf s' c.toNat t).s = x.s ∧ (thOf s' c.toNat t).rs = x.rs ∧ SameMemory s s') ∧
    (x.lvl = .U → x.exm = false → ∃ s', exec (.xret c) s = .next (catchUp s' c.toNat) ∧ EntersAt (coreOf s c.toNat) t x (thOf s' c.toNat t) 0x0A 0#64 x.pc 0#18)

/-- R110, R111, R113, R114: instruction words: a word that spells an instruction is issued as it; a word whose major, FUNC, OP, LOP or CTL is
unassigned raises ILLOP, or under mask is passed over and counted; what a core's running thread fetches is the words at its PC. -/
def Sys2Proof.Machine.InstructionWords : Prop :=
  ∀ (c : BitVec 8) (w lo : BitVec 32) (s : State),
    (∀ i, decodeInstr c w lo = some i → execWord c w lo s = exec i s) ∧
    (∀ t, decodeInstr c w lo = none → CanIssue s c t (BitVec.ofNat 18 (instrBytes w)) [] → (thOf s c.toNat t).sb = [] →
      let x := thOf s c.toNat t
      ∃ s', execWord c w lo s = .next (catchUp s' c.toNat) ∧
      (x.exm = false → EntersAt (coreOf s c.toNat) t x (thOf s' c.toNat t) 0x0A 0#64 x.pc 0#18 ∧ OnlyThread s s' c.toNat t) ∧
      (x.exm = true → (thOf s' c.toNat t).pc = x.pc + BitVec.ofNat 18 (instrBytes w) ∧ (thOf s' c.toNat t).s = x.s ∧
        (thOf s' c.toNat t).xdrop.toNat = min (x.xdrop.toNat + 1) 0xFFFFFFFF ∧ SameMemory s s')) ∧
    (∀ t, running s c.toNat = some t → let pc := (thOf s c.toNat t).pc
      execFetched c s = execWord c (fetchWord s c.toNat pc) (fetchWord s c.toNat (pc + 4#18)) s)

/-- R91, R92, R94, R110, R111, R113, R114, R124: instruction words, reserved encodings, TRAP and XRET. -/
def Obligations.TrapsAndReserved : Prop :=
  Sys2Proof.Machine.InstructionWords ∧ Sys2Proof.Machine.ReservedEncodings ∧ Sys2Proof.Machine.TrapAndReturn

/-- R75, R106, R121: FENCE with nothing to drain takes 2 clocks; while stores wait the thread waits. STOP makes the thread stopped and
notifies the monitor. -/
def Sys2Proof.Machine.FenceAndStop : Prop :=
  ∀ (c : BitVec 8) (s : State) (t : Nat), CanIssue s c t 4#18 [] →
    let x := thOf s c.toNat t
    (Drained s c.toNat t → ∃ s', exec (.fence c) s = .next (catchUp s' c.toNat) ∧ ScalarDone s s' c t (x.pc + 4#18) 2 ∧
      (thOf s' c.toNat t).s = x.s) ∧
    (x.sb ≠ [] → ∃ s', exec (.fence c) s = .next (catchUp s' c.toNat) ∧ thOf s' c.toNat t = { x with st := .waiting, wait := .drain }) ∧
    (Drained s c.toNat t → ∃ s', exec (.stop c) s = .next s' ∧ (thOf s' c.toNat t).st = .stopped ∧
      (thOf s' c.toNat t).pc = x.pc + 4#18 ∧ s'.memsys.errlog.head? = some (2, c.toNat * 8 + t) ∧
      ((coreOf s c.toNat).mx.loadSrc = [] → (coreOf s c.toNat).se.run = none → (coreOf s c.toNat).se.ending = [] → SameMemory s s'))

/-- R86, R95: MCALL #n at level S: the thread waits for the monitor's reply; at level U ILLOP is raised with n in TRAPN. -/
def Sys2Proof.Machine.MonitorCall : Prop :=
  ∀ (c n : BitVec 8) (s : State) (t : Nat), CanIssue s c t 4#18 [.s 1#5] → Drained s c.toNat t →
    let x := thOf s c.toNat t
    (x.lvl = .S → ∃ s', exec (.mcall c n 0#18) s = .next (catchUp s' c.toNat) ∧
      thOf s' c.toNat t = { x with st := .waiting, wait := .reply (.mcall n) } ∧ OnlyThread s s' c.toNat t) ∧
    (x.lvl = .U → x.exm = false → ∃ s', exec (.mcall c n 0#18) s = .next (catchUp s' c.toNat) ∧
      EntersAt (coreOf s c.toNat) t x (thOf s' c.toNat t) (0x0A + n.toNat * 2 ^ 22) 0#64 x.pc 0#18)

/-- R86, R106, R124, R125: FENCE, HINTs, STOP and MCALL.
Entries of the error log have the model's form (assumption 93). -/
def Obligations.FenceStopMonitorCall : Prop :=
  Sys2Proof.Machine.FenceAndStop ∧ Sys2Proof.Machine.MonitorCall

/-- R85, R122: MFTR reads thread registers by number, TIME among them; MTTR writes them, as the thread's level allows. -/
def Obligations.ThreadRegisterMoves : Prop :=
  ∀ (c : BitVec 8) (d a : BitVec 5) (s : State) (t : Nat), CanIssue s c t 4#18 [.s d, .s a] →
    let x := thOf s c.toNat t
    let v := getS x a
    let reads (n : BitVec 8) (w : Word) : Prop := ∃ s', exec (.mftr c d n 0#7) s = .next (catchUp s' c.toNat) ∧ Wrote x (thOf s' c.toNat t) d w ∧
      (thOf s' c.toNat t).pc = x.pc + 4#18 ∧ SameMemory s s'
    let writes (n : BitVec 8) (y : Thread) : Prop := ∃ s' st w, exec (.mttr c a n 0#7) s = .next (catchUp s' c.toNat) ∧
      thOf s' c.toNat t = { y with pc := x.pc + 4#18, icount := x.icount + 1, st := st, wait := w } ∧ OnlyThread s s' c.toNat t
    reads 0x02#8 x.dsp ∧ reads 0x08#8 (x.xpc.zeroExtend 64) ∧ reads 0x0A#8 x.xaddr ∧ (s.steep.replay = [] → reads 0x0C#8 (x.xdrop.zeroExtend 64)) ∧
      reads 0x11#8 (x.nflags.zeroExtend 64) ∧ reads 0x13#8 (ctxOf s x.cx.toNat).seed ∧
      (s.steep.replay = [] → reads 0x23#8 (BitVec.ofNat 64 s.time)) ∧
      writes 0x02#8 { x with dsp := v } ∧ writes 0x11#8 { x with nflags := x.nflags &&& ~~~(v.truncate 20) } ∧
      writes 0x12#8 { x with kbase := v.truncate 48 } ∧
      (x.lvl = .S → writes 0x0A#8 { x with xaddr := v } ∧ writes 0x0B#8 { x with xvec := (v >>> 6).truncate 12 }) ∧
      (x.lvl = .U → writes 0x0A#8 x ∧ writes 0x0B#8 x ∧ writes 0x08#8 x)

namespace Sys2Proof.Machine

/-- R102, R104: what the checks give for the parts of an access of `size` bytes at a virtual address by core c's thread t, and the state
after them. -/
def accessOf (s : State) (c t : Nat) (need : List Nat) (hint : BitVec 4) (kind : AccKindOf) (size ea : Nat) : List Checked × State :=
  checkParts s c (thOf s c t).cx.toNat (worldOf (coreOf s c) t) (isS (thOf s c t)) need hint kind (size == 8 && ea % 8 == 0)
    (splitAccess ea size)

/-- R94, R298: every part passes and one segment matches it. -/
def Passes (rs : List Checked) : Prop := ∀ q ∈ rs, q.code = 0 ∧ q.multi = false

/-- R76: every part lies in the issuing core's scratchpad. -/
def AllOwn (s : State) (c : Nat) (rs : List Checked) : Prop := ∀ q ∈ rs, inOwnSpad s c q.half = true

/-- R102: the parts are of accesses that may be posted, and not all of them lie in the own scratchpad. -/
def AllPosted (s : State) (c : Nat) (rs : List Checked) : Prop :=
  (∀ q ∈ rs, neverPosted s q.half = false ∧ inOwnSpad s c q.half = false)

/-- The bytes of memory that the parts lie at, as the thread sees them. -/
def partsSeen (s : State) (sb : List SBuf) (rs : List Checked) : List Byte :=
  (rs.map fun q => readMerged s sb (paLocal q.half.pa) q.half.len).flatten

/-- An instruction that writes no register and continues at `pc`. -/
def ScalarRest (x y : Thread) (pc : BitVec 18) : Prop := y = { x with pc := pc, icount := y.icount, st := y.st, wait := y.wait }

/-- An address lies in none of the parts. -/
def OutsideParts (rs : List Checked) (z : Nat) : Prop :=
  ∀ q ∈ rs, z < paLocal q.half.pa ∨ paLocal q.half.pa + q.half.len ≤ z

/-- R118: the bytes of a load as a value, zero- or sign-extended. -/
def loadValue (u : Bool) (bytes : List Byte) : Word :=
  if u then BitVec.ofNat 64 (leNat bytes)
  else BitVec.ofInt 64 (if 2 * leNat bytes < 256 ^ bytes.length then (leNat bytes : Int) else (leNat bytes : Int) - 256 ^ bytes.length)

/-- R117, R118: a load of `size` bytes as an instruction with its address. -/
structure LoadForm where
  instr : Instr
  len : BitVec 18
  size : Nat
  unsigned : Bool
  hint : BitVec 4
  off : Word
  clocks : Nat

/-- R117, R118: the load forms. -/
def loadForms (c : BitVec 8) (d a : BitVec 5) (sz : BitVec 2) (u : Bool) (hint : BitVec 4) (off9 : BitVec 9) (hi : BitVec 12)
    (lo : BitVec 32) : List LoadForm :=
  [{ instr := .ld c d a sz u hint off9, len := 4#18, size := 2 ^ sz.toNat, unsigned := u, hint := hint,
     off := BitVec.ofInt 64 (off9.toInt * 2 ^ sz.toNat), clocks := 4 },
   { instr := .ldL c d a hi lo, len := 8#18, size := 8, unsigned := true, hint := 0#4,
     off := BitVec.ofInt 64 ((BitVec.ofNat 44 (hi.toNat * 2 ^ 32 + lo.toNat)).toInt), clocks := 5 }]

/-- R117, R118: the store forms. -/
def storeForms (c : BitVec 8) (d a : BitVec 5) (sz : BitVec 2) (hint : BitVec 4) (off9 : BitVec 9) (hi : BitVec 12)
    (lo : BitVec 32) : List LoadForm :=
  [{ instr := .st c d a sz false hint off9, len := 4#18, size := 2 ^ sz.toNat, unsigned := false, hint := hint,
     off := BitVec.ofInt 64 (off9.toInt * 2 ^ sz.toNat), clocks := 3 },
   { instr := .stL c d a hi lo, len := 8#18, size := 8, unsigned := false, hint := 0#4,
     off := BitVec.ofInt 64 ((BitVec.ofNat 44 (hi.toNat * 2 ^ 32 + lo.toNat)).toInt), clocks := 4 }]

end Sys2Proof.Machine

/-- R75, R102, R104, R118: a load whose parts all pass: from the own scratchpad, Sd takes the bytes at Sa plus the offset, zero- or
sign-extended, and no memory changes; from beyond it, with room among the core's accesses, the thread waits for the reply with Sd busy. -/
def Obligations.Loads : Prop :=
  ∀ (c : BitVec 8) (d a : BitVec 5) (sz : BitVec 2) (u : Bool) (hint : BitVec 4) (off9 : BitVec 9) (hi : BitVec 12) (lo : BitVec 32)
    (s : State) (t : Nat), ∀ f ∈ loadForms c d a sz u hint off9 hi lo, CanIssue s c t f.len [.s d, .s a] →
    vecMemPending (coreOf s c.toNat) t = false →
    let x := thOf s c.toNat t
    let rs := (accessOf s c.toNat t [rRD] f.hint .read f.size (getS x a + f.off).toNat).1
    Passes rs →
    (AllOwn s c.toNat rs → poisonedPart s x.sb (rs.map (·.half)) = none → ∃ s', exec f.instr s = .next (catchUp s' c.toNat) ∧
      Wrote x (thOf s' c.toNat t) d (loadValue f.unsigned (partsSeen s x.sb rs)) ∧ (thOf s' c.toNat t).pc = x.pc + f.len ∧
      ThreadKept x (thOf s' c.toNat t) ∧ SameMemory s s' ∧ f.clocks ≤ (coreOf s' c.toNat).clk - (coreOf s c.toNat).clk) ∧
    (¬ AllOwn s c.toNat rs → outstanding (coreOf s c.toNat) < 64 → tc0Of s c.toNat < 4 → ∃ s' hs, exec f.instr s = .next (catchUp s' c.toNat) ∧
      (thOf s' c.toNat t).st = .waiting ∧ (thOf s' c.toNat t).wait = .reply (.load d f.size f.unsigned hs f.len.toNat) ∧
      regBusy (thOf s' c.toNat t) (.s d) = (d != 0#5) ∧ (thOf s' c.toNat t).pc = x.pc ∧ (thOf s' c.toNat t).s = x.s ∧ SameMemory s s')

/-- R75, R102, R104, R118: a store whose parts all pass: in the own scratchpad its bytes are in memory at once; elsewhere in this device's
memory it is posted to the store buffer while that has room, and memory is as before until it drains. No other byte changes. Under full failure protection a store that covers in part a word which its
decode finds uncorrectable waits for the recovery (R278).
The recovery of a scratchpad word is the model's rollback (assumption 132). -/
def Sys2Proof.Machine.Stores : Prop :=
  ∀ (c : BitVec 8) (d a : BitVec 5) (sz : BitVec 2) (hint : BitVec 4) (off9 : BitVec 9) (hi : BitVec 12) (lo : BitVec 32)
    (s : State) (t : Nat), Memory.wf s = true → ∀ f ∈ storeForms c d a sz hint off9 hi lo, CanIssue s c t f.len [.s d, .s a] →
    vecMemPending (coreOf s c.toNat) t = false →
    let x := thOf s c.toNat t
    let ea := (getS x a + f.off).toNat
    let rs := (accessOf s c.toNat t [rWR] f.hint .write f.size ea).1
    Passes rs →
    (AllOwn s c.toNat rs → x.sb.length ≤ 8 → outstanding (coreOf s c.toNat) ≤ 64 →
      (∀ q ∈ rs, mergeWaits s (paLocal q.half.pa) q.half.len = false) → ∃ s', exec f.instr s = .next (catchUp s' c.toNat) ∧
      ScalarRest x (thOf s' c.toNat t) (x.pc + f.len) ∧
      (∀ z, OutsideParts rs z → readByte s'.mem z = readByte s.mem z) ∧
      (ea % f.size = 0 → ∀ q ∈ rs, ∀ i, i < f.size → isPoisoned s (paLocal q.half.pa + i) = false →
        readByte s'.mem (paLocal q.half.pa + i) = BitVec.ofNat 8 ((getS x d).toNat / 256 ^ i))) ∧
    (AllOwn s c.toNat rs → x.sb.length ≤ 8 → outstanding (coreOf s c.toNat) ≤ 64 →
      (∃ q ∈ rs, mergeWaits s (paLocal q.half.pa) q.half.len = true) → ∃ s', exec f.instr s = .next (catchUp s' c.toNat) ∧
      (thOf s' c.toNat t).st = .waiting ∧ (thOf s' c.toNat t).wait = .poison ∧ (thOf s' c.toNat t).pc = x.pc ∧
      s'.steep.rollback = true ∧ SameMemory s s') ∧
    (AllPosted s c.toNat rs → x.sb.length + rs.length ≤ 8 → outstanding (coreOf s c.toNat) + rs.length ≤ 64 →
      undoLogFull s (rs.map (·.half)) = false → ∃ s', exec f.instr s = .next (catchUp s' c.toNat) ∧ (thOf s' c.toNat t).pc = x.pc + f.len ∧
      (thOf s' c.toNat t).s = x.s ∧ SameMemory s s' ∧
      ∃ new, (thOf s' c.toNat t).sb = x.sb ++ new ∧ (new.map (·.pa)) = (rs.map fun q => paLocal q.half.pa) ∧
        (new.map (·.bytes)).flatten = natLe f.size (getS x d).toNat)

/-- R102, R401: STORE_DRAIN with room in the undo share: the oldest buffered store reaches memory, the younger ones stay, and no other
byte changes. -/
def Sys2Proof.Machine.StoreDrain : Prop :=
  ∀ (c : BitVec 8) (t : BitVec 3) (e : SBuf) (rest : List SBuf) (s : State), Memory.wf s = true →
    (thOf s c.toNat t.toNat).sb = e :: rest → undoUsed s < undoCap s → ∃ s', exec (.storeDrain c t) s = .next s' ∧
      (thOf s' c.toNat t.toNat).sb = rest ∧ (thOf s' c.toNat t.toNat).s = (thOf s c.toNat t.toNat).s ∧
      (∀ z, z < e.pa ∨ e.pa + e.bytes.length ≤ z → readByte s'.mem z = readByte s.mem z) ∧
      ∀ i, i < e.bytes.length → isPoisoned s (e.pa + i) = false → readByte s'.mem (e.pa + i) = e.bytes.getD i 0#8

/-- R102 to R104, R118: stores, and the store buffer's drain. -/
def Obligations.StoresAndDrain : Prop :=
  Sys2Proof.Machine.Stores ∧ Sys2Proof.Machine.StoreDrain

/-- R75, R105, R119, R403: an atomic of 4 or 8 bytes in the own scratchpad: Sd takes the old value zero-extended, memory the new one, in 6
clocks; no other byte changes. A misaligned address raises ALIGNF. -/
def Obligations.Atomics : Prop :=
  ∀ (c : BitVec 8) (d a b : BitVec 5) (size : BitVec 2) (s : State) (t : Nat), Memory.wf s = true → 2 ≤ size.toNat →
    CanIssue s c t 4#18 [.s d, .s a, .s b] → vecMemPending (coreOf s c.toNat) t = false → s.steep.replay = [] →
    let x := thOf s c.toNat t
    let n := 2 ^ size.toNat
    let ea := (getS x a).toNat
    let q := (checkPart s c.toNat x.cx.toNat (worldOf (coreOf s c.toNat) t) (isS x) [rAT] 0#4 .atomic (n == 8) ea n).1
    let pa := paLocal q.half.pa
    let old := leNat (loadBytes s pa n)
    ∀ e ∈ atomicOps c d a b size,
      (ea % n = 0 → q.code = 0 → q.multi = false → inOwnSpad s c.toNat q.half = true → anyPoison s pa n = false →
        ∃ s', exec e.1 s = .next (catchUp s' c.toNat) ∧ Wrote x (thOf s' c.toNat t) d (BitVec.ofNat 64 old) ∧
          (thOf s' c.toNat t).pc = x.pc + 4#18 ∧
          leNat (loadBytes s' pa n) = e.2 (8 * n) old ((getS x b).toNat % 256 ^ n) ((getS x d).toNat % 256 ^ n) ∧
          ∀ z, z < pa ∨ pa + n ≤ z → readByte s'.mem z = readByte s.mem z) ∧
      (ea % n ≠ 0 → x.exm = false → x.sb = [] → ∃ s', exec e.1 s = .next (catchUp s' c.toNat) ∧
        EntersAt (coreOf s c.toNat) t x (thOf s' c.toNat t) 0x04 (BitVec.ofNat 64 ea) x.pc 0#18 ∧ SameMemory s s')

/-- R89: RSSPILL and RSFILL at level S with every part in the own scratchpad: the oldest min(Sb, 256, depth) entries leave the return
stack for memory, or the loaded ones go below its oldest; Sb takes the count, and each entry adds a clock. At level U they raise ILLOP. -/
def Obligations.ReturnStackMoves : Prop :=
  ∀ (c : BitVec 8) (a b : BitVec 5) (s : State) (t : Nat), Memory.wf s = true → CanIssue s c t 4#18 [.s a, .s b] →
    vecMemPending (coreOf s c.toNat) t = false →
    let x := thOf s c.toNat t
    let va := (getS x a).toNat
    let n := min (min (getS x b).toNat 256) x.rs.length
    let m := min (min (getS x b).toNat 256) (512 - x.rs.length)
    let w := worldOf (coreOf s c.toNat) t
    let out := (checkParts s c.toNat x.cx.toNat w true [rWR] 0#4 .write (va % 8 == 0) (entryParts va n)).1
    let inn := (checkParts s c.toNat x.cx.toNat w true [rRD] 0#4 .read (va % 8 == 0) (entryParts va m)).1
    (let d := drainOver s x.sb (out.map (·.half))
     x.lvl = .S → Passes out → AllOwn s c.toNat out → ∃ s', exec (.rsspill c a b) s = .next (catchUp s' c.toNat) ∧
      (thOf s' c.toNat t).rs = x.rs.take (x.rs.length - n) ∧ (thOf s' c.toNat t).pc = x.pc + 4#18 ∧
      Wrote x (thOf s' c.toNat t) b (BitVec.ofNat 64 n) ∧
      (coreOf s' c.toNat).clk = (coreOf s c.toNat).clk + 3 + n + missClocks out ∧
      (thOf s' c.toNat t).sb = d.2 ∧ (∀ z, OutsideParts out z → readByte s'.mem z = readByte d.1.mem z) ∧
      (n = 1 → va % 8 = 0 → ∀ q ∈ out, ∀ i, i < 8 → isPoisoned d.1 (paLocal q.half.pa + i) = false →
        readByte s'.mem (paLocal q.half.pa + i) = BitVec.ofNat 8 (((x.rs.getLast?).getD 0#18).toNat / 256 ^ i))) ∧
    (x.lvl = .S → Passes inn → AllOwn s c.toNat inn → poisonedPart s x.sb (inn.map (·.half)) = none →
      ∃ s', exec (.rsfill c a b) s = .next (catchUp s' c.toNat) ∧ (thOf s' c.toNat t).rs = x.rs ++ entriesOf m (partsSeen s x.sb inn) ∧
      (thOf s' c.toNat t).pc = x.pc + 4#18 ∧ Wrote x (thOf s' c.toNat t) b (BitVec.ofNat 64 m) ∧
      (coreOf s' c.toNat).clk = (coreOf s c.toNat).clk + 3 + m + missClocks inn ∧ SameMemory s s') ∧
    (x.lvl = .U → x.exm = false → x.sb = [] → ∃ s' s'', exec (.rsspill c a b) s = .next (catchUp s' c.toNat) ∧ exec (.rsfill c a b) s = .next (catchUp s'' c.toNat) ∧
      EntersAt (coreOf s c.toNat) t x (thOf s' c.toNat t) 0x0A 0#64 x.pc 0#18 ∧ EntersAt (coreOf s c.toNat) t x (thOf s'' c.toNat t) 0x0A 0#64 x.pc 0#18)

namespace Sys2Proof.Machine

/-- R298, R370: a sync-object operation of core c's thread t reaches object k of this device: its checks pass, and a place among the
core's accesses is free. -/
def ReachesObject (s : State) (c : BitVec 8) (t : Nat) (op : SyncOp) (a : BitVec 5) (k : Nat) : Prop :=
  let x := thOf s c.toNat t
  let q := (checkPart s c.toNat x.cx.toNat (worldOf (coreOf s c.toNat) t) (isS x) (syncNeed op) 0#4 .read true (getS x a).toNat 1).1
  q.code = 0 ∧ q.multi = false ∧ isRemote s q.half.pa = false ∧ regionOf s.part (paLocal q.half.pa) = .so k ∧
    outstanding (coreOf s c.toNat) < 64

/-- A sync-object operation has its result v on the way: the thread waits for it, with Sd busy. -/
def SyncAnswered (s s' : State) (c : BitVec 8) (t : Nat) (d : BitVec 5) (v : Word) : Prop :=
  (thOf s' c.toNat t).st = .waiting ∧ (thOf s' c.toNat t).wait = .reply (.synced d v) ∧
    regBusy (thOf s' c.toNat t) (.s d) = (d != 0#5) ∧ (thOf s' c.toNat t).s = (thOf s c.toNat t).s ∧ SameMemory s s'

/-- R373: what SIGNAL leaves in an object's VAL, by type: a counter adds, a flag word ORs, a queue head adds to TAIL. -/
def signalled (ty : BitVec 2) (val v : Word) : Word :=
  if ty = 0#2 then val + v
  else if ty = 1#2 then val ||| v
  else BitVec.ofNat 64 ((val.toNat % 2 ^ 32 + v.toNat % 2 ^ 32) % 2 ^ 32 + val.toNat / 2 ^ 32 * 2 ^ 32)

/-- R373: what FETCHADD answers and leaves, by type: a counter gives the old value and adds, a flag word gives it and clears the named
bits, a queue head gives HEAD and adds to it where enough entries are there, and all ones, changing nothing, where not. -/
def fetched (ty : BitVec 2) (val v : Word) : Word × Word :=
  if ty = 0#2 then (val, val + v)
  else if ty = 1#2 then (val, val &&& ~~~v)
  else
    let tail := val.toNat % 2 ^ 32
    let head := val.toNat / 2 ^ 32
    if v.toNat % 2 ^ 32 ≤ (tail + 2 ^ 32 - head) % 2 ^ 32 then
      (BitVec.ofNat 64 head, BitVec.ofNat 64 (tail + (head + v.toNat % 2 ^ 32) % 2 ^ 32 * 2 ^ 32))
    else (BitVec.allOnes 64, val)

end Sys2Proof.Machine

/-- R373: SIGNAL and FETCHADD on an object of this device: the object's new value and the result on its way to Sd, by type; on a barrier
object SIGNAL answers 3 and changes nothing. -/
def Sys2Proof.Machine.SignalAndFetchadd : Prop :=
  ∀ (c : BitVec 8) (d a b : BitVec 5) (s : State) (t k : Nat), CanIssue s c t 4#18 [.s d, .s a, .s b] → Drained s c.toNat t →
    s.steep.replay = [] →
    let v := getS (thOf s c.toNat t) b
    let o := soOf s k
    (ReachesObject s c t .signal a k → tc0Of s c.toNat < 4 → o.ty ≠ 2#2 → ∃ s', exec (.signal c d a b) s = .next (catchUp s' c.toNat) ∧
      (soOf s' k).val = signalled o.ty o.val v ∧ (soOf s' k).tgt = o.tgt ∧ SyncAnswered s s' c t d 0#64) ∧
    (ReachesObject s c t .signal a k → tc0Of s c.toNat < 4 → o.ty = 2#2 → ∃ s', exec (.signal c d a b) s = .next (catchUp s' c.toNat) ∧
      s'.so = s.so ∧ SyncAnswered s s' c t d 3#64) ∧
    (ReachesObject s c t .fetchadd a k → tc0Of s c.toNat < 4 → o.ty ≠ 2#2 → ∃ s', exec (.fetchadd c d a b) s = .next (catchUp s' c.toNat) ∧
      (soOf s' k).val = (fetched o.ty o.val v).2 ∧ SyncAnswered s s' c t d (fetched o.ty o.val v).1)

/-- R373, R377: WAITS on a counter, flag or queue-head object of this device: ARRIVED where the condition holds; otherwise TIMEOUT for a
timeout of 0, and else a waiter entry with its deadline, the thread waiting. -/
def Sys2Proof.Machine.WaitsOnObject : Prop :=
  ∀ (c : BitVec 8) (d a b : BitVec 5) (s : State) (t k : Nat), CanIssue s c t 4#18 [.s d, .s a, .s b] → Drained s c.toNat t →
    s.steep.replay = [] → ReachesObject s c t .waits a k → tc0Of s c.toNat < 4 →
    let v := getS (thOf s c.toNat t) b
    let o := soOf s k
    let holds : Prop := (o.ty = 0#2 ∧ o.tgt.toNat ≤ o.val.toNat) ∨ (o.ty = 1#2 ∧ o.val &&& o.tgt ≠ 0#64) ∨
      (o.ty = 3#2 ∧ o.tgt.toNat % 2 ^ 32 ≤ (o.val.toNat % 2 ^ 32 + 2 ^ 32 - o.val.toNat / 2 ^ 32) % 2 ^ 32)
    let dl : Option Nat := if v = BitVec.allOnes 64 then none else some (s.time + v.toNat)
    let entry : WaitEnt := { who := .thread c.toNat t, gen := none, isBarrier := false, deadline := dl }
    o.ty ≠ 2#2 → ∃ s', exec (.waits c d a b) s = .next (catchUp s' c.toNat) ∧
      (holds → s'.so = s.so ∧ SyncAnswered s s' c t d 0#64) ∧
      (¬ holds → v = 0#64 → s'.so = s.so ∧ SyncAnswered s s' c t d 1#64) ∧
      (¬ holds → v ≠ 0#64 → (soOf s' k).val = o.val ∧ (thOf s' c.toNat t).wait = .reply (.syncWait d k) ∧
        (soOf s' k).waiters = o.waiters ++ [entry] ∧
        (thOf s' c.toNat t).st = .waiting ∧ SameMemory s s')

/-- R380: BARRIER on an object of this device by a thread with no arrival parked there: on an object that is no barrier it answers 3;
below PARTS arrivals COUNT grows by one and the thread waits for the generation; the last arrival of a local barrier clears COUNT,
advances GEN and is answered at once. -/
def Sys2Proof.Machine.BarrierArrival : Prop :=
  ∀ (c : BitVec 8) (d a b : BitVec 5) (s : State) (t k : Nat), CanIssue s c t 4#18 [.s d, .s a, .s b] → Drained s c.toNat t →
    s.steep.replay = [] → ReachesObject s c t .barrier a k → tc0Of s c.toNat < 4 →
    let v := getS (thOf s c.toNat t) b
    let o := soOf s k
    let n := o.val.toNat % 2 ^ 32
    let g := o.val.toNat / 2 ^ 32 % 2 ^ 31
    parkedAt s k (.thread c.toNat t) = none → o.early = [] → n < 0xFFF →
    ∃ s', exec (.barrier c d a b) s = .next (catchUp s' c.toNat) ∧
      (o.ty ≠ 2#2 → s'.so = s.so ∧ SyncAnswered s s' c t d 3#64) ∧
      (o.ty = 2#2 → n + 1 < o.parts.toNat → v ≠ 0#64 →
        (soOf s' k).val.toNat % 2 ^ 32 = n + 1 ∧ (soOf s' k).val.toNat / 2 ^ 32 % 2 ^ 31 = g ∧
        (thOf s' c.toNat t).wait = .reply (.syncWait d k) ∧ (thOf s' c.toNat t).st = .waiting ∧ SameMemory s s') ∧
      (o.ty = 2#2 → o.grp = false → o.parts.toNat ≤ n + 1 → 0 < o.parts.toNat → v ≠ 0#64 →
        (soOf s' k).val.toNat % 2 ^ 32 = 0 ∧ (soOf s' k).val.toNat / 2 ^ 32 % 2 ^ 31 = (g + 1) % 2 ^ 31 ∧
        SyncAnswered s s' c t d 0#64)

/-- R123, R372 to R381: SIGNAL, FETCHADD, WAITS and BARRIER. -/
def Obligations.SyncOperations : Prop :=
  Sys2Proof.Machine.SignalAndFetchadd ∧ Sys2Proof.Machine.WaitsOnObject ∧ Sys2Proof.Machine.BarrierArrival

/-- R124, R395: STEEP with no steep pending, or on a core in interleave mode, only takes 2 clocks; with d ≠ 0 it raises ILLOP; with a steep
pending and the thread's declaration already latched it parks after the instruction once the core's units are empty; a declaration that
reads well and fits is latched with the steep's identifier, and the thread parks, or waits for the units. That the steep keeps the latest
declaration's identifier is the model's choice (assumption 129). -/
def Obligations.SteepPoint : Prop :=
  ∀ (c : BitVec 8) (d a : BitVec 5) (imm : BitVec 16) (s : State) (t : Nat), CanIssue s c t 4#18 [.s a] →
    let x := thOf s c.toNat t
    let parked : Thread := { x with pc := x.pc + 4#18, icount := x.icount + 1, st := .waiting, wait := .parked }
    (d = 0#5 → s.steep.pending = false ∨ (coreOf s c.toNat).ilv = true → ∃ s', exec (.steep c d a imm) s = .next (catchUp s' c.toNat) ∧
      (thOf s' c.toNat t).s = x.s ∧
      ((coreOf s c.toNat).ilv = false → ScalarDone s s' c t (x.pc + 4#18) 2)) ∧
    (d ≠ 0#5 → x.exm = false → x.sb = [] → ∃ s', exec (.steep c d a imm) s = .next (catchUp s' c.toNat) ∧
      EntersAt (coreOf s c.toNat) t x (thOf s' c.toNat t) 0x0A 0#64 x.pc 0#18) ∧
    (d = 0#5 → (coreOf s c.toNat).ilv = false → s.steep.pending = true → (∃ dc, (c.toNat * 8 + t, dc) ∈ s.steep.decls) →
      unitsEmpty (coreOf s c.toNat) = true → ∃ s', exec (.steep c d a imm) s = .next (catchUp s' c.toNat) ∧
      thOf s' c.toNat t = parked ∧ OnlyThread s s' c.toNat t) ∧
    (∀ dc, d = 0#5 → (coreOf s c.toNat).ilv = false → s.steep.pending = true → (∀ e ∈ s.steep.decls, e.1 ≠ c.toNat * 8 + t) →
      readDecl s c.toNat t (getS x a).toNat = .ok (some dc) → declBytes (coreOf s c.toNat) (dc :: latched s c.toNat) ≤ 512 * 1024 →
      ∃ s', exec (.steep c d a imm) s = .next (catchUp s' c.toNat) ∧ (c.toNat * 8 + t, dc) ∈ s'.steep.decls ∧
        s'.steep.ident = imm.toNat ∧ SameMemory s s' ∧
        (unitsEmpty (coreOf s c.toNat) = true → thOf s' c.toNat t = parked) ∧
        (unitsEmpty (coreOf s c.toNat) = false → thOf s' c.toNat t = { x with st := .waiting, wait := .unit }))

namespace Sys2Proof.Machine

/-- R86: the reply v of the monitor to thread t is on its way into S1. -/
def Replied (s' : State) (c t : Nat) (v : Word) : Prop := (thOf s' c t).wait = .reply (.synced 1#5 v)

/-- R311: nothing of an earlier service of thread t is kept. -/
def SvcFresh (s : State) (c t : Nat) : Prop :=
  (∀ e ∈ s.board.svcEnds, ¬ (e.c = c ∧ e.t = t)) ∧ ∀ p ∈ s.board.svcParts, ¬ (p.c = c ∧ p.t = t)

/-- R297, R299, R309: what the translation of a service's arguments leaves: the monitor's segment buffer, CX_MULTI and the error counters
may differ, and nothing else. -/
def OnlyTouched (s s' : State) : Prop :=
  s' = { s with segbuf := s'.segbuf, ctxs := s'.ctxs, steep := s'.steep } ∧
    ∀ cx, ctxOf s' cx = { ctxOf s cx with multi := (ctxOf s' cx).multi }

/-- R311: level S of a context has the rights over n bytes at `va`, which lie on this device. -/
def SvcHere (s : State) (cx : Nat) (need : List Nat) (va n : Nat) : Prop := ∀ p ∈ pieces va n, (svcPa s cx need p.1 p.2).isSome = true

end Sys2Proof.Machine

/-- R311: DERIVE on a capability with a good seal, the requester's world and DLG, for a range inside its own and rights among its own, its
arguments and its output on this device: the new capability is written, sealed, over the same object, epoch and owner, with the range and
rights asked for, and the reply is 0. -/
def Sys2Proof.Machine.DeriveNarrows : Prop :=
  ∀ (c : BitVec 8) (t : BitVec 3) (s : State),
    let x := thOf s c.toNat t.toNat
    let cx := x.cx.toNat
    let w := worldOf (coreOf s c.toNat) t.toNat
    let s0 := svcTouch cx 32 [rWR] (svcTouch cx 24 [rRD] (svcTouch cx 32 [rRD] s (getS x 2#5).toNat) (getS x 3#5).toNat) (getS x 4#5).toNat
    let k := capAt s0 cx (getS x 2#5).toNat
    let rq := wordsOf 3 (svcRead s0 cx (getS x 3#5).toNat 24)
    let base := (rq.getD 0 0#64).toNat
    let len := (rq.getD 1 0#64).toNat
    let rights := (rq.getD 2 0#64).toNat
    waitsFor x 0x20#8 = true → SvcFresh s c.toNat t.toNat → SvcHere s0 cx [rRD] (getS x 2#5).toNat 32 →
    SvcHere s0 cx [rRD] (getS x 3#5).toNat 24 → SvcHere s0 cx [rWR] (getS x 4#5).toNat 32 → sealOk s k = true → capWorld k = w →
    (capRights k).getLsbD 5 = true → 0 < len →
    len < 2 ^ 48 → capBase k ≤ base → base + len ≤ capBase k + capLen k → capBase k + capLen k ≤ 2 ^ 48 → rights < 65536 →
    rights &&& (capRights k).toNat = rights →
    ∃ s' d, exec (.derive c t) s = .next s' ∧ OnlyTouched s s0 ∧
      s' = svcForget (svcReply (svcWrite s0 cx (getS x 4#5).toNat (natLe 32 d.toNat)) c.toNat t.toNat 0#64) c.toNat t.toNat ∧
      sealOk s d = true ∧ capObj d = capObj k ∧ capEpoch d = capEpoch k ∧ capOwner d = capOwner k ∧ capWorld d = w ∧
      capBase d = base ∧ capLen d = len ∧ (capRights d).toNat = rights ∧ Replied s' c.toNat t.toNat 0#64

/-- R311: DERIVE of a range beyond the held capability's, or of a right it lacks, is refused with reply 1: no capability is written and no
object changes. -/
def Sys2Proof.Machine.DeriveRefusesMore : Prop :=
  ∀ (c : BitVec 8) (t : BitVec 3) (s : State),
    let x := thOf s c.toNat t.toNat
    let cx := x.cx.toNat
    let s0 := svcTouch cx 32 [rWR] (svcTouch cx 24 [rRD] (svcTouch cx 32 [rRD] s (getS x 2#5).toNat) (getS x 3#5).toNat) (getS x 4#5).toNat
    let k := capAt s0 cx (getS x 2#5).toNat
    let rq := wordsOf 3 (svcRead s0 cx (getS x 3#5).toNat 24)
    let base := (rq.getD 0 0#64).toNat
    let len := (rq.getD 1 0#64).toNat
    let rights := (rq.getD 2 0#64).toNat
    waitsFor x 0x20#8 = true → SvcFresh s c.toNat t.toNat → SvcHere s0 cx [rRD] (getS x 2#5).toNat 32 →
    SvcHere s0 cx [rRD] (getS x 3#5).toNat 24 →
    (base < capBase k ∨ capBase k + capLen k < base + len ∨ rights &&& (capRights k).toNat ≠ rights ∨
      (capRights k).getLsbD 5 = false) →
    exec (.derive c t) s = .next (svcForget (setTh s0 c.toNat t.toNat { x with wait := .reply (.synced 1#5 1#64) }) c.toNat t.toNat) ∧
      OnlyTouched s s0

/-- R311: DERIVE, where it grants and where it does not.
How a seal is computed from the device key is the model's reading of the byte order (assumption 95), and what the arguments' translation
touches is its order of checks (assumption 59). -/
def Obligations.CapabilityDerivation : Prop :=
  Sys2Proof.Machine.DeriveNarrows ∧ Sys2Proof.Machine.DeriveRefusesMore

/-- R312: REVOKE that passes the checks: the object's epoch grows by one, both I/O dies drop its verified capabilities, and the revoked
capability passes no check again; at epoch 0xFFFF the object becomes invalid and the reply is 2. The reply, and the fresh capability, wait
until no request admitted under the old epoch is under way; a further command ends the service then. -/
def Sys2Proof.Machine.RevokeEndsOldCapabilities : Prop :=
  ∀ (c : BitVec 8) (t : BitVec 3) (s : State),
    let x := thOf s c.toNat t.toNat
    let cx := x.cx.toNat
    let w := worldOf (coreOf s c.toNat) t.toNat
    let s0 := svcTouch cx 32 [rWR] (svcTouch cx 32 [rRD] s (getS x 2#5).toNat) (getS x 4#5).toNat
    let k := capAt s0 cx (getS x 2#5).toNat
    let i := capObj k % 65536
    let o := tabGet {} s.objs i
    let late := underWay s (capObj k) o.base (o.base + o.len)
    waitsFor x 0x21#8 = true →
    (SvcFresh s c.toNat t.toNat → SvcHere s0 cx [rRD] (getS x 2#5).toNat 32 → SvcHere s0 cx [rWR] (getS x 4#5).toNat 32 →
      mayRevoke s w k = true → ∃ s', exec (.revoke c t) s = .next s' ∧
      (∀ w' need lvlS la n, capCheck s' k w' need lvlS la n ≠ 0) ∧ (∀ e ∈ s'.vercaps, ∀ q ∈ e.2, capObj q ≠ capObj k) ∧
      (∀ j, j ≠ i → tabGet {} s'.objs j = tabGet {} s.objs j) ∧
      (o.epoch ≠ 0xFFFF#16 → tabGet {} s'.objs i = { o with epoch := o.epoch + 1#16 } ∧
        (late = false ∨ o.len = 0 → Replied s' c.toNat t.toNat 0#64 ∧ ∃ d, sealOk s d = true ∧ capObj d = capObj k ∧
          capEpoch d = o.epoch.toNat + 1 ∧ capBase d = capBase k ∧ capLen d = capLen k ∧ capRights d = capRights k ∧
          s'.mem = (svcWrite s0 cx (getS x 4#5).toNat (natLe 32 d.toNat)).mem)) ∧
      (o.epoch = 0xFFFF#16 → tabGet {} s'.objs i = { o with valid := false } ∧ SameMemory s s' ∧
        (late = false ∨ o.len = 0 → Replied s' c.toNat t.toNat 2#64)) ∧
      (late = true → 0 < o.len → thOf s' c.toNat t.toNat = x ∧ SameMemory s s' ∧
        ∃ e ∈ s'.board.svcEnds, e.c = c.toNat ∧ e.t = t.toNat ∧ e.lo = o.base ∧ e.hi = o.base + o.len)) ∧
    (∀ e va bs, s.board.svcEnds = [e] → e.c = c.toNat → e.t = t.toNat → e.ic = x.icount → e.out = some (va, bs) →
      (e.lo < e.hi → underWay s e.obj e.lo e.hi = false) → SvcHere s cx [rWR] va bs.length →
      exec (.revoke c t) s = .next
        (svcForget (svcReply (svcWrite s cx va bs) c.toNat t.toNat (BitVec.ofNat 64 e.code)) c.toNat t.toNat))

/-- R311: CHECK answers the number of the first failing check over the capability's own range, 0 for none, and changes nothing else but what
reading its argument touches. -/
def Sys2Proof.Machine.CheckAnswers : Prop :=
  ∀ (c : BitVec 8) (t : BitVec 3) (s : State),
    let x := thOf s c.toNat t.toNat
    let s0 := svcTouch x.cx.toNat 32 [rRD] s (getS x 2#5).toNat
    let k := capAt s0 x.cx.toNat (getS x 2#5).toNat
    waitsFor x 0x22#8 = true → SvcFresh s c.toNat t.toNat → SvcHere s0 x.cx.toNat [rRD] (getS x 2#5).toNat 32 →
    ∃ n, n ≤ 7 ∧ OnlyTouched s s0 ∧
      exec (.check c t) s = .next (svcForget
        (setTh s0 c.toNat t.toNat { x with wait := .reply (.synced 1#5 (BitVec.ofNat 64 n)) }) c.toNat t.toNat) ∧
      (sealOk s k = false → n = 1) ∧
      (sealOk s k = true → capOwner k ≠ s.fab.devnum.toNat → n = 2) ∧
      (sealOk s k = true → capOwner k = s.fab.devnum.toNat → capWorld k ≠ worldOf (coreOf s c.toNat) t.toNat → n = 3) ∧
      (n = 0 → (tabGet {} s.objs (capObj k % 65536)).valid = true ∧
        capEpoch k = (tabGet {} s.objs (capObj k % 65536)).epoch.toNat ∧
        (tabGet {} s.objs (capObj k % 65536)).base ≤ capBase k ∧
        capBase k + capLen k ≤ (tabGet {} s.objs (capObj k % 65536)).base + (tabGet {} s.objs (capObj k % 65536)).len)

/-- R308, R311, R312: REVOKE and CHECK.
How a seal is computed from the device key is the model's reading of the byte order (assumption 95), and how REVOKE finds what is under way
is the model's (assumption 61). -/
def Obligations.CapabilityServices : Prop :=
  Sys2Proof.Machine.RevokeEndsOldCapabilities ∧ Sys2Proof.Machine.CheckAnswers

/-- R472: IOSUBMIT: a block that is misaligned or out of the thread's reach, or one whose fields are refused, is answered 1 and nothing
else changes; with 256 requests of the context pending it is answered 2; otherwise the request joins the service's and the answer
is 0. -/
def Obligations.IoSubmission : Prop :=
  ∀ (c : BitVec 8) (t : BitVec 3) (s : State),
    let x := thOf s c.toNat t.toNat
    let cx := x.cx.toNat
    let blk := (getS x 2#5).toNat
    let w := worldOf (coreOf s c.toNat) t.toNat
    let key := [cx, c.toNat, t.toNat, x.icount]
    let rq := ioParse s w cx false (wordsOf 4 (svcRead s cx blk 32))
    let mine := (s.board.io.filter fun q => q.cx == cx && q.done.isNone).length
    let refuse (v : Word) : State := setTh s c.toNat t.toNat { x with wait := .reply (.synced 1#5 v) }
    waitsFor x 0x30#8 = true →
    (blk % 8 ≠ 0 ∨ svcOk s cx [rRD, rWR] blk 32 = false → exec (.iosubmit c t) s = .next (refuse 1#64)) ∧
    (blk % 8 = 0 → svcOk s cx [rRD, rWR] blk 32 = true →
      (rq = none → exec (.iosubmit c t) s = .next (refuse 1#64)) ∧
      (∀ r, rq = some r → (∀ q ∈ s.board.io, q.key ≠ key) →
        (256 ≤ mine → exec (.iosubmit c t) s = .next (refuse 2#64)) ∧
        (mine < 256 → s.board.lostNs = [] → ∃ s', exec (.iosubmit c t) s = .next s' ∧
          s'.board.io = s.board.io ++ [{ r with key := key, blk := blk }] ∧ Replied s' c.toNat t.toNat 0#64 ∧ SameMemory s s')))

/-- R308, R309: a local access through an address that names this device, whose capability fails a check, has cause CAPF: nothing is read
or written, and the refusal is counted for the requester's world. -/
def Obligations.CapabilityRefusalStops : Prop :=
  ∀ (s : State) (eng cx : Nat) (w : World) (lvlS : Bool) (need : List Nat) (hint : BitVec 4) (kind : AccKindOf) (word8 : Bool)
    (va len : Nat) (pa : Word) (sg : Nat) (g : Seg) (multi miss : Bool) (s1 : State),
    translate s eng cx va need lvlS = (.ok pa sg g multi miss, s1) → isRemote s1 pa = false → paSpace pa = 1 →
    capCheck s1 g.cap w need lvlS (paLocal pa) len ≠ 0 →
    let r := checkPart s eng cx w lvlS need hint kind word8 va len
    r.1.code = 0x03 ∧ r.1.half.bad = true ∧ SameMemory s r.2 ∧
      (w = .P → field r.2.steep.wcntP.toNat 40 16 = min (field s.steep.wcntP.toNat 40 16 + 1) 0xFFFF ∧
        r.2.steep.wcntT = s.steep.wcntT) ∧
      (w = .T → field r.2.steep.wcntT.toNat 40 16 = min (field s.steep.wcntT.toNat 40 16 + 1) 0xFFFF ∧
        r.2.steep.wcntP = s.steep.wcntP)

namespace Sys2Proof.Machine

/-- R45, R75, R81, R150, R156: core c's thread t has handed instruction i to the vector queue in 2 clocks and `late` more: its entry, with what
the instruction latches, is the youngest, its destination is busy, the thread goes on at the next instruction, and memory is as before. -/
def HandedOff (s s' : State) (c : BitVec 8) (t : Nat) (i : Instr) (dst : List Reg) (k : VKind) (late : Nat := 0) : Prop :=
  let x := thOf s c.toNat t
  let n := (coreOf s c.toNat).clk
  (coreOf s' c.toNat).vq = (coreOf s c.toNat).vq ++ [{
      t := t, pc := x.pc, kind := k, flags := 0#5, instr := some i, hand := n + 2, vl := x.vl, vfmt := x.vfmt, rm := x.rm, sat := x.sat,
      te := x.te, kstage := x.kstage, kbase := x.kbase, seed := (ctxOf s x.cx.toNat).seed, exm := x.exm }] ∧
    (∃ st w, thOf s' c.toNat t = { dst.foldl markBusy x with pc := x.pc + 4#18, icount := x.icount + 1, st := st, wait := w }) ∧
    (coreOf s' c.toNat).clk = n + 2 + late ∧ SameMemory s s' ∧ ∀ c', c' ≠ c.toNat → coreOf s' c' = coreOf s c'

/-- R156: instruction i of core c's thread t completes: it joins the vector queue, to write `dst`. -/
def JoinsQueue (s : State) (c : BitVec 8) (t : Nat) (i : Instr) (dst : List Reg) : Prop :=
  ∃ s', exec i s = .next (catchUp s' c.toNat) ∧ HandedOff s s' c t i dst (.op dst)

/-- R156: at the head of core c's vector queue stands instruction i, which is to write `dst`. -/
def AtHead (s : State) (c : BitVec 8) (e : VEnt) (rest : List VEnt) (i : Instr) (dst : List Reg) : Prop :=
  (coreOf s c.toNat).vq = e :: rest ∧ e.instr = some i ∧ e.kind = .op dst

/-- R156: the clock at which the head of the queue starts its pass, and the state its pass finds. -/
def passClock (s : State) (c : BitVec 8) (e : VEnt) : Nat := max e.hand ((coreOf s c.toNat).vend + 1)

/-- R156, R157, R180: VECTOR_PASS_START runs the pass of the head of core c's queue: its result d with flags g awaits its write clock, and
memory is as the pass finds it. -/
def PassGives (s : State) (c : BitVec 8) (e : VEnt) (rest : List VEnt) (d : VDst) (g : BitVec 5) : Prop :=
  let k := coreOf s c.toNat
  let n := passClock s c e
  ∃ s' w, exec (.vectorPassStart c) s = .next s' ∧ (coreOf s' c.toNat).vq = rest ∧
    (coreOf s' c.toNat).vrun = k.vrun ++ [{ e with kind := .reg d, flags := g, wclk := w }] ∧
    (coreOf s' c.toNat).clk = max k.clk n ∧ SameMemory (catchUpTo s c.toNat n) s' ∧
    ∀ i, e.instr = some i →
      w = n + (vecClocks i ((fmtOfCode e.vfmt.toNat).getD .fp64) e.vl).1 - 1 + (vecClocks i ((fmtOfCode e.vfmt.toNat).getD .fp64) e.vl).2

/-- R53, R92: VECTOR_PASS_START finds conditions g, with a trap enabled among them, in the head of the queue: its thread takes NUMTRAP at the
instruction, and nothing is written. -/
def PassTraps (s : State) (c : BitVec 8) (e : VEnt) (rest : List VEnt) (g : BitVec 5) : Prop :=
  let k := coreOf s c.toNat
  ∃ s', exec (.vectorPassStart c) s = .next s' ∧ (coreOf s' c.toNat).vq = rest ∧ (coreOf s' c.toNat).vrun = k.vrun ∧
    EntersAt { k with vq := rest } e.t (thOf s c.toNat e.t) (thOf s' c.toNat e.t) (0x0B + g.toNat * 256) 0#64 e.pc 0#18

/-- R146, R150: the format of a queue entry. -/
def entFmt (e : VEnt) : Fmt := (fmtOfCode e.vfmt.toNat).getD .fp64

/-- R39, R43, R45, R150: the rounding of element i of a queue entry, of what it latched. -/
def entRound (e : VEnt) (rm : BitVec 3) (sat : Bool) (i : Nat) : RoundCtx :=
  { rm := resolveRm rm.toNat e.rm.toNat, sat := sat, draw := krg e.seed ((e.kbase.toNat + i) % 2 ^ 48) e.kstage.toNat }

/-- R53: no condition of g has its trap enabled, or the thread of the entry takes no exceptions. -/
def NoTrap (e : VEnt) (g : BitVec 5) : Prop := g &&& e.te = 0#5 ∨ e.exm = true

/-- R153: of the elements of width w of a register, those below n whose mask bit is 1 are f's, the others the old ones. -/
def ElemsBy (old new : BitVec 8192) (w n : Nat) (m : BitVec 1024) (f : Nat → Nat) : Prop :=
  ∀ i, i < 8192 / w → elemAt new w i = if i < n ∧ m.getLsbD i = true then f i % 2 ^ w else elemAt old w i

/-- R165: the integer forms of the vector unit and what they compute from elements of width w. -/
def vintForms (c : BitVec 8) (vd va vb : BitVec 5) (rm : BitVec 3) (mk : BitVec 4) (sf : Bool) :
    List (Instr × ((w : Nat) → BitVec w → BitVec w → BitVec w)) :=
  [(.viadd c vd va vb rm mk sf, fun _ x y => x + y), (.visub c vd va vb rm mk sf, fun _ x y => x - y),
   (.vimul c vd va vb rm mk sf, fun _ x y => x * y),
   (.vimulh c vd va vb rm mk sf, fun w x y => (x.signExtend (2 * w) * y.signExtend (2 * w)).extractLsb' w w),
   (.vimulhu c vd va vb rm mk sf, fun w x y => (x.zeroExtend (2 * w) * y.zeroExtend (2 * w)).extractLsb' w w),
   (.vand c vd va vb rm mk sf, fun _ x y => x &&& y), (.vor c vd va vb rm mk sf, fun _ x y => x ||| y),
   (.vxor c vd va vb rm mk sf, fun _ x y => x ^^^ y), (.vshl c vd va vb rm mk sf, fun w x y => x <<< (y.toNat % w)),
   (.vshr c vd va vb rm mk sf, fun w x y => x >>> (y.toNat % w)),
   (.vsra c vd va vb rm mk sf, fun w x y => x.sshiftRight (y.toNat % w)),
   (.vimin c vd va vb rm mk sf, fun _ x y => if x.toInt ≤ y.toInt then x else y),
   (.vimax c vd va vb rm mk sf, fun _ x y => if x.toInt ≤ y.toInt then y else x),
   (.viminu c vd va vb rm mk sf, fun _ x y => if x.toNat ≤ y.toNat then x else y),
   (.vimaxu c vd va vb rm mk sf, fun _ x y => if x.toNat ≤ y.toNat then y else x)]

/-- R160 to R162: the floating-point forms. -/
def vfpForms (c : BitVec 8) (vd va vb : BitVec 5) (rm : BitVec 3) (mk : BitVec 4) (sf : Bool) : List (Instr × VfpOp) :=
  [(.vadd c vd va vb rm mk sf, .add), (.vsub c vd va vb rm mk sf, .sub), (.vmul c vd va vb rm mk sf, .mul),
   (.vdiv c vd va vb rm mk sf, .div), (.vsqrt c vd va vb rm mk sf, .sqrt), (.vmin c vd va vb rm mk sf, .min),
   (.vmax c vd va vb rm mk sf, .max), (.vminnum c vd va vb rm mk sf, .minnum), (.vmaxnum c vd va vb rm mk sf, .maxnum),
   (.vabs c vd va vb rm mk sf, .abs), (.vneg c vd va vb rm mk sf, .neg), (.vcopysign c vd va vb rm mk sf, .copysign)]

/-- R154: the floating-point comparisons: what each gives for two numbers, and for a NaN. -/
def vfcmpForms (c : BitVec 8) (d : BitVec 4) (va vb : BitVec 5) (rm : BitVec 3) (mk : BitVec 4) :
    List (Instr × (Ordering → Bool) × Bool) :=
  let vd := d.zeroExtend 5
  [(.feq c vd va vb rm mk, (· == .eq), false), (.fne c vd va vb rm mk, (· != .eq), true), (.flt c vd va vb rm mk, (· == .lt), false),
   (.fle c vd va vb rm mk, (fun o => o == .lt || o == .eq), false), (.fgt c vd va vb rm mk, (· == .gt), false),
   (.fge c vd va vb rm mk, (fun o => o == .gt || o == .eq), false), (.funord c vd va vb rm mk, (fun _ => false), true)]

/-- R154: the integer comparisons, on the signed and on the unsigned values of the elements. -/
def vicmpForms (c : BitVec 8) (d : BitVec 4) (va vb : BitVec 5) (rm : BitVec 3) (mk : BitVec 4) :
    List (Instr × (Int → Int → Nat → Nat → Bool)) :=
  let vd := d.zeroExtend 5
  [(.ieq c vd va vb rm mk, fun x y _ _ => x == y), (.ine c vd va vb rm mk, fun x y _ _ => x != y),
   (.ilt c vd va vb rm mk, fun x y _ _ => decide (x < y)), (.ile c vd va vb rm mk, fun x y _ _ => decide (x ≤ y)),
   (.iltu c vd va vb rm mk, fun _ _ x y => decide (x < y)), (.ileu c vd va vb rm mk, fun _ _ x y => decide (x ≤ y))]

end Sys2Proof.Machine

/-- R143, R153, R156, R165: the integer forms in an integer format: with a queue entry free the instruction is handed off; in its pass each
active element of the result is the operation on the elements of Va and Vb, or on Va's and the low bits of Sb; every other element of Vd is
as it was, and no flag arises. -/
def Sys2Proof.Machine.VectorIntegerForms : Prop :=
  ∀ (c : BitVec 8) (vd va vb : BitVec 5) (rm : BitVec 3) (mk : BitVec 4) (sf : Bool), ∀ f ∈ vintForms c vd va vb rm mk sf, ∀ s : State,
    (∀ t, CanIssue s c t 4#18 ([.v va] ++ (if sf then [.s vb] else [.v vb]) ++ maskReg mk ++ [.v vd]) →
      (coreOf s c.toNat).vq.length < 4 → intFormat (vfmtOf (thOf s c.toNat t)) = true → JoinsQueue s c t f.1 [.v vd]) ∧
    (∀ e rest, AtHead s c e rest f.1 [.v vd] → intFormat (entFmt e) = true →
      let x := thOf s c.toNat e.t
      let w := fmtBits (entFmt e)
      ∃ r, PassGives s c e rest (.v vd r) 0#5 ∧
        ElemsBy (getV x vd) r w e.vl (getM x mk) (fun i => (f.2 w (BitVec.ofNat w (elemAt (getV x va) w i))
          (if sf then BitVec.ofNat w (getS x vb).toNat else BitVec.ofNat w (elemAt (getV x vb) w i))).toNat))

/-- R50, R53, R156, R160 to R164: the floating-point forms in a floating-point format: with a queue entry free the instruction is handed off;
its pass gives the elements of the result and the flags that come with it, or, where a condition whose trap is enabled arises and
exceptions are taken, NUMTRAP at the instruction, with the conditions in FLAGS. -/
def Obligations.VectorFloatForms : Prop :=
  ∀ (c : BitVec 8) (vd va vb : BitVec 5) (rm : BitVec 3) (mk : BitVec 4) (sf : Bool), ∀ f ∈ vfpForms c vd va vb rm mk sf, ∀ s : State,
    (∀ t, CanIssue s c t 4#18 ([.v va] ++ [.v vb] ++ maskReg mk ++ [.v vd]) →
      (coreOf s c.toNat).vq.length < 4 → fpFormat (vfmtOf (thOf s c.toNat t)) = true → JoinsQueue s c t f.1 [.v vd]) ∧
    (∀ e rest, AtHead s c e rest f.1 [.v vd] → fpFormat (entFmt e) = true →
      let x := thOf s c.toNat e.t
      let w := fmtBits (entFmt e)
      let one (i : Nat) := vfpElem f.2 (fmtFloat (entFmt e)) (entRound e rm e.sat i) (elemAt (getV x va) w i)
        (elemAt (getV x vb) w (if sf then 0 else i))
      let g := vecBits (allFlags ((actives (getM x mk) e.vl).map fun i => (one i).2))
      (NoTrap e g → ∃ r, PassGives s c e rest (.v vd r) g ∧ ElemsBy (getV x vd) r w e.vl (getM x mk) (fun i => (one i).1)) ∧
      (¬ NoTrap e g → x.st ≠ .stopped → PassTraps s c e rest g))

/-- R152, R154, R156: the comparisons, handed off and in their pass: bit i of the mask is 1 where element i is active and the relation holds,
0 everywhere else; a comparison with a NaN is false, but for FNE and FUNORD. -/
def Sys2Proof.Machine.VectorComparisons : Prop :=
  ∀ (c : BitVec 8) (d : BitVec 4) (va vb : BitVec 5) (rm : BitVec 3) (mk : BitVec 4) (s : State),
    (∀ t, CanIssue s c t 4#18 ([.v va, .v vb] ++ maskReg mk ++ maskReg d) → (coreOf s c.toNat).vq.length < 4 →
      (fpFormat (vfmtOf (thOf s c.toNat t)) = true → ∀ f ∈ vfcmpForms c d va vb rm mk, JoinsQueue s c t f.1 (maskReg d)) ∧
      (intFormat (vfmtOf (thOf s c.toNat t)) = true → ∀ f ∈ vicmpForms c d va vb rm mk, JoinsQueue s c t f.1 (maskReg d))) ∧
    (∀ e rest,
      let x := thOf s c.toNat e.t
      let fm := entFmt e
      let w := fmtBits fm
      let pa (i : Nat) := elemAt (getV x va) w i
      let pb (i : Nat) := elemAt (getV x vb) w i
      let fa (i : Nat) := floatVal (fmtFloat fm) (pa i)
      let fb (i : Nat) := floatVal (fmtFloat fm) (pb i)
      (fpFormat fm = true → NoTrap e 31#5 → ∀ f ∈ vfcmpForms c d va vb rm mk, AtHead s c e rest f.1 (maskReg d) →
        ∃ r g, PassGives s c e rest (.m d r) g ∧
        ∀ i, i < 1024 → r.getLsbD i = (activeAt (getM x mk) e.vl i &&
          if fIsNan (fa i) || fIsNan (fb i) then f.2.2 else f.2.1 (cmpVal (fa i) (fb i)))) ∧
      (intFormat fm = true → ∀ f ∈ vicmpForms c d va vb rm mk, AtHead s c e rest f.1 (maskReg d) →
        ∃ r, PassGives s c e rest (.m d r) 0#5 ∧
        ∀ i, i < 1024 → r.getLsbD i = (activeAt (getM x mk) e.vl i && f.2 (intVal fm (pa i)) (intVal fm (pb i)) (pa i) (pb i))))

/-- R160, R161, R167: vector integer arithmetic and comparisons. -/
def Obligations.VectorIntegerAndComparisons : Prop :=
  Sys2Proof.Machine.VectorIntegerForms ∧ Sys2Proof.Machine.VectorComparisons

namespace Sys2Proof.Machine

/-- R166: the widening forms by operation. -/
def widenForms (c : BitVec 8) (vd va vb : BitVec 5) (rm : BitVec 3) (mk : BitVec 4) (accf : Bool) : List (Instr × Widen) :=
  [(.vwmulBf c vd va vb rm mk accf, wMulBf), (.vwmulS c vd va vb rm mk accf, wMulS), (.vdot2 c vd va vb rm mk accf, wDot2),
   (.vdot4 c vd va vb rm mk accf, wDot4), (.vdot8 c vd va vb rm mk accf, wDot8)]

/-- R166, R169: the widening integer forms: the source and destination widths and how many products each destination element sums. -/
def widenIntForms (c : BitVec 8) (vd va vb : BitVec 5) (rm : BitVec 3) (mk : BitVec 4) (accf : Bool) :
    List (Instr × Fmt × Nat × Nat × (Nat → Nat)) :=
  [(.vwmulH c vd va vb rm mk accf, .int16, 16, 1, fun vl => min vl 256), (.vdoti8 c vd va vb rm mk accf, .int8, 8, 4, fun vl => vl / 4)]

/-- R171: the permutes and the element each gives at place i from n, the mask's active places and the elements of Va and Vb of width w,
with SEL; `none` keeps the old element. -/
def permForms (c : BitVec 8) (vd va vb : BitVec 5) (sel : BitVec 1) (mk : BitVec 4) :
    List (Instr × (Nat → Nat → BitVec 1024 → (Nat → Nat) → (Nat → Nat) → Nat → Option Nat)) :=
  let rm := sel.zeroExtend 3
  let one := sel = 1#1
  [(.vpermute c vd va vb rm mk, fun w n m a b i =>
      let j := if w = 8 then 256 * (i / 256) + b i else b i
      if activeAt m n i then some (if j < n then a j else 0) else none),
   (.vrev c vd va vb rm mk, fun _ n m a _ i => if activeAt m n i then some (a (n - 1 - i)) else none),
   (.vzip c vd va vb rm mk, fun _ n m a b i =>
      let h := if one then n / 2 else 0
      if activeAt m n i then some (if i % 2 = 0 then a (h + i / 2) else b (h + (i - 1) / 2)) else none),
   (.vunzip c vd va vb rm mk, fun _ n m a b i =>
      let j := 2 * i + (if one then 1 else 0)
      if activeAt m n i then some (if j < n then a j else b (j - n)) else none),
   (.vcompress c vd va vb rm mk, fun _ n m a _ i => ((List.range n).filter (fun j => m.getLsbD j))[i]?.map a),
   (.vexpand c vd va vb rm mk, fun _ n m a _ i =>
      if activeAt m n i then some (a ((List.range i).filter (fun j => m.getLsbD j)).length) else none)]

end Sys2Proof.Machine

/-- R156, R166 to R169: the widening multiplications and dot products, handed off and in their pass: each active destination element is the
sum of the products of a group of element pairs, and of its old value in the accumulating forms, rounded once, or wrapped for integers. -/
def Sys2Proof.Machine.VectorWideningForms : Prop :=
  ∀ (c : BitVec 8) (vd va vb : BitVec 5) (rm : BitVec 3) (mk : BitVec 4) (accf : Bool) (s : State),
    (∀ t, CanIssue s c t 4#18 ([.v va, .v vb] ++ maskReg mk ++ [.v vd]) → (coreOf s c.toNat).vq.length < 4 →
      (∀ f ∈ widenForms c vd va vb rm mk accf, f.2.src (vfmtOf (thOf s c.toNat t)) = true → JoinsQueue s c t f.1 [.v vd]) ∧
      (∀ f ∈ widenIntForms c vd va vb rm mk accf, vfmtOf (thOf s c.toNat t) = f.2.1 → JoinsQueue s c t f.1 [.v vd])) ∧
    (∀ e rest,
      let x := thOf s c.toNat e.t
      let fm := entFmt e
      let A := getV x va
      let B := getV x vb
      (∀ f ∈ widenForms c vd va vb rm mk accf, AtHead s c e rest f.1 [.v vd] → f.2.src fm = true → NoTrap e 31#5 →
        ∃ r g, PassGives s c e rest (.v vd r) g ∧
          ElemsBy (getV x vd) r (fmtBits f.2.dst) (f.2.n e.vl) (getM x mk) (fun i =>
            (dotElem (fmtFloat f.2.dst) (entRound e rm e.sat i)
              ((List.range f.2.g).map fun j => (vecVal fm A (f.2.g * i + j), vecVal fm B (f.2.g * i + j)))
              (if accf then some (floatVal (fmtFloat f.2.dst) (elemAt (getV x vd) (fmtBits f.2.dst) i)) else none)
              (fmtIsMx fm && (scaleAt A (f.2.g * i / 32) == 255 || scaleAt B (f.2.g * i / 32) == 255))).1)) ∧
      (∀ f ∈ widenIntForms c vd va vb rm mk accf, AtHead s c e rest f.1 [.v vd] → fm = f.2.1 →
        ∃ r, PassGives s c e rest (.v vd r) 0#5 ∧
          ElemsBy (getV x vd) r 32 (f.2.2.2.2 e.vl) (getM x mk) (fun i =>
            ((((List.range f.2.2.2.1).map fun j =>
              sint f.2.2.1 (elemAt A f.2.2.1 (f.2.2.2.1 * i + j)) * sint f.2.2.1 (elemAt B f.2.2.1 (f.2.2.2.1 * i + j))).sum
              + if accf then sint 32 (elemAt (getV x vd) 32 i) else 0) % 2 ^ 32).toNat)))

/-- R156, R160, R170: VFMA and VCVT, handed off and in their pass. VFMA: the product and the old element of Vd are added with one rounding;
NEGP and NEGC negate the product and the addend. VCVT to a format that is no MX format converts each active element, limited to the
target's VLMAX. -/
def Sys2Proof.Machine.VectorFmaAndConvert : Prop :=
  ∀ (c : BitVec 8) (vd va vb : BitVec 5) (rm : BitVec 3) (mk : BitVec 4) (s : State),
    (∀ t, CanIssue s c t 4#18 ([.v va, .v vb] ++ maskReg mk ++ [.v vd]) → (coreOf s c.toNat).vq.length < 4 →
      (∀ negp negc : Bool, fpFormat (vfmtOf (thOf s c.toNat t)) = true → JoinsQueue s c t (.vfma c vd va vb rm mk negp negc 0#2) [.v vd]) ∧
      (∀ (code : BitVec 4) (sat : Bool) (dst : Fmt), fmtOfCode code.toNat = some dst → dst ≠ .e8m0 → vfmtOf (thOf s c.toNat t) ≠ .e8m0 →
        JoinsQueue s c t (.vcvt c vd va code sat rm mk 0#4) [.v vd])) ∧
    (∀ e rest, NoTrap e 31#5 →
      let x := thOf s c.toNat e.t
      let fm := entFmt e
      let w := fmtBits fm
      let ff := fmtFloat fm
      (∀ negp negc : Bool, AtHead s c e rest (.vfma c vd va vb rm mk negp negc 0#2) [.v vd] → fpFormat fm = true →
        ∃ r g, PassGives s c e rest (.v vd r) g ∧ ElemsBy (getV x vd) r w e.vl (getM x mk) (fun i =>
          let a := floatVal ff (elemAt (getV x va) w i)
          let b := floatVal ff (elemAt (getV x vb) w i)
          let d := floatVal ff (elemAt (getV x vd) w i)
          let p := (mulVal a b).1
          let sum := if (mulVal a b).2.nnv then (defaultNan, flagNv)
            else addVal (entRound e rm e.sat i).rm (if negp then negVal p else p) (if negc then negVal d else d)
          (toFloat ff (entRound e rm e.sat i) true (withNans [a, b, d] sum).1).1)) ∧
      (∀ (code : BitVec 4) (sat : Bool) (dst : Fmt), AtHead s c e rest (.vcvt c vd va code sat rm mk 0#4) [.v vd] →
        fmtOfCode code.toNat = some dst → fmtIsMx dst = false → dst ≠ .e8m0 → fm ≠ .e8m0 →
        ∃ r g, PassGives s c e rest (.v vd r) g ∧
          ElemsBy (getV x vd) r (fmtBits dst) (min e.vl (vlMax dst)) (getM x mk) (fun i =>
            (toElem dst (entRound e rm sat i) true (vecVal fm (getV x va) i)).1)))

/-- R160 to R168: widening forms, fused multiply-add and conversions. -/
def Obligations.VectorWideningAndConversions : Prop :=
  Sys2Proof.Machine.VectorWideningForms ∧ Sys2Proof.Machine.VectorFmaAndConvert

/-- R156, R171: the permutes, in a format that is no MX format, handed off and in their pass. -/
def Sys2Proof.Machine.VectorPermutes : Prop :=
  ∀ (c : BitVec 8) (vd va vb : BitVec 5) (sel : BitVec 1) (mk : BitVec 4), ∀ f ∈ permForms c vd va vb sel mk, ∀ s : State,
    (∀ t, CanIssue s c t 4#18 ([.v va] ++ [.v vb] ++ maskReg mk ++ [.v vd]) → (coreOf s c.toNat).vq.length < 4 →
      fmtIsMx (vfmtOf (thOf s c.toNat t)) = false → JoinsQueue s c t f.1 [.v vd]) ∧
    (∀ e rest, AtHead s c e rest f.1 [.v vd] → fmtIsMx (entFmt e) = false →
      let x := thOf s c.toNat e.t
      let w := fmtBits (entFmt e)
      ∃ r, PassGives s c e rest (.v vd r) 0#5 ∧
        ∀ i, i < 8192 / w → elemAt r w i =
          ((f.2 w e.vl (getM x mk) (elemAt (getV x va) w) (elemAt (getV x vb) w) i).map (· % 2 ^ w)).getD (elemAt (getV x vd) w i))

/-- R156, R172 to R174: the reductions, handed off and in their pass: element 0 of Fd is the wrapped sum, the minimum or the maximum of the
active elements for integers, and for numbers their exact sum rounded once, or their minimum or maximum; the other elements stay. VRSUM.HO
takes its place in the reduction unit's order and in the vector queue. -/
def Sys2Proof.Machine.VectorReductions : Prop :=
  ∀ (c : BitVec 8) (vd va accn : BitVec 5) (rm : BitVec 3) (mk : BitVec 4) (s : State),
    let forms : List Instr := [.vrsum c vd va accn rm mk, .vrmin c vd va accn rm mk, .vrmax c vd va accn rm mk]
    (∀ t, CanIssue s c t 4#18 ([.v va] ++ maskReg mk ++ [.v vd]) →
      let x := thOf s c.toNat t
      let k := coreOf s c.toNat
      let f := vfmtOf x
      k.vq.length < 4 → fpFormat f = true ∨ intFormat f = true → (∀ i ∈ forms, JoinsQueue s c t i [.v vd]) ∧
      (∀ hi : BitVec 1, k.ru.world = worldOf k t → k.ru.hkind = decide (f = .fp64 ∨ f = .int64) →
        hi.toNat * 32 + accn.toNat < (if k.ru.hkind then 16 else 64) →
        let i : Instr := .vrsumHo c (hi.zeroExtend 5) va accn rm mk
        ∃ s', exec i s = .next (catchUp s' c.toNat) ∧
          HandedOff s s' c t i [] (.ho (hi.toNat * 32 + accn.toNat) k.ru.hkind
            (((List.range x.vl).filter fun i => (getM x mk).getLsbD i).map fun i => vecVal f (getV x va) i)) ∧
          (coreOf s' c.toNat).ru = { k.ru with q := k.ru.q ++ [{ t := t, op := .ho }] })) ∧
    (∀ e rest, ∀ i ∈ forms, AtHead s c e rest i [.v vd] →
      let x := thOf s c.toNat e.t
      let f := entFmt e
      let w := fmtBits f
      let act := (List.range e.vl).filter fun i => (getM x mk).getLsbD i
      let ints := act.map fun i => sint w (elemAt (getV x va) w i)
      let nums := act.map fun i => floatVal (fmtFloat f) (elemAt (getV x va) w i)
      let rc := entRound e rm e.sat 0
      let gives (v : Nat) : Prop := ∃ r g, PassGives s c e rest (.v vd r) g ∧
        ∀ j, j < 8192 / w → elemAt r w j = if j = 0 then v % 2 ^ w else elemAt (getV x vd) w j
      (intFormat f = true → (i = .vrsum c vd va accn rm mk → gives (ints.sum % 2 ^ w).toNat) ∧
        (∀ m, ints.min? = some m → i = .vrmin c vd va accn rm mk → gives (m % 2 ^ w).toNat) ∧
        (∀ m, ints.max? = some m → i = .vrmax c vd va accn rm mk → gives (m % 2 ^ w).toNat)) ∧
      (fpFormat f = true → NoTrap e 31#5 → (i = .vrsum c vd va accn rm mk → gives (sumReduce f rc nums).1) ∧
        (i = .vrmin c vd va accn rm mk → gives (extReduce minVal f rc nums).1) ∧
        (i = .vrmax c vd va accn rm mk → gives (extReduce maxVal f rc nums).1)))

/-- R169 to R174: permutations and reductions. -/
def Obligations.VectorPermutesAndReductions : Prop :=
  Sys2Proof.Machine.VectorPermutes ∧ Sys2Proof.Machine.VectorReductions

/-- R147, R148, R155, R156: VSETVL limits VL to VLMAX and gives it in Sd; VSETFMT sets the format and limits VL; the mask operations, in their
pass, work on all 1,024 bits; MCOUNT counts the mask's ones below VL. -/
def Obligations.VectorLengthsAndMasks : Prop :=
  ∀ (c : BitVec 8) (d a : BitVec 5) (md ma mb : BitVec 4) (s : State),
    let two (f : BitVec 8 → BitVec 5 → BitVec 5 → BitVec 5 → Instr) : Instr := f c (md.zeroExtend 5) (ma.zeroExtend 5) (mb.zeroExtend 5)
    let forms : List (Instr × (BitVec 1024 → BitVec 1024 → BitVec 1024)) :=
      [(two .mand, fun p q => p &&& q), (two .mor, fun p q => p ||| q), (two .mxor, fun p q => p ^^^ q), (two .mnot, fun p _ => ~~~ p)]
    (∀ t, CanIssue s c t 4#18 ([.s d, .s a] ++ maskReg ma ++ maskReg mb ++ maskReg md) →
      let x := thOf s c.toNat t
      let n := min (getS x a).toNat (vlMax (vfmtOf x))
      let code : BitVec 4 := (getS x a).truncate 4
      (∃ s' st w, exec (.vsetvl c d a) s = .next (catchUp s' c.toNat) ∧ thOf s' c.toNat t =
          { putS { x with vl := n } d (BitVec.ofNat 64 n) with pc := x.pc + 4#18, icount := x.icount + 1, st := st, wait := w } ∧
        OnlyThread s s' c.toNat t ∧ (coreOf s' c.toNat).clk = (coreOf s c.toNat).clk + 3) ∧
      (code ≠ 0xF#4 → ∀ f, fmtOfCode code.toNat = some f → ∃ s' st w, exec (.vsetfmt c a) s = .next (catchUp s' c.toNat) ∧
        thOf s' c.toNat t =
          { x with vfmt := code, vl := min x.vl (vlMax f), pc := x.pc + 4#18, icount := x.icount + 1, st := st, wait := w } ∧
        OnlyThread s s' c.toNat t) ∧
      ((coreOf s c.toNat).vq.length < 4 → (∀ f ∈ forms, JoinsQueue s c t f.1 (maskReg md)) ∧
        JoinsQueue s c t (.mcount c d (ma.zeroExtend 5)) [.s d])) ∧
    (∀ e rest,
      let x := thOf s c.toNat e.t
      (∀ f ∈ forms, AtHead s c e rest f.1 (maskReg md) → PassGives s c e rest (.m md (f.2 (getM x ma) (getM x mb))) 0#5) ∧
      (AtHead s c e rest (.mcount c d (ma.zeroExtend 5)) [.s d] →
        PassGives s c e rest (.s d (BitVec.ofNat 64 ((List.range e.vl).filter fun i => (getM x ma).getLsbD i).length)) 0#5))

namespace Sys2Proof.Machine

/-- R175, R176: a vector memory instruction, the elements it moves, the right it needs, and what it leaves in the queue. -/
structure VmemForm where
  instr : Instr
  elems : List PreElem
  need : List Nat
  kind : AccKindOf
  dst : List Reg
  entry : List VElem → VKind

/-- R175, R176: the vector memory forms of a thread in a format that is no MX format: unit-stride or strided (Sb ≠ S0), and by the
offsets of Vb. -/
def vmemForms (c : BitVec 8) (vd a b vb : BitVec 5) (hint mk : BitVec 4) (idx64 : Bool) (x : Thread) : List VmemForm :=
  let w := fmtBits (vfmtOf x)
  let act := actives (getM x mk) x.vl
  let stride : Word := if b = 0#5 then BitVec.ofNat 64 (w / 8) else getS x b
  let place (i : Nat) (ea : Word) : PreElem := { i := i, pos := w * i, bits := w, sub := 0, va := ea.toNat, len := w / 8 }
  let strided := act.map fun i => place i (getS x a + BitVec.ofNat 64 i * stride)
  let offs (i : Nat) : Word := if idx64 then BitVec.ofNat 64 (elemAt (getV x vb) 64 i)
    else BitVec.ofInt 64 (sint 32 (elemAt (getV x vb) 32 i))
  let indexed := act.map fun i => place i (getS x a + offs i)
  [{ instr := .vmemLoad c vd a b hint mk idx64 false, elems := strided, need := [rRD], kind := .read, dst := [.v vd],
     entry := fun es => .load vd [] es },
   { instr := .vmemStore c vd a b hint mk idx64 false, elems := strided, need := [rWR], kind := .write, dst := [],
     entry := fun es => .store (getV x vd) es },
   { instr := .vgather c vd a vb hint mk idx64 false, elems := indexed, need := [rRD], kind := .read, dst := [.v vd],
     entry := fun es => .load vd [] es },
   { instr := .vscatter c vd a vb hint mk idx64 false, elems := indexed, need := [rWR], kind := .write, dst := [],
     entry := fun es => .store (getV x vd) es }]

end Sys2Proof.Machine

/-- R156, R175 to R179: a vector load, store, gather or scatter whose every part passes its checks in the own scratchpad joins the vector
queue with its elements, in ascending order; nothing is read or written before its pass. -/
def Obligations.VectorMemoryHandOff : Prop :=
  ∀ (c : BitVec 8) (vd a b vb : BitVec 5) (hint mk : BitVec 4) (idx64 : Bool) (s : State) (t : Nat),
    CanIssue s c t 4#18 ([.s a, .s b, .v vb] ++ maskReg mk ++ [.v vd]) →
    let x := thOf s c.toNat t
    (coreOf s c.toNat).vq.length < 4 → fmtIsMx (vfmtOf x) = false → x.vl ≤ (if idx64 then 128 else 256) →
    ∀ f ∈ vmemForms c vd a b vb hint mk idx64 x,
      let chk := (checkElems s c.toNat t x f.need hint f.kind f.elems).1
      (∀ e ∈ chk, Passes e.2 ∧ AllOwn s c.toNat e.2) →
      ∃ s', exec f.instr s = .next (catchUp s' c.toNat) ∧
        HandedOff s s' c t f.instr f.dst (f.entry (chk.map (·.1))) (missClocks ((chk.map (·.2)).flatten))

/-- R53, R156, R157, R174, R177, R179, R421: VECTOR_PASS_START takes the head of the queue: a load reads its elements into its register's
value; one that meets poison takes POISON at the instruction, or waits for the recovery under full failure protection; a store writes its
elements and no other byte; VRSUM.HO in its place hands over its values. -/
def Sys2Proof.Machine.VectorPassStarts : Prop :=
  ∀ (c : BitVec 8) (s : State) (e : VEnt) (rest : List VEnt), Memory.wf s = true → (coreOf s c.toNat).vq = e :: rest →
    let k := coreOf s c.toNat
    let x := thOf s c.toNat e.t
    let m := catchUpTo s c.toNat (passClock s c e)
    (∀ d, e.kind = .reg d → PassGives s c e rest d e.flags) ∧
    (∀ d es, e.kind = .load d [] es → poisonedElem m [] es = none → PassGives s c e rest (.v d (BitVec.ofNat 8192
        (es.foldl (fun v q => setBits v q.pos q.bits (leNat (readParts m [] q.halves) / 2 ^ q.sub)) (getV x d).toNat))) 0#5) ∧
    (∀ d es h second, e.kind = .load d [] es → poisonedElem m [] es = some (h, second) →
      (steepEn s = true → ∃ s', exec (.vectorPassStart c) s = .next s' ∧ (coreOf s' c.toNat).vq = e :: rest ∧
        (coreOf s' c.toNat).vrun = k.vrun ∧ SameMemory s s') ∧
      (steepEn s = false → e.exm = false → x.st ≠ .stopped → ∃ s', exec (.vectorPassStart c) s = .next s' ∧
        (coreOf s' c.toNat).vq = rest ∧ (coreOf s' c.toNat).vrun = k.vrun ∧
        EntersAt { k with vq := rest } e.t x (thOf s' c.toNat e.t) (0x05 + if second then 0x2000 else 0) (BitVec.ofNat 64 h.va) e.pc 0#18)) ∧
    (∀ val es v, e.kind = .store val es → v = storeValue x e val → ∃ s', exec (.vectorPassStart c) s = .next s' ∧
      (coreOf s' c.toNat).vq = rest ∧
      (∀ z, (∀ q ∈ elemHalves es, z < paLocal q.pa ∨ paLocal q.pa + q.len ≤ z) →
        (∀ q ∈ elemHalves es, 0 < q.len) → readByte s'.mem z = readByte m.mem z) ∧
      ∀ q h, es = [q] → q.halves = [h] → h.bad = false → q.bits = 8 * h.len → ∀ i, i < h.len →
        isPoisoned m (paLocal h.pa + i) = false →
        (readByte s'.mem (paLocal h.pa + i)).toNat = v.toNat / 2 ^ (q.pos + 8 * i) % 256) ∧
    (∀ acc wide vals q, e.kind = .ho acc wide vals → k.ru.q = [q] → q.op = .ho → k.ru.busy = false → k.ru.kind = wide →
      acc < (if wide then 16 else 64) → ∃ s', exec (.vectorPassStart c) s = .next s' ∧ (coreOf s' c.toNat).vq = rest ∧
      (coreOf s' c.toNat).ru.q = [] ∧ SameMemory m s' ∧
      tabGet {} (coreOf s' c.toNat).ru.acc acc = (hoNow x e vals).foldl (fun a v => accAdd (ruKind wide) a v) (tabGet {} k.ru.acc acc) ∧
      ∀ j, j ≠ acc → tabGet {} (coreOf s' c.toNat).ru.acc j = tabGet {} k.ru.acc j)

/-- R81, R157, R164: VECTOR_WRITE writes the result whose write clock comes first, of several the first to have started, into its register,
whose scoreboard bit it clears, and ORs its flags into NUM_FLAGS[4:0]; no other register changes. -/
def Sys2Proof.Machine.VectorWrites : Prop :=
  ∀ (c : BitVec 8) (s : State) (e : VEnt) (pre post : List VEnt), (coreOf s c.toNat).vrun = pre ++ e :: post →
    (∀ q ∈ pre, e.wclk < q.wclk) → (∀ q ∈ post, e.wclk ≤ q.wclk) →
    let x := thOf s c.toNat e.t
    ∃ s', exec (.vectorWrite c) s = .next s' ∧ (coreOf s' c.toNat).vrun = pre ++ post ∧
      (coreOf s' c.toNat).clk = max (coreOf s c.toNat).clk e.wclk ∧ SameMemory s s' ∧
      (∀ n v, e.kind = .reg (.v n v) → getV (thOf s' c.toNat e.t) n = v ∧ regBusy (thOf s' c.toNat e.t) (.v n) = false ∧
        (∀ r, r ≠ n → getV (thOf s' c.toNat e.t) r = getV x r) ∧ (thOf s' c.toNat e.t).s = x.s ∧ (thOf s' c.toNat e.t).m = x.m ∧
        (thOf s' c.toNat e.t).nflags = x.nflags ||| e.flags.zeroExtend 20) ∧
      (∀ n v, e.kind = .reg (.m n v) → getM (thOf s' c.toNat e.t) n = (if n = 0#4 then BitVec.allOnes 1024 else v) ∧
        regBusy (thOf s' c.toNat e.t) (.m n) = false ∧ (∀ r, r ≠ n → getM (thOf s' c.toNat e.t) r = getM x r) ∧
        (thOf s' c.toNat e.t).v = x.v ∧ (thOf s' c.toNat e.t).s = x.s) ∧
      (∀ n v, e.kind = .reg (.s n v) → getS (thOf s' c.toNat e.t) n = (if n = 0#5 then 0#64 else v) ∧
        regBusy (thOf s' c.toNat e.t) (.s n) = false ∧ (∀ r, r ≠ n → getS (thOf s' c.toNat e.t) r = getS x r) ∧
        (thOf s' c.toNat e.t).v = x.v ∧ (thOf s' c.toNat e.t).m = x.m)

/-- R156 to R159, R164, R177, R178: vector passes and their writes. What a pass finds in its first clock, and that the thread's EXM is that
of the hand-off, are the model's (assumptions 128 and 141). -/
def Obligations.VectorPasses : Prop :=
  Sys2Proof.Machine.VectorPassStarts ∧ Sys2Proof.Machine.VectorWrites

namespace Sys2Proof.Machine

/-- R126, R128, R136, R217, R491: a matrix instruction of core c's thread t reaches the matrix unit: the core interleaves nothing, no pass
of the thread is suspended, the columns have power, no vector store of the thread waits, the unit is the thread's or free in its world,
no release of the thread's is queued, and the queue has room. -/
def MxReady (s : State) (c : BitVec 8) (t : Nat) : Prop :=
  let k := coreOf s c.toNat
  k.ilv = false ∧ mxSuspended k t = false ∧ columnsOn s c.toNat = true ∧ vecStorePending k t = false ∧ s.steep.forced = false ∧
    (k.mx.owner = some t ∨ (k.mx.owner = none ∧ k.mx.world = some (worldOf k t))) ∧
    (∀ e ∈ k.mx.q, e.t = t → e.kind ≠ .mrel) ∧ k.mx.q.length + (if k.mx.pass.isSome then 1 else 0) < 4 ∧ k.mx.clearing = false

/-- R129, R136: the instruction is the youngest of the matrix queue; the thread owns the unit and goes on after 2 clocks, and memory is as
before. -/
def MxQueued (s s' : State) (c : BitVec 8) (t : Nat) (kind : MxKind) (wait : Nat) (mark : List Reg) : Prop :=
  let k := coreOf s c.toNat
  (∃ e, (coreOf s' c.toNat).mx.q = k.mx.q ++ [e] ∧ e.t = t ∧ e.kind = kind ∧ e.handoff = k.clk + 2 ∧
    (k.mx.owner = some t → k.mx.passHanded = true → e.wait = wait)) ∧
    (coreOf s' c.toNat).mx.owner = some t ∧ (coreOf s' c.toNat).clk = k.clk + 2 ∧ SameMemory s s' ∧
    ∃ st w, thOf s' c.toNat t = { mark.foldl markBusy (thOf s c.toNat t) with
      pc := (thOf s c.toNat t).pc + 4#18, icount := (thOf s c.toNat t).icount + 1, st := st, wait := w }

end Sys2Proof.Machine

/-- R131, R184, R188 to R190, R195, R203: the matrix instructions at hand-off, with their operands, once translated, passing the checks and
the distances of R132 kept: MLOAD begins to fill the shadow bank; MPASS, MSWAP, MZERO, MCFG, MREL and MRD join the queue. -/
def Sys2Proof.Machine.MatrixHandOffs : Prop :=
  ∀ (c : BitVec 8) (vd a b : BitVec 5) (fmt tfmt : BitVec 4) (sp24 sref sat : Bool) (rm : BitVec 3) (wait : BitVec 7) (s : State)
    (t : Nat), CanIssue s c t 4#18 [.s a, .s b, .v vd] → MxReady s c t →
    let x := thOf s c.toNat t
    let k := coreOf s c.toNat
    let sa := (getS x a).toNat
    let sb := (getS x b).toNat
    let n := sb % 2 ^ 24
    let far (least : Nat) : Prop := k.mx.owner = some t → k.mx.passHanded = true → least ≤ wait.toNat
    (∀ cls, classOfFmt fmt.toNat = some cls → (sp24 = true → cls ≠ .s ∧ cls ≠ .d) → k.mx.loading = none →
      (∀ e ∈ k.mx.q, e.kind ≠ .mswap) →
      let rs := mloadRanges cls sp24 sa sb
      let u := unitTouch s c.toNat t [rRD] rs
      (∀ r ∈ rs, r.1 % 64 = 0) → firstRangeFail u c.toNat t [rRD] rs = none → firstMulti u c.toNat t rs = none →
      ∃ s', exec (.mload c a b fmt sp24 0#11) s = .next (catchUp s' c.toNat) ∧ (coreOf s' c.toNat).mx.loading = some (!k.mx.hact) ∧
        (coreOf s' c.toNat).mx.loadEnd = (coreOf u c.toNat).clk + 2 + loadClocks cls sp24 ∧
        (coreOf s' c.toNat).mx.loadSrc = loadPieces u c.toNat t rs ∧
        bankFmt (bankOf (coreOf s' c.toNat).mx (!k.mx.hact)) = some fmt ∧ bankSp (bankOf (coreOf s' c.toNat).mx (!k.mx.hact)) = sp24 ∧
        bankOf (coreOf s' c.toNat).mx k.mx.hact = bankOf k.mx k.mx.hact ∧ (thOf s' c.toNat t).pc = x.pc + 4#18 ∧ SameMemory s s') ∧
    (let ins := mpassSpan k.mx.hcfg (handSp k.mx) sa n :: mpassSide k.mx.hcfg (handSp k.mx) n
     let drains := decide (cKsteps k.mx.hcfg ≠ 0 ∧ k.mx.hkcount + 1 = cKsteps k.mx.hcfg)
     let u := unitTouch s c.toNat t [rRD] ins
     let outs := if drains then drainRanges u c.toNat t k.mx.hcfg n else []
     let v := unitTouch u c.toNat t [rWR] outs
     mpassBad k.mx n = false → sa % 64 = 0 → mpassFails u c.toNat t k.mx.hcfg (handSp k.mx) sa n = none →
      firstRangeFail v c.toNat t [rWR] outs = none → firstMulti v c.toNat t (ins ++ outs) = none →
      ∃ s', exec (.mpass c a b wait sref 0#8) s = .next (catchUp s' c.toNat) ∧
        MxQueued v s' c t (.mpass (getS x a) n sref drains) wait.toNat [] ∧ SameMemory s s') ∧
    (far 64 → k.mx.loading = none → ∃ s', exec (.mswap c wait 0#10) s = .next (catchUp s' c.toNat) ∧
      MxQueued s s' c t .mswap wait.toNat [] ∧ (coreOf s' c.toNat).mx.hact = !k.mx.hact) ∧
    (far 72 → ∃ s', exec (.mzero c wait 0#10) s = .next (catchUp s' c.toNat) ∧ MxQueued s s' c t .mzero wait.toNat []) ∧
    (let u := unitTouch s c.toNat t [rRD] [(sa, 88)]
     let cfg := cfgOfWords fun i => (wordsOf 11 (unitRead u c.toNat t sa 88)).getD i 0#64
     sa % 8 = 0 → spadFail u c.toNat t [rRD] sa 88 = none → firstMulti u c.toNat t [(sa, 88)] = none →
      unitPoison u c.toNat t sa 88 = false → cfgBad cfg = false →
      ∃ s', exec (.mcfg c a 0#7 0#10) s = .next (catchUp s' c.toNat) ∧ MxQueued u s' c t (.mcfg cfg) 0 [] ∧
        (coreOf s' c.toNat).mx.hcfg = cfg) ∧
    (∃ s', exec (.mrel c 0#7 0#10) s = .next (catchUp s' c.toNat) ∧ MxQueued s s' c t .mrel 0 []) ∧
    (readOutOk (cForm k.mx.hcfg) (cOrd k.mx.hcfg) tfmt.toNat = true → far 72 →
      ∃ s' r, exec (.mrd c vd tfmt sat rm wait 0#6) s = .next (catchUp s' c.toNat) ∧
        MxQueued s s' c t (.mrd vd tfmt sat r) wait.toNat [.v vd])

/-- R132, R133: an MSWAP whose WAIT is below 64, an MZERO or an MRD whose WAIT is below 72, behind an MPASS: EXPOSE at the instruction,
with the kind and the shortfall in XEXP; nothing is queued. -/
def Sys2Proof.Machine.ExposedHandOffs : Prop :=
  ∀ (c : BitVec 8) (vd : BitVec 5) (tfmt : BitVec 4) (sat : Bool) (rm : BitVec 3) (wait : BitVec 7) (s : State) (t : Nat),
    CanIssue s c t 4#18 [.v vd] → MxReady s c t →
    let x := thOf s c.toNat t
    let k := coreOf s c.toNat
    let exposed (i : Instr) (kind least : Nat) : Prop := ∃ s', exec i s = .next (catchUp s' c.toNat) ∧
      EntersAt k t x (thOf s' c.toNat t) 0x06 0#64 x.pc 0#18 ∧ (thOf s' c.toNat t).xexpKind.toNat = kind ∧
      (thOf s' c.toNat t).xexpShort.toNat = least - wait.toNat ∧ (coreOf s' c.toNat).mx = k.mx
    k.mx.owner = some t → k.mx.passHanded = true → k.mx.loading = none → x.exm = false → x.sb = [] →
    (wait.toNat < 64 → exposed (.mswap c wait 0#10) 1 64) ∧ (wait.toNat < 72 → exposed (.mzero c wait 0#10) 4 72) ∧
    (wait.toNat < 72 → readOutOk (cForm k.mx.hcfg) (cOrd k.mx.hcfg) tfmt.toNat = true →
      exposed (.mrd c vd tfmt sat rm wait 0#6) 3 72)

/-- R126 to R133: the hand-offs to the matrix unit. -/
def Obligations.MatrixInstructions : Prop :=
  Sys2Proof.Machine.MatrixHandOffs ∧ Sys2Proof.Machine.ExposedHandOffs

/-- R129, R132, R188, R189, R192, R195, R203: MATRIX_EFFECT on the head of the queue of a unit with no rows under way and no pass: what
each entry does at its clock e, which no queued instruction and no drain precedes; and the write of a read-out's Vd, 4 clocks after its
effect, which clears the scoreboard bit and collects the flags. That an effect comes before a drain of its clock is the model's choice
(assumption 123). -/
def Obligations.MatrixEffects : Prop :=
  (∀ (c : BitVec 8) (s : State) (ent : MxEnt) (rest : List MxEnt) (e : Nat),
    let k := coreOf s c.toNat
    k.mx.read = none → k.mx.q = ent :: rest → k.mx.pass = none → k.mx.rows = [] → k.mx.clearing = false →
    (∀ d ∈ k.mx.drains, e ≤ d.due) → effectClock k ent = some e →
    ∃ s', exec (.matrixEffect c) s = .next s' ∧ (coreOf s' c.toNat).mx.q = rest ∧ (coreOf s' c.toNat).clk = max k.clk e ∧
      SameMemory (catchUpTo s c.toNat e) s' ∧ ent.handoff < e ∧
      (ent.kind = .mswap → (coreOf s' c.toNat).mx.act = !k.mx.act ∧ (coreOf s' c.toNat).mx.acc = k.mx.acc) ∧
      (ent.kind = .mzero → ∀ i n, entryAt (coreOf s' c.toNat).mx i n = opIdent (cOp k.mx.cfg)) ∧
      (∀ cfg, ent.kind = .mcfg cfg → (coreOf s' c.toNat).mx.cfg = cfg ∧
        (cForm cfg = cForm k.mx.cfg → cOrd cfg = cOrd k.mx.cfg → (coreOf s' c.toNat).mx.acc = k.mx.acc) ∧
        (cForm cfg ≠ cForm k.mx.cfg → ∀ i n, entryAt (coreOf s' c.toNat).mx i n = opIdent (cOp cfg))) ∧
      (ent.kind = .mrel → k.mx.owner = some ent.t → (coreOf s' c.toNat).mx.owner = none) ∧
      (∀ sa n r d, ent.kind = .mpass sa n r d → 0 < n → ∃ p, (coreOf s' c.toNat).mx.pass = some p ∧ p.t = ent.t ∧ p.rows = n ∧
        p.sa = sa ∧ p.start = e ∧ p.next = 0 ∧ p.cfg = k.mx.cfg ∧ p.susp = false) ∧
      (∀ d f sat r, ent.kind = .mrd d f sat r →
        let v := mrdValue k.mx ((fmtOfCode f.toNat).getD .fp64) ent.seed r sat
        (coreOf s' c.toNat).mx.read = some { due := e + 4, t := ent.t, d := d, val := v.1, flags := engBits v.2 } ∧
        (thOf s' c.toNat ent.t).v = (thOf s c.toNat ent.t).v ∧ (thOf s' c.toNat ent.t).sbV = (thOf s c.toNat ent.t).sbV)) ∧
  ∀ (c : BitVec 8) (s : State) (r : MxRead), (coreOf s c.toNat).mx.read = some r →
    ∃ s', exec (.matrixEffect c) s = .next s' ∧ (coreOf s' c.toNat).mx = { (coreOf s c.toNat).mx with read := none } ∧
      (coreOf s' c.toNat).clk = max (coreOf s c.toNat).clk r.due ∧ SameMemory s s' ∧
      getV (thOf s' c.toNat r.t) r.d = r.val ∧ regBusy (thOf s' c.toNat r.t) (.v r.d) = false ∧
      (∀ d, d ≠ r.d → getV (thOf s' c.toNat r.t) d = getV (thOf s c.toNat r.t) d) ∧
      (thOf s' c.toNat r.t).nflags = (thOf s c.toNat r.t).nflags ||| (r.flags.zeroExtend 20 <<< 8)

/-- R27, R131, R192, R205, R208, R215, R265: events of the matrix unit: the end of a load and its last group, a row of a pass without skip
or route list up to its end or to the boundary within it, the rest of a row that a boundary divided, a slot that the power manager
withholds, a check of the zero map, the predictor's reply, and the signal of a drained pass. Where a window of 256 slots begins is the
model's (assumption 137). -/
def Sys2Proof.Machine.MatrixEvents : Prop :=
  ∀ (c : BitVec 8) (s : State),
    let k := coreOf s c.toNat
    (∀ b, k.mx.loading = some b → k.mx.loadPoison = false → k.mx.loadSrc = [] → k.se.run = none → k.se.ending = [] →
      ∃ s', exec (.mloadLoadEnd c) s = .next s' ∧ (coreOf s' c.toNat).mx = { k.mx with loading := none } ∧
        (coreOf s' c.toNat).clk = max k.clk k.mx.loadEnd ∧ SameMemory s s') ∧
    (∀ b l more, k.mx.loading = some b → k.mx.loadPoison = false → (∀ e ∈ k.mx.loadSrc, 0 < e.2 ∧ anyPoison s e.1 e.2 = false) →
      0 < (k.mx.loadSrc.map (·.2)).sum → (k.mx.loadSrc.map (·.2)).sum ≤ 512 → (bankOf k.mx b).loads = l :: more →
      k.se.run = none → k.se.ending = [] →
      ∃ s', exec (.mloadLoadEnd c) s = .next s' ∧ (coreOf s' c.toNat).mx.loading = none ∧ SameMemory s s' ∧
        (bankOf (coreOf s' c.toNat).mx b).loads = { l with
          clks := l.clks ++ [k.mx.loadEnd]
          data := l.data + leNat (k.mx.loadSrc.map fun e => loadZeroPoison s e.1 e.2).flatten * 2 ^ (4096 * l.clks.length) } :: more ∧
        bankOf (coreOf s' c.toNat).mx (!b) = bankOf k.mx (!b)) ∧
    (∀ p (held : BitVec 32) (j : BitVec 12), k.mx.pass = some p → p.susp = false → p.part = none → cRoute p.cfg = false →
      cSkip p.cfg = false → p.fix = [] → p.next + 1 < p.rows → k.mx.rows = [] → drainPending k.mx (passEntry p p.next) = false →
      stopDue s c.toNat p.t = false → slotWithheld s c.toNat { p with slot := p.slot + held.toNat } = false →
      let m := catchUpTo s c.toNat (p.slot + held.toNat)
      let p0 := afterDrain k.mx { p with slot := p.slot + held.toNat } (passEntry p p.next)
      rowPoison m c.toNat (coreOf m c.toNat).mx p p.next = false →
      ∃ s' r p' left, exec (.matrixRowIssue c held j) s = .next s' ∧ (coreOf s' c.toNat).mx.pass = some p' ∧ SameMemory m s' ∧
        r.m = p.next ∧ r.e = (cAccbase p.cfg + p.next) % formCap (cForm p.cfg) ∧ r.first = p0.slot ∧
        p'.next = p.next + 1 ∧ p'.rows = p.rows ∧ p'.slots + left = p.slots + rowSlots r ∧
        p'.slot + left = p0.slot + rowSlots r ∧
        (left = 0 → (coreOf s' c.toNat).mx.rows = [r] ∧ p'.part = none ∧ p'.slot = r.last + 1) ∧
        (0 < left → (coreOf s' c.toNat).mx.rows = [] ∧ p'.slots % 64 = 0 ∧ ∃ q, p'.part = some q ∧ q.row = r ∧ q.left = left)) ∧
    (∀ p q (held : BitVec 32) (j : BitVec 12), k.mx.pass = some p → p.susp = false → p.part = some q → p.next < p.rows → cRoute p.cfg = false →
      q.left ≤ 64 - p.slots % 64 → q.after = 0 → q.row.blk = none → 0 < q.left → k.mx.rows = [] → stopDue s c.toNat p.t = false →
      ∃ s' p', exec (.matrixRowIssue c held j) s = .next s' ∧ (coreOf s' c.toNat).mx.pass = some p' ∧
        SameMemory (catchUpTo s c.toNat p.slot) s' ∧ p'.part = none ∧ p'.next = p.next ∧ p'.slot = p.slot + q.left ∧
        (coreOf s' c.toNat).mx.rows = [{ q.row with last := p'.slot - 1, final := p'.slot - 1 + 72 }]) ∧
    (∀ p, k.mx.pass = some p → p.susp = false → p.part = none → ∀ (held : BitVec 32) (j : BitVec 12),
      stopDue s c.toNat p.t = false → slotWithheld s c.toNat { p with slot := p.slot + held.toNat } = true →
      exec (.matrixRowIssue c held j) s = .next s) ∧
    (∀ p ch more, k.mx.pass = some p → resolvable p = ch :: more → p.next < p.rows → k.mx.rows = [] → cRoute p.cfg = false →
      ∃ s' p', exec (.skipCheck c) s = .next s' ∧ (coreOf s' c.toNat).mx.pass = some p' ∧ p'.chks = p.chks.erase ch ∧
        (ch.predZero = ch.bit → p'.fix = p.fix ∧ p'.dropped = p.dropped) ∧
        (ch.predZero = true → ch.bit = false →
          p'.fix = p.fix ++ ((List.range 16).map fun i => 16 * ch.blk + i).filter fun n => decide (n < p.rows)) ∧
        (ch.predZero = false → ch.bit = true → p'.dropped = ch.blk :: p.dropped) ∧ SameMemory s s') ∧
    (∀ p, k.mx.pass = some p → cSkip p.cfg = true → p.pred = none → ∃ s' v, exec (.predictorReply c) s = .next s' ∧
      (coreOf s' c.toNat).mx.pass = some { p with pred := some v } ∧ SameMemory s s' ∧
      (s.memsys.pred = [] → v = 0)) ∧
    (∀ u, k.mx.upd = some u → ∃ s', exec (.predictorUpdate c) s = .next s' ∧ (coreOf s' c.toNat).mx = { k.mx with upd := none } ∧
      SameMemory s s') ∧
    (let so := cDso k.mx.cfg
     ∀ e, k.mx.ends = [e] → e.drains = true → k.mx.drains = [] → k.mx.rows = [] → k.mx.pass = none → e.quiet = false →
      (soOf s so).ty = 0#2 → e.m < 2 ^ 64 →
      ∃ s', exec (.drainComplete c) s = .next s' ∧ (coreOf s' c.toNat).mx.ends = [] ∧ SameMemory s s' ∧
        (soOf s' so).val = (soOf s so).val + BitVec.ofNat 64 e.m ∧
        (thOf s' c.toNat e.t).nflags = (thOf s c.toNat e.t).nflags ||| (e.flags.zeroExtend 20 <<< 8))

/-- R128, R204, R215: a drained row leaves its 128 entries at the identity and touches no byte outside the row it writes; a pass whose
thread has an exception due stops at its boundary; at a change of world banks and accumulators are cleared. -/
def Sys2Proof.Machine.MatrixDrainSuspendClear : Prop :=
  ∀ (c : BitVec 8) (s : State), Memory.wf s = true →
    let k := coreOf s c.toNat
    (∀ d rest, k.mx.drains = d :: rest → k.mx.rows = [] → (∀ e, headEffect k = some e → d.due < e) →
      let m := catchUpTo s c.toNat d.due
      let va := drainAddr k.mx.cfg d.d
      let n := drainBytes k.mx.cfg
      ∃ s', exec (.drainRow c) s = .next s' ∧ (coreOf s' c.toNat).mx.drains.length = rest.length ∧
        (∀ i, i < 128 → entryAt (coreOf s' c.toNat).mx d.e i = opIdent (cOp k.mx.cfg)) ∧
        (∀ i j, i ≠ d.e → j < 128 → entryAt (coreOf s' c.toNat).mx i j = entryAt k.mx i j) ∧
        (∀ pa, va % 2048 + n ≤ 2048 → unitSpad m c.toNat d.t [rWR] va n = some pa →
          (∀ z, z < pa ∨ pa + n ≤ z → readByte s'.mem z = readByte m.mem z) ∧
          (anyPoison m pa n = false → loadBytes s' pa n = (drainValue k.mx d).1))) ∧
    (∀ p, k.mx.pass = some p → p.susp = false → passBoundary s c.toNat k.mx p = true → stopDue s c.toNat p.t = true →
      ∃ s' p', exec (.mpassSuspend c) s = .next s' ∧ (coreOf s' c.toNat).mx.pass = some p' ∧ p'.susp = true ∧
      p'.next = p.next ∧ p'.slot = p.slot ∧ p'.lead = min 0xFF (p.lastSlot - tabGet 0 k.issued p.t) ∧ SameMemory s s' ∧
      thOf s' c.toNat p.t = thOf s c.toNat p.t) ∧
    (k.mx.clearing = true → oldWorkDone k = true → k.mx.rows = [] →
      ∃ s', exec (.matrixWorldClear c) s = .next s' ∧ (coreOf s' c.toNat).mx.clearing = false ∧
        (∃ fin, (coreOf s' c.toNat).mx.lastEnd = some fin ∧ oldWorkEnd k.mx + 64 ≤ fin) ∧
        (coreOf s' c.toNat).mx.bankA = {} ∧ (coreOf s' c.toNat).mx.bankB = {} ∧ (coreOf s' c.toNat).mx.cfg = {} ∧
        (∀ i n, entryAt (coreOf s' c.toNat).mx i n = {}) ∧ k.clk ≤ (coreOf s' c.toNat).clk ∧ SameMemory s s')

/-- R128, R192 to R215: the matrix unit's own events. -/
def Obligations.MatrixUnitEvents : Prop :=
  Sys2Proof.Machine.MatrixEvents ∧ Sys2Proof.Machine.MatrixDrainSuspendClear

namespace Sys2Proof.Machine

/-- R108, R127, R396: a stream instruction of core c's thread t reaches the stream engine. -/
def SeReady (s : State) (c : BitVec 8) (t : Nat) : Prop :=
  (coreOf s c.toNat).ilv = false ∧ vecStorePending (coreOf s c.toNat) t = false ∧ s.steep.forced = false ∧ s.steep.replay = []

/-- An instruction that writes no register of its thread, took n clocks and left memory as before. -/
def PassedBy (s s' : State) (c : BitVec 8) (t n : Nat) : Prop :=
  (∃ st w, thOf s' c.toNat t = { thOf s c.toNat t with
      pc := (thOf s c.toNat t).pc + 4#18, icount := (thOf s c.toNat t).icount + 1, st := st, wait := w }) ∧
    (coreOf s' c.toNat).clk = (coreOf s c.toNat).clk + n ∧ SameMemory s s'

end Sys2Proof.Machine

/-- R134, R221, R236, R238: SPASS latches its program, whose ranges it translates, and joins the stream queue; SARM takes the lowest free arm, with the firings that the
object's value makes due; SDISARM frees the thread's arm of the same program and object, and changes nothing where there is none. -/
def Sys2Proof.Machine.StreamHandOffs : Prop :=
  ∀ (c : BitVec 8) (a b : BitVec 5) (wait : BitVec 7) (ref : Bool) (s : State) (t : Nat), CanIssue s c t 4#18 [.s a, .s b] →
    SeReady s c t →
    let x := thOf s c.toNat t
    let k := coreOf s c.toNat
    let sa := (getS x a).toNat
    let so := (getS x b).toNat % 2 ^ 13
    let touched (armed : Bool) (ds : List SDesc) : State :=
      let r := progRanges s c.toNat t sa armed ds
      unitTouch (unitTouch s c.toNat t [rRD] r.1) c.toNat t [rWR] r.2
    let single (armed : Bool) (ds : List SDesc) : Prop :=
      let r := progRanges s c.toNat t sa armed ds
      progHeld s c.toNat t sa = false ∧ firstMulti (touched armed ds) c.toNat t (r.1 ++ r.2) = none
    (∀ ds, k.se.q.length < 4 → latchProg s c.toNat t x sa false = .ok ds → single false ds →
      ∃ s' e, exec (.spass c a b wait ref 0#8) s = .next (catchUp s' c.toNat) ∧ (coreOf s' c.toNat).se.q = k.se.q ++ [e] ∧ e.t = t ∧
        e.prog = ds ∧ e.wait = wait.toNat ∧ e.ref = ref ∧ e.armed = false ∧ e.handoff = (coreOf (touched false ds) c.toNat).clk + 2 ∧
        e.id = k.se.nextId ∧ (coreOf s' c.toNat).se.nextId = k.se.nextId + 1 ∧
        e.so = (if b = 0#5 then none else some so) ∧ e.seed = seedOf s x ∧ PassedBy (touched false ds) s' c t 2) ∧
    (∀ ds i, (List.range 16).find? (fun i => !(k.se.arms.any fun e => e.1 == i)) = some i → latchProg s c.toNat t x sa true = .ok ds →
      mayWait s x so = true → single true ds →
      ∃ s' arm, exec (.sarm c a b 0#12) s = .next (catchUp s' c.toNat) ∧
        tabFind (coreOf s' c.toNat).se.arms (fun n _ => n == i) = some (i, arm) ∧ arm.t = t ∧ arm.so = so ∧ arm.prog = ds ∧
        arm.k = 0 ∧ arm.due = armDue arm (soOf s so).val ∧ PassedBy (touched true ds) s' c t 2) ∧
    (∃ s', exec (.sdisarm c a b 0#12) s = .next (wake (catchUp s' c.toNat) c.toNat) ∧
      ((∀ e ∈ k.se.arms, ¬ (e.2.t = t ∧ e.2.sa = getS x a ∧ e.2.so = so)) → (coreOf s' c.toNat).se = k.se) ∧
      (∀ i arm, k.se.arms = [(i, arm)] → arm.t = t → arm.sa = getS x a → arm.so = so → (coreOf s' c.toNat).se.arms = []) ∧
      (thOf s' c.toNat t).pc = x.pc + 4#18 ∧ SameMemory s s')

/-- R45, R101, R129, R134, R235, R237, R239: the stream engine's events: a due firing enters the queue, as an SPASS handed off in that
clock under its thread's seed and rounding mode, and the last one frees its arm; the head of the queue starts at its start clock; a pass
reads its groups of 256 in turn; the final write signals the completion object and ORs the flags; a pass whose thread has an exception due
is held at the group boundary with what it has read written. That a pass frees its entry as it starts is the model's choice (assumption
127). -/
def Sys2Proof.Machine.StreamEvents : Prop :=
  ∀ (c : BitVec 8) (s : State), Memory.wf s = true → s.steep.replay = [] →
    let k := coreOf s c.toNat
    (∀ i arm d more, k.se.arms = [(i, arm)] → arm.k < arm.due → k.se.q.length < 4 → arm.prog = d :: more → 1 + i * 65536 + arm.k < 2 ^ 64 →
      ∃ s' e, exec (.armFiring c) s = .next s' ∧ (coreOf s' c.toNat).se.q = k.se.q ++ [e] ∧ e.t = arm.t ∧ e.armed = true ∧
        e.prog = arm.prog.map (firedDesc (thOf s c.toNat arm.t) arm.k) ∧ e.so = (if d.csoen then some d.cso else none) ∧
        e.seed = seedOf s (thOf s c.toNat arm.t) ∧ e.handoff = k.clk ∧ e.id = k.se.nextId ∧
        (coreOf s' c.toNat).se.nextId = k.se.nextId + 1 ∧ SameMemory s s' ∧
        (d.repeats ≤ arm.k + 1 → (coreOf s' c.toNat).se.arms = []) ∧
        (arm.k + 1 < d.repeats → (coreOf s' c.toNat).se.arms = [(i, { arm with k := arm.k + 1 })])) ∧
    (∀ e rest, k.se.run = none → k.se.q = e :: rest → progRowred e.prog = false →
      ∃ s' r, exec (.streamPassStart c) s = .next s' ∧ (coreOf s' c.toNat).se.run = some r ∧ r.ent = e ∧ r.pos = 0 ∧ r.desc = 0 ∧
        r.clk = startClock k.se e ∧ e.handoff < r.clk ∧ (coreOf s' c.toNat).se.q = rest ∧
        (coreOf s' c.toNat).clk = max k.clk r.clk ∧ (coreOf s' c.toNat).ru = k.ru ∧ SameMemory s s') ∧
    (∀ r d, k.se.run = some r → r.susp = false → r.ent.prog[r.desc]? = some d → r.writes = [] → k.se.ending = [] → r.pos + 256 < d.n →
      let m := catchUpTo s c.toNat r.clk
      (runGroup m c.toNat r d).poison = false →
      ∃ s' r', exec (.streamGroup c) s = .next s' ∧ (coreOf s' c.toNat).se.run = some r' ∧ r'.pos = r.pos + 256 ∧ r'.desc = r.desc ∧
        r'.clk = r.clk + (256 + rateOf d - 1) / rateOf d ∧ r'.flags = r.flags ||| engBits (runGroup m c.toNat r d).fl ∧
        r'.writes = (runGroup m c.toNat r d).writes.map (fun w => (r'.clk - 1 + writeDelay d, w)) ∧ SameMemory s s') ∧
    (∀ r d, k.se.run = some r → r.susp = false → r.ent.prog = [d] → r.desc = 0 → r.writes = [] → k.se.ending = [] → d.n ≤ r.pos + 256 →
      (runGroup (catchUpTo s c.toNat r.clk) c.toNat r d).poison = false →
      ∃ s' r', exec (.streamGroup c) s = .next s' ∧ (coreOf s' c.toNat).se.run = none ∧
        (coreOf s' c.toNat).se.ending = [r'] ∧ (coreOf s' c.toNat).se.lastWrite = some r'.clk ∧ SameMemory s s') ∧
    (∀ r n, k.se.ending = [r] → r.writes = [] → r.ent.so = some n → progRowred r.ent.prog = false → k.ru.q = [] → (soOf s n).ty = 0#2 →
      ∃ s', exec (.streamPassComplete c) s = .next s' ∧ (coreOf s' c.toNat).se.ending = [] ∧ (soOf s' n).val = (soOf s n).val + 1#64 ∧
        (thOf s' c.toNat r.ent.t).nflags = (thOf s c.toNat r.ent.t).nflags ||| (r.flags.zeroExtend 20 <<< 12) ∧
        (coreOf s' c.toNat).clk = max k.clk r.clk ∧
        tabFind (coreOf s' c.toNat).se.doneAt (fun i _ => i == r.ent.id) = some (r.ent.id, r.clk) ∧
        SameMemory (catchUpTo s c.toNat (r.clk + 1)) s') ∧
    (∀ r w, k.se.run = some r → r.susp = false → r.writes = [w] → stopDue s c.toNat r.ent.t = true →
      ∃ s' r', exec (.streamSuspend c) s = .next s' ∧ (coreOf s' c.toNat).se.run = some r' ∧ r'.susp = true ∧ r'.writes = [] ∧
        r'.lead = min 0xFF (r.lastRead - tabGet 0 k.issued r.ent.t) ∧
        r'.pos = r.pos ∧ r'.desc = r.desc ∧ thOf s' c.toNat r.ent.t = thOf s c.toNat r.ent.t ∧
        (∀ z, z < w.2.1 ∨ w.2.1 + w.2.2.length ≤ z → readByte s'.mem z = readByte s.mem z) ∧
        ∀ i, i < w.2.2.length → isPoisoned s (w.2.1 + i) = false → readByte s'.mem (w.2.1 + i) = w.2.2.getD i 0#8)

namespace Sys2Proof.Machine

/-- R131, R134: no load and no stream pass is under way in core c, so that time alone changes no memory. -/
def UnitsQuiet (s : State) (c : Nat) : Prop :=
  (coreOf s c).mx.loadSrc = [] ∧ (coreOf s c).se.run = none ∧ (coreOf s c).se.ending = []

end Sys2Proof.Machine

/-- R131, R134: what a core's loader and stream passes do as its clock goes on, which every instruction's end brings about: memory, its
errors and their counts, the matrix unit and the stream engine may change, and nothing else; memory keeps its canonical form; with no
load and no pass under way nothing happens; a write of a pass is made once the core's clock is past its own, and not before. -/
def Sys2Proof.Machine.UnitsGoOn : Prop :=
  ∀ (c : Nat) (s : State), let k := coreOf s c
    (∃ mx se, coreOf (catchUp s c) c = { k with mx := mx, se := se }) ∧ (∀ j, j ≠ c → coreOf (catchUp s c) j = coreOf s j) ∧
    (let s' := catchUp s c
     s' = { s with cores := s'.cores, mem := s'.mem, poison := s'.poison, flaws := s'.flaws, unseen := s'.unseen,
                   memsys := s'.memsys, steep := s'.steep }) ∧
    (UnitsQuiet s c → catchUp s c = s) ∧ (Memory.wf s = true → Memory.wf (catchUp s c) = true) ∧
    (∀ r clk a bs, k.mx.loadSrc = [] → k.se.run = none → k.se.ending = [r] → r.writes = [(clk, a, bs)] →
      (k.clk ≤ clk → catchUp s c = s) ∧
      (clk < k.clk → (∀ z, z < a ∨ a + bs.length ≤ z → readByte (catchUp s c).mem z = readByte s.mem z) ∧
        (∀ i, i < bs.length → isPoisoned s (a + i) = false → readByte (catchUp s c).mem (a + i) = bs.getD i 0#8) ∧
        (coreOf (catchUp s c) c).se.ending = [{ r with writes := [] }]))

/-- R131, R134, R221 to R242: the stream engine's hand-offs and events, and how its writes come about in time. -/
def Obligations.StreamEngineEvents : Prop :=
  Sys2Proof.Machine.StreamHandOffs ∧ Sys2Proof.Machine.StreamEvents ∧ Sys2Proof.Machine.UnitsGoOn

namespace Sys2Proof.Machine

/-- R127, R244, R247: an RU instruction of core c's thread t finds the reduction unit in its world, free and with the kind it hands off
under. -/
def RuReady (s : State) (c : BitVec 8) (t : Nat) : Prop :=
  let k := coreOf s c.toNat
  k.ru.world = worldOf k t ∧ vecStorePending k t = false ∧ k.ru.q = [] ∧ k.ru.busy = false ∧ k.ru.kind = k.ru.hkind

/-- R127: an RU instruction has acted: the thread goes on after 2 clocks; of the unit only accumulator `acc` may differ, which holds v. -/
def RuActed (s s' : State) (c : BitVec 8) (t acc : Nat) (v : Acc) : Prop :=
  tabGet {} (coreOf s' c.toNat).ru.acc acc = v ∧
    (∀ j, j ≠ acc → tabGet {} (coreOf s' c.toNat).ru.acc j = tabGet {} (coreOf s c.toNat).ru.acc j) ∧
    (coreOf s' c.toNat).ru = { (coreOf s c.toNat).ru with acc := (coreOf s' c.toNat).ru.acc } ∧
    (thOf s' c.toNat t).pc = (thOf s c.toNat t).pc + 4#18 ∧ (coreOf s' c.toNat).clk = (coreOf s c.toNat).clk + 2

end Sys2Proof.Machine

/-- R61, R62, R244 to R247: the reduction unit's instructions on a free unit: RUCLR sets an accumulator to canonical zero; RUADDV adds a
register's exact value; RUMRG merges an image; RUSPILL writes one, 136 or 536 bytes by the kind, and nothing else; RUCFG loads the
configuration, clearing the accumulators when KIND changes. -/
def Sys2Proof.Machine.ReductionUnit : Prop :=
  ∀ (c : BitVec 8) (a : BitVec 5) (acc6 : BitVec 6) (fmt : BitVec 4) (s : State) (t : Nat), Memory.wf s = true →
    CanIssue s c t 4#18 [.s a, .v a] → RuReady s c t →
    let x := thOf s c.toNat t
    let k := coreOf s c.toNat
    let n := acc6.toNat
    let old := tabGet {} k.ru.acc n
    let va := (getS x a).toNat
    let size := if k.ru.kind then 536 else 136
    let fits : Prop := n < (if k.ru.kind then 16 else 64)
    let touched (right len : Nat) : State := unitTouch s c.toNat t [right] [(va, len)]
    let ranged (right len : Nat) : Prop := va % 8 = 0 ∧ spadFail (touched right len) c.toNat t [right] va len = none ∧
      firstMulti (touched right len) c.toNat t [(va, len)] = none
    let quiet := UnitsQuiet s c.toNat
    (fits → ∃ s', exec (.ruclr c 0#5 0#5 acc6 0#4 0#3) s = .next s' ∧ RuActed s s' c t n {} ∧ (quiet → SameMemory s s')) ∧
    (fits → ruAddOk k.ru.kind fmt.toNat = true → ∃ s', exec (.ruaddv c 0#5 a acc6 fmt 0#3) s = .next s' ∧
      RuActed s s' c t n (accAdd (ruKind k.ru.kind) old (ruOperand x a fmt)) ∧ (quiet → SameMemory s s')) ∧
    (fits → ranged rRD size → quiet → unitPoison s c.toNat t va size = false →
      ∃ s', exec (.rumrg c 0#5 a acc6 0#4 0#3) s = .next s' ∧
      RuActed (touched rRD size) s' c t n (accMerge old (accOfBits (ruKind k.ru.kind) (leNat (unitRead s c.toNat t va size)))) ∧
      SameMemory s s') ∧
    (fits → ranged rWR size → ∃ s', exec (.ruspill c 0#5 a acc6 0#4 0#3) s = .next s' ∧ RuActed (touched rWR size) s' c t n old ∧
      ∀ pa, va % 2048 + size ≤ 2048 → quiet → unitSpad s c.toNat t [rWR] va size = some pa →
        (∀ z, z < pa ∨ pa + size ≤ z → readByte s'.mem z = readByte s.mem z) ∧
        (anyPoison s pa size = false → loadBytes s' pa size = natLe size (accBits (ruKind k.ru.kind) old))) ∧
    (ranged rRD 16 → let w := rucfgWords (touched rRD 16) c.toNat t va
      ∃ s', exec (.rucfg c 0#5 a 0#6 0#4 0#3) s = .next s' ∧ (coreOf s' c.toNat).ru.kind = w.1.getLsbD 0 ∧
        (coreOf s' c.toNat).ru.hkind = w.1.getLsbD 0 ∧ (coreOf s' c.toNat).ru.ibase.toNat = w.2.toNat % 2 ^ 48 ∧
        (coreOf s' c.toNat).ru.key.toNat = w.2.toNat / 2 ^ 48 % 2 ^ 8 ∧
        (w.1.getLsbD 0 = k.ru.kind → (coreOf s' c.toNat).ru.acc = k.ru.acc) ∧
        (w.1.getLsbD 0 ≠ k.ru.kind → ∀ i, tabGet {} (coreOf s' c.toNat).ru.acc i = {}) ∧ (quiet → SameMemory s s'))

/-- R45, R47, R244, R245: RURD rounds an accumulator once into the register its format names, sign-extended in an S register and in element 0
of a V register, and ORs its flags into NUM_FLAGS[19:16]; RU_CTL_WRITE to another world resets the unit, and to the same world changes
nothing. -/
def Sys2Proof.Machine.ReductionReadOut : Prop :=
  ∀ (c : BitVec 8) (d : BitVec 5) (acc6 : BitVec 6) (fmt : BitVec 4) (rm : BitVec 3) (s : State) (t : Nat),
    CanIssue s c t 4#18 [.s d, .v d] → RuReady s c t →
    let x := thOf s c.toNat t
    let k := coreOf s c.toNat
    let n := acc6.toNat
    let f := (fmtOfCode fmt.toNat).getD .fp64
    let draw := krg (seedOf s x) ((k.ru.ibase.toNat + n) % 2 ^ 48) k.ru.key.toNat
    let out := accReadOut (ruKind k.ru.kind) (tabGet {} k.ru.acc n) f { rm := resolveRm rm.toNat x.rm.toNat, sat := x.sat, draw := draw }
    (n < (if k.ru.kind then 16 else 64) → ruReadOk k.ru.kind fmt.toNat = true → ∃ s', exec (.rurd c d 0#5 acc6 fmt rm) s = .next s' ∧
      (ruScalar fmt = true → Wrote x (thOf s' c.toNat t) d (BitVec.ofInt 64 (sint (fmtBits f) out.1)) ∧
        (thOf s' c.toNat t).v = x.v) ∧
      (ruScalar fmt = false → getV (thOf s' c.toNat t) d = setElem0 (getV x d) (fmtBits f) out.1 ∧ (thOf s' c.toNat t).s = x.s ∧
        ∀ r, r ≠ d → getV (thOf s' c.toNat t) r = getV x r) ∧
      (thOf s' c.toNat t).nflags = x.nflags ||| ((engBits out.2).zeroExtend 20 <<< 16) ∧
      anyBusy (thOf s' c.toNat t) [.s d, .v d] = false ∧ (coreOf s' c.toNat).ru = k.ru ∧
      (UnitsQuiet s c.toNat → SameMemory s s')) ∧
    (∀ v : Word, v.getLsbD 0 = decide (k.ru.world = .T) → exec (.ruCtlWrite c v) s = .next s) ∧
    (∀ v : Word, v.getLsbD 0 ≠ decide (k.ru.world = .T) → ∃ s', exec (.ruCtlWrite c v) s = .next s' ∧
      (coreOf s' c.toNat).ru.world = (if v.getLsbD 0 then .T else .P) ∧ (coreOf s' c.toNat).ru.kind = false ∧
      (coreOf s' c.toNat).ru.ibase = 0#48 ∧ (coreOf s' c.toNat).ru.key = 0#8 ∧
      (∀ i, tabGet {} (coreOf s' c.toNat).ru.acc i = {}) ∧ SameMemory s s')

/-- R244: RU_CTL_WRITE to another world while a ROWRED pass holds the unit: hand-offs are judged by the new world at once, and the unit is
reset after the pass, before every instruction that has not started. -/
def Sys2Proof.Machine.ReductionWorldChange : Prop :=
  ∀ (c : BitVec 8) (v : Word) (s : State),
    let r := (coreOf s c.toNat).ru
    let w : World := if v.getLsbD 0 then .T else .P
    r.busy = true → w ≠ r.world → ∃ s', exec (.ruCtlWrite c v) s = .next s' ∧ (coreOf s' c.toNat).ru.world = w ∧
      (coreOf s' c.toNat).ru.hkind = false ∧ (coreOf s' c.toNat).ru.acc = r.acc ∧ (coreOf s' c.toNat).ru.kind = r.kind ∧
      (∃ rest, (coreOf s' c.toNat).ru.q = { t := 0, op := .ctl w } :: rest ∧ ∀ e ∈ rest, e ∈ r.q) ∧ SameMemory s s'

/-- R243 to R248: the reduction unit. -/
def Obligations.ReductionUnitOperations : Prop :=
  Sys2Proof.Machine.ReductionUnit ∧ Sys2Proof.Machine.ReductionReadOut ∧ Sys2Proof.Machine.ReductionWorldChange

/-- R76, R86, R118, R119, R123: ACCESS_REPLY: a thread whose parts have all come completes: a load of local memory with its bytes, an
atomic with the old value and the new one in memory, a sync-object operation with its result, an unknown MCALL with all ones in S1; a
posted request of another kind leaves the thread as it waits. -/
def Sys2Proof.Machine.AccessReplies : Prop :=
  ∀ (c : BitVec 8) (t : BitVec 3) (atc : Word) (s : State), Memory.wf s = true →
    (∀ o ∈ s.fab.outst, o.sent.2.replay = false) → s.steep.replay = [] →
    let x := thOf s c.toNat t.toNat
    let resumed (s' : State) (d : BitVec 5) (v : Word) (n : BitVec 18) : Prop :=
      Wrote x (thOf s' c.toNat t.toNat) d v ∧ regBusy (thOf s' c.toNat t.toNat) (.s d) = false ∧
        (thOf s' c.toNat t.toNat).st = .ready ∧ (thOf s' c.toNat t.toNat).pc = x.pc + n
    (∀ d size u h n, x.wait = .reply (.load d size u [h] n) → memPart s h = true → isRemote s h.pa = false →
      firstBad s x.sb (.load d size u [h] n) = none → (inboundParts s (some c.toNat) false [h]).isSome = true →
      h.len = size → size = 8 ∨ u = true → ∃ s', exec (.accessReply c t atc) s = .next s' ∧
      resumed s' d (BitVec.ofNat 64 (leNat (readMerged s x.sb (paLocal h.pa) size))) (BitVec.ofNat 18 n) ∧ SameMemory s s') ∧
    (∀ op d b h, x.wait = .reply (.atom op d 8 b h) → memPart s h = true → anyPoison s (paLocal h.pa) 8 = false →
      (inboundParts s (some c.toNat) true [h]).isSome = true →
      let old := leNat (loadBytes s (paLocal h.pa) 8)
      ∃ s', exec (.accessReply c t atc) s = .next s' ∧ resumed s' d (BitVec.ofNat 64 old) 4#18 ∧
        leNat (loadBytes s' (paLocal h.pa) 8) = atomNew op 64 old b.toNat (getS x d).toNat ∧
        ∀ z, z < paLocal h.pa ∨ paLocal h.pa + 8 ≤ z → readByte s'.mem z = readByte s.mem z) ∧
    (∀ d v, x.wait = .reply (.synced d v) → ∃ s', exec (.accessReply c t atc) s = .next s' ∧ resumed s' d v 4#18 ∧ SameMemory s s') ∧
    (∀ n, x.wait = .reply (.mcall n) → n ≠ 0x20#8 → n ≠ 0x21#8 → n ≠ 0x22#8 → n ≠ 0x30#8 →
      ∃ s', exec (.accessReply c t atc) s = .next s' ∧ (thOf s' c.toNat t.toNat).st = .ready ∧
        (thOf s' c.toNat t.toNat).pc = x.pc + 4#18 ∧ Wrote x (thOf s' c.toNat t.toNat) 1#5 (BitVec.allOnes 64) ∧ SameMemory s s') ∧
    (∀ d so, x.wait = .reply (.syncWait d so) → ∃ s', exec (.accessReply c t atc) s = .next s' ∧ thOf s' c.toNat t.toNat = x)

/-- R77 to R79, R107, R108: the turns of a core: a thread that has run 1,024 clocks gives way to another ready thread in one clock; a share
window starts again from zero every 4,096 clocks, and not before; in interleave mode the turn of a thread that cannot run passes in one clock. No thread's registers
change. -/
def Sys2Proof.Machine.ThreadTurns : Prop :=
  ∀ (c : BitVec 8) (s : State),
    let k := coreOf s c.toNat
    (k.ilv = false → isReady k k.cur = true → 1024 ≤ k.ran → (∃ t, t < 8 ∧ t ≠ k.cur ∧ isReady k t = true) → k.cur < 8 →
      k.pShare = 0#8 → k.tShare = 0#8 →
      ∃ s' t, exec (.timesliceSwitch c) s = .next s' ∧ t < 8 ∧ t ≠ k.cur ∧ isReady k t = true ∧ (coreOf s' c.toNat).cur = t ∧
        (coreOf s' c.toNat).ran = 0 ∧ (coreOf s' c.toNat).clk = k.clk + 1 ∧ (coreOf s' c.toNat).th = k.th ∧ SameMemory s s') ∧
    (k.ran < 1024 → exec (.timesliceSwitch c) s = .next s) ∧
    (∃ s', exec (.shareWindow c) s = .next s' ∧ SameMemory s s' ∧
      (k.win = k.clk / 4096 → coreOf s' c.toNat = k) ∧
      (k.win ≠ k.clk / 4096 → coreOf s' c.toNat = { k with win := k.clk / 4096, usedP := 0, usedT := 0 })) ∧
    (k.ilv = true → isReady k k.cur = false → ∃ s', exec (.interleaveTurn c) s = .next s' ∧
      coreOf s' c.toNat = { k with clk := k.clk + 1, cur := (k.cur + 1) % 8, ran := 0 } ∧ SameMemory s s') ∧
    (isReady k k.cur = true → exec (.interleaveTurn c) s = .next s)

/-- R76 to R80, R108: replies to waiting threads, and the turns of threads. -/
def Obligations.RepliesAndTurns : Prop :=
  Sys2Proof.Machine.AccessReplies ∧ Sys2Proof.Machine.ThreadTurns

/-- R96 to R99, R218: INTERRUPT_ENTRY: a thread that is due an interrupt and stands at its boundary with nothing in flight takes the
offered source: code 0x20 with the source's number, offset 0x40, XPC at its next instruction; the source's edge is cleared. A thread whose
matrix or stream pass has read poison takes POISON. A thread that is not due takes none. That poison comes before an interrupt is the
model's reading (assumption 125). -/
def Sys2Proof.Machine.InterruptEntry : Prop :=
  ∀ (c : BitVec 8) (t : BitVec 3) (s : State) (n : Nat) (multi : Bool), s.steep.replay = [] →
    let x := thOf s c.toNat t.toNat
    (x.unitDue ≠ 0 → x.exm = false → x.st ≠ .stopped → atEntryBoundary s c.toNat t.toNat = true → x.wait = .none → x.sb = [] →
      ∃ s', exec (.interruptEntry c t) s = .next s' ∧
      EntersAt (coreOf s c.toNat) t.toNat x (thOf s' c.toNat t.toNat) x.unitDue 0#64 x.pc 0#18 ∧
      (thOf s' c.toNat t.toNat).unitDue = 0 ∧ SameMemory s s') ∧
    (icuDue s c.toNat t.toNat = true → atEntryBoundary s c.toNat t.toNat = true → x.wait = .none → x.sb = [] → x.unitDue = 0 →
      icuOffer s (coreOf s c.toNat) t.toNat = some (n, multi) → ∃ s', exec (.interruptEntry c t) s = .next s' ∧
      EntersAt (coreOf s c.toNat) t.toNat x (thOf s' c.toNat t.toNat) (0x20 + n * 2 ^ 16) 0#64 x.pc 0x40#18 ∧ n < 49 ∧
      (coreOf s' c.toNat).icuPend = (coreOf s c.toNat).icuPend &&& ~~~(1#64 <<< n) ∧
      (multi = false → (coreOf s' c.toNat).icuMulti = (coreOf s c.toNat).icuMulti) ∧ SameMemory s s') ∧
    (x.exm = true → exec (.interruptEntry c t) s = .next s) ∧
    (x.st = .stopped → exec (.interruptEntry c t) s = .next s)

/-- R96, R97, R484: what makes interrupt sources pending and clears them: ICU_SWI sets sources 0 to 7, ICU_PEND clears what it names, each
only where the writer may change the source (the monitor every one); a monitor message sets source 40 + k; a thread's timer is pending once
TIME has reached it; EXT_INT_N low holds source 48 pending. -/
def Sys2Proof.Machine.InterruptSources : Prop :=
  ∀ (c : BitVec 8) (who : Agent) (v now : Word) (k3 t : BitVec 3) (low : Bool) (s : State),
    let k := coreOf s c.toNat
    let may (i : Nat) : Bool := srcMay k (viewerOf s who) i
    (∃ s', exec (.icuSwiWrite c who v) s = .next s' ∧ (∀ i, i < 64 → (coreOf s' c.toNat).icuPend.getLsbD i =
        (k.icuPend.getLsbD i || (v.getLsbD i && decide (i < 8) && may i))) ∧ (coreOf s' c.toNat).th = k.th ∧ SameMemory s s') ∧
    (∃ s', exec (.icuPendClear c who v) s = .next s' ∧ (∀ i, i < 64 → (coreOf s' c.toNat).icuPend.getLsbD i =
        (k.icuPend.getLsbD i && !(v.getLsbD i && may i))) ∧ (coreOf s' c.toNat).th = k.th ∧ SameMemory s s') ∧
    (∀ i, may i = true ↔ (viewerOf s who).mon = true ∨ ((viewerOf s who).lvlS = true ∧
      (viewerOf s who).world = (if (tabGet 0#30 k.icuSrc i).getLsbD 8 then World.T else World.P))) ∧
    (∃ s', exec (.monitorMessage c k3) s = .next s' ∧ (∀ i, i < 64 → (coreOf s' c.toNat).icuPend.getLsbD i =
        (k.icuPend.getLsbD i || i == 40 + k3.toNat)) ∧ SameMemory s s') ∧
    (∃ s', exec (.timerInterrupt c t now) s = .next s' ∧ s' = { s with time := max s.time now.toNat } ∧
      (tabGet 0#64 k.icuTmr t.toNat ≠ 0#64 → (tabGet 0#64 k.icuTmr t.toNat).toNat ≤ s'.time →
        icuPending s' (coreOf s' c.toNat) (32 + t.toNat) = true)) ∧
    (∃ s', exec (.extIntN low) s = .next s' ∧ s' = { s with board := { s.board with ext := { s.board.ext with intN := !low } } } ∧
      (low = true → icuPending s' (coreOf s' c.toNat) 48 = true))

/-- R96 to R101: the interrupt unit. -/
def Obligations.Interrupts : Prop :=
  Sys2Proof.Machine.InterruptEntry ∧ Sys2Proof.Machine.InterruptSources

/-- R87, R107: the monitor's writes to CORE_WORLD and CORE_MODE: they take effect while no thread they concern runs; shares above 256 in
all, and writes by anyone else, change nothing. A thread that the monitor stops is stopped. -/
def Sys2Proof.Machine.MonitorCoreWrites : Prop :=
  ∀ (c : BitVec 8) (t : BitVec 3) (who : Agent) (v : Word) (s : State),
    let k := coreOf s c.toNat
    let ps := v.toNat % 256
    let ts := v.toNat / 256 % 256
    let idle : Prop := ∀ t, t < 8 → (threadOf k t).st = .stopped
    (idle → ps + ts ≤ 256 → ∃ s', exec (.coreWorldWrite c .monitor v) s = .next s' ∧ coreOf s' c.toNat =
      { k with pShare := BitVec.ofNat 8 ps, tShare := BitVec.ofNat 8 ts, imSplit := BitVec.ofNat 5 (v.toNat / 2 ^ 16),
               threadT := BitVec.ofNat 8 (v.toNat / 2 ^ 24) } ∧ SameMemory s s') ∧
    (256 < ps + ts → exec (.coreWorldWrite c who v) s = .next s) ∧
    ((viewerOf s who).mon = false → exec (.coreWorldWrite c who v) s = .next s ∧ exec (.coreModeWrite c who v) s = .next s) ∧
    (idle → ∃ s', exec (.coreModeWrite c .monitor v) s = .next s' ∧ (coreOf s' c.toNat).ilv = v.getLsbD 0 ∧
      (coreOf s' c.toNat).th = k.th ∧ SameMemory s s') ∧
    (¬ idle → v.getLsbD 0 ≠ k.ilv → exec (.coreModeWrite c .monitor v) s = .next s) ∧
    (∃ s', exec (.monitorThreadStop c t) s = .next s' ∧ (thOf s' c.toNat t.toNat).st = .stopped ∧
      (thOf s' c.toNat t.toNat).pc = (thOf s c.toNat t.toNat).pc ∧ (∀ e ∈ (coreOf s' c.toNat).se.arms, e.2.t ≠ t.toNat) ∧
      (k.ru.q = [] → (thOf s' c.toNat t.toNat).s = (thOf s c.toNat t.toNat).s ∧ SameMemory s s'))

/-- R137 to R141: the extension block: with EXT_EN and the core's enable set, an instruction sends its request with its function, operands,
number and world, and waits for the deadline; with either clear it raises ILLOP. The reply that comes in time completes it, and one that
comes past the deadline does not; at the deadline, with exceptions masked, it writes zero and counts; a late reply fills XLATE and XLATEV while VALID is 0 and waits otherwise;
clearing VALID lets the oldest one in. -/
def Obligations.ExtensionBlock : Prop :=
  ∀ (c : BitVec 8) (maj2 : BitVec 2) (d a b : BitVec 5) (xfunc : BitVec 11) (s : State) (t : Nat), s.steep.replay = [] →
    (CanIssue s c t 4#18 [.s d, .s a, .s b] →
      let x := thOf s c.toNat t
      let k := coreOf s c.toNat
      let w := worldOf k t
      (s.boot.devEn.getLsbD 14 = true → extEnabled k w = true → x.xlPort = [] → outstanding k < 64 → s.board.ext.st ≠ .up →
        ∃ s' rq, exec (.extensionInstruction c maj2 d a b xfunc) s = .next (catchUp s' c.toNat) ∧
          s'.board.ext.waiting = s.board.ext.waiting ++ [rq] ∧ s'.board.ext.outst = s.board.ext.outst ++ [rq] ∧
          rq.func = maj2 ++ xfunc ∧ rq.opa = getS x a ∧ rq.opb = getS x b ∧ rq.core = c ∧ rq.thread.toNat = t % 8 ∧ rq.world = w ∧
          rq.seq = x.extSeq ∧ (s.steep.extAgain = [] → rq.replay = false) ∧ (thOf s' c.toNat t).wait = .reply (.ext d x.extSeq (s.time + 1000 * extTmo k w)) ∧
          (thOf s' c.toNat t).st = .waiting ∧ (thOf s' c.toNat t).extSeq = x.extSeq + 1#8 ∧ SameMemory s s') ∧
      (s.boot.devEn.getLsbD 14 = false ∨ extEnabled k w = false → x.exm = false → x.sb = [] →
        ∃ s', exec (.extensionInstruction c maj2 d a b xfunc) s = .next (catchUp s' c.toNat) ∧
          EntersAt k t x (thOf s' c.toNat t) 0x0A 0#64 x.pc 0#18)) ∧
    (∀ (r : BitVec 3) (v now : Word) (seq : BitVec 8) (q : BitVec 5) (dl : Nat),
      let x := thOf s c.toNat r.toNat
      (x.wait = .reply (.ext q seq dl) → s.time ≤ dl → ∃ s', exec (.extReply c r seq v) s = .next s' ∧
        (thOf s' c.toNat r.toNat).st = .ready ∧ Wrote x (thOf s' c.toNat r.toNat) q v ∧
        (thOf s' c.toNat r.toNat).pc = x.pc + 4#18 ∧ SameMemory s s') ∧
      (x.wait = .reply (.ext q seq dl) → x.exm = true → dl < s.time → ∃ s', exec (.extReply c r seq v) s = .next s' ∧
        (thOf s' c.toNat r.toNat).st = .ready ∧ Wrote x (thOf s' c.toNat r.toNat) q 0#64 ∧ SameMemory s s') ∧
      (x.wait = .reply (.ext q seq dl) → x.exm = true → dl ≤ max s.time now.toNat → ∃ s', exec (.extto c r now) s = .next s' ∧
        (thOf s' c.toNat r.toNat).st = .ready ∧ Wrote x (thOf s' c.toNat r.toNat) q 0#64 ∧
        (thOf s' c.toNat r.toNat).extLate = x.extLate ++ [seq] ∧ SameMemory s s') ∧
      (x.wait = .reply (.ext q seq dl) → x.exm = false → x.sb = [] → dl ≤ max s.time now.toNat →
        ∃ s', exec (.extto c r now) s = .next s' ∧
          EntersAt (coreOf s c.toNat) r.toNat x (thOf s' c.toNat r.toNat) 0x07 0#64 x.pc 0#18) ∧
      (seq ∈ x.extLate → x.xlPort = [] → ∃ s', exec (.lateReply c r seq v) s = .next s' ∧
        (x.xlValid = false → (thOf s' c.toNat r.toNat).xlSeq = seq ∧ (thOf s' c.toNat r.toNat).xlateV = v ∧
          (thOf s' c.toNat r.toNat).xlValid = true ∧ (thOf s' c.toNat r.toNat).xlPort = []) ∧
        (x.xlValid = true → (thOf s' c.toNat r.toNat).xlPort = [(seq, v)] ∧ (thOf s' c.toNat r.toNat).xlateV = x.xlateV)) ∧
      (∃ s', exec (.xlateValidClear c r) s = .next s' ∧ (thOf s' c.toNat r.toNat).s = x.s ∧ SameMemory s s' ∧
        (x.xlPort = [] → (thOf s' c.toNat r.toNat).xlValid = false) ∧
        (∀ q v more, x.xlPort = (q, v) :: more → (thOf s' c.toNat r.toNat).xlValid = true ∧ (thOf s' c.toNat r.toNat).xlSeq = q ∧
          (thOf s' c.toNat r.toNat).xlateV = v ∧ (thOf s' c.toNat r.toNat).xlPort = more)))

/-- R10, R370 to R372, R376, R378: stores to a sync object of this device that is no barrier: VAL or TGT takes the value, and a waiting
thread whose condition then holds has ARRIVED on its way; a world's store to a monitor object, or a level-U store to SO_CFG, changes
nothing; a change of TYPE ends a waiting thread with result 3. A waiter whose deadline TIME reaches with its condition unmet has
TIMEOUT. -/
def Obligations.SyncObjectStores : Prop :=
  ∀ (who : Agent) (so : BitVec 13) (v now : Word) (s : State), s.steep.replay = [] →
    let n := so.toNat
    let o := soOf s n
    let told (s' : State) (c t : Nat) (d : BitVec 5) (code : Word) : Prop := thOf s' c t = { thOf s c t with wait := .reply (.synced d code) }
    (soMay s who n = true → o.ty ≠ 2#2 → ∃ s', exec (.soStore who so false v) s = .next s' ∧ (soOf s' n).val = v ∧
      (soOf s' n).tgt = o.tgt ∧ SameMemory s s' ∧
      ∀ w c t d, o.waiters = [w] → w.who = .thread c t → w.gen = none → (thOf s c t).wait = .reply (.syncWait d n) →
        (o.ty = 0#2 → o.tgt.toNat ≤ v.toNat → told s' c t d 0#64 ∧ (soOf s' n).waiters = []) ∧
        (o.ty = 0#2 → v.toNat < o.tgt.toNat → thOf s' c t = thOf s c t ∧ (soOf s' n).waiters = [w])) ∧
    (soMay s who n = true → o.ty ≠ 2#2 → ∃ s', exec (.soStore who so true v) s = .next s' ∧ (soOf s' n).tgt = v ∧
      (soOf s' n).val = o.val ∧ SameMemory s s') ∧
    (∀ c t, who = .thread c t → 8128 ≤ n → ∀ tgt, exec (.soStore who so tgt v) s = .next s ∧ exec (.soCfgStore who so v) s = .next s) ∧
    ((viewerOf s who).lvlS = false → exec (.soCfgStore who so v) s = .next s) ∧
    (∀ w c t d, soMay s who n = true → (viewerOf s who).lvlS = true → o.waiters = [w] → o.early = [] → w.who = .thread c t →
      (thOf s c t).wait = .reply (.syncWait d n) → v.getLsbD 1 = false → (v.truncate 2 : BitVec 2) ≠ o.ty →
      ∃ s', exec (.soCfgStore who so v) s = .next s' ∧ (soOf s' n).ty = v.truncate 2 ∧ (soOf s' n).waiters = [] ∧
        (soOf s' n).parts.toNat = max 1 (v.toNat / 256 % 4096) ∧ told s' c t d 3#64 ∧ SameMemory s s') ∧
    (∀ (idx : BitVec 12) w c t d dl, o.waiters[idx.toNat]? = some w → o.early = [] → w.who = .thread c t → w.isBarrier = false →
      w.deadline = some dl → dl ≤ max s.time now.toNat → waiterDone o w = false → (thOf s c t).wait = .reply (.syncWait d n) →
      ∃ s', exec (.waitsTimeout so idx now) s = .next s' ∧ told s' c t d 1#64 ∧ (∀ q ∈ (soOf s' n).waiters, q.who ≠ w.who) ∧
        (soOf s' n).val = o.val ∧ SameMemory s s')

/-- R383, R385, R386, R388: a reduction group without other members in any dimension: once CSO holds CONTRIB arrivals, the contribution
takes them and starts the operation; when its exchange has ended, the result image is written, DONE grows by one and DSO is signalled with
1. -/
def Obligations.CollectiveOperation : Prop :=
  ∀ (g : BitVec 6) (s : State),
    let x := grpOf s g.toNat
    let o := soOf s (gCso x)
    gValid x = true → gKind x = 1 → 0 < gContrib x → o.ty = 0#2 →
    (∀ d, d < 4 → (gRange x d).1 = phaseCoord s.fab.devnum.toNat d ∧ (gRange x d).2 = phaseCoord s.fab.devnum.toNat d) → x.merged = [] →
    (x.started = x.doneN → gContrib x ≤ o.val.toNat → s.poison = [] → ∃ s', exec (.combineStart g) s = .next s' ∧
      (grpOf s' g.toNat).started = x.started + 1 ∧ (grpOf s' g.toNat).doneN = x.doneN ∧
      (soOf s' (gCso x)).val = o.val - BitVec.ofNat 64 (gContrib x) ∧
      tabGet 0 (grpOf s' g.toNat).phases (x.started % 2) = 4 ∧ SameMemory s s') ∧
    (x.started = x.doneN + 1 → tabGet 0 x.phases (x.doneN % 2) = 4 → (soOf s (gDso x)).ty = 0#2 →
      ∃ s', exec (.collectiveDone g) s = .next s' ∧ (grpOf s' g.toNat).doneN = x.doneN + 1 ∧
      (soOf s' (gDso x)).val = (soOf s (gDso x)).val + 1#64 ∧
      (∀ pa, let va := x.result.toNat + x.doneN % 2 * 1024
        let n := imageBytes (gWide x)
        va % 2048 + n ≤ 2048 → svcPa s (gCtx x) [rWR] va n = some pa → anyPoison s pa n = false → Memory.wf s = true →
        loadBytes s' pa n = natLe n (accBits (ruKind (gWide x)) (accUpTo x x.doneN 4))))

/-- R7 to R10, R49, R97, R394, R453: stores to registers of CSR space: the monitor's store to CX_KRGSEED sets the context's seed, to STEEP_CTL
its fields while STEEP_EN is clear; a thread's level-S store to its own ICU_TMRt sets its timer; a thread's store that is not aligned raises
ALIGNF; one to an address without a register, and a world's store to a register of the monitor's change nothing. -/
def Sys2Proof.Machine.CsrStores : Prop :=
  ∀ (who : Agent) (v : Word) (cx : BitVec 6) (c : BitVec 8) (t : BitVec 3) (s : State),
    let seedAt : Word := BitVec.ofNat 64 (0x01F000040038 + cx.toNat * 0x1000)
    let timerAt : Word := BitVec.ofNat 64 (0x01F001000040 + c.toNat * 0x10000 + t.toNat * 8)
    exec (.csrWrite .monitor seedAt v) s = .next (setCtx s cx.toNat { ctxOf s cx.toNat with seed := v }) ∧
    (s.boot.devEn.getLsbD 10 = false → exec (.csrWrite .monitor 0x01F0000A0000#64 v) s =
      .next { s with steep := { s.steep with ctl := v.truncate 58 } }) ∧
    (s.boot.devEn.getLsbD 10 = true → exec (.csrWrite .monitor 0x01F0000A0000#64 v) s = .next s) ∧
    ((thOf s c.toNat t.toNat).lvl = .S → exec (.csrWrite (.thread c t) timerAt v) s =
      .next (setCore s c.toNat { coreOf s c.toNat with icuTmr := tabSet (coreOf s c.toNat).icuTmr t.toNat v })) ∧
    (∀ addr : Word, addr.toNat % 8 ≠ 0 →
      let x := thOf s c.toNat t.toNat
      exec (.csrWrite .monitor addr v) s = .next s ∧ (x.st = .stopped → exec (.csrWrite (.thread c t) addr v) s = .next s) ∧
      (x.st ≠ .stopped → x.exm = true → ∃ s', exec (.csrWrite (.thread c t) addr v) s = .next s' ∧ SameMemory s s' ∧
        (thOf s' c.toNat t.toNat).xdrop.toNat = min (x.xdrop.toNat + 1) 0xFFFFFFFF) ∧
      (x.st ≠ .stopped → x.exm = false → x.sb = [] → x.wait = .none → ∃ s', exec (.csrWrite (.thread c t) addr v) s = .next s' ∧
        EntersAt (coreOf s c.toNat) t.toNat x (thOf s' c.toNat t.toNat) 0x04 addr x.pc 0#18 ∧ SameMemory s s')) ∧
    (∀ addr : Word, addr.toNat % 8 = 0 → (csrBlock addr.toNat).1 = .none → exec (.csrWrite who addr v) s = .next s) ∧
    (∀ addr : Word, addr.toNat % 8 = 0 → (viewerOf s who).mon = false →
      ((csrBlock addr.toNat).1 = .mem ∨ (csrBlock addr.toNat).1 = .steep ∨ (csrBlock addr.toNat).1 = .strainer ∨
        (csrBlock addr.toNat).1 = .aon ∨ (csrBlock addr.toNat).1 = .board ∨ (csrBlock addr.toNat).1 = .power) →
      exec (.csrWrite who addr v) s = .next s)

/-- R9, R10, R87, R107, R148: register writes by the monitor and by threads. -/
def Obligations.RegisterWrites : Prop :=
  Sys2Proof.Machine.MonitorCoreWrites ∧ Sys2Proof.Machine.CsrStores

/-- R292, R300, R301, R452, R455, R456: CTX_EN and SEG_EN: a write by one who may not, or of the bit as it stands, changes nothing; CTX_EN with
its prerequisite clear keeps the context disabled and reports code 0xF0; a run without a failing check sets the bit and clears the
reason; SEG_EN clears while no thread or stream of the context runs. -/
def Sys2Proof.Machine.ContextEnables : Prop :=
  ∀ (who : Agent) (cx : BitVec 6) (s : State),
    let x := ctxOf s cx.toNat
    let ran (s' : State) (y : Ctx) : Prop := s' = setCtx s cx.toNat y
    (∀ en env c t, who = .thread c t → exec (.ctxEn who cx en env) s = .next s) ∧
    (∀ en env, cxMay s (viewerOf s who) cx.toNat = false → exec (.segEn who cx en env) s = .next s) ∧
    (∀ env, exec (.ctxEn .monitor cx x.ctxEn env) s = .next s ∧ exec (.segEn .monitor cx x.segEn env) s = .next s) ∧
    (x.ctxEn = false → ctxReasons s cx.toNat = [] → s.boot.devEn.getLsbD (worldBit x.world) = true →
      ∃ s', exec (.ctxEn .monitor cx true []) s = .next s' ∧ ctxOf s' cx.toNat = { x with ctxEn := true, strReason := 0#64, strWhere := 0#64 } ∧
        SameMemory s s' ∧ ∀ j, j ≠ cx.toNat → ctxOf s' j = ctxOf s j) ∧
    (x.ctxEn = false → ctxReasons s cx.toNat = [] → s.boot.devEn.getLsbD (worldBit x.world) = false →
      ∃ s', exec (.ctxEn .monitor cx true []) s = .next s' ∧ (ctxOf s' cx.toNat).ctxEn = false ∧
        (ctxOf s' cx.toNat).strReason = 0x40F0#64) ∧
    (x.ctxEn = true → x.segEn = false → ∃ s', exec (.ctxEn .monitor cx false []) s = .next s' ∧ ran s' { x with ctxEn := false }) ∧
    (x.segEn = false → x.ctxEn = true → (∀ n, (segOf x n).en = false) → cxMay s (viewerOf s who) cx.toNat = true →
      ∃ s', exec (.segEn who cx true []) s = .next s' ∧
        ctxOf s' cx.toNat = { x with segEn := true, strReason := 0#64, strWhere := 0#64 }) ∧
    (x.segEn = true → ctxBusy s cx.toNat = false → cxMay s (viewerOf s who) cx.toNat = true →
      ∃ s', exec (.segEn who cx false []) s = .next s' ∧ ran s' { x with segEn := false })

/-- R293, R301: stores to a descriptor's words: with the table disabled every field takes its value; with the table and the descriptor enabled
LEN may only shrink to a multiple of 4 KiB, RIGHTS only lose bits, EN only clear, and PBASE and the capability stay. -/
def Sys2Proof.Machine.DescriptorStores : Prop :=
  ∀ (who : Agent) (cx : BitVec 6) (sg : BitVec 4) (v : Word) (env : List (BitVec 8 × Word)) (s : State),
    let x := ctxOf s cx.toNat
    let g := segOf x sg.toNat
    let store (w : BitVec 3) (y : Seg) : Prop := ∃ s', exec (.segmentDescriptorWrite who cx sg w v env) s = .next s' ∧
      segOf (ctxOf s' cx.toNat) sg.toNat = y ∧ (∀ n, n ≠ sg.toNat → segOf (ctxOf s' cx.toNat) n = segOf x n) ∧ SameMemory s s'
    (cxMay s (viewerOf s who) cx.toNat = false → ∀ w, exec (.segmentDescriptorWrite who cx sg w v env) s = .next s) ∧
    (cxMay s (viewerOf s who) cx.toNat = true → x.segEn = false →
      store 0#3 { g with vbase := v.truncate 48 } ∧ store 1#3 { g with len := v.truncate 48 } ∧ store 2#3 { g with pbase := v } ∧
      store 3#3 { g with rights := v.truncate 16, policy := BitVec.ofNat 2 (v.toNat / 2 ^ 16), cls := BitVec.ofNat 4 (v.toNat / 2 ^ 18),
                         hash := v.getLsbD 22, en := v.getLsbD 24 }) ∧
    (cxMay s (viewerOf s who) cx.toNat = true → x.segEn = true → g.en = true →
      store 0#3 { g with vbase := v.truncate 48 } ∧
      (v.toNat % 2 ^ 48 ≤ g.len.toNat → 0 < v.toNat % 2 ^ 48 → v.toNat % 4096 = 0 → store 1#3 { g with len := v.truncate 48 }) ∧
      (g.len.toNat < v.toNat % 2 ^ 48 → store 1#3 g) ∧ store 2#3 g ∧ store 4#3 g ∧ store 5#3 g ∧ store 6#3 g ∧ store 7#3 g ∧
      store 3#3 { g with rights := g.rights &&& v.truncate 16, en := v.getLsbD 24 })

/-- R292 to R301: enables of contexts and writes of descriptors. -/
def Obligations.ContextTables : Prop :=
  Sys2Proof.Machine.ContextEnables ∧ Sys2Proof.Machine.DescriptorStores

/-- R302, R303, R327: range invalidation: a store to CX_INVAL1 begins one that 274 engines must acknowledge, and waits while four are in
progress; an engine without accesses in flight drops its entries of the range and signals the object; PRESENT changes with an
invalidation of the whole segment. -/
def Obligations.RangeInvalidation : Prop :=
  ∀ (who : Agent) (cx : BitVec 6) (v : Word) (s : State),
    let x := ctxOf s cx.toNat
    let lo := x.inval0.toNat / 4096 * 4096
    let hi := lo + v.toNat % 2 ^ 36 * 4096
    (cxMay s (viewerOf s who) cx.toNat = true → x.invals.length < 4 → x.queued = [] → ∃ s' i,
      exec (.cxInval1Write who cx v) s = .next s' ∧
      (ctxOf s' cx.toNat).invals = x.invals ++ [i] ∧ i.lo = lo ∧ i.hi = hi ∧ i.so.toNat = v.toNat / 2 ^ 36 % 2 ^ 13 ∧
      i.waitFor = List.range 274 ∧ (ctxOf s' cx.toNat).segs = x.segs ∧ SameMemory s s') ∧
    (cxMay s (viewerOf s who) cx.toNat = true → x.invals.length = 4 → ∃ s' i, exec (.cxInval1Write who cx v) s = .next s' ∧
      ctxOf s' cx.toNat = { x with queued := x.queued ++ [i] } ∧ i.lo = lo ∧ i.hi = hi ∧
      i.so.toNat = v.toNat / 2 ^ 36 % 2 ^ 13 ∧ SameMemory s s') ∧
    (cxMay s (viewerOf s who) cx.toNat = false → exec (.cxInval1Write who cx v) s = .next s) ∧
    (∀ (eng : BitVec 9) i, x.invals = [i] → x.queued = [] → eng.toNat ∈ i.waitFor → i.resume = none → i.ackTo = none → soMon i.so.toNat = false →
      (soOf s i.so.toNat).ty = 0#2 → inFlight s eng.toNat cx.toNat i.lo i.hi = false → ∃ s', exec (.invalAck cx eng) s = .next s' ∧
      (soOf s' i.so.toNat).val = (soOf s i.so.toNat).val + 1#64 ∧
      (∀ e ∈ tabGet [] s'.segbuf eng.toNat, e.cx = cx.toNat →
        meets (i.lo, i.hi) (e.seg.vbase.toNat, e.seg.vbase.toNat + e.seg.len.toNat) = false) ∧
      (i.waitFor = [eng.toNat] → (ctxOf s' cx.toNat).invals = []) ∧
      (∀ j, j ∈ i.waitFor → j ≠ eng.toNat → ∃ k, (ctxOf s' cx.toNat).invals = [k] ∧ j ∈ k.waitFor) ∧ SameMemory s s') ∧
    (∀ (eng : BitVec 9) i j rest, x.invals = [i] → x.queued = j :: rest → i.waitFor = [eng.toNat] → i.resume = none → i.ackTo = none →
      soMon i.so.toNat = false → (soOf s i.so.toNat).ty = 0#2 → inFlight s eng.toNat cx.toNat i.lo i.hi = false →
      ∃ s', exec (.invalAck cx eng) s = .next s' ∧ (ctxOf s' cx.toNat).invals = [j] ∧ (ctxOf s' cx.toNat).queued = rest) ∧
    (∀ (eng : BitVec 9) i, x.invals = [i] → eng.toNat ∈ i.waitFor → inFlight (dropEntries s eng.toNat cx.toNat i.lo i.hi) eng.toNat cx.toNat i.lo i.hi = true →
      ∃ s', exec (.invalAck cx eng) s = .next s' ∧ (ctxOf s' cx.toNat).invals = x.invals ∧ s'.so = s.so) ∧
    (∀ (sg : BitVec 4) (present : Bool),
      let g := segOf x sg.toNat
      (x.invals.length < 4 → x.queued = [] → ∃ s' i, exec (.presentChange cx sg present) s = .next s' ∧
        segOf (ctxOf s' cx.toNat) sg.toNat = { g with present := present } ∧
        (ctxOf s' cx.toNat).invals = x.invals ++ [i] ∧ i.lo = g.vbase.toNat ∧ i.hi = g.vbase.toNat + g.len.toNat ∧
        i.resume = some sg.toNat) ∧
      (x.invals.length = 4 → ∃ s' i, exec (.presentChange cx sg present) s = .next s' ∧
        segOf (ctxOf s' cx.toNat) sg.toNat = { g with present := present } ∧ (ctxOf s' cx.toNat).invals = x.invals ∧
        (ctxOf s' cx.toNat).queued = x.queued ++ [i] ∧ i.lo = g.vbase.toNat ∧ i.hi = g.vbase.toNat + g.len.toNat ∧
        i.resume = some sg.toNat)) ∧
    (∀ (sg : BitVec 4) base, (segOf x sg.toNat).en = false → s.board.endpoint = true → s.board.mirror.isSome = true →
      ∃ s', exec (.segmentMirror (.segment cx sg) base) s = .next s' ∧
        s'.board.mirrored = (cx.toNat, sg.toNat, segOf x sg.toNat) :: s.board.mirrored ∧ s'.board.mirrorSeq = s.board.mirrorSeq + 1#64 ∧
        SameMemory s s')


namespace Sys2Proof.Machine

/-- R313, R318: a viewer may start stream n: it commands the stream, which has an owner and neither runs nor is held. -/
def TsReady (s : State) (n : Nat) (v : Viewer) : Prop :=
  tsMay s n v = true ∧ (tsOf s n).ownValid = true ∧ ((tsOf s n).st = .idle ∨ (tsOf s n).st = .done)

/-- A LOCAL address in plain memory: HBM or a scratchpad. -/
def PlainAt (s : State) (la : Nat) : Prop := regionOf s.part la = .hbm ∨ ∃ k, regionOf s.part la = .spad k

end Sys2Proof.Machine

/-- R313, R318, R328, R330: the commands of a transfer stream: TS_START latches the seed and the level and starts at index 0, and a descriptor
at an address that is no multiple of 64 faults at once; STOP takes effect later; RESUME issues again from the prefix; ABORT makes a held
stream idle; where the state or the owner does not allow the command nothing changes. -/
def Sys2Proof.Machine.TransferCommands : Prop :=
  ∀ (who : Agent) (ts : BitVec 14) (v : Word) (zpois : Bool) (s : State),
    let n := ts.toNat
    let x := tsOf s n
    let vw := viewerOf s who
    (TsReady s n vw → ∃ s', exec (.tsStart who ts v) s = .next s' ∧ (tsOf s' n).seed = (ctxOf s x.ownCx.toNat).seed ∧
      (tsOf s' n).lvlS = vw.lvlS ∧ (tsOf s' n).pre = 0 ∧ (tsOf s' n).flags = 0#4 ∧ (tsOf s' n).dva = v.toNat % 2 ^ 48 ∧
      ((tsOf s' n).st = .running ∨ (tsOf s' n).st = .faulted) ∧ SameMemory s s' ∧
      (v.toNat % 64 ≠ 0 → (tsOf s' n).st = .faulted ∧ (tsOf s' n).cause = 0x0A#8 ∧ (tsOf s' n).side = 0#3)) ∧
    (¬ TsReady s n vw → exec (.tsStart who ts v) s = .next s) ∧
    (tsMay s n vw = true → x.st = .running → exec (.tsStop who ts) s = .next (setTs s n { x with stopping := true })) ∧
    (tsMay s n vw = false ∨ x.st ≠ .running → exec (.tsStop who ts) s = .next s) ∧
    (tsMay s n vw = true → x.st = .faulted ∨ x.st = .stopped →
      (∃ s', exec (.tsAbort who ts) s = .next s' ∧ (tsOf s' n).st = .idle ∧ (tsOf s' n).pre = x.pre ∧ SameMemory s s') ∧
      (x.desc.ndim ≠ 0 → x.desc.minc = 0 → x.pre < tsN x.desc → ∃ s', exec (.tsResume who ts zpois) s = .next s' ∧
        tsOf s' n = { x with st := .running, fault := none, stopping := false, zpois := zpois, nxt := x.pre, above := [],
                             inflight := [] } ∧ SameMemory s s')) ∧
    (x.st ≠ .faulted → x.st ≠ .stopped → exec (.tsAbort who ts) s = .next s ∧ exec (.tsResume who ts zpois) s = .next s)

/-- R315, R319, R320, R325, R326, R330: the elements of a transfer stream without a gather list: the next one issues with its source bytes
converted, or faults at a misaligned source; an element at the prefix that is delivered to plain memory writes exactly its bytes and
advances the prefix, the last one finishing the stream; the lowest fault, and a pending STOP with nothing in flight, hold it. Which
stream's turn it is follows the model's reading (assumption 68). -/
def Sys2Proof.Machine.TransferElements : Prop :=
  ∀ (ts : BitVec 14) (s : State), Memory.wf s = true → s.steep.replay = [] →
    let n := ts.toNat
    let x := tsOf s n
    (tsCanIssue x = true → tsMyTurn s n = false ∨ tsTagFree s n = false → exec (.elementIssue ts) s = .next s) ∧
    (tsCanIssue x = true → tsMyTurn s n = true → tsTagFree s n = true → x.desc.gather = false →
      let src := tsSrc x.desc x.nxt 0
      let m := tsSrcBytes x.desc
      (src % m ≠ 0 → ∃ s', exec (.elementIssue ts) s = .next s' ∧
        (tsOf s' n).fault = some { idx := x.nxt, cause := 0x04#8, side := 1#3, absent := none } ∧ (tsOf s' n).nxt = x.nxt ∧
        tabGet 16383 s'.tsTurn (tsGroup n) = n ∧ SameMemory s s') ∧
      (∀ pa g s1, src % m = 0 → tsDst x.desc x.nxt % tsDstBytes x.desc = 0 → tsTrans s n src [rRD] m = (.ok (pa, g), s1) →
        isRemote s pa = false → PlainAt s (paLocal pa) → anyPoison s (paLocal pa) m = false →
        (inboundAt s (paLocal pa) false m).isSome = true →
        let got := tsConvert x x.nxt (loadBytes s (paLocal pa) m)
        ∃ s', exec (.elementIssue ts) s = .next s' ∧ SameMemory s s' ∧ tabGet 16383 s'.tsTurn (tsGroup n) = n ∧
          tsOf s' n = { x with nxt := x.nxt + 1, inflight := x.inflight ++
            [{ idx := x.nxt, data := some got.1, fl := got.2, zero := false, sent := false }] })) ∧
    (∀ (idx : BitVec 48) e bs pa g s1, x.inflight = [e] → e.idx = idx.toNat → e.sent = false → e.data = some bs → x.st = .running →
      x.fault = none → x.pre = idx.toNat → x.above = [] → x.desc.minc = 0 →
      tsTrans s n (tsDst x.desc idx.toNat) [rWR] bs.length = (.ok (pa, g), s1) → isRemote s pa = false → PlainAt s (paLocal pa) →
      steepEn s = false ∨ undoUsed s < undoCap s → (inboundAt s (paLocal pa) true bs.length).isSome = true →
      ∃ s', exec (.elementDelivery ts idx) s = .next s' ∧ (tsOf s' n).pre = x.pre + 1 ∧ (tsOf s' n).inflight = [] ∧
        (tsOf s' n).flags = x.flags ||| e.fl ∧ (x.pre + 1 < tsN x.desc → (tsOf s' n).st = .running) ∧
        (tsN x.desc ≤ x.pre + 1 → x.desc.ndim ≠ 0 → x.marks = 0 → (∀ o ∈ s.fab.outst ++ s.fab.tc0Wait, o.owner ≠ .tsMark n) →
          (tsOf s' n).st = .done) ∧
        (∀ z, z < paLocal pa ∨ paLocal pa + bs.length ≤ z → readByte s'.mem z = readByte s.mem z) ∧
        ∀ i, i < bs.length → isPoisoned s (paLocal pa + i) = false → readByte s'.mem (paLocal pa + i) = bs.getD i 0#8) ∧
    (∀ f, x.fault = some f → x.st = .running → (∀ e ∈ x.inflight, f.idx ≤ e.idx) → tsAsked s (.tsMark n) = false → ∃ s', exec (.streamFault ts) s = .next s' ∧
      (tsOf s' n).st = .faulted ∧ (tsOf s' n).cause = f.cause ∧ (tsOf s' n).side = f.side ∧
      (tsOf s' n).fidx = BitVec.ofNat 48 f.idx ∧ (tsOf s' n).pre = f.idx ∧ SameMemory s s' ∧
      (f.absent.isSome = true → s'.memsys.errlog = (3, n) :: s.memsys.errlog)) ∧
    (tsAsked s (.tsMark n) = true → exec (.streamFault ts) s = .next s ∧ exec (.streamStopped ts) s = .next s) ∧
    (x.st = .running → x.stopping = true → x.inflight = [] → x.fault = none → tsAsked s (.tsMark n) = false →
      exec (.streamStopped ts) s =
        .next (setTs s n { x with st := .stopped, fidx := BitVec.ofNat 48 x.pre, fdim := tsFdim x.desc x.pre, nxt := x.pre,
                                  above := [], stopping := false }))

/-- R313 to R330: transfer streams.
Entries of the error log have the model's form (assumption 93). -/
def Obligations.TransferStreams : Prop :=
  Sys2Proof.Machine.TransferCommands ∧ Sys2Proof.Machine.TransferElements

/-- R258 to R263, R289: the tags of a last-level cache half: an access of one sector in a class from 1 to 9 that misses takes a line, whose
sector is valid and dirty for a whole-sector write and is being filled otherwise; a hit keeps the line and marks a write dirty; a fill
makes the sector valid; MEM_CFG is the monitor's to write while CLASS_EN is clear. An address outside the map stops. Memory is as
before. -/
def Obligations.CacheRequests : Prop :=
  ∀ (cx : BitVec 6) (wr urg : Bool) (la : BitVec 48) (len : BitVec 12) (cls : BitVec 4) (user : MemUser) (f : Finding) (v : Word)
    (s : State),
    let a := la.toNat
    let h := (dramOf s a).stack
    let n := llcIndex s a
    let bit : BitVec 4 := 1#4 <<< (a / 64 % 4)
    let found (s' : State) := tabFind (llcSetOf s' h n).ways fun _ l => l.tag == a / 256
    (∀ elem, regionOf s.part a = .void → exec (.llcRequest cx wr la len cls ⟨user, elem, urg⟩ f) s = .fault (.voidAddress a)) ∧
    (regionOf s.part a = .hbm → 0 < len.toNat → a % 64 + len.toNat ≤ 64 → userCap user < userFlight s user + 1 →
      ∀ elem, exec (.llcRequest cx wr la len cls ⟨user, elem, urg⟩ f) s = .next s) ∧
    (regionOf s.part a = .hbm → 0 < len.toNat → a % 64 + len.toNat ≤ 64 → userFlight s user + 1 ≤ userCap user → 1 ≤ cls.toNat →
      cls.toNat ≤ 9 →
      (found s = none → (∀ e ∈ (llcSetOf s h n).ways, e.2.cls ≠ 0xA) → ∃ s' way l,
        exec (.llcRequest cx wr la len cls ⟨user, false, urg⟩ f) s = .next s' ∧ found s' = some (way, l) ∧
        l.cls = cls.toNat ∧ l.world = (ctxOf s cx.toNat).world ∧ SameMemory s s' ∧
        (wr = true → len = 64#12 → l.valid = bit ∧ l.dirty = bit ∧ l.fill = 0#4) ∧
        (wr = false → l.valid = 0#4 ∧ l.dirty = 0#4 ∧ l.fill = bit)) ∧
      (found s = none → ∃ s', exec (.llcRequest cx wr la len cls ⟨user, true, urg⟩ f) s = .next s' ∧ s'.memsys.llc = s.memsys.llc ∧
        SameMemory s s') ∧
      (∀ way l, found s = some (way, l) → l.valid.getLsbD (a / 64 % 4) = true → f = .clean → ∀ elem, ∃ s' l',
        exec (.llcRequest cx wr la len cls ⟨user, elem, urg⟩ f) s = .next s' ∧ found s' = some (way, l') ∧ l'.cls = cls.toNat ∧
        l'.valid = l.valid ∧ l'.dirty = (if wr then l.dirty ||| bit else l.dirty) ∧ SameMemory s s')) ∧
    (∀ (half : BitVec 3) (sset : BitVec 14) (way : BitVec 4) (sector : BitVec 2) l,
      let at_ (s' : State) := tabFind (llcSetOf s' half.toNat sset.toNat).ways fun i _ => i == way.toNat
      at_ s = some (way.toNat, l) → l.fill.getLsbD sector.toNat = true → ∃ s', exec (.llcFill half sset way sector) s = .next s' ∧
        at_ s' = some (way.toNat, { l with fill := l.fill &&& ~~~(1#4 <<< sector.toNat), valid := l.valid ||| 1#4 <<< sector.toNat }) ∧
        SameMemory s s') ∧
    (∀ who, who ≠ .monitor ∨ s.boot.devEn.getLsbD 11 = true → exec (.memCfgWrite who v) s = .next s) ∧
    (s.boot.devEn.getLsbD 11 = false → ∃ s', exec (.memCfgWrite .monitor v) s = .next s' ∧ s'.memsys.eccmode = v.truncate 2 ∧
      s'.memsys.scrubh.toNat = v.toNat / 4 % 256 ∧ s'.memsys.eccNow = s.memsys.eccNow ∧ SameMemory s s' ∧
      (v.toNat / 65536 % 16 = 0 ∨ 4 ≤ v.toNat / 65536 % 16 ∧ v.toNat / 65536 % 16 ≤ 8 →
        s'.memsys.tways.toNat = v.toNat / 65536 % 16) ∧
      (v.toNat / 65536 % 16 ≠ 0 → v.toNat / 65536 % 16 < 4 ∨ 8 < v.toNat / 65536 % 16 → s'.memsys.tways = s.memsys.tways))

/-- R267, R272, R275, R281: a channel controller with one request in a slot: a good attempt takes it and opens its row, one with a parity
error is counted and repeated; an uncorrectable word that is read is poisoned; a refresh closes its bank's row; after four failed
attempts a retraining either serves the request or puts the pseudo-channel out of service and halts the device. -/
def Sys2Proof.Machine.ChannelController : Prop :=
  ∀ (stack : BitVec 3) (ch : BitVec 5) (pc : Bool) (f : WordErr) (slot : Nat) (r : HbmReq) (s : State),
    let k := chanOf s stack.toNat ch.toNat
    let tries (k : Chan) := tabGet 0 k.tries (b2n pc)
    let after (s' : State) := chanOf s' stack.toNat ch.toNat
    let row (k : Chan) := tabFind k.openRow fun i _ => i == b2n pc * 64 + r.bank
    let a := dramAddr s slot { stack := stack.toNat, ch := ch.toNat, pc := b2n pc, col := r.col / 8, bank := r.bank, row := r.row } + r.col % 8 * 32
    stackSlot s.part stack.toNat = some slot → k.reqs = [r] → r.slot ≠ .none → r.pc = pc →
    (k.outOfService.getLsbD (b2n pc) = false → tries k < 4 →
      (∃ s', exec (.hbmColumnAccess stack ch pc true f) s = .next s' ∧ (after s').reqs = [] ∧
        row (after s') = some (b2n pc * 64 + r.bank, r.row) ∧
        (r.write = false → wordFinding s f = .uncorrectable → isPoisoned s' a = true) ∧
        (r.write = true ∨ wordFinding s f ≠ .uncorrectable → SameMemory s s') ∧
        (r.write = false → s.memsys.eccNow.getLsbD 1 = true →
          (f.symbols.dedup.length = 1 → a / 32 * 32 ∈ s'.memsys.writebacks) ∧
          (f.symbols.dedup.length = 2 ∨ f.symbols.dedup.length = 3 → isPoisoned s' a = true))) ∧
      (s.memsys.eccNow.getLsbD 0 = true → ∃ s', exec (.hbmColumnAccess stack ch pc false f) s = .next s' ∧
        (after s').reqs = [{ r with again := true }] ∧ tries (after s') = tries k + 1 ∧ SameMemory s s')) ∧
    (∃ s', exec (.hbmRefresh stack ch pc (BitVec.ofNat 6 r.bank)) s = .next s' ∧ SameMemory s s' ∧ (after s').reqs = k.reqs ∧
      (r.bank < 64 → row (after s') = none)) ∧
    (tries k < 4 → ∀ ok, exec (.pcRetrain stack ch pc ok) s = .next s) ∧
    (4 ≤ tries k → (∃ s', exec (.pcRetrain stack ch pc true) s = .next s' ∧ (after s').reqs = [] ∧
        s'.steep.halted = s.steep.halted ∧ SameMemory s s') ∧
      ∃ s', exec (.pcRetrain stack ch pc false) s = .next s' ∧ (after s').outOfService.getLsbD (b2n pc) = true ∧
        s.fab.devnum ∈ s'.steep.lost ∧ (s.fab.devnum ∉ s.steep.lost → s'.steep.halted = true) ∧
        (∀ e ∈ s'.fab.links, e.2.st = .down) ∧ SameMemory s s')

/-- R252, R253, R256, R280 to R282: scrubbing and recovery of words: the scrubber goes on by one word, and zeroes an uncorrectable word of free
memory; the patrol poisons what it cannot correct; a rebuilt word that is still poisoned takes its bytes, its poison is cleared, and no
other byte changes; an instruction memory's uncorrectable word makes the device roll back. -/
def Sys2Proof.Machine.ScrubAndRebuild : Prop :=
  ∀ (s : State), Memory.wf s = true →
    (∀ (stack : BitVec 3) (ch : BitVec 5) (pc : Bool) slot, stackSlot s.part stack.toNat = some slot →
      let at_ (s' : State) := if pc then (chanOf s' stack.toNat ch.toNat).scrub1 else (chanOf s' stack.toNat ch.toNat).scrub0
      let n := at_ s
      let a := dramAddr s slot { stack := stack.toNat, ch := ch.toNat, pc := b2n pc, col := n / 8 % 4, bank := n / 32 % 64, row := n / 2048 } + n % 8 * 32
      let k := chanOf s stack.toNat ch.toNat
      let awake := s.power.domOn.getLsbD (if stack.toNat < 4 then 15 else 16)
      let general := (k.reqs.filter fun q => q.slot == .general).length
      (∀ e, awake = false ∨ 248 ≤ general → exec (.hbmScrubRead stack ch pc e) s = .next s) ∧
      (∀ e, awake = true → general < 32 →
        (wordFinding s e ≠ .uncorrectable → ∃ s', exec (.hbmScrubRead stack ch pc e) s = .next s' ∧ at_ s' = (n + 1) % 2 ^ 25 ∧
          SameMemory s s') ∧
        (wordFinding s e = .uncorrectable → rebuildable s a = false → isFree s a = true → regionOf s.part a = .hbm → a % 32 = 0 →
          ∃ s', exec (.hbmScrubRead stack ch pc e) s = .next s' ∧ isPoisoned s' a = false ∧
            (∀ i, i < 32 → readByte s'.mem (a + i) = 0#8) ∧
            ∀ z, z < a ∨ a + 32 ≤ z → readByte s'.mem z = readByte s.mem z) ∧
        (wordFinding s e = .uncorrectable → rebuildable s a = true ∨ isFree s a = false → ∃ s',
          exec (.hbmScrubRead stack ch pc e) s = .next s' ∧ isPoisoned s' a = true ∧ s'.mem = s.mem))) ∧
    (∀ (c : BitVec 8) (g : BitVec 16) (f : Finding), let here := tabGet 0 s.memsys.patrol c.toNat
      (here ≠ g.toNat → exec (.scratchpadPatrol c g f) s = .next s) ∧
      (here = g.toNat → ∃ s', exec (.scratchpadPatrol c g f) s = .next s' ∧ s'.mem = s.mem ∧
        tabGet 0 s'.memsys.patrol c.toNat = (g.toNat + 1) % 65536 ∧
        (f = .uncorrectable → ∃ i, i < 8 ∧ isPoisoned s' (spadBase c.toNat + g.toNat * 64 + i * 8) = true) ∧
        (f ≠ .uncorrectable → s'.poison = s.poison) ∧
        ∀ x ∈ s'.flaws ++ s'.unseen, x < spadBase c.toNat + g.toNat * 64 ∨ spadBase c.toNat + g.toNat * 64 + 64 ≤ x)) ∧
    (∀ c : BitVec 8, ∃ s', exec (.imemUncorrectable c) s = .next s' ∧ s'.steep.rollback = true ∧
      s'.memsys.errlog = (7, c.toNat) :: s.memsys.errlog ∧ s'.cores = s.cores ∧ (s.steep.code = [] → SameMemory s s') ∧
      (s.steep.code ≠ [] → memWf s.steep.code = true →
        (∀ z, imemBase c.toNat ≤ z → z < imemBase c.toNat + 0x40000 → readByte s'.mem z = readByte s.steep.code z ∧ z ∉ s'.poison) ∧
        ∀ z, z < imemBase c.toNat ∨ imemBase c.toNat + 0x40000 ≤ z → readByte s'.mem z = readByte s.mem z)) ∧
    (∀ (la : BitVec 48) (bytes : List Byte), let a := poisonBase s.part la.toNat
      regionOf s.part la.toNat = .hbm → bytes.length = 32 →
      (isPoisoned s a = false ∨ rebuildable s a = false → exec (.wordRebuild la bytes) s = .next s) ∧
      (isPoisoned s a = true → rebuildable s a = true → (∀ e ∈ s.cores, e.2.ru.q = []) → ∃ s',
        exec (.wordRebuild la bytes) s = .next s' ∧ isPoisoned s' a = false ∧
        (∀ i, i < 32 → readByte s'.mem (a + i) = bytes.getD i 0#8) ∧
        ∀ z, z < a ∨ a + 32 ≤ z → readByte s'.mem z = readByte s.mem z)) ∧
    (∀ la : BitVec 48, (regionOf s.part la.toNat = .void → exec (.correctedWriteback la) s = .fault (.voidAddress la.toNat)) ∧
      (regionOf s.part la.toNat ≠ .void → ∃ s', exec (.correctedWriteback la) s = .next s' ∧ SameMemory s s' ∧
        s'.memsys.writebacks = s.memsys.writebacks.erase (la.toNat / 32 * 32)))

/-- R283 to R286: lanes, temperatures and repair of a stack: a lane that may be retrained takes its measured eye width and no lane twice; a
temperature that has moved more than 10 °C from its value at the last training makes every lane of the stack due again; the maintenance
reads answer and change nothing else; a scheduled row joins the list. -/
def Sys2Proof.Machine.LanesAndRepair : Prop :=
  ∀ (stack : BitVec 3) (ch : BitVec 5) (lane eye : BitVec 7) (busy75 : Bool) (temp : BitVec 8) (row : BitVec 32) (s : State),
    let k := chanOf s stack.toNat ch.toNat
    let due : Prop := tempMoved s stack.toNat = true ∨ (busy75 = true ∧ jobYoung s = true)
    let ready : Prop := lane.toNat < 64 ∧ lane.toNat ∉ k.retrained ∧ k.redundant < Config.redundantLanes ∧ due
    let answers (i : Instr) (l : List Nat) : Prop := exec i s = .next { s with board := { s.board with maintRsp := l } }
    (ready → ∃ s', exec (.laneRetrain stack ch lane busy75 eye) s = .next s' ∧ SameMemory s s' ∧
      tabGet 0 (chanOf s' stack.toNat ch.toNat).eyes lane.toNat = eye.toNat ∧
      (chanOf s' stack.toNat ch.toNat).retrained = lane.toNat :: k.retrained ∧ (∀ x ∈ s'.memsys.slow, x ∈ s.memsys.slow)) ∧
    (¬ ready → exec (.laneRetrain stack ch lane busy75 eye) s = .next s) ∧
    (∃ s', exec (.stackTempRead stack temp) s = .next s' ∧ tabGet 0 s'.memsys.temps stack.toNat = temp.toInt ∧ SameMemory s s' ∧
      (tempMoved s stack.toNat = false → 10 < (temp.toInt - tabGet 0 s.memsys.trainTemps stack.toNat).natAbs →
        (chanOf s' stack.toNat ch.toNat).retrained = []) ∧
      ((temp.toInt - tabGet 0 s.memsys.trainTemps stack.toNat).natAbs ≤ 10 → s'.memsys.chans = s.memsys.chans)) ∧
    answers .readRepairList (repairList s) ∧ answers .readLaneMap (laneMap s) ∧ answers .readTemperatures (stackTemps s) ∧
    (∃ s', exec (.scheduleRepair stack row) s = .next s' ∧ (stack.toNat, row.toNat) ∈ s'.memsys.repair ∧ SameMemory s s' ∧
      ∀ e ∈ s.memsys.repair, e ∈ s'.memsys.repair)

/-- R267 to R288: channel controllers, scrubbing, lanes and repair.
Entries of the error log have the model's form (assumption 93). -/
def Obligations.HbmAndRepair : Prop :=
  Sys2Proof.Machine.ChannelController ∧ Sys2Proof.Machine.ScrubAndRebuild ∧ Sys2Proof.Machine.LanesAndRepair

namespace Sys2Proof.Machine

/-- R343, R345: the packets that come in on a link, with their operation codes. -/
def InboundForm (l : BitVec 3) (p : Packet) (op : Nat) (i : Instr) : Prop :=
  (op, i) ∈ [(0x01, Instr.rd l p), (0x02, .rdr l p), (0x03, .wr l p), (0x04, .wrr l p), (0x05, .atom l p), (0x06, .atomr l p), (0x07, .sync l p),
   (0x08, .syncr l p), (0x09, .comb l p), (0x0A, .combr l p), (0x0B, .svc l p), (0x0C, .svcr l p), (0x0D, .tsync l p)]

/-- R366: the level and the class of a packet are allowed on this device's links. -/
def HeaderAllowed (s : State) (op : Nat) (p : Packet) : Prop :=
  (p.level = s.fab.lvlN ∨ p.level + 1#4 = s.fab.lvlN) ∧ opInClass op p.tc p.data.length = true

/-- R343, R345, R366: a packet comes in on link l that this device takes. -/
def TakenHere (s : State) (l : BitVec 3) (op : Nat) (p : Packet) : Prop :=
  dataFits op p = true ∧ linkUp s l.toNat = true ∧ p.hops ≠ 63#6 ∧ HeaderAllowed s op p ∧ p.dest = s.fab.devnum

/-- R339, R348: of the packets on the links, this one is new: its group has left a link, or it waits at the end of a link's queue. -/
def SentOn (s s' : State) (op : Nat) (q : Packet) : Prop :=
  ∃ n, (linkOf s' n).waiting = (linkOf s n).waiting ++ [(op, q)] ∨
    (linkOf s' n).unacked = (linkOf s n).unacked ++ [((linkOf s n).txSeq, (op, q))]

/-- R344: the response to a request, with a status, an operand and data bytes, is on its way to its source. -/
def Answered (s s' : State) (op : Nat) (p : Packet) (st : BitVec 16) (v : Word) (data : List Byte) : Prop :=
  ∃ q, SentOn s s' (op + 1) q ∧ q.dest = p.src ∧ q.src = s.fab.devnum ∧ q.agent = p.agent ∧ q.seq = p.seq ∧ q.tc = p.tc ∧
    q.world = p.world ∧ q.fn = st ∧ q.operand = v ∧ q.data = data

/-- R308, R360, R401, R408: a request that has not been applied yet passes its checks and need not wait. -/
def Performs (s : State) (op : Nat) (p : Packet) : Prop :=
  dedupOf s p = none ∧ stillWaits s p = false ∧ s.steep.rollback = false ∧ deviceHalted s = false ∧ s.steep.replay = [] ∧
    s.fab.held = [] ∧ capCheck s p.cap p.world (reqNeed s op p) p.lvlS p.addr.toNat (reqBytes op p) = 0 ∧ reqRegion s op p = true ∧
    reqAligned s op p = true ∧ dedupFull s p = false

end Sys2Proof.Machine

/-- R343, R344, R348, R366: what happens to a packet of any operation on its arrival: on a link that is not UP nothing comes in; one that has
passed 63 routers is discarded and reported; one of a level or class that is not allowed is discarded and its sender reported; one for
another device goes on with HOPS increased and its contents as they were. NOP does nothing. -/
def Sys2Proof.Machine.PacketArrival : Prop :=
  ∀ (l : BitVec 3) (p : Packet) (s : State), exec (.nop l) s = .next s ∧ ∀ op i, InboundForm l p op i → dataFits op p = true →
    (linkUp s l.toNat = false → exec i s = .next s) ∧
    (linkUp s l.toNat = true → p.hops = 63#6 → ∃ s', exec i s = .next s' ∧ s' = { s with memsys := s'.memsys } ∧
      s'.memsys.errlog = (12, p.src.toNat) :: s.memsys.errlog) ∧
    (linkUp s l.toNat = true → p.hops ≠ 63#6 → ¬ HeaderAllowed s op p → ∃ s', exec i s = .next s' ∧ p.src ∈ s'.fab.suspects ∧
      s'.fab.links = s.fab.links ∧ s'.cores = s.cores ∧ s'.so = s.so ∧ SameMemory s s') ∧
    (linkUp s l.toNat = true → p.hops ≠ 63#6 → HeaderAllowed s op p → p.dest ≠ s.fab.devnum → ∃ s' q, exec i s = .next s' ∧
      SentOn s s' op q ∧ q.hops = p.hops + 1#6 ∧ q.dest = p.dest ∧ q.src = p.src ∧ q.tc = p.tc ∧ q.world = p.world ∧ q.addr = p.addr ∧
      q.fn = p.fn ∧ q.operand = p.operand ∧ q.cap = p.cap ∧ q.data = p.data ∧ s'.fab.dedup = s.fab.dedup ∧ s'.cores = s.cores ∧
      s'.so = s.so ∧ SameMemory s s')

/-- R250: inbound traffic for a scratchpad whose ports the running stream pass takes: the core's buffer of 4 KiB each way fills, and a
request that finds no room there waits; when the pass has ended the buffer is empty. How traffic is held against a pass is the model's
(assumption 133). -/
def Sys2Proof.Machine.InboundBuffer : Prop :=
  ∀ (l : BitVec 3) (p : Packet) (c : Nat) (s : State), regionOf s.part p.addr.toNat = .spad c →
    let k := coreOf s c
    (portsTaken k true = false → inboundAt s p.addr.toNat true p.data.length = some s) ∧
    (portsTaken k false = false → inboundAt s p.addr.toNat false p.bytes.toNat = some s) ∧
    (TakenHere s l opWr p → Performs s opWr p → portsTaken k true = true →
      (k.inWr + p.data.length ≤ 4096 → ∃ s', exec (.wr l p) s = .next s' ∧ (coreOf s' c).inWr = k.inWr + p.data.length) ∧
      (4096 < k.inWr + p.data.length → ∃ s', exec (.wr l p) s = .next s' ∧ SameMemory s s' ∧ s'.cores = s.cores ∧
        s'.fab.held = [(l.toNat, (opWr, p))] ∧ dedupOf s' p = none)) ∧
    (TakenHere s l opRd p → Performs s opRd p → portsTaken k false = true → p.replay = false →
      steepEn s = false ∨ msgUsed s < msgCap s →
      (4096 < k.inRd + p.bytes.toNat → ∃ s', exec (.rd l p) s = .next s' ∧ SameMemory s s' ∧ s'.cores = s.cores ∧
        s'.fab.held = [(l.toNat, (opRd, p))]))

/-- R308, R309, R345, R360, R373: the requests of other devices: RD of plain memory answers its bytes, WR writes them and nothing else, ATOM
of 8 bytes answers the old value and leaves the new one, SIGNAL changes the object; a request whose capability fails is answered CAPF
and changes no memory; a repeat of one that was applied is answered from its entry. -/
def Sys2Proof.Machine.ServedRequests : Prop :=
  ∀ (l : BitVec 3) (p : Packet) (s : State), Memory.wf s = true →
    let a := p.addr.toNat
    let n := p.bytes.toNat
    let room : Prop := steepEn s = false ∨ undoUsed s < undoCap s
    let port (wr : Bool) (n : Nat) : Prop := (inboundAt s a wr n).isSome = true
    (TakenHere s l opRd p → Performs s opRd p → PlainAt s a → port false n → anyPoison s a n = false → p.replay = false →
      steepEn s = false ∨ msgUsed s < msgCap s → ∃ s', exec (.rd l p) s = .next s' ∧ SameMemory s s' ∧
      (∀ c t, thOf s' c t = thOf s c t) ∧
      Answered s s' opRd p 0#16 0#64 (loadBytes s a n)) ∧
    (TakenHere s l opWr p → Performs s opWr p → PlainAt s a → port true p.data.length → room → ∃ s', exec (.wr l p) s = .next s' ∧
      Answered s s' opWr p 0#16 0#64 [] ∧ (∀ z, z < a ∨ a + p.data.length ≤ z → readByte s'.mem z = readByte s.mem z) ∧
      (∀ i, i < p.data.length → isPoisoned s (a + i) = false → readByte s'.mem (a + i) = p.data.getD i 0#8) ∧
      (dedupOf s' p).isSome = true) ∧
    (TakenHere s l opAtom p → Performs s opAtom p → PlainAt s a → port true 8 → room → p.fn.toNat / 16 % 4 = 3 → anyPoison s a 8 = false →
      let old := leNat (loadBytes s a 8)
      ∃ s', exec (.atom l p) s = .next s' ∧ Answered s s' opAtom p 0#16 (BitVec.ofNat 64 old) [] ∧
        leNat (loadBytes s' a 8) =
          atomNew (atomOfFn (p.fn.toNat % 16)) 64 old p.operand.toNat (leNat p.data % 2 ^ 64) ∧
        (∀ z, z < a ∨ a + 8 ≤ z → readByte s'.mem z = readByte s.mem z) ∧ (dedupOf s' p).isSome = true) ∧
    (∀ k, TakenHere s l opSync p → Performs s opSync p → regionOf s.part a = .so k → p.fn = 0#16 → (soOf s k).ty ≠ 2#2 →
      (soOf s k).waiters = [] → ∃ s', exec (.sync l p) s = .next s' ∧ Answered s s' opSync p 0#16 0#64 [] ∧ SameMemory s s' ∧
      (soOf s' k).val = signalled (soOf s k).ty (soOf s k).val p.operand ∧ (dedupOf s' p).isSome = true) ∧
    (∀ e ∈ [(opRd, Instr.rd l p), (opWr, .wr l p), (opAtom, .atom l p), (opSync, .sync l p)], TakenHere s l e.1 p →
      s.steep.rollback = false → deviceHalted s = false → s.steep.replay = [] → s.fab.held = [] → stillWaits s p = false →
      steepEn s = false ∨ msgUsed s < msgCap s → (∀ q ∈ s.fab.dedup, ¬ (q.src = p.src.toNat ∧ q.agent = p.agent.toNat ∧ q.seq = p.seq.toNat)) →
      capCheck s p.cap p.world (reqNeed s e.1 p) p.lvlS a (reqBytes e.1 p) ≠ 0 → ∃ s', exec e.2 s = .next s' ∧
      Answered s s' e.1 p 1#16 0#64 [] ∧ SameMemory s s' ∧ s'.so = s.so ∧ s'.cores = s.cores) ∧
    (∀ e ∈ [(opWr, Instr.wr l p), (opAtom, .atom l p), (opSync, .sync l p)], TakenHere s l e.1 p → s.fab.held = [] →
      seqBelow p.seq.toNat p.lwm.toNat = false → ∀ q, dedupOf s p = some q → ∃ s', exec e.2 s = .next s' ∧
      Answered s s' e.1 p q.status q.operand [] ∧ SameMemory s s' ∧ s'.so = s.so ∧ s'.cores = s.cores)

/-- R250, R308, R309, R345, R360, R373: requests of other devices, and the buffer that holds inbound traffic. -/
def Obligations.FabricRequests : Prop :=
  Sys2Proof.Machine.ServedRequests ∧ Sys2Proof.Machine.InboundBuffer

/-- R360 to R362: a write, atomic or sync-object request to plain memory or a sync object that comes a second time, while its low-water mark
lies not above it, acts once: whatever became of it the first time, the second time no byte of memory and no sync object changes, and no core but for what
its inbound buffer holds. -/
def Obligations.RepeatedRequestsActOnce : Prop :=
  ∀ (l : BitVec 3) (p : Packet) (s s1 s2 : State), ∀ i ∈ [Instr.wr l p, .atom l p, .sync l p],
    s.steep.replay = [] → s.fab.held = [] → seqBelow p.seq.toNat p.lwm.toNat = false →
    (PlainAt s p.addr.toNat ∨ ∃ k, regionOf s.part p.addr.toNat = .so k) → exec i s = .next s1 → exec i s1 = .next s2 →
    s2.mem = s1.mem ∧ s2.poison = s1.poison ∧ s2.so = s1.so ∧
      ∀ c, coreOf s2 c = { coreOf s1 c with inRd := (coreOf s2 c).inRd, inWr := (coreOf s2 c).inWr }

/-- R346, R359, R361, R362, R387: responses and messages for this device: a response that nothing waits for is discarded; BUSY is noted, and
the request sent again; a good response outside TC0 gives its data to the part of the thread's access it belongs to; a partial from no
member of its group is reported, and one from a member merges once; monitor messages are kept. -/
def Sys2Proof.Machine.FabricResponses : Prop :=
  ∀ (l : BitVec 3) (p : Packet) (s : State),
    let out := findOutst s p.agent.toNat p.seq.toNat
    let bytes (op : Nat) : List Byte := if op = opRdr then p.data else if op = opWrr then [] else natLe 8 p.operand.toNat
    (∀ e ∈ [(opRdr, Instr.rdr l p), (opWrr, .wrr l p), (opAtomr, .atomr l p), (opSyncr, .syncr l p)], TakenHere s l e.1 p →
      (out = none → exec e.2 s = .next s) ∧
      (∀ o, out = some o → o.sent.1 + 1 = e.1 → p.fn = 4#16 → ∃ s', exec e.2 s = .next s' ∧ SameMemory s s' ∧ s'.cores = s.cores ∧
        findOutst s' p.agent.toNat p.seq.toNat = some { o with busy := true }) ∧
      (∀ o c t i r, out = some o → o.sent.1 + 1 = e.1 → p.fn = 0#16 → p.tc ≠ 0#2 → o.owner = .thread c t i → i < 65536 →
        (thOf s c t).wait = .reply r → (∀ h ∈ waitParts r, h.err = 0) → ∃ s', exec e.2 s = .next s' ∧ SameMemory s s' ∧
        thOf s' c t = { thOf s c t with wait := .reply (modReq (fun h => { h with data := some (bytes e.1) }) i r) })) ∧
    (∀ e ∈ [(opComb, Instr.comb l p), (opCombr, .combr l p)], TakenHere s l e.1 p →
      let x := grpOf s (combGroup p)
      let k := p.operand.toNat % 2 ^ 48
      let r : CombRec := { op := k, sender := p.src.toNat, phase := combPhase p, dir := combPlus p, part := p.fn.toNat / 512 % 4,
                           parts := p.fn.toNat / 2048 % 4 + 1 }
      (combOk s p = false → ∃ s', exec e.2 s = .next s' ∧ s'.fab.suspects = p.src :: s.fab.suspects ∧ s'.groups = s.groups ∧
        SameMemory s s') ∧
      (combOk s p = true → k < x.doneN ∨ r ∈ x.merged → exec e.2 s = .next s) ∧
      (combOk s p = true → x.doneN ≤ k → r ∉ x.merged → ∃ s', exec e.2 s = .next s' ∧
        (grpOf s' (combGroup p)).merged = x.merged ++ [r] ∧ SameMemory s s' ∧
        (e.1 = opComb → tabGet {} (grpOf s' (combGroup p)).acc (k % 2 * 4 + combPhase p) =
          accMerge (tabGet {} x.acc (k % 2 * 4 + combPhase p)) (if p.data.isEmpty then {} else unpackLimbs (gWide x) p.data)))) ∧
    (TakenHere s l opSvc p → p.data ≠ [0x03#8] → ∃ s', exec (.svc l p) s = .next s' ∧ s'.fab.svc = s.fab.svc ++ [(p.src, p.data)] ∧
      s'.cores = s.cores ∧ SameMemory s s') ∧
    (TakenHere s l opSvcr p → exec (.svcr l p) s = .next { s with fab := { s.fab with svc := s.fab.svc ++ [(p.src, p.data)] } }) ∧
    (TakenHere s l opTsync p → ∃ s', exec (.tsync l p) s = .next s' ∧ s' = { s with fab := { s.fab with corr := s'.fab.corr } } ∧
      (s.fab.role = 1#2 → l = 3#3 → -10000 ≤ s'.fab.corr.toInt ∧ s'.fab.corr.toInt ≤ 10000) ∧
      (s.fab.role ≠ 1#2 ∨ l ≠ 3#3 → s' = s)) ∧
    (∀ (agent : BitVec 10) (seq : BitVec 22) o, findOutst s agent.toNat seq.toNat = some o →
      (o.busy = false → exec (.busyResend agent seq) s = .next s) ∧
      (o.busy = true → o.sent.1 ≠ opSync → ∃ s' q, exec (.busyResend agent seq) s = .next s' ∧ SentOn s s' o.sent.1 q ∧
        q.seq = o.sent.2.seq ∧ q.agent = o.sent.2.agent ∧ q.data = o.sent.2.data ∧ q.operand = o.sent.2.operand ∧
        findOutst s' agent.toNat seq.toNat = some { o with busy := false } ∧ s'.cores = s.cores ∧ SameMemory s s'))

namespace Sys2Proof.Machine

/-- R304: the object numbered `obj` exists and may lie at `base`. -/
def MayMove (s : State) (obj : BitVec 32) (base : BitVec 48) : Prop :=
  let o := tabGet {} s.objs (obj.toNat % 65536)
  o.valid = true ∧ o.objHi.toNat = obj.toNat / 65536 ∧ base.toNat + o.len ≤ 2 ^ 48

/-- R304: mirrored objects: the monitor moves an object with its bytes, whose entry then names the new base, and sends every mapper of it
its new base and capability; a mapper registers with the owner, and rewrites its segment and invalidates it when the object has
moved. The form of the messages is the model's (assumption 58). -/
def MirroredObjects : Prop :=
  ∀ (obj : BitVec 32) (base : BitVec 48) (l : BitVec 3) (p : Packet) (cx sg : Byte) (bytes : List Byte) (s : State),
    Memory.wf s = true →
    let o := tabGet {} s.objs (obj.toNat % 65536)
    (MayMove s obj base → s.poison = [] → s.fab.mappers = [] → ∃ s', exec (.segmentMirror (.object obj) base) s = .next s' ∧
      tabGet {} s'.objs (obj.toNat % 65536) = { o with base := base.toNat } ∧
      (∀ i, i < o.len → readByte s'.mem (base.toNat + i) = readByte s.mem (o.base + i)) ∧
      ∀ z, z < base.toNat ∨ base.toNat + o.len ≤ z → readByte s'.mem z = readByte s.mem z) ∧
    (∀ m, MayMove s obj base → s.fab.mappers = [m] → capObj m.cap = obj.toNat → ∃ s' q,
      exec (.segmentMirror (.object obj) base) s = .next s' ∧ SentOn s s' opSvc q ∧ q.dest.toNat = m.dev % 2 ^ 14 ∧
      q.data.take 3 = [mirrorMoved, BitVec.ofNat 8 m.cx, BitVec.ofNat 8 m.sg] ∧ q.data.length = 43) ∧
    (¬ MayMove s obj base → exec (.segmentMirror (.object obj) base) s = .next s) ∧
    (TakenHere s l opSvc p → p.data = mirrorRegister :: cx :: sg :: bytes → bytes.length = 64 → ∃ s' m,
      exec (.svc l p) s = .next s' ∧ m ∈ s'.fab.mappers ∧ m.dev = p.src.toNat ∧ m.cx = cx.toNat ∧ m.sg = sg.toNat ∧
      m.pbase = BitVec.ofNat 64 (leNat ((bytes.drop 16).take 8)) ∧
      m.cap = BitVec.ofNat 256 (leNat ((bytes.drop 32).take 32)) ∧ SameMemory s s') ∧
    (let x := ctxOf s cx.toNat
     let g := segOf x sg.toNat
     TakenHere s l opSvc p → p.data = mirrorMoved :: cx :: sg :: bytes → bytes.length = 40 → cx.toNat < 64 → sg.toNat < 16 →
      isRemote s g.pbase = true → paDev g.pbase = p.src.toNat → x.invals.length < 4 → x.queued = [] → ∃ s' i,
      exec (.svc l p) s = .next s' ∧ segOf (ctxOf s' cx.toNat) sg.toNat = { g with
        pbase := BitVec.ofNat 64 (leNat (bytes.take 8)), cap := BitVec.ofNat 256 (leNat (bytes.drop 8)) } ∧
      (ctxOf s' cx.toNat).invals = x.invals ++ [i] ∧ i.lo = g.vbase.toNat ∧ i.hi = g.vbase.toNat + g.len.toNat ∧
      i.ackTo = some (p.src.toNat, sg.toNat) ∧ SameMemory s s')

end Sys2Proof.Machine

/-- R304, R344 to R366: arriving packets and responses, and mirrored objects.
Entries of the error log have the model's form (assumption 93). -/
def Obligations.PacketsAndResponses : Prop :=
  Sys2Proof.Machine.PacketArrival ∧ Sys2Proof.Machine.FabricResponses ∧ Sys2Proof.Machine.MirroredObjects

/-- R333, R339 to R342: a link: training admits a far end of the number and level the link map allows, or leaves the link DOWN and reports; a
good group in order advances the next GSEQ, any other is answered with a NAK; a NAK makes the sender resend; a spare lane replaces one
after storms; a lost link is FAILED with nothing unacknowledged. -/
def Sys2Proof.Machine.LinkLayer : Prop :=
  ∀ (l : BitVec 3) (s : State),
    let n := l.toNat
    let k := linkOf s n
    let after (s' : State) := linkOf s' n
    (∀ num lvl bad, (linkUp s n = true ∨ s.boot.devEn.getLsbD (2 + n) = false ∨ linkPresent s n = false → exec (.linkTraining l num lvl bad) s = .next s) ∧
      (linkUp s n = false → s.boot.devEn.getLsbD (2 + n) = true → linkPresent s n = true → linkAdmits s k num lvl = true →
        ∃ s', exec (.linkTraining l num lvl bad) s = .next s' ∧ (after s').st = (if bad.isSome then .upSpare else .up) ∧
        (after s').nbr = (if n % 4 = 3 then 0#14 else num) ∧ (after s').nlvl = lvl ∧ (after s').rxSeq = 0#12 ∧ SameMemory s s') ∧
      (linkUp s n = false → s.boot.devEn.getLsbD (2 + n) = true → linkPresent s n = true → linkAdmits s k num lvl = false →
        ∃ s', exec (.linkTraining l num lvl bad) s = .next s' ∧ (after s').st = .down ∧
        s'.memsys.errlog = (11, num.toNat) :: s.memsys.errlog ∧ SameMemory s s')) ∧
    (∀ good gseq ack nak spsw, (linkUp s n = false → exec (.groupReceive l good gseq ack nak spsw) s = .next s) ∧
      (linkUp s n = true → good = false ∨ gseq ≠ k.rxSeq →
        exec (.groupReceive l good gseq ack nak spsw) s = .next (setLink s n { k with nakSent := true })) ∧
      (linkUp s n = true → good = true → gseq = k.rxSeq → s.fab.held = [] → spsw = false →
        ∃ s', exec (.groupReceive l good gseq ack nak spsw) s = .next s' ∧ (after s').rxSeq = k.rxSeq + 1#12 ∧
        (after s').nakSent = false ∧ (nak = true → (after s').resend = some ack) ∧
        (∀ e ∈ (after s').unacked, e ∈ k.unacked ∨ e.2 ∈ k.waiting) ∧ SameMemory s s')) ∧
    (∀ ack, (linkUp s n = false ∨ k.resend ≠ some ack → exec (.groupResend l ack) s = .next s) ∧
      (linkUp s n = true → k.resend = some ack → k.waiting = [] → ∃ s', exec (.groupResend l ack) s = .next s' ∧
        (after s').resend = none ∧ (after s').unacked = (ackGroups k ack).unacked ∧
        (after s').retry.toNat = min (k.retry.toNat + (ackGroups k ack).unacked.length) 0xFFFF ∧ SameMemory s s')) ∧
    (∀ lane, (stormsDue s k = false → exec (.laneSpare l lane) s = .next s) ∧
      (stormsDue s k = true → k.st = .up → exec (.laneSpare l lane) s = .next (setLink s n { k with sparing := some lane })) ∧
      (stormsDue s k = true → k.st = .upSpare → ∃ s', exec (.laneSpare l lane) s = .next s' ∧ (after s').st = .failed ∧
        (after s').unacked = [] ∧ SameMemory s s')) ∧
    (∀ lane, k.sparing = some lane → linkUp s n = true → ∃ s', exec (.spsw l) s = .next s' ∧ (after s').st = .upSpare ∧
      (after s').splane = lane ∧ (after s').sparing = none ∧ (after s').unacked = k.unacked ∧ SameMemory s s') ∧
    (k.sparing = none → exec (.spsw l) s = .next s) ∧
    (linkUp s n = true → ∃ s', exec (.linkLoss l) s = .next s' ∧ (after s').st = .failed ∧ (after s').unacked = [] ∧
      (∀ j, j ≠ n → (linkOf s' j).st = (linkOf s j).st) ∧ SameMemory s s') ∧
    (linkUp s n = false → exec (.linkLoss l) s = .next s)

/-- R351, R359, R360, R364, R365, R367, R368: routes, levels, TIME and the deduplication table: an installed route is the one in force; N
changes while every link is DOWN, ACTIVE with it; the master announces a level that every device has voted for; the rate follows the
parent by at most 100 ppm; entries below a low-water mark, and TC0 entries after 4 µs, are dropped. -/
def Sys2Proof.Machine.FabricControl : Prop :=
  ∀ (who : Agent) (v now : Word) (lvl : BitVec 4) (l parent : BitVec 3) (corr : BitVec 16) (locked : Bool) (dev : BitVec 14)
    (agent : BitVec 10) (seq : BitVec 22) (s : State),
    let master : Prop := s.fab.devnum = s.fab.master
    (∀ older (d : BitVec 14), ∃ s', exec (.routeTableInstall (older ++ [(d, l)])) s = .next s' ∧ tableLink s' d.toNat = some l.toNat ∧
      SameMemory s s') ∧
    (let n := v.toNat / 16 % 16
     (2 ≤ n → n ≤ 3 → (∀ i, i < 8 → (linkOf s i).st = .down) → ∃ s', exec (.fabLevelWrite .monitor v) s = .next s' ∧
        s' = { s with fab := s'.fab } ∧ s'.fab.lvlN.toNat = n ∧ s'.fab.active.toNat = n - 1 ∧ s'.fab.links = s.fab.links) ∧
     (n < 2 ∨ 3 < n ∨ who ≠ .monitor ∨ (∃ i, i < 8 ∧ (linkOf s i).st ≠ .down) → exec (.fabLevelWrite who v) s = .next s)) ∧
    (master → ∃ s', exec (.levelVote lvl) s = .next s' ∧ s' = { s with fab := { s.fab with votes := s'.fab.votes } } ∧
      tabGet 0 s'.fab.votes lvl.toNat = tabGet 0 s.fab.votes lvl.toNat + 1) ∧
    (¬ master → lvl = s.fab.lvlN → ∃ s' q, exec (.levelVote lvl) s = .next s' ∧ SentOn s s' opSvc q ∧ q.dest = s.fab.master ∧
      SameMemory s s') ∧
    (¬ master → lvl ≠ s.fab.lvlN → exec (.levelVote lvl) s = .next s) ∧
    (master → tabGet 0 s.fab.votes lvl.toNat ≠ s.fab.count → exec (.levelAnnounce lvl) s = .next s) ∧
    (¬ master ∨ (tabGet 0 s.fab.votes lvl.toNat = s.fab.count ∧ 0 < s.fab.count) → ∃ s', exec (.levelAnnounce lvl) s = .next s' ∧
      s'.fab.nextLevel = (if lvl.toNat ≤ s.fab.lvlN.toNat then some lvl else s.fab.nextLevel) ∧ s'.fab.active = s.fab.active ∧
      SameMemory s s') ∧
    (∃ s', exec (.timeSteer now corr locked) s = .next s' ∧ s'.time = max s.time now.toNat ∧ SameMemory s s' ∧
      (s.fab.role = 2#2 ∨ linkUp s s.fab.parent.toNat = false → s'.fab = s.fab) ∧
      (s.fab.role ≠ 2#2 → linkUp s s.fab.parent.toNat = true → s'.fab.locked = locked ∧
        s'.fab.corr.toInt = max (-10000) (min 10000 corr.toInt))) ∧
    (s.fab.role ≠ 2#2 → s.fab.parent = l → linkUp s l.toNat = false → exec (.timeParentLoss l parent) s =
      .next { s with fab := { s.fab with parent := parent, locked := false } }) ∧
    (s.fab.role = 2#2 ∨ s.fab.parent ≠ l ∨ linkUp s l.toNat = true → exec (.timeParentLoss l parent) s = .next s) ∧
    (dev ≠ s.fab.devnum → ∃ s', exec (.lwmUpdate dev agent seq) s = .next s' ∧ s' = { s with fab := { s.fab with dedup := s'.fab.dedup } } ∧
      ∀ e, e ∈ s'.fab.dedup ↔ e ∈ s.fab.dedup ∧
        ¬ (e.src = dev.toNat ∧ e.agent = agent.toNat ∧ seqBelow e.seq seq.toNat = true)) ∧
    (dev = s.fab.devnum → (∃ o ∈ s.fab.outst ++ s.fab.tc0Wait, o.agent = agent.toNat) → exec (.lwmUpdate dev agent seq) s = .next s) ∧
    (∃ s', exec (.dedupExpiry dev agent seq now) s = .next s' ∧ s'.time = max s.time now.toNat ∧ SameMemory s s' ∧
      ∀ e, e ∈ s'.fab.dedup ↔ e ∈ s.fab.dedup ∧
        ¬ (e.tc0 = true ∧ e.src = dev.toNat ∧ e.agent = agent.toNat ∧ e.seq = seq.toNat ∧ e.made + 4000 ≤ max s.time now.toNat))

/-- R333 to R369: links, routes, levels and TIME.
Entries of the error log have the model's form (assumption 93). -/
def Obligations.LinksAndRouting : Prop :=
  Sys2Proof.Machine.LinkLayer ∧ Sys2Proof.Machine.FabricControl

/-- R395, R396, R399, R400, R404: a local steep: a request is raised once; the cut waits until no thread is ready and then records the state
with every waiting thread parked; past WINDOW a steep is forced; the seal makes the recorded steep the latest one and frees its
records; a peer's seal frees the messages kept for it. No byte of memory changes. -/
def Sys2Proof.Machine.LocalSteeps : Prop :=
  ∀ (c : BitVec 8) (dev : BitVec 14) (now : Word) (s : State),
    let p := s.steep
    let late := max s.time now.toNat
    (steepEn s = true → p.pending = false → p.cutting = none → ∃ s', exec (.steepRequest now) s = .next s' ∧
      s' = { s with time := late, steep := { p with pending := true, reqAt := late, forced := false, decls := [] } }) ∧
    (steepEn s = false ∨ p.pending = true ∨ p.cutting.isSome = true → exec (.steepRequest now) s = .next { s with time := late }) ∧
    (logFull s = false → exec (.logShareFull c) s = .next s) ∧
    (logFull s = true → ∃ s', exec (.logShareFull c) s = .next s' ∧ (UnitsQuiet s c.toNat → SameMemory s s') ∧
      (steepEn s = true → p.cutting = none → s'.steep.pending = true) ∧
      ∀ t, running s c.toNat = some t → (thOf s' c.toNat t).st = .waiting ∧ (thOf s' c.toNat t).wait = .log ∧
        (thOf s' c.toNat t).pc = (thOf s c.toNat t).pc ∧ (thOf s' c.toNat t).s = (thOf s c.toNat t).s) ∧
    (p.pending = false ∨ p.cutting.isSome = true ∨ (∃ k ∈ s.cores, ∃ x ∈ k.2.th, x.2.st = .ready) → exec .steepCut s = .next s) ∧
    (p.pending = true → p.cutting = none → (∀ k ∈ s.cores, ∀ x ∈ k.2.th, holdsCut x.2 = false) → ∃ s' sn,
      exec .steepCut s = .next s' ∧ s'.steep.cutting = some sn ∧ sn.cores = s'.cores ∧ sn.so = s'.so ∧ sn.ts = s'.ts ∧
      sn.groups = s'.groups ∧ sn.seqs = s'.fab.seqs ∧ (∀ e t, (thOf s' e t).st = .waiting → (thOf s' e t).wait = .parked) ∧
      (∀ r ∈ s'.steep.undo, r.localTier = false) ∧ SameMemory s s') ∧
    (∃ s', exec (.steepForced now) s = .next s' ∧ s'.time = late ∧ SameMemory s s' ∧
      (p.pending = true → p.cutting = none → p.reqAt + steepWindow s ≤ late →
        (∃ k ∈ s.cores, k.2.ilv = false ∧ ∃ x ∈ k.2.th, x.2.st = .ready) → s'.steep.forced = true) ∧
      ((∀ k ∈ s.cores, k.2.ilv = false → ∀ x ∈ k.2.th, x.2.st ≠ .ready) → s' = { s with time := late }) ∧
      (late < p.reqAt + steepWindow s → s' = { s with time := late })) ∧
    (p.cutting = none → exec .steepSeal s = .next s) ∧
    (∀ sn, p.cutting = some sn → ∃ s', exec .steepSeal s = .next s' ∧ s'.steep.snap = some sn ∧ s'.steep.cutting = none ∧
      s'.steep.pending = false ∧ s'.steep.prevUndo = [] ∧ s'.fab.lwms = sn.lwms ∧ SameMemory s s' ∧
      ∀ e t, (thOf s e t).st = .waiting → (thOf s e t).wait = .parked → (thOf s' e t).st = .ready ∧
        (thOf s' e t).pc = (thOf s e t).pc ∧ (thOf s' e t).s = (thOf s e t).s) ∧
    (exec (.peerSteepAck dev) s = .next { s with steep := { p with msgs := p.msgs.filter fun m => m.peer != dev.toNat || unanswered s m } })

/-- R407, R408, R414, R419: returning to a steep: a device that is due to roll back takes its latest sealed steep: its threads' registers and
places, its groups and request numbers, and HBM as the undo records have it, and begins replay; a halted device resumes from the latest
archive, with the archive's HBM; an archive keeps the last full steep, once per generation. -/
def Sys2Proof.Machine.ReturnToSteep : Prop :=
  ∀ (now : Word) (s : State), Memory.wf s = true → s.steep.recovery = [] →
    let p := s.steep
    (p.rollback = false ∨ p.halted = true → exec .localRollback s = .next s) ∧
    (∀ sn, p.rollback = true → p.halted = false → p.snap = some sn → stillReplaying s = false → ∃ s', exec .localRollback s = .next s' ∧
      s'.steep.rollback = false ∧ s'.steep.replaying = true ∧ s'.steep.replay = outcomesFrom s sn ∧ s'.groups = sn.groups ∧
      s'.fab.seqs = sn.seqs ∧ s'.fab.dedup = sn.dedup ∧
      (∀ c t, let x := threadOf (tabGet {} sn.cores c) t
        (thOf s' c t).s = x.s ∧ (thOf s' c t).pc = x.pc ∧ (thOf s' c t).lvl = x.lvl ∧ (thOf s' c t).exm = x.exm ∧
        (x.st = .waiting → x.wait = .parked → (thOf s' c t).st = .ready)) ∧
      (∀ r, p.undo = [r] → r.localTier = true → p.prevUndo = [] → s.poison = [] → sn.spads = [] → r.old.length = 256 →
        (∀ i, i < 256 → readByte s'.mem (r.line + i) = r.old.getD i 0#8) ∧
        ∀ z, z < r.line ∨ r.line + 256 ≤ z → readByte s'.mem z = readByte s.mem z)) ∧
    (p.halted = false ∨ p.archive = none ∨ thirdLoss s = false → exec .archiveResume s = .next s) ∧
    (∀ a, p.halted = true → thirdLoss s = true → p.archive = some a → ∃ s', exec .archiveResume s = .next s' ∧ s'.steep.halted = false ∧
      s'.steep.full = some a.snap ∧ s'.steep.gen = a.gen ∧ s'.groups = a.snap.groups ∧ s'.fab.seqs = a.snap.seqs ∧
      s'.fab.recov = false ∧ (∀ c t, (thOf s' c t).s = (threadOf (tabGet {} a.snap.cores c) t).s) ∧
      (s.poison = [] → a.poison = [] → a.snap.spads = [] → (∀ e ∈ a.mem, e.1 < hbmTop s.part) → ∀ z, readByte s'.mem z =
        if z < hbmTop s.part then readByte a.mem z else readByte s.mem z)) ∧
    (∃ s', exec (.archiveSteep now) s = .next s' ∧ s'.time = max s.time now.toNat ∧ SameMemory s s' ∧
      (p.full = none → s'.steep = p) ∧
      (∀ sn, p.full = some sn → archiveRoom s = true → p.archives = [] → s'.steep.archives = [p.gen] ∧
        ∃ a, s'.steep.archive = some a ∧ a.gen = p.gen ∧ a.snap = sn ∧
          (p.undo = [] → s.poison = [] → a.mem = s.mem.filter fun e => decide (e.1 < hbmTop s.part))) ∧
      (p.gen ∈ p.archives → s'.steep = p))

/-- R394 to R408: local steeps and the return to one. -/
def Obligations.RollbackToSteep : Prop :=
  Sys2Proof.Machine.LocalSteeps ∧ Sys2Proof.Machine.ReturnToSteep

/-- R365, R410, R412, R418: full steeps: one generation is announced at a time; a check member keeps a line's pre-image and applies the delta,
times g^pos for Q; the commit makes the recorded cut the steep to restart from and brings the announced level into force; a rebuilt
check line takes its bytes, and the last one ends the recovery window. -/
def Obligations.FullSteeps : Prop :=
  ∀ (gen : BitVec 32) (la : BitVec 48) (bytes : List Byte) (pos : BitVec 3) (isq : Bool) (s : State), Memory.wf s = true →
    let p := s.steep
    let a := la.toNat / 256 * 256
    let line (s' : State) (f : Nat → Byte) : Prop := (∀ i, i < 256 → readByte s'.mem (a + i) = f i) ∧
      ∀ z, z < a ∨ a + 256 ≤ z → readByte s'.mem z = readByte s.mem z
    let inReserve : Prop := regionOf s.part la.toNat ≠ .void ∧ parityBase s ≤ a ∧ a < logBase s
    let sound : Prop := ∀ i, i < 256 → isPoisoned s (a + i) = false
    (steepEn s = true → p.announced = none → exec (.fullSteepAnnounce gen) s =
      .next { s with steep := { p with announced := some gen.toNat, cutTaken := false } }) ∧
    (steepEn s = false ∨ p.announced.isSome = true → exec (.fullSteepAnnounce gen) s = .next s) ∧
    (regionOf s.part la.toNat = .void → exec (.deltaApply la bytes pos isq) s = .fault (.voidAddress la.toNat) ∧
      exec (.checkLineRebuild la bytes) s = .fault (.voidAddress la.toNat)) ∧
    (inReserve → sound → bytes.length = 256 → (∀ q ∈ p.preimg, q.1 ≠ a) → undoUsed s < undoCap s →
      ∃ s', exec (.deltaApply la bytes pos isq) s = .next s' ∧ s'.steep.preimg = (a, loadBytes s a 256) :: p.preimg ∧
        line s' fun i => readByte s.mem (a + i) ^^^ (if isq then gfTimes pos.toNat (bytes.getD i 0#8) else bytes.getD i 0#8)) ∧
    (inReserve → sound → bytes.length = 256 → ∃ s', exec (.checkLineRebuild la bytes) s = .next s' ∧ (line s' fun i => bytes.getD i 0#8) ∧
      (a ≠ parityBase s + jobGiB s * 2 ^ 28 + 2 ^ 29 - 256 → s'.steep.window = p.window) ∧
      (a = parityBase s + jobGiB s * 2 ^ 28 + 2 ^ 29 - 256 → s'.steep.window = [])) ∧
    (∀ sn, p.fullNext = some sn → p.announced = some gen.toNat → p.cutTaken = true → p.cutting = none → ∃ s',
      exec (.fullSteepCommit gen) s = .next s' ∧ s'.steep.full = some sn ∧ s'.steep.gen = gen.toNat ∧ s'.steep.announced = none ∧
      s'.steep.preimg = [] ∧ s'.fab.active = s.fab.nextLevel.getD s.fab.active ∧ s'.cores = s.cores ∧ SameMemory s s') ∧
    (p.fullNext = none ∨ p.announced ≠ some gen.toNat ∨ p.cutTaken = false ∨ p.cutting.isSome = true →
      exec (.fullSteepCommit gen) s = .next s)

/-- R415 to R418, R421 to R425: losses and checks: three missed heartbeats with two confirmations make a device lost and halt this one; a spare
takes the lost identity; a poisoned word of a scratchpad makes the device roll back and one of a LOGGED line that has not been written
is rebuilt; a failed compute check rolls back, and the third within a day retires its site; a comparator that misses its test retires
its pair; a mismatch halts its pair. -/
def Sys2Proof.Machine.LossAndChecks : Prop :=
  ∀ (dev spare : BitVec 14) (confirms : BitVec 3) (la : BitVec 48) (bytes : List Byte) (site : BitVec 9) (cl : Bool) (pair : BitVec 2)
    (now : Word) (s : State), Memory.wf s = true →
    let p := s.steep
    let late := max s.time now.toNat
    let missed (s' : State) := tabGet 0 s'.steep.missed dev.toNat
    let n := pairNo cl pair
    (exec (.heartbeat dev false) s = .next { s with steep := { p with missed := tabMod 0 p.missed dev.toNat (· + 1) } }) ∧
    (∃ s', exec (.heartbeat dev true) s = .next s' ∧ missed s' = 0 ∧ SameMemory s s') ∧
    (dev = s.fab.devnum → ∃ s', exec (.deviceLoss dev confirms) s = .next s' ∧ dev ∈ s'.steep.lost ∧
      (∀ i, (linkOf s' i).st = .down) ∧ SameMemory s s') ∧
    (dev ≠ s.fab.devnum → 3 ≤ missed s → 2 ≤ confirms.toNat → dev ∉ p.lost → ∃ s', exec (.deviceLoss dev confirms) s = .next s' ∧
      s'.steep.lost = p.lost ++ [dev] ∧ s'.steep.halted = true ∧ s'.fab.recov = true ∧ s'.cores = s.cores ∧ SameMemory s s') ∧
    (dev ≠ s.fab.devnum → missed s < 3 ∨ confirms.toNat < 2 → dev ∉ s.fab.suspects → exec (.deviceLoss dev confirms) s = .next s) ∧
    (s.boot.image.role = true → spare = s.fab.devnum → ∃ s', exec (.deviceRecovery dev spare) s = .next s' ∧ s'.fab.devnum = dev ∧
      s'.boot.image.role = false ∧ s'.steep.halted = false ∧ SameMemory s s') ∧
    (s.boot.image.role = false → spareFits s dev spare = false ∨ thirdLoss s = true → exec (.deviceRecovery dev spare) s = .next s) ∧
    (s.boot.image.role = false → dev ∈ p.lost → dev ≠ s.fab.devnum → spare ∈ p.spares → spareFits s dev spare = true →
      thirdLoss s = false → ∃ s',
      exec (.deviceRecovery dev spare) s = .next s' ∧ s'.steep.lost = p.lost.erase dev ∧ s'.steep.spares = p.spares.erase spare ∧
      s'.steep.halted = !(p.lost.erase dev).isEmpty ∧ s'.fab.devnum = s.fab.devnum) ∧
    (let a := poisonBase s.part la.toNat
     (regionOf s.part la.toNat = .void → exec (.poisonRecovery la bytes) s = .fault (.voidAddress la.toNat)) ∧
     (∀ c, regionOf s.part la.toNat = .spad c → steepEn s = true → isPoisoned s a = true → exec (.poisonRecovery la bytes) s =
       .next { s with steep := { p with rollback := true } }) ∧
     (regionOf s.part la.toNat = .hbm → bytes.length = 32 → steepEn s = true → isPoisoned s a = true → a < parityBase s →
       (∀ r ∈ p.undo ++ p.prevUndo, r.line ≠ a / 256 * 256) → policyAt s a = some 0 → p.full.isSome = true →
       (∀ e ∈ s.cores, e.2.ru.q = []) → ∃ s', exec (.poisonRecovery la bytes) s = .next s' ∧ isPoisoned s' a = false ∧
       (∀ i, i < 32 → readByte s'.mem (a + i) = bytes.getD i 0#8) ∧
       ∀ z, z < a ∨ a + 32 ≤ z → readByte s'.mem z = readByte s.mem z) ∧
     (regionOf s.part la.toNat = .hbm → bytes.length = 32 → steepEn s = false → exec (.poisonRecovery la bytes) s = .next s)) ∧
    (let recent := (tabGet [] p.fails site.toNat).filter fun t => decide (late < t + 86400000000000)
     ∃ s', exec (.computeCheckFail site now) s = .next s' ∧ s'.time = late ∧ s'.steep.rollback = true ∧
       tabGet [] s'.steep.fails site.toNat = recent ++ [late] ∧ (p.code = [] ∨ recent.length < 2 → SameMemory s s') ∧
       (recent.length < 2 → s'.steep.retired = p.retired ∧ s'.steep.sites = p.sites) ∧
       (2 ≤ recent.length → site.toNat ∈ s'.steep.retired)) ∧
    (n ∈ p.retiredPairs → ∀ f, exec (.injectionTest cl pair f) s = .next s) ∧
    (exec (.injectionTest cl pair true) s = .next s) ∧
    (∃ s', exec (.injectionTest cl pair false) s = .next s' ∧ n ∈ s'.steep.retiredPairs) ∧
    (∃ s', exec (.lockstepMismatch cl pair now) s = .next s' ∧ s'.time = late ∧ SameMemory s s' ∧
      (n ∈ p.retiredPairs → s' = { s with time := late }) ∧
      (n ∉ p.retiredPairs → s'.steep.rollback = true ∧ n ∈ s'.steep.haltedPairs ∧
        ((∀ e ∈ p.mismatchAt, e.1 ≠ n) → s'.steep.retiredPairs = p.retiredPairs)))

/-- R427 to R429, R432: the leader token: a claim with the epoch in force by the holder, or by anyone once there is no holder or the lease has
ended, holds the token for 3 ms, a new holder with the next epoch; any other claim changes nothing; AON's gate closes with the lease
and a cluster's own 2 ms after its last claim; the evidence record is written while the outputs are enabled. -/
def Sys2Proof.Machine.LeaderToken : Prop :=
  ∀ (cl : Bool) (expect : BitVec 32) (now : Word) (s : State),
    let late := max s.time now.toNat
    let p := s.steep
    let me : BitVec 2 := if cl then 2#2 else 1#2
    let idle : State := { s with time := late }
    (expect = p.epoch → p.holder = me ∨ p.holder = 0#2 ∨ p.leaseEnd ≤ late → ∃ s', exec (.aonClaim cl expect now) s = .next s' ∧
      s'.steep.holder = me ∧ s'.steep.leaseEnd = late + 3000000 ∧ s'.steep.aonGate = true ∧
      s'.steep.epoch = (if p.holder = me then p.epoch else p.epoch + 1#32) ∧
      (if cl then s'.steep.gateB else s'.steep.gateA) = true ∧ SameMemory s s') ∧
    (expect ≠ p.epoch ∨ (p.holder ≠ me ∧ p.holder ≠ 0#2 ∧ late < p.leaseEnd) → exec (.aonClaim cl expect now) s = .next idle) ∧
    (p.leaseEnd ≤ late → exec (.leaseExpiry now) s = .next { idle with steep := { p with aonGate := false } }) ∧
    (late < p.leaseEnd → exec (.leaseExpiry now) s = .next idle) ∧
    (p.claimA + 2000000 ≤ late → exec (.clusterGateClose false now) s = .next { idle with steep := { p with gateA := false } }) ∧
    (p.claimB + 2000000 ≤ late → exec (.clusterGateClose true now) s = .next { idle with steep := { p with gateB := false } }) ∧
    (late < (if cl then p.claimB else p.claimA) + 2000000 → exec (.clusterGateClose cl now) s = .next idle) ∧
    (outputsOn s = true → exec (.evidenceWrite now) s = .next { idle with steep := { p with
      evidence := p.ring, evCounts := p.counts, evMinA := s.power.minA, evMinB := s.power.minB, evidenceAt := late } }) ∧
    (outputsOn s = false → exec (.evidenceWrite now) s = .next idle)

/-- R415 to R432: losses, checks, lockstep and the leader token.
The lease is kept as a TIME (assumption 91). -/
def Obligations.LossAndLeadership : Prop :=
  Sys2Proof.Machine.LossAndChecks ∧ Sys2Proof.Machine.LeaderToken

/-- R450 to R453, R455, R456, R458: the device's enable bits: a write of a bit as it stands changes nothing; setting one runs its checks, and sets
it with the reason cleared where none fails, or leaves it clear and reports the failing check of least code; clearing waits for what
needs the bit. A job description is refused before the loader runs; one whose checks pass starts its threads.
What other devices answer comes with the command (assumption 55). -/
def Obligations.StrainerRuns : Prop :=
  ∀ (w : World) (env : List (BitVec 8 × Word)) (s : State),
    let p := devBit s 0 || w == .P
    let t := devBit s 1 || w == .T
    (∀ e ∈ [((fun en => Instr.worldEn w en env), worldBit w,
          worldReasons s p t ++ envReasons (envOnly env 0x01 0x04),
          s.ctxs.any fun e => e.2.ctxEn && e.2.world == w),
        ((fun en => .steepEn en env), 10,
          steepReasons s ++ needWorld s ++ needTables s ++ envReasons (envFor env 0x40 0x45), jobOn s),
        ((fun en => .classEn en env), 11, classReasons s ++ needLink s ++ envReasons (envFor env 0x50 0x54), jobOn s),
        ((fun en => .jobEn w en env), 12 + worldBit w,
          jobReasons s w [] ++ needDev s 10 ++ needDev s 11 ++ needCtx s w ++ envReasons (envFor env 0x60 0x67), worldBusy s w),
        ((fun en => .extEn en env), 14, extReasons s ++ needWorld s ++ envReasons (envOnly env 0x70 0x72), false)],
      (∀ en, devBit s e.2.1 = en → exec (e.1 en) s = .next s) ∧
      (devBit s e.2.1 = false → e.2.2.1 = [] → ∃ s', exec (e.1 true) s = .next s' ∧ devBit s' e.2.1 = true ∧
        s'.boot.strReason = 0#64 ∧ s'.boot.strWhere = 0#64 ∧ (∀ b, b ≠ e.2.1 → devBit s' b = devBit s b) ∧ SameMemory s s') ∧
      (devBit s e.2.1 = false → e.2.2.1 ≠ [] → ∃ r ∈ e.2.2.1, (∀ q ∈ e.2.2.1, r.1 ≤ q.1) ∧ exec (e.1 true) s =
        .next { s with boot := { s.boot with strReason := BitVec.ofNat 64 (r.1 + e.2.1 * 256), strWhere := r.2 } }) ∧
      (devBit s e.2.1 = true → exec (e.1 false) s = .next (if e.2.2.2 then s else setDevBit s e.2.1 false))) ∧
    (∀ j : JobDesc, s.boot.phase ≠ .loader ∨ s.boot.barred = true ∨ j.slot = none → exec (.jobLoad j) s =
      .next { s with board := { s.board with answer := (1, []) } }) ∧
    (∀ (j : JobDesc) k ti, s.boot.phase = .loader → s.boot.barred = false → s.fab.locked = true → j.slot = some k →
      s.boot.slots.getLsbD k.toNat = true → j.ctxs = [] → j.threads = [ti] → devBit s (12 + worldBit j.world) = false →
      (let s2 := jobAssign s j
       jobReasons s2 j.world [(ti.c.toNat, ti.t.toNat)] ++ needDev s2 10 ++ needDev s2 11 ++ needCtx s2 j.world ++
         envReasons (envFor j.env 0x60 0x67) = []) →
      ∃ s', exec (.jobLoad j) s = .next s' ∧ s'.board.answer = (0, []) ∧ devBit s' (12 + worldBit j.world) = true ∧
        (thOf s' ti.c.toNat ti.t.toNat).st = .ready ∧ (thOf s' ti.c.toNat ti.t.toNat).pc = ti.pc &&& 0x3FFFC#18 ∧
        (thOf s' ti.c.toNat ti.t.toNat).cx = ti.cx ∧ (thOf s' ti.c.toNat ti.t.toNat).dsp = ti.dsp ∧
        (thOf s' ti.c.toNat ti.t.toNat).lvl = .S)

/-- R437, R438, R444, R445, R447, R452, R453, R457, R460, R494, R507: the events of the boot sequence, each in its phase and without effect in
any other: supplies, fuses, the choice of a bank, the clusters with the leader token, HBM training, the Strainer's runs and the job
loader; LINK_EN with its runs; a device reset, which keeps the flash, the fuses and TIME; migration.
Entries of the error log have the model's form (assumption 93).
The numbers of counts and events are the model's (assumption 92).
What other devices answer comes with the command (assumption 55).
Contents of sections and of the algorithms are open (assumptions 94, 95). -/
def Obligations.BootSequence : Prop :=
  ∀ (s : State) (env : List (BitVec 8 × Word)) (l : BitVec 3),
    let b := s.boot
    let wasReset (s' : State) : Prop := (s'.boot.phase = if s.power.pwrgd then .supplies else .off) ∧ s'.mem = [] ∧ s'.cores = [] ∧
      s'.boot.devEn = 0#15 ∧ s'.boot.flash = b.flash ∧ s'.boot.secmin = b.secmin ∧ s'.boot.revoked = b.revoked ∧ s'.time = s.time ∧
      s'.part = s.part ∧ s'.steep.ring = s.steep.evidence ∧ s'.steep.counts = s.steep.evCounts ∧
      s'.memsys.logA = s.memsys.logA ∧ s'.memsys.logB = s.memsys.logB ∧ s'.pending = s.pending
    (∀ j, (s.power.pwrgd = true ∨ (s.power.agood = false ∧ s.power.bgood = false) → exec (.suppliesGood j) s = .next s) ∧
      (s.power.pwrgd = false → s.power.agood = true ∨ s.power.bgood = true → ∃ s', exec (.suppliesGood j) s = .next s' ∧
        s'.power.pwrgd = true ∧ s'.boot.phase = .supplies ∧ s'.board.jtagSel = j ∧ SameMemory s s')) ∧
    (∀ slots secmin serial, (b.phase ≠ .supplies → exec (.aonStart slots secmin serial) s = .next s) ∧
      (b.phase = .supplies → ∃ s', exec (.aonStart slots secmin serial) s = .next s' ∧ s'.boot.phase = .aon ∧
        s'.boot.slots = slots &&& ~~~b.revoked ∧ s'.boot.serial = serial.toNat ∧ s'.steep.holder = 0#2 ∧
        (∀ d ∈ [1, 2, 19], s'.power.domOn.getLsbD d = true) ∧ SameMemory s s')) ∧
    (b.phase ≠ .aon → exec .caddyLoad s = .next s) ∧
    (b.phase = .aon → s.power.fabRef = true → s.board.jtagSel = false → ∀ b1 b2, bankOrder s = [b1, b2] →
      ∃ s', exec .caddyLoad s = .next s' ∧ SameMemory s s' ∧
        (verifyBank s b1 = 0#8 → s'.boot.phase = .loaded ∧ s'.boot.bank = b1 ∧ s'.boot.image = imageOf s b1 ∧
          s'.memsys.errlog = if b1 then s.memsys.logA else s.memsys.logB) ∧
        (verifyBank s b1 ≠ 0#8 → verifyBank s b2 = 0#8 → s'.boot.phase = .loaded ∧ s'.boot.bank = b2 ∧ s'.boot.fallback = true ∧
          (if b1 then s'.boot.causeB else s'.boot.causeA) = verifyBank s b1) ∧
        (verifyBank s b1 ≠ 0#8 → verifyBank s b2 ≠ 0#8 → s'.boot.phase = .refused)) ∧
    (b.phase = .aon → s.power.fabRef = false → ∃ s', exec .caddyLoad s = .next s' ∧ s'.boot = b ∧ SameMemory s s') ∧
    (∀ ok, b.phase ≠ .loaded → exec (.clusterStart ok) s = .next s) ∧
    (b.phase = .loaded → (∃ s', exec (.clusterStart false) s = .next s' ∧ s.fab.devnum ∈ s'.steep.lost ∧ SameMemory s s') ∧
      (s.steep.holder = 0#2 → ∃ s', exec (.clusterStart true) s = .next s' ∧ s'.boot.phase = .clusters ∧ s'.steep.holder = 1#2 ∧
        s'.fab.devnum.toNat = b.image.fabId.toNat / 65536 % 16384 ∧ s'.fab.lvlN = b.image.level ∧ SameMemory s s')) ∧
    (∀ eyes, (b.phase ≠ .clusters → exec (.hbmTraining eyes) s = .next s) ∧
      (b.phase = .clusters → ∃ s', exec (.hbmTraining eyes) s = .next s' ∧ s'.boot.phase = .hbm ∧
        s'.memsys.eccNow = s'.memsys.eccmode ∧ (∀ d ∈ [3, 4, 5, 6, 11, 12, 13, 14, 15, 16], s'.power.domOn.getLsbD d = true) ∧
        SameMemory s s')) ∧
    (b.phase ≠ .hbm → b.phase ≠ .links → exec (.bootStrainer env) s = .next s) ∧
    (b.phase = .hbm ∨ b.phase = .links → ∃ s', exec (.bootStrainer env) s = .next s' ∧
      (s'.boot.phase = .strained ∨ (s'.boot.phase = (if s.power.pwrgd then .supplies else .off) ∧ s'.mem = []))) ∧
    (b.retry = [] → exec (.strainerRetry env) s = .next s) ∧
    (b.retry = [11] → devBit s 11 = false → classReasons s ++ needLink s ++ envReasons (envFor env 0x50 0x54) = [] →
      ∃ s', exec (.strainerRetry env) s = .next s' ∧ devBit s' 11 = true ∧ s'.boot.retry = [] ∧ SameMemory s s') ∧
    (b.phase ≠ .strained → exec .jobLoaderStart s = .next s) ∧
    (b.phase = .strained → exec .jobLoaderStart s = .next { s with boot := { b with phase := .loader } }) ∧
    (∀ en, devBit s (2 + l.toNat) = en → exec (.linkEn l en env) s = .next s) ∧
    (devBit s (2 + l.toNat) = false → linkReasons s l.toNat ++ needPhase (booted s) ++ envReasons (envFor env 0x30 0x35) = [] →
      ∃ s', exec (.linkEn l true env) s = .next s' ∧ devBit s' (2 + l.toNat) = true ∧ s'.power.domOn.getLsbD 17 = true ∧
        s'.power.domOn.getLsbD 18 = true ∧ SameMemory s s') ∧
    (devBit s (2 + l.toNat) = true → ∃ s', exec (.linkEn l false env) s = .next s' ∧ devBit s' (2 + l.toNat) = false ∧
      (linkOf s' l.toNat).st = .down ∧ SameMemory s s') ∧
    (∃ s', exec .deviceReset s = .next s' ∧ wasReset s' ∧ s'.boot.resetN = b.resetN) ∧
    (exec (.resetN false) s = .next { s with boot := { b with resetN := false } }) ∧
    (b.resetN = true → exec (.resetN true) s = .next s) ∧
    (b.resetN = false → ∃ s', exec (.resetN true) s = .next s' ∧ wasReset s' ∧ s'.boot.resetN = true) ∧
    (∀ back, s.steep.full = none → (back && b.migrated) = false → exec (.migration back) s = .next s) ∧
    (b.migrated = true → ∃ s', exec (.migration true) s = .next s' ∧ s'.boot.migrated = false ∧ s'.steep.halted = false ∧ SameMemory s s') ∧
    (s.steep.full.isSome = true → b.migWanted = true → ∃ s', exec (.migration false) s = .next s' ∧ wasReset s' ∧
      s'.boot.migrated = true) ∧
    (∀ sn, s.steep.full = some sn → b.migWanted = false → ∃ s', exec (.migration false) s = .next s' ∧ s'.steep.snap = some sn ∧
      s'.steep.replaying = true ∧ s'.groups = sn.groups)

/-- R435, R436, R445, R461, R474 to R476: an update: a request erases the idle bank; a transfer within the image writes its bytes and no other of
the flash; the written image is accepted or erased; a verified one is activated by a reset, or in a job by a migration. Out of order the
commands are answered with their codes.
Contents of sections and of the algorithms are open (assumptions 94, 95). -/
def Obligations.FirmwareUpdate : Prop :=
  ∀ (off : BitVec 32) (bytes : List Byte) (s : State),
    let b := updateBank s
    let base := bankBase b
    let answers (i : Instr) (code : Nat) : Prop := exec i s = .next { s with board := { s.board with answer := (code, []) } }
    (∀ i ∈ [Instr.requestUpdate, .firmwareDataWrite off bytes, .verifyComplete, .activateFirmware],
      updateOn s = false → exec i s = .next s) ∧
    (updateOn s = true →
      (s.boot.updating = true → answers .requestUpdate 0x81) ∧
      (s.boot.updating = false → ∃ s', exec .requestUpdate s = .next s' ∧ s'.boot.updating = true ∧ s'.boot.verified = false ∧
        s'.board.answer = (0, []) ∧ (if b then s'.memsys.logB else s'.memsys.logA) = [] ∧ (∀ i, i < 0x03C00000 → flashByte s' (base + i) = 0xFF#8) ∧
        (∀ z, z < base ∨ base + 0x03C00000 ≤ z → flashByte s' z = flashByte s z) ∧ SameMemory s s') ∧
      (s.boot.updating = false → answers (.firmwareDataWrite off bytes) 0x80 ∧ answers .verifyComplete 0x80 ∧
        answers .activateFirmware 0x80) ∧
      (s.boot.updating = true →
        (4096 < bytes.length ∨ 33554432 < off.toNat + bytes.length → answers (.firmwareDataWrite off bytes) 0x01) ∧
        (bytes.length ≤ 4096 → off.toNat + bytes.length ≤ 33554432 → ∃ s', exec (.firmwareDataWrite off bytes) s = .next s' ∧
          s'.boot.verified = false ∧ s'.boot.strfail.getLsbD (b2n b) = false ∧
          (∀ i, i < bytes.length → flashByte s' (base + off.toNat + i) = bytes.getD i 0#8) ∧
          (∀ z, z < base + off.toNat ∨ base + off.toNat + bytes.length ≤ z → flashByte s' z = flashByte s z) ∧ SameMemory s s') ∧
        (∃ s', exec .verifyComplete s = .next s' ∧ s'.board.answer = (0, [(verifyBank s b).toNat]) ∧
          (s'.boot.verified = true ↔ verifyBank s b = 0#8) ∧ (verifyBank s b = 0#8 → s'.boot.flash = s.boot.flash) ∧
          (verifyBank s b ≠ 0#8 → ∀ i, i < 33554432 → flashByte s' (base + i) = 0xFF#8) ∧ SameMemory s s') ∧
        (s.boot.verified = false → answers .activateFirmware 0x01) ∧
        (s.boot.verified = true → jobOn s = true → ∃ s', exec .activateFirmware s = .next s' ∧ s'.boot.migWanted = true ∧
          s'.boot.updating = false ∧ s'.cores = s.cores ∧ SameMemory s s') ∧
        (s.boot.verified = true → jobOn s = false → ∃ s', exec .activateFirmware s = .next s' ∧ s'.boot.updating = false ∧
          s'.boot.flash = s.boot.flash ∧ s'.mem = [] ∧ s'.cores = [])))

namespace Sys2Proof.Machine

/-- R298, R467: the parts of a host access at a virtual address, checked as accesses of the host context, and the state after them. -/
def hostAccess (s : State) (wr : Bool) (va len : Nat) : List Checked × State :=
  checkParts s 272 s.board.hostCx (ctxOf s s.board.hostCx).world false [if wr then rWR else rRD] 0#4 (if wr then .write else .read)
    (len == 8 && va % 8 == 0) (pieces va len)

end Sys2Proof.Machine

/-- R286, R432, R446, R474, R475: the management bus: the answers to PLDM requests from event 4 on while the monitor's outputs are enabled, and
silence before; maintenance commands and their responses; the bus addresses. The command and sensor numbers and the completion codes are
the model's (assumption 101).
Contents of sections and of the algorithms are open (assumptions 94, 95). -/
def Obligations.ManagementBus : Prop :=
  ∀ (n eid : BitVec 8) (arg : Word) (da : BitVec 7) (s : State),
    let answers (i : Instr) (code : Nat) (data : List Nat) : Prop :=
      exec i s = .next { s with board := { s.board with answer := (code, data) } }
    exec (.entdaa da) s = .next { s with board := { s.board with dynAddr := da } } ∧
    exec (.eidAssignment eid) s = .next { s with board := { s.board with eid := eid } } ∧
    (booted s = false ∨ outputsOn s = false → ∀ i ∈ [Instr.baseDiscovery n, .getSensorReading n, .evidenceRead, .errlogRead, .devkeyRead,
      .maintReq n arg, .maintRsp], exec i s = .next s) ∧
    (booted s = true → outputsOn s = true →
      answers (.baseDiscovery 2#8) 0 [s.board.tid.toNat] ∧ answers (.baseDiscovery 4#8) 0 [0, 2, 5, 7] ∧
      (n ≠ 2#8 → n ≠ 4#8 → ∃ d, answers (.baseDiscovery n) 0 d) ∧
      (n.toNat < 20 → ∃ v, exec (.getSensorReading n) s =
          .next { s with draws := s.draws + 1, board := { s.board with answer := (0, [v]) } } ∧
        (n.toNat < 6 → v = (tabGet 0 s.power.temps n.toNat % 256).toNat) ∧
        (6 ≤ n.toNat → n.toNat < 14 → v = (tabGet 0 s.memsys.temps (n.toNat - 6) % 256).toNat) ∧
        (n = 14#8 → v = s.power.vina.toNat) ∧ (n = 15#8 → v = s.power.vinb.toNat) ∧
        (n = 17#8 → v = if s.steep.lost.contains s.fab.devnum then 4 else if s.steep.halted || s.fab.recov then 3
          else if devBit s 12 || devBit s 13 then 2 else if s.boot.phase = .loader then 1 else 0) ∧
        (n = 18#8 → v = s.steep.holder.toNat) ∧ (n = 19#8 → v = b2n s.power.inuseB)) ∧
      (20 ≤ n.toNat → answers (.getSensorReading n) 1 []) ∧
      (∃ d, answers .evidenceRead 0 ([partCode s.part, 0xB0, s.boot.serial, Config.lot, s.boot.image.version] ++ d)) ∧
      answers .errlogRead 0 ((aonBoot s).toNat :: (s.memsys.errlog.map fun e => [e.1, e.2]).flatten) ∧
      answers .devkeyRead 0 (Config.publicKey s.boot.devKey) ∧ answers .maintRsp 0 s.board.maintRsp ∧
      (∀ m : BitVec 8, 4 ≤ m.toNat → exec (.maintReq m arg) s = .next s) ∧
      (∀ e ∈ [(0#8, repairList s), (1#8, laneMap s), (3#8, stackTemps s)], exec (.maintReq e.1 arg) s =
        .next { s with board := { s.board with maintRsp := e.2 } }) ∧
      (∃ s', exec (.maintReq 2#8 arg) s = .next s' ∧ s'.board.maintRsp = [] ∧ SameMemory s s' ∧
        (field arg.toNat 32 3, field arg.toNat 0 32) ∈ s'.memsys.repair ∧ (∀ r ∈ s.memsys.repair, r ∈ s'.memsys.repair)))

/-- R466 to R473, R304: the endpoint mailbox and PCIe. A mailbox command is taken when the monitor serves the mailbox, a command waits and the
response ring has room; it makes one response of the same TAG and one MSI-X message. An I/O completion is recorded once; a controller
that times out twice takes its namespaces with it; an inbound request outside every window is not admitted.
Entries of the error log have the model's form (assumption 93). -/
def Obligations.HostInterface : Prop :=
  ∀ (tag : BitVec 16) (job : JobDesc) (w : World) (cx : BitVec 6) (sg ct : BitVec 4) (ws : List Word) (a : Word) (h : BitVec 8)
    (st : BitVec 8) (bytes : List Byte) (cs : List (BitVec 4)) (off : BitVec 36) (wr : Bool) (rt wd : BitVec 2) (s : State),
    let b := s.board
    let responded (s' : State) (stat : BitVec 8) (res : List Word) : Prop := ∃ code wher,
      s'.board.rsps = { tag := tag, status := stat, code := code, wher := wher, result := res } :: b.rsps ∧
      s'.board.cmdHead = b.cmdHead + 1#8 ∧ s'.board.rspTail = b.rspTail + 1#8 ∧ s'.board.msix = b.msix + 1
    let waits : Prop := ∀ i ∈ [Instr.jobSubmit tag job, .jobStatus tag w, .segChange tag cx sg ws, .mirrorSet tag a],
      ws.length = 8 → exec i s = .next s
    (b.endpoint = true → exec (.mbCmdtailWrite h) s = .next { s with board := { b with cmdTail := h } } ∧
      exec (.mbRspheadWrite h) s = .next { s with board := { b with rspHead := h } }) ∧
    (b.endpoint = false → exec (.mbCmdtailWrite h) s = .next s ∧ exec (.mbRspheadWrite h) s = .next s) ∧
    (b.cmdHead = b.cmdTail ∨ b.ready = false ∨ b.endpoint = false ∨ outputsOn s = false ∨ b.rspTail + 1#8 = b.rspHead → waits ∧
      (ws.length = 4 → exec (.hostIo tag cx ws) s = .next s)) ∧
    (mbReady s = true →
      (∃ s', exec (.jobSubmit tag job) s = .next s' ∧ (∃ st2, responded s' st2 []) ∧
        (s.boot.phase ≠ .loader ∨ s.boot.barred = true ∨ job.slot = none → responded s' 1#8 [] ∧ s'.cores = s.cores)) ∧
      (∃ s', exec (.jobStatus tag w) s = .next s' ∧ s' = { s with board := s'.board } ∧
        ∃ dt, responded s' 0#8 [if devBit s (12 + worldBit w) then 1#64 else 0#64, dt,
          match w with | .P => s.steep.wcntP | .T => s.steep.wcntT]) ∧
      (ws.length = 8 → (ws.getD 3 0#64).getLsbD 24 = false → ∃ s', exec (.segChange tag cx sg ws) s = .next s' ∧
        responded s' 0#8 []) ∧
      (∃ s', exec (.mirrorSet tag a) s = .next s' ∧ s' = { s with board := s'.board } ∧ responded s' 0#8 [] ∧
        s'.board.mirror = some a ∧ s'.board.mirrorSeq = 0#64) ∧
      (ws.length = 4 → ioParse s (ctxOf s cx.toNat).world cx.toNat true ws = none → ∃ s', exec (.hostIo tag cx ws) s = .next s' ∧
        responded s' 0#8 [1#64] ∧ s'.board.io = b.io) ∧
      (∀ r, ws.length = 4 → ioParse s (ctxOf s cx.toNat).world cx.toNat true ws = some r →
        (b.io.filter fun q => q.cx == cx.toNat && q.done.isNone).length < 256 → b.lostNs = [] →
        ∃ s' k, exec (.hostIo tag cx ws) s = .next s' ∧ responded s' 0#8 [0#64] ∧ s'.board.io = b.io ++ [{ r with key := k }])) ∧
    (∀ r, (b.io.filter fun q => q.done.isNone)[h.toNat]? = some r → r.op = 2 ∨ 2 ≤ st.toNat ∨ bytes.length = r.len →
      ∃ s', exec (.ioComplete h st bytes) s = .next s' ∧
        s'.board.io = b.io.map fun q => if q.key = r.key then { q with done := some st.toNat } else q) ∧
    ((b.io.filter fun q => q.done.isNone)[h.toNat]? = none → exec (.ioComplete h st bytes) s = .next s) ∧
    (b.failed.contains ct.toNat = true ∨ (b.io.find? fun q => q.done.isNone && ctrlOf s (nsOf s q) == some ct.toNat) = none →
      exec (.nvmeTimeout ct) s = .next s) ∧
    (∀ r, b.failed.contains ct.toNat = false →
      (b.io.find? fun q => q.done.isNone && ctrlOf s (nsOf s q) == some ct.toNat) = some r →
      (r.retried = false → exec (.nvmeTimeout ct) s = .next { s with board := { b with
        io := b.io.map fun q => if q.key = r.key then { q with retried := true } else q } }) ∧
      (r.retried = true → ∃ s', exec (.nvmeTimeout ct) s = .next s' ∧ s'.board.failed = ct.toNat :: b.failed ∧
        nsOf s r ∈ s'.board.lostNs ∧ ∀ q ∈ s'.board.io, q.key = r.key → q.done.isSome = true)) ∧
    (exec (.pcieEnumerate cs) s = .next (if booted s && !b.endpoint then
      { s with board := { b with ctrls := (cs.map fun c => c.toNat).dedup, failed := [] } } else s)) ∧
    (b.endpoint = true ∨ b.rate = 0#2 ∨ (wr = false ∧ openWindows s wr = []) → ∃ s', exec (.inboundTlp wr a bytes) s = .next s' ∧
      SameMemory s s' ∧ s'.memsys.errlog = (9, a.toNat) :: s.memsys.errlog ∧ s'.board.hostData = []) ∧
    (∀ x ∈ openWindows s wr, b.endpoint = false → b.rate ≠ 0#2 → x.1 ≤ a.toNat → a.toNat + bytes.length ≤ x.1 + x.2 →
      exec (.inboundTlp wr a bytes) s = .next (if wr then memStore s a.toNat bytes
        else { s with board := { b with hostData := loadZeroPoison s a.toNat bytes.length } })) ∧
    (∃ s', exec (.pcieLinkRetrain rt wd) s = .next s' ∧ s' = { s with board := s'.board } ∧
      s'.board.rate = (if s.power.pcieRef then rt else 0#2) ∧
      s'.board.retrain.toNat = min 65535 (b.retrain.toNat + 1)) ∧
    (b.endpoint = false → exec (.pciePerstN wr) s = .next s) ∧
    (b.endpoint = true → exec (.pciePerstN true) s = .next { s with board := { b with perstN := true } } ∧
      exec (.pciePerstN false) s = .next { s with board := { b with perstN := false, rate := 0#2, width := 0#2 } }) ∧
    (∀ len : BitVec 12, bytes.length = len.toNat →
      (b.endpoint = false ∨ booted s = false ∨ len = 0#12 → exec (.hostBarAccess wr off len bytes) s = .next s) ∧
      (b.endpoint = true → booted s = true → len ≠ 0#12 →
        let va := (b.hostBase + off.toNat) % 2 ^ 48
        let rs := (hostAccess s wr va len.toNat).1
        let s1 := (hostAccess s wr va len.toNat).2
        ((∃ q ∈ rs, q.code ≠ 0) → exec (.hostBarAccess wr off len bytes) s = .next { s1 with
          memsys := (notify s1 10 va).memsys
          board := { s1.board with hostData := if wr then s1.board.hostData else List.replicate len.toNat 0#8 } }) ∧
        (∀ q s2, rs = [q] → q.code = 0 → q.half.bad = false → isRemote s1 q.half.pa = false → PlainAt s1 (paLocal q.half.pa) →
          inboundAt s1 (paLocal q.half.pa) wr q.half.len = some s2 →
          exec (.hostBarAccess wr off len bytes) s = .next (if wr then memStore s2 (paLocal q.half.pa) bytes
            else { s2 with board := { s2.board with hostData := loadZeroPoison s2 (paLocal q.half.pa) len.toNat } })) ∧
        (∀ q, rs = [q] → q.code = 0 → q.half.bad = false → isRemote s1 q.half.pa = false →
          inboundAt s1 (paLocal q.half.pa) wr q.half.len = none → exec (.hostBarAccess wr off len bytes) s = .next s)))

/-- R478, R507, R480 to R485: the test access port selects each instruction, and those other than BYPASS, IDCODE and SAMPLE/PRELOAD act as
BYPASS while JTAG_SEL is low; nothing else of the device changes. What BYPASS captures and what TRST_N
selects are the model's (assumption 105). The extension link trains, fails after the third attempt, goes down,
sends again from a NAK on, and takes flits in order only; its configuration is the monitor's to write while the link is down. -/
def Obligations.TestPortAndExtensionLink : Prop :=
  ∀ (cr : BitVec 12) (chip : BitVec 35) (ack : BitVec 8) (good : Bool) (f : ExtFlit) (who : Agent) (v : Word) (s : State),
    let e := s.board.ext
    let sets (i : Instr) (e2 : ExtLink) : Prop := exec i s = .next { s with board := { s.board with ext := e2 } }
    let selects (i : Instr) (t : TapInstr) (dr : Option (BitVec 32)) : Prop :=
      exec i s = .next { s with board := { s.board with tap := t, tapDr := dr } }
    let same (a b : ExtLink) : Prop := a.outst = b.outst ∧ a.rate = b.rate ∧ a.txeq = b.txeq ∧ a.en = b.en ∧ a.st = b.st
    selects .bypass .bypass (some 0#32) ∧ selects .idcode .idcode (some idcodeWord) ∧
    idcodeWord.extractLsb' 28 4 = 0xB#4 ∧ idcodeWord.extractLsb' 12 16 = 0x4B31#16 ∧ idcodeWord.getLsbD 0 = true ∧
    selects .samplePreload .samplePreload none ∧ selects .trstN .idcode none ∧
    (∀ x ∈ [(Instr.extest, TapInstr.extest), (.clamp, .clamp), (.highz, .highz), (.extestPulse, .extestPulse),
        (.extestTrain, .extestTrain)],
      (s.board.jtagSel = true → selects x.1 x.2 none) ∧ (s.board.jtagSel = false → selects x.1 .bypass (some 0#32))) ∧
    (e.en = false ∨ booted s = false ∨ e.st = .up ∨ e.st = .failed → exec (.extTraining good cr chip) s = .next s) ∧
    (e.en = true → booted s = true → e.st = .down ∨ e.st = .training →
      (∃ e2, sets (.extTraining true cr chip) e2 ∧ e2.st = .up ∧ e2.credinit = cr ∧ e2.chipid = chip ∧ e2.tries = 0 ∧ e2.rxSeq = 0#8 ∧
        e2.credits + e2.unacked.length = cr.toNat ∧ e2.unacked.length ≤ 64 ∧
        e2.unacked.length + e2.waiting.length = (extAgain e).length ∧
        (e.waiting = [] → e2.outst = e.outst.map fun r => { r with replay := true })) ∧
      (e.tries < 2 → sets (.extTraining false cr chip) { e with st := .training, tries := e.tries + 1 }) ∧
      (2 ≤ e.tries → sets (.extTraining false cr chip) { e with st := .failed, tries := 0, unacked := [], waiting := [], outst := [] })) ∧
    (e.st ≠ .up → exec .extLinkDown s = .next s ∧ exec (.extResend ack) s = .next s ∧ exec (.extFlitReceive good f) s = .next s) ∧
    (e.st = .up →
      (∃ e2, sets .extLinkDown e2 ∧ e2.st = .down ∧ e2.downs.toNat = min 255 (e.downs.toNat + 1) ∧ e2.outst = e.outst) ∧
      (∃ e2, sets (.extResend ack) e2 ∧ same e2 e ∧ e2.retry.toNat = min 65535 (e.retry.toNat + 1) ∧
        (∀ i, e.unacked.findIdx? (fun u => u.1 == ack) = some i → ∀ u ∈ e.unacked.drop (i + 1), u ∈ e2.unacked)) ∧
      (good = false → sets (.extFlitReceive good f) { e with nakSent := true }) ∧
      (f.ty = 1#4 ∨ f.ty = 2#4 → f.lseq ≠ e.rxSeq → sets (.extFlitReceive good f) { e with nakSent := true }) ∧
      (e.nakSent = false → f.ty = 4#4 → exec (.extFlitReceive true f) s = .next s) ∧
      (f.ty = 2#4 → f.lseq = e.rxSeq → ∃ e2, sets (.extFlitReceive true f) e2 ∧ same e2 e ∧ e2.rxSeq = e.rxSeq + 1#8 ∧
        e2.nakSent = false ∧ e2.retry.toNat = (if f.nak then min 65535 (e.retry.toNat + 1) else e.retry.toNat) ∧
        (extKnown s f = false → e2.unmatched.toNat = min 65535 (e.unmatched.toNat + 1)) ∧
        (extKnown s f = true → e2.unmatched = e.unmatched)) ∧
      (f.ty = 0#4 → e.nakSent = false → ∃ e2, sets (.extFlitReceive true f) e2 ∧ same e2 e ∧ e2.rxSeq = e.rxSeq ∧
        (e.waiting = [] → e2.credits = e.credits + f.cred.toNat))) ∧
    (who ≠ .monitor ∨ e.st = .up ∨ e.st = .training → exec (.extLinkcfgWrite who v) s = .next s) ∧
    (who = .monitor → e.st = .down ∨ e.st = .failed → sets (.extLinkcfgWrite who v) { e with
      en := v.getLsbD 0, rate := v.extractLsb' 1 2, txeq := v.extractLsb' 3 4 })

/-- R486 to R494, R415: supplies and domains. The module returns to VIN_A when it is good again and switches over when the input in use
fails; samples below 46 V mark an input not good and the lowest are kept; a domain wakes on request, the lowest first, and sleeps when
it may, in two events each; a loss of power fences the device and switches every domain but D00 off; once the charge is spent only what
the flash and the fuses hold remains; the loss of a reference clock.
The numbers of counts and events are the model's (assumption 92).
Wakes and sleeps take two events each (assumption 107). -/
def Obligations.SuppliesAndDomains : Prop :=
  ∀ (isB : Bool) (va vb : BitVec 16) (dom : BitVec 5) (who : Agent) (v : Word) (s : State),
    let p := s.power
    let d := dom.toNat
    let bit : BitVec 20 := 1#20 <<< d
    let low (m : Option Nat) (x : Nat) : Nat := match m with | some y => min y x | none => x
    let only (i : Instr) (q : Power) : Prop := exec i s = .next { s with power := q }
    let switched (s' : State) (toB : Bool) : Prop := s'.power.inuseB = toB ∧
      s'.power.switches.toNat = min 65535 (p.switches.toNat + 1) ∧
      tabGet 0 s'.steep.counts 16 = tabGet 0 s.steep.counts 16 + 1 ∧ SameMemory s s' ∧ s'.cores = s.cores
    let fenced (s' : State) : Prop := s.fab.devnum ∈ s'.steep.lost ∧ (∀ e ∈ s'.fab.links, e.2.st = .down)
    (∃ s', exec (.inputGood isB) s = .next s' ∧ (if isB then s'.power.bgood else s'.power.agood) = true ∧
      (p.pwrgd = true → isB = false → p.inuseB = true → switched s' false) ∧
      (p.pwrgd = true → isB = true ∨ p.inuseB = false → s'.power.inuseB = p.inuseB ∧ s'.power.switches = p.switches)) ∧
    (p.pwrgd = true → p.inuseB = false → p.bgood = true → ∃ s', exec .supplySwitch s = .next s' ∧ s'.power.agood = false ∧
      switched s' true) ∧
    (p.pwrgd = true → p.inuseB = true → p.agood = true → ∃ s', exec .supplySwitch s = .next s' ∧ s'.power.bgood = false ∧
      switched s' false) ∧
    ((if p.inuseB then p.agood else p.bgood) = false ∨ p.pwrgd = false →
      only .supplySwitch (if p.inuseB then { p with bgood := false } else { p with agood := false })) ∧
    only (.vinSample va vb) { p with
      vina := va
      vinb := vb
      minA := some (low p.minA va.toNat)
      minB := some (low p.minB vb.toNat)
      agood := p.agood && decide (4600 ≤ va.toNat)
      bgood := p.bgood && decide (4600 ≤ vb.toNat) } ∧
    (who ≠ .monitor → exec (.pwrDomreqWrite who v) s = .next s) ∧
    (who = .monitor → ∃ r : BitVec 20, only (.pwrDomreqWrite who v) { p with domReq := r } ∧
      (∀ n ∈ [0, 7, 8, 9, 10, 18, 19], r.getLsbD n = p.domReq.getLsbD n) ∧
      (∀ n ∈ [3, 4, 5, 6, 15, 16, 17], v.getLsbD n = true → r.getLsbD n = true) ∧
      (∀ n ∈ [3, 4, 5, 6, 15, 16, 17], v.getLsbD n = false → r.getLsbD n = (p.domReq.getLsbD n && !(maySleep s n))) ∧
      (∀ n ∈ [(11, 15), (12, 15), (13, 16), (14, 16)], v.getLsbD n.2 = true → r.getLsbD n.1 = true) ∧
      (∀ n ∈ [1, 2], p.domReq.getLsbD n = false → r.getLsbD n = false)) ∧
    (20 ≤ d ∨ p.domOn.getLsbD d = true → exec (.domainWake dom) s = .next s) ∧
    (d < 20 → p.domOn.getLsbD d = false →
      (p.domWake.getLsbD d = true → only (.domainWake dom) { p with domWake := p.domWake &&& ~~~bit, domOn := p.domOn ||| bit }) ∧
      (p.domWake = 0#20 → p.domReq.getLsbD d = true → p.domSleep.getLsbD d = false →
        (∀ i, i < d → p.domReq.getLsbD i = true → p.domOn.getLsbD i = true) →
        only (.domainWake dom) { p with domWake := p.domWake ||| bit }) ∧
      (p.domWake.getLsbD d = false → p.domReq.getLsbD d = false ∨ p.domWake ≠ 0#20 → exec (.domainWake dom) s = .next s)) ∧
    (20 ≤ d ∨ p.domOn.getLsbD d = false ∨ d = 0 ∨ d = 18 ∨ d = 19 → exec (.domainSleep dom) s = .next s) ∧
    (d ∈ [1, 2, 3, 4, 5, 6, 7, 8, 9, 10, 11, 12, 13, 14, 15, 16, 17] → p.domOn.getLsbD d = true →
      (maySleep s d = false ∨ (p.domReq.getLsbD d = true ∧ (d < 7 ∨ 10 < d)) →
        only (.domainSleep dom) { p with domSleep := p.domSleep &&& ~~~bit }) ∧
      (maySleep s d = true → p.domReq.getLsbD d = false → p.domSleep.getLsbD d = false →
        only (.domainSleep dom) { p with domSleep := p.domSleep ||| bit }) ∧
      (maySleep s d = true → p.domReq.getLsbD d = false → p.domSleep.getLsbD d = true → ∃ s',
        exec (.domainSleep dom) s = .next s' ∧ s'.power.domOn = p.domOn &&& ~~~bit ∧ s'.power.domSleep = p.domSleep &&& ~~~bit ∧
        (d = 15 ∨ d = 16 → SameMemory s s') ∧
        (3 ≤ d → d ≤ 6 → (∀ e ∈ s'.cores, e.1 / 64 ≠ d - 3) ∧ (∀ e ∈ s.cores, e.1 / 64 ≠ d - 3 → e ∈ s'.cores) ∧
          (∀ a, a < hbmTop s.part → readByte s'.mem a = readByte s.mem a)))) ∧
    (∃ s', exec .powerLoss s = .next s' ∧ fenced s' ∧ s'.power.pwrgd = false ∧ s'.boot.phase = .off ∧
      s'.board.rate = 0#2 ∧ s'.board.width = 0#2 ∧ s'.boot.flash = s.boot.flash ∧
      (∀ n, 1 ≤ n → n < 20 → s'.power.domOn.getLsbD n = false) ∧ s'.power.domOn.getLsbD 0 = p.domOn.getLsbD 0) ∧
    (p.pwrgd = true → exec .holdUpChargeSpent s = .next s) ∧
    (p.pwrgd = false → ∃ s', exec .holdUpChargeSpent s = .next s' ∧ s'.mem = [] ∧ s'.cores = [] ∧ s'.power = { State.reset.power with minA := s.steep.evMinA, minB := s.steep.evMinB } ∧
      s'.fab = State.reset.fab ∧ s'.boot.flash = s.boot.flash ∧ s'.boot.revoked = s.boot.revoked ∧ s'.boot.secmin = s.boot.secmin ∧
      s'.boot.phase = .off ∧ s'.steep.evidence = s.steep.evidence ∧ s'.steep.archive = s.steep.archive ∧
      s'.memsys.repaired = s.memsys.repaired ∧ s'.pending = s.pending) ∧
    (∃ s', exec .fabRefclkLoss s = .next s' ∧ fenced s' ∧ s'.power = { p with fabRef := false } ∧ SameMemory s s') ∧
    only .fabRefclkPresent { p with fabRef := true } ∧
    (∃ s', exec .aonRefclkLoss s = .next s' ∧ s'.power = { p with aonRef := false } ∧ SameMemory s s' ∧
      s'.steep.ring.head? = some { time := s.time, kind := 8, place := 0, gen := 0, ident := (s.steep.snap.map fun n => n.ident).getD 0 }) ∧
    exec .pcieRefclkLoss s = .next { s with
      power := { p with pcieRef := false }
      board := { s.board with width := 0#2, rate := 0#2 } }

/-- R17, R27, R496, R497, R499 to R502: clocks and temperatures. An island's table is measured after 32 intervals; boost needs a measured table, a
cool die and no limit on row issue, and both a warm die and such a limit withdraw it; a thermal level is entered at its threshold and left
2 °C lower; the trip switches the die supplies off and loses the device; a stretched cycle changes no result.
The numbers of counts and events are the model's (assumption 92). -/
def Obligations.ClocksAndTemperatures : Prop :=
  ∀ (c : BitVec 8) (cap : BitVec 9) (die : BitVec 3) (temp : BitVec 8) (isl : BitVec 10) (e8 : BitVec 4) (s : State),
    let p := s.power
    let n := tabGet 0 p.intervals c.toNat
    let lvl := tabGet 0 p.lvls die.toNat
    let t := temp.toInt
    let only (i : Instr) (q : Power) : Prop := exec i s = .next { s with power := q }
    let up : Nat := if t ≥ 94 then 3 else if t ≥ 91 then 2 else if t ≥ 88 then 1 else 0
    let may : Prop := p.boostEn = true ∧ c.toNat ∈ p.measured ∧ tabGet 0 p.lvls (c.toNat / 64) = 0 ∧ 256 ≤ p.cap
    (c.toNat ∈ p.measured → exec (.droopMeasure c) s = .next s) ∧
    (c.toNat ∉ p.measured → n < 31 → only (.droopMeasure c) { p with intervals := tabSet p.intervals c.toNat (n + 1) }) ∧
    (c.toNat ∉ p.measured → 31 ≤ n → ∃ q, only (.droopMeasure c) q ∧ q.measured = c.toNat :: p.measured ∧
      tabGet 0 q.intervals c.toNat = 0 ∧ tabGet 0 q.measTemp c.toNat = tabGet 0 p.temps (c.toNat / 64)) ∧
    (may → c.toNat ∉ p.boosted → only (.boostChange c true) { p with boosted := c.toNat :: p.boosted }) ∧
    (¬may ∨ c.toNat ∈ p.boosted → exec (.boostChange c true) s = .next s) ∧
    only (.boostChange c false) { p with boosted := p.boosted.filter fun x => x != c.toNat } ∧
    (let both : Prop := (∃ k ∈ s.cores, fp64Vec k.2 = true) ∧ ∃ k ∈ s.cores, fp64Mat k.2 = true
     (cap.toNat < 256 → both → only (.powerCapAdjust cap) { p with cap := cap.toNat, boosted := [] }) ∧
     (cap.toNat < 256 → ¬ both → exec (.powerCapAdjust cap) s = .next s)) ∧
    (256 ≤ cap.toNat → only (.powerCapAdjust cap) { p with cap := 256 }) ∧
    (6 ≤ die.toNat → exec (.thermalSample die temp) s = .next s) ∧
    (die.toNat < 6 → lvl ≤ 3 → ∃ s', exec (.thermalSample die temp) s = .next s' ∧
      s' = { s with power := s'.power, steep := { s.steep with counts := s'.steep.counts } } ∧
      tabGet 0 s'.power.temps die.toNat = t ∧
      tabGet 0 s'.power.lvls die.toNat = max up (if lvl = 3 ∧ 92 ≤ t then 3 else if 2 ≤ lvl ∧ 89 ≤ t then 2
        else if 1 ≤ lvl ∧ 86 ≤ t then 1 else 0) ∧
      (∀ d, d ≠ die.toNat → tabGet 0 s'.power.lvls d = tabGet 0 p.lvls d ∧ tabGet 0 s'.power.temps d = tabGet 0 p.temps d) ∧
      (1 ≤ tabGet 0 s'.power.lvls die.toNat → die.toNat < 4 → ∀ x ∈ s'.power.boosted, x / 64 ≠ die.toNat) ∧
      (∀ x ∈ s'.power.boosted, x ∈ s'.power.measured) ∧
      (∀ x ∈ p.measured, x / 64 = die.toNat → (x ∈ s'.power.measured ↔ (t - tabGet 0 p.measTemp x).natAbs ≤ 10)) ∧
      (∀ x ∈ p.measured, x / 64 ≠ die.toNat → x ∈ s'.power.measured)) ∧
    ((∀ e ∈ p.temps, e.2 < 100) → exec .thermalTrip s = .next s) ∧
    ((∃ e ∈ p.temps, 100 ≤ e.2) → ∃ s', exec .thermalTrip s = .next s' ∧ s'.power.trip = true ∧ s'.power.thermtripN = false ∧
      s.fab.devnum ∈ s'.steep.lost ∧ (∀ d, 3 ≤ d → d < 18 → s'.power.domOn.getLsbD d = false) ∧
      (∀ d ∈ [0, 1, 2, 18, 19], s'.power.domOn.getLsbD d = p.domOn.getLsbD d) ∧
      tabGet 0 s'.steep.counts 20 = tabGet 0 s.steep.counts 20 + 1 ∧ s'.boot.flash = s.boot.flash) ∧
    (∃ q, only (.cycleStretch isl e8) q ∧ q = { p with stretched := q.stretched } ∧
      tabGet 0 q.stretched isl.toNat = tabGet 0 p.stretched isl.toNat + min 8 e8.toNat ∧
      ∀ i, i ≠ isl.toNat → tabGet 0 q.stretched i = tabGet 0 p.stretched i)

/-- R1, R7, R46, R82 to R84, R87, R107, R138, R142, R263, R342, R364, R394, R427, R451, R478, R489, R492, R498: what reset leaves where
the spec's tables give a value: no thread runs, every thread is at level S with its exceptions masked, VL is 128 and SAT 1, a core's
instruction memory is split in halves, the extension timeouts are 1000, the device level is 3 with 2 active, no enable bit is set, no
leader holds the token, every link is down, only the always-on domain is powered, and no command waits. General registers, return stacks and queues
hold nothing (assumption 2), and TIME is 0. -/
def Obligations.ResetState : Prop :=
  let s := State.reset
  (∀ c t, let x := thOf s c t
    x.st = .stopped ∧ x.lvl = .S ∧ x.plvl = .S ∧ x.exm = true ∧ x.pexm = true ∧ x.umask = false ∧ x.sat = true ∧ x.vl = 128 ∧
    (∀ r, getS x r = 0#64) ∧ x.rs = [] ∧ x.sb = [] ∧ x.pc = 0#18 ∧ x.xcause = 0#30 ∧ x.te = 0#5) ∧
  (∀ c, let k := coreOf s c
    k.imSplit = 16#5 ∧ k.tmoP = 1000#10 ∧ k.tmoT = 1000#10 ∧ k.enP = false ∧ k.enT = false ∧ k.ilv = false ∧ k.icuPend = 0#64 ∧
    k.mx.owner = none ∧ k.mx.q = [] ∧ k.se.q = [] ∧ k.vq = [] ∧ running s c = none) ∧
  (∀ n, (ctxOf s n).ctxEn = false ∧ (ctxOf s n).segEn = false ∧ (∀ g, (segOf (ctxOf s n) g).en = false ∧
    (segOf (ctxOf s n) g).present = true)) ∧
  (∀ n, (soOf s n).val = 0#64 ∧ (tsOf s n).st = .idle ∧ (tsOf s n).ownValid = false) ∧
  (∀ l, (linkOf s l).st = .down) ∧
  s.fab.lvlN = 3#4 ∧ s.fab.active = 2#4 ∧ s.fab.recov = false ∧ s.fab.locked = false ∧
  s.memsys.eccmode = 3#2 ∧ s.memsys.scrubh = 0x18#8 ∧ s.memsys.tways = 0#4 ∧
  s.boot.devEn = 0#15 ∧ s.boot.strReason = 0#64 ∧ s.boot.causeA = 0xFF#8 ∧ s.boot.causeB = 0xFF#8 ∧
  s.steep.holder = 0#2 ∧ s.steep.epoch = 0#32 ∧ s.steep.ctl = 0x81e64a06400c8#58 ∧
  s.power.domOn = 1#20 ∧ s.power.domReq = 1#20 ∧ s.power.boostEn = false ∧
  s.board.ext.st = .down ∧ s.board.ext.txeq = 5#4 ∧ s.time = 0 ∧ s.pending = []

/-- DESIGN CHOICE (assumption 3, the model's memory): the memory of the device after reset is in canonical form, and every byte of it reads as a byte
that nothing has written. -/
def Obligations.ResetMemoryCanonical : Prop :=
  Memory.wf State.reset = true ∧ ∀ a, readByte State.reset.mem a = unlisted

/-- The invariant of memory, for every command and from every state: where a step leads to a next state, memory keeps its canonical form,
so that equal memories are equal data. -/
def Obligations.StepKeepsMemoryCanonical : Prop :=
  ∀ s s' : State, Memory.wf s = true → step s = .next s' → Memory.wf s' = true

/-- The commands stop nowhere else: a command whose lists have the lengths of its rule answers a next state, unless it names a LOCAL
address outside every range of the map (R289), which a command from outside the block alone can do, or gives a completed read of the
I/O service another number of bytes than was asked for (R472). -/
def Obligations.WellFormedCommandsComplete : Prop :=
  ∀ (i : Instr) (s : State), i.wf = true →
    (∀ h st b, i = .ioComplete h st b → ∀ r, (s.board.io.filter fun q => q.done.isNone)[h.toNat]? = some r → r.op = 1 →
      st.toNat < 2 → b.length = r.len) →
    Completes i s ∨ ∃ la : BitVec 48, regionOf s.part la.toNat = .void ∧ exec i s = .fault (.voidAddress la.toNat) ∧
      ((∃ cx wr len cls ask f, i = .llcRequest cx wr la len cls ask f) ∨ (∃ b, i = .wordRebuild la b) ∨ i = .correctedWriteback la ∨
        (∃ d p q, i = .deltaApply la d p q) ∨ (∃ b, i = .checkLineRebuild la b) ∨ (∃ b, i = .poisonRecovery la b))
end

