-- ==== Sys2Proof/Laws/Mem.lean ====
section
/-!
SUPPORT. Sys2Proof/Laws/Mem.lean: the canonical form of memory, which every memory operation keeps, and what a byte reads as after a
write.
-/

namespace Sys2Proof.Machine

theorem memWf_cons (a : Nat) (b : Byte) (m : List Host.Cell) :
    memWf ((a, b) :: m) = true ↔ b ≠ unlisted ∧ (∀ e ∈ m, a < e.1) ∧ memWf m = true := by
  simp [memWf, and_assoc]

/-- An address below every listed one reads as an unlisted address does. -/
theorem readByte_below (m : List Host.Cell) (a : Nat) (h : ∀ e ∈ m, a < e.1) : readByte m a = unlisted := by
  induction m with
  | nil => rfl
  | cons e m ih =>
    have h1 := h e (by simp)
    have : ¬ e.1 = a := by omega
    simp only [readByte, this, if_false]
    exact ih fun x hx => h x (by simp [hx])

theorem insertCell_mem (m : List Host.Cell) (a : Nat) (b : Byte) : ∀ e ∈ insertCell m a b, e = (a, b) ∨ e ∈ m := by
  induction m with
  | nil => simp [insertCell]
  | cons x m ih =>
    intro e he
    simp only [insertCell] at he
    split at he
    · simp at he; rcases he with h | h <;> simp [h]
    · split at he
      · simp at he; rcases he with h | h | h <;> simp [h]
      · simp at he
        rcases he with h | h
        · simp [h]
        · rcases ih e h with h | h <;> simp [h]

theorem memWf_insertCell (m : List Host.Cell) (a : Nat) (b : Byte) (hb : b ≠ unlisted) (h : memWf m = true) :
    memWf (insertCell m a b) = true := by
  induction m with
  | nil => simp [insertCell, memWf, hb]
  | cons x m ih =>
    obtain ⟨k, v⟩ := x
    obtain ⟨hv, hlt, hm⟩ := (memWf_cons k v m).1 h
    simp only [insertCell]
    split
    · rename_i e; subst e; exact (memWf_cons _ _ _).2 ⟨hb, hlt, hm⟩
    · split
      · rename_i _ hak
        refine (memWf_cons _ _ _).2 ⟨hb, ?_, h⟩
        intro e he
        simp at he
        rcases he with h' | h'
        · simp [h', hak]
        · have := hlt e h'; omega
      · refine (memWf_cons _ _ _).2 ⟨hv, ?_, ih hm⟩
        intro e he
        rcases insertCell_mem m a b e he with h' | h'
        · subst h'; simp; omega
        · exact hlt e h'

theorem memWf_filter (m : List Host.Cell) (p : Host.Cell → Bool) (h : memWf m = true) : memWf (m.filter p) = true := by
  induction m with
  | nil => rfl
  | cons x m ih =>
    obtain ⟨k, v⟩ := x
    obtain ⟨hv, hlt, hm⟩ := (memWf_cons k v m).1 h
    simp only [List.filter_cons]
    split
    · exact (memWf_cons _ _ _).2 ⟨hv, fun e he => hlt e (List.mem_filter.1 he).1, ih hm⟩
    · exact ih hm

/-- Writing a byte keeps the canonical form. -/
theorem memWf_writeByte (m : List Host.Cell) (a : Nat) (b : Byte) (h : memWf m = true) : memWf (writeByte m a b) = true := by
  unfold writeByte
  split
  · exact memWf_filter m _ h
  · exact memWf_insertCell m a b ‹_› h

theorem memWf_writeOk (ok : Nat → Bool) (bs : List Byte) :
    ∀ (m : List Host.Cell) (a : Nat), memWf m = true → memWf (writeOk ok m a bs) = true := by
  induction bs with
  | nil => intro m a h; exact h
  | cons b bs ih =>
    intro m a h
    simp only [writeOk]
    apply ih
    split
    · exact memWf_writeByte m a b h
    · exact h

/-- Storing bytes keeps the canonical form. -/
theorem memWf_storeBytes (s : State) (a : Nat) (bs : List Byte) (h : memWf s.mem = true) : memWf (storeBytes s a bs).mem = true :=
  memWf_writeOk _ bs s.mem a h

/-- Any list of cells comes to the canonical form. -/
theorem memWf_normMem (l : List Host.Cell) : memWf (normMem l) = true := by
  induction l with
  | nil => rfl
  | cons e l ih => exact memWf_writeByte _ _ _ ih

@[simp] theorem undoLine_mem (s : State) (n : Nat) : (undoLine s n).mem = s.mem := by
  unfold undoLine
  split
  · dsimp only
    split <;> rfl
  · rfl

@[simp] theorem undoLines_mem (s : State) (a n : Nat) : (undoLines s a n).mem = s.mem := by
  unfold undoLines
  generalize List.range _ = l
  induction l generalizing s with
  | nil => rfl
  | cons i l ih => simp [List.foldl_cons, ih]

/-- What the operations of memory may change: memory's bytes and the state of their words, the counts of errors, and the undo records. -/
def MemOnly (s s' : State) : Prop :=
  s' = { s with mem := s'.mem, poison := s'.poison, flaws := s'.flaws, unseen := s'.unseen, memsys := s'.memsys, steep := s'.steep }

theorem memOnly_rfl (s : State) : MemOnly s s := rfl

theorem memOnly_trans {a b c : State} (h : MemOnly a b) (g : MemOnly b c) : MemOnly a c := by
  unfold MemOnly at *
  rw [g, h]

theorem memOnly_flaws (s : State) (l : List Nat) : MemOnly s { s with flaws := l } := rfl

theorem memOnly_unseen (s : State) (l : List Nat) : MemOnly s { s with unseen := l } := rfl

theorem memOnly_steep (s : State) (x : Steep) : MemOnly s { s with steep := x } := rfl

theorem memOnly_foldl {α : Type} (f : State → α → State) (hf : ∀ s a, MemOnly s (f s a)) (l : List α) :
    ∀ s, MemOnly s (l.foldl f s) := by
  induction l with
  | nil => exact memOnly_rfl
  | cons a l ih => exact fun s => memOnly_trans (hf s a) (ih (f s a))

theorem memOnly_countAt (s : State) (a lo : Nat) : MemOnly s (countAt s a lo) := by
  unfold countAt countMem
  split
  · split <;> rfl
  · rfl

theorem memOnly_poisonAdd (s : State) (a : Nat) : MemOnly s (poisonAdd s a) := by
  unfold poisonAdd
  split <;> rfl

theorem memOnly_notify (s : State) (k w : Nat) : MemOnly s (notify s k w) := rfl

theorem memOnly_decodeWord (s : State) (a : Nat) : MemOnly s (decodeWord s a) := by
  unfold decodeWord
  have h : MemOnly s (if s.flaws.contains a then countAt { s with flaws := s.flaws.filter (· != a) } a 0 else s) := by
    split
    · exact memOnly_trans (memOnly_flaws s _) (memOnly_countAt _ a 0)
    · rfl
  dsimp only
  split
  · exact memOnly_trans h (memOnly_trans (memOnly_unseen _ _) (memOnly_trans (memOnly_countAt _ a 16) (memOnly_notify _ 5 a)))
  · exact h

theorem memOnly_decodeRead (s : State) (a n : Nat) : MemOnly s (decodeRead s a n) :=
  memOnly_foldl _ memOnly_decodeWord _ s

theorem memOnly_decodeMerge (s : State) (a n : Nat) : MemOnly s (decodeMerge s a n) := by
  have h : MemOnly s ((mergeWords s a n).foldl decodeWord s) := memOnly_foldl _ memOnly_decodeWord _ s
  unfold decodeMerge
  dsimp only
  split
  · exact memOnly_trans h (memOnly_steep _ _)
  · exact h

theorem memOnly_undoLine (s : State) (n : Nat) : MemOnly s (undoLine s n) := by
  unfold undoLine
  split
  · dsimp only
    split <;> rfl
  · rfl

theorem memOnly_undoLines (s : State) (a n : Nat) : MemOnly s (undoLines s a n) :=
  memOnly_foldl _ (fun s _ => memOnly_undoLine s _) _ s

/-- A store changes memory, and nothing of cores, contexts, objects or transfers. -/
theorem memOnly_memStore (s : State) (a : Nat) (bs : List Byte) : MemOnly s (memStore s a bs) := by
  unfold memStore
  split
  · exact memOnly_trans (memOnly_undoLines s a _) rfl
  · exact memOnly_trans (memOnly_decodeMerge s a _) rfl

@[simp] theorem countAt_mem (s : State) (a lo : Nat) : (countAt s a lo).mem = s.mem := by
  unfold countAt countMem
  split
  · split <;> rfl
  · rfl

@[simp] theorem poisonAdd_mem (s : State) (a : Nat) : (poisonAdd s a).mem = s.mem := by
  unfold poisonAdd
  split <;> rfl

/-- Decoding a word changes no byte: a double-bit error reads as poison. -/
@[simp] theorem decodeWord_mem (s : State) (a : Nat) : (decodeWord s a).mem = s.mem := by
  unfold decodeWord
  dsimp only
  split <;> split <;> first
    | rfl
    | exact countAt_mem _ a _
    | exact (countAt_mem _ a 16).trans (countAt_mem _ a 0)

theorem decodeWords_mem (l : List Nat) : ∀ s : State, (l.foldl decodeWord s).mem = s.mem := by
  induction l with
  | nil => exact fun _ => rfl
  | cons i l ih => exact fun s => (ih (decodeWord s i)).trans (decodeWord_mem s i)

@[simp] theorem decodeRead_mem (s : State) (a n : Nat) : (decodeRead s a n).mem = s.mem := decodeWords_mem _ s

@[simp] theorem decodeMerge_mem (s : State) (a n : Nat) : (decodeMerge s a n).mem = s.mem := by
  unfold decodeMerge
  dsimp only
  split <;> exact decodeWords_mem _ s

@[simp] theorem countAt_poison (s : State) (a lo : Nat) : (countAt s a lo).poison = s.poison := by
  unfold countAt countMem
  split
  · split <;> rfl
  · rfl

/-- Decoding a word changes no poison: an error of two bits reads as poison from the moment it arises. -/
@[simp] theorem decodeWord_poison (s : State) (a : Nat) : (decodeWord s a).poison = s.poison := by
  unfold decodeWord
  dsimp only
  split <;> split <;> first
    | rfl
    | exact countAt_poison _ a _
    | exact (countAt_poison _ a 16).trans (countAt_poison _ a 0)

theorem decodeWords_poison (l : List Nat) : ∀ s : State, (l.foldl decodeWord s).poison = s.poison := by
  induction l with
  | nil => exact fun _ => rfl
  | cons i l ih => exact fun s => (ih (decodeWord s i)).trans (decodeWord_poison s i)

@[simp] theorem decodeRead_poison (s : State) (a n : Nat) : (decodeRead s a n).poison = s.poison := decodeWords_poison _ s

@[simp] theorem decodeMerge_poison (s : State) (a n : Nat) : (decodeMerge s a n).poison = s.poison := by
  unfold decodeMerge
  dsimp only
  split <;> exact decodeWords_poison _ s

/-- A store keeps the canonical form. -/
theorem memWf_memStore (s : State) (a : Nat) (bs : List Byte) (h : memWf s.mem = true) : memWf (memStore s a bs).mem = true := by
  by_cases hl : a < hbmTop s.part
  · rw [memStore, if_pos hl]
    exact memWf_storeBytes _ a bs (by rw [undoLines_mem]; exact h)
  · rw [memStore, if_neg hl]
    exact memWf_storeBytes _ a bs (by rw [decodeMerge_mem]; exact h)

theorem memWf_applyStores (sb : List SBuf) : ∀ s : State, memWf s.mem = true → memWf (applyStores s sb).mem = true := by
  unfold applyStores
  induction sb with
  | nil => intro s h; exact h
  | cons e sb ih =>
    intro s h
    rw [List.foldl_cons]
    exact ih _ (memWf_memStore s e.pa e.bytes h)

theorem readByte_insertCell (m : List Host.Cell) (a x : Nat) (b : Byte) (h : memWf m = true) :
    readByte (insertCell m a b) x = if x = a then b else readByte m x := by
  induction m with
  | nil =>
    by_cases hx : x = a
    · simp [insertCell, readByte, hx]
    · simp [insertCell, readByte, hx, Ne.symm hx]
  | cons e m ih =>
    obtain ⟨k, v⟩ := e
    obtain ⟨_, hlt, hm⟩ := (memWf_cons k v m).1 h
    simp only [insertCell]
    split
    · rename_i e; subst e
      by_cases hx : x = a
      · simp [readByte, hx]
      · simp [readByte, hx, Ne.symm hx]
    · split
      · by_cases hx : x = a
        · simp [readByte, hx]
        · simp [readByte, hx, Ne.symm hx]
      · by_cases hk : k = x
        · have : x ≠ a := by omega
          simp [readByte, hk, this]
        · simp [readByte, hk, ih hm]

theorem readByte_filter_ne (m : List Host.Cell) (a x : Nat) (h : memWf m = true) :
    readByte (m.filter fun e => e.1 != a) x = if x = a then unlisted else readByte m x := by
  induction m with
  | nil => simp [readByte]
  | cons e m ih =>
    obtain ⟨k, v⟩ := e
    obtain ⟨_, hlt, hm⟩ := (memWf_cons k v m).1 h
    by_cases hk : k = a
    · simp only [List.filter_cons, hk, bne_self_eq_false, Bool.false_eq_true, if_false]
      rw [ih hm]
      by_cases hx : x = a
      · simp [hx]
      · simp [readByte, hx, Ne.symm hx]
    · have : (k != a) = true := by simp [hk]
      simp only [List.filter_cons, this, if_true, readByte]
      by_cases hkx : k = x
      · have : x ≠ a := by omega
        simp [hkx, this]
      · simp [hkx, ih hm]

/-- A byte reads as it was last written; a write of one address leaves every other as it was. -/
theorem readByte_writeByte (m : List Host.Cell) (a x : Nat) (b : Byte) (h : memWf m = true) :
    readByte (writeByte m a b) x = if x = a then b else readByte m x := by
  unfold writeByte
  split
  · rw [readByte_filter_ne m a x h, ‹b = unlisted›]
  · exact readByte_insertCell m a x b h

/-- Bytes outside those written, and bytes that may not be written, read as before. -/
theorem readByte_writeOk_outside (ok : Nat → Bool) (bs : List Byte) :
    ∀ (m : List Host.Cell) (a x : Nat), memWf m = true → (x < a ∨ a + bs.length ≤ x ∨ ok x = false) →
      readByte (writeOk ok m a bs) x = readByte m x := by
  induction bs with
  | nil => intro m a x _ _; rfl
  | cons b bs ih =>
    intro m a x hm hx
    simp only [writeOk]
    split
    · rename_i hok
      have hne : x ≠ a := by
        rcases hx with h | h | h
        · omega
        · simp at h; omega
        · intro e; subst e; simp [h] at hok
      rw [ih _ _ _ (memWf_writeByte m a b hm) (by rcases hx with h | h | h; omega; (simp at h; omega); exact Or.inr (Or.inr h)),
        readByte_writeByte m a x b hm, if_neg hne]
    · exact ih _ _ _ hm (by rcases hx with h | h | h; omega; (simp at h; omega); exact Or.inr (Or.inr h))

/-- A written byte reads as the byte written there. -/
theorem readByte_writeOk_inside (ok : Nat → Bool) (bs : List Byte) :
    ∀ (m : List Host.Cell) (a i : Nat), memWf m = true → i < bs.length → ok (a + i) = true →
      readByte (writeOk ok m a bs) (a + i) = bs.getD i 0#8 := by
  induction bs with
  | nil => intro m a i _ h; simp at h
  | cons b bs ih =>
    intro m a i hm hi hok
    simp only [writeOk]
    cases i with
    | zero =>
      simp only [Nat.add_zero] at hok ⊢
      rw [if_pos hok, readByte_writeOk_outside ok bs _ _ _ (memWf_writeByte m a b hm) (by omega), readByte_writeByte m a a b hm]
      simp
    | succ j =>
      have e : a + (j + 1) = (a + 1) + j := by omega
      rw [e] at hok ⊢
      rw [ih _ _ _ (by split; exact memWf_writeByte m a b hm; exact hm) (by simpa using hi) hok]
      simp

end Sys2Proof.Machine
end

