-- ==== Sys2Proof/Laws/Table.lean ====
section
/-!
SUPPORT. Sys2Proof/Laws/Table.lean: what reading a sparse table gives after a write, an erasure or a map.
-/

namespace Sys2Proof.Machine

@[simp] theorem tabGet_nil {α : Type} (d : α) (k : Nat) : tabGet d ([] : Tab α) k = d := rfl

@[simp] theorem tabGet_tabSet_same {α : Type} (d : α) (t : Tab α) (k : Nat) (v : α) : tabGet d (tabSet t k v) k = v := by
  induction t with
  | nil => simp [tabSet, tabGet]
  | cons e t ih =>
    simp only [tabSet]
    split
    · simp [tabGet]
    · split
      · simp [tabGet]
      · rename_i h _
        have : ¬ e.1 = k := fun h' => h h'.symm
        simp [tabGet, this, ih]

theorem tabGet_tabSet_ne {α : Type} (d : α) (t : Tab α) (k j : Nat) (v : α) (h : j ≠ k) :
    tabGet d (tabSet t k v) j = tabGet d t j := by
  induction t with
  | nil => simp [tabSet, tabGet, Ne.symm h]
  | cons e t ih =>
    simp only [tabSet]
    split
    · rename_i hk
      have : ¬ e.1 = j := fun h' => h (by omega)
      simp [tabGet, Ne.symm h, this]
    · split
      · simp [tabGet, Ne.symm h]
      · simp [tabGet, ih]

theorem tabGet_tabSet {α : Type} (d : α) (t : Tab α) (k j : Nat) (v : α) :
    tabGet d (tabSet t k v) j = if j = k then v else tabGet d t j := by
  split
  · subst_vars; simp
  · exact tabGet_tabSet_ne d t k j v ‹_›

@[simp] theorem tabGet_tabMod_same {α : Type} (d : α) (t : Tab α) (k : Nat) (f : α → α) :
    tabGet d (tabMod d t k f) k = f (tabGet d t k) := by simp [tabMod]

theorem tabGet_tabMod_ne {α : Type} (d : α) (t : Tab α) (k j : Nat) (f : α → α) (h : j ≠ k) :
    tabGet d (tabMod d t k f) j = tabGet d t j := by simp [tabMod, tabGet_tabSet_ne _ _ _ _ _ h]

/-- A map that leaves the default alone maps every value read. -/
theorem tabGet_tabMap {α : Type} (d : α) (t : Tab α) (f : Nat → α → α) (k : Nat) (hd : f k d = d) :
    tabGet d (tabMap t f) k = f k (tabGet d t k) := by
  induction t with
  | nil => simp [tabMap, tabGet, hd]
  | cons e t ih =>
    simp only [tabMap, List.map_cons, tabGet]
    split
    · subst_vars; rfl
    · exact ih

@[simp] theorem tabGet_tabErase_same {α : Type} (d : α) (t : Tab α) (k : Nat) : tabGet d (tabErase t k) k = d := by
  induction t with
  | nil => rfl
  | cons e t ih =>
    by_cases h : e.1 = k
    · simpa [tabErase, h] using ih
    · simp only [tabErase, List.filter_cons, bne_iff_ne, ne_eq, h, not_false_eq_true, if_true, tabGet, if_false]
      exact ih

end Sys2Proof.Machine
end

