-- ==== Sys2Proof/Laws/State.lean ====
section
/-!
SUPPORT. Sys2Proof/Laws/State.lean: what each named update of State leaves as it was, field by field, and what reading back gives.
-/

namespace Sys2Proof.Machine

@[simp] theorem setCore_part (s : State) (c : Nat) (k : Core) : (setCore s c k).part = s.part := rfl
@[simp] theorem setCore_time (s : State) (c : Nat) (k : Core) : (setCore s c k).time = s.time := rfl
@[simp] theorem setCore_tsTurn (s : State) (c : Nat) (k : Core) : (setCore s c k).tsTurn = s.tsTurn := rfl
@[simp] theorem setCore_draws (s : State) (c : Nat) (k : Core) : (setCore s c k).draws = s.draws := rfl
@[simp] theorem setCore_mem (s : State) (c : Nat) (k : Core) : (setCore s c k).mem = s.mem := rfl
@[simp] theorem setCore_poison (s : State) (c : Nat) (k : Core) : (setCore s c k).poison = s.poison := rfl
@[simp] theorem setCore_flaws (s : State) (c : Nat) (k : Core) : (setCore s c k).flaws = s.flaws := rfl
@[simp] theorem setCore_unseen (s : State) (c : Nat) (k : Core) : (setCore s c k).unseen = s.unseen := rfl
@[simp] theorem setCore_ctxs (s : State) (c : Nat) (k : Core) : (setCore s c k).ctxs = s.ctxs := rfl
@[simp] theorem setCore_segbuf (s : State) (c : Nat) (k : Core) : (setCore s c k).segbuf = s.segbuf := rfl
@[simp] theorem setCore_objs (s : State) (c : Nat) (k : Core) : (setCore s c k).objs = s.objs := rfl
@[simp] theorem setCore_vercaps (s : State) (c : Nat) (k : Core) : (setCore s c k).vercaps = s.vercaps := rfl
@[simp] theorem setCore_ts (s : State) (c : Nat) (k : Core) : (setCore s c k).ts = s.ts := rfl
@[simp] theorem setCore_so (s : State) (c : Nat) (k : Core) : (setCore s c k).so = s.so := rfl
@[simp] theorem setCore_groups (s : State) (c : Nat) (k : Core) : (setCore s c k).groups = s.groups := rfl
@[simp] theorem setCore_startP (s : State) (c : Nat) (k : Core) : (setCore s c k).startP = s.startP := rfl
@[simp] theorem setCore_startT (s : State) (c : Nat) (k : Core) : (setCore s c k).startT = s.startT := rfl
@[simp] theorem setCore_droppedP (s : State) (c : Nat) (k : Core) : (setCore s c k).droppedP = s.droppedP := rfl
@[simp] theorem setCore_droppedT (s : State) (c : Nat) (k : Core) : (setCore s c k).droppedT = s.droppedT := rfl
@[simp] theorem setCore_memsys (s : State) (c : Nat) (k : Core) : (setCore s c k).memsys = s.memsys := rfl
@[simp] theorem setCore_fab (s : State) (c : Nat) (k : Core) : (setCore s c k).fab = s.fab := rfl
@[simp] theorem setCore_steep (s : State) (c : Nat) (k : Core) : (setCore s c k).steep = s.steep := rfl
@[simp] theorem setCore_boot (s : State) (c : Nat) (k : Core) : (setCore s c k).boot = s.boot := rfl
@[simp] theorem setCore_board (s : State) (c : Nat) (k : Core) : (setCore s c k).board = s.board := rfl
@[simp] theorem setCore_power (s : State) (c : Nat) (k : Core) : (setCore s c k).power = s.power := rfl
@[simp] theorem setCore_pending (s : State) (c : Nat) (k : Core) : (setCore s c k).pending = s.pending := rfl

@[simp] theorem setCtx_part (s : State) (n : Nat) (x : Ctx) : (setCtx s n x).part = s.part := rfl
@[simp] theorem setCtx_time (s : State) (n : Nat) (x : Ctx) : (setCtx s n x).time = s.time := rfl
@[simp] theorem setCtx_tsTurn (s : State) (n : Nat) (x : Ctx) : (setCtx s n x).tsTurn = s.tsTurn := rfl
@[simp] theorem setCtx_draws (s : State) (n : Nat) (x : Ctx) : (setCtx s n x).draws = s.draws := rfl
@[simp] theorem setCtx_cores (s : State) (n : Nat) (x : Ctx) : (setCtx s n x).cores = s.cores := rfl
@[simp] theorem setCtx_mem (s : State) (n : Nat) (x : Ctx) : (setCtx s n x).mem = s.mem := rfl
@[simp] theorem setCtx_poison (s : State) (n : Nat) (x : Ctx) : (setCtx s n x).poison = s.poison := rfl
@[simp] theorem setCtx_flaws (s : State) (n : Nat) (x : Ctx) : (setCtx s n x).flaws = s.flaws := rfl
@[simp] theorem setCtx_unseen (s : State) (n : Nat) (x : Ctx) : (setCtx s n x).unseen = s.unseen := rfl
@[simp] theorem setCtx_segbuf (s : State) (n : Nat) (x : Ctx) : (setCtx s n x).segbuf = s.segbuf := rfl
@[simp] theorem setCtx_objs (s : State) (n : Nat) (x : Ctx) : (setCtx s n x).objs = s.objs := rfl
@[simp] theorem setCtx_vercaps (s : State) (n : Nat) (x : Ctx) : (setCtx s n x).vercaps = s.vercaps := rfl
@[simp] theorem setCtx_ts (s : State) (n : Nat) (x : Ctx) : (setCtx s n x).ts = s.ts := rfl
@[simp] theorem setCtx_so (s : State) (n : Nat) (x : Ctx) : (setCtx s n x).so = s.so := rfl
@[simp] theorem setCtx_groups (s : State) (n : Nat) (x : Ctx) : (setCtx s n x).groups = s.groups := rfl
@[simp] theorem setCtx_startP (s : State) (n : Nat) (x : Ctx) : (setCtx s n x).startP = s.startP := rfl
@[simp] theorem setCtx_startT (s : State) (n : Nat) (x : Ctx) : (setCtx s n x).startT = s.startT := rfl
@[simp] theorem setCtx_droppedP (s : State) (n : Nat) (x : Ctx) : (setCtx s n x).droppedP = s.droppedP := rfl
@[simp] theorem setCtx_droppedT (s : State) (n : Nat) (x : Ctx) : (setCtx s n x).droppedT = s.droppedT := rfl
@[simp] theorem setCtx_memsys (s : State) (n : Nat) (x : Ctx) : (setCtx s n x).memsys = s.memsys := rfl
@[simp] theorem setCtx_fab (s : State) (n : Nat) (x : Ctx) : (setCtx s n x).fab = s.fab := rfl
@[simp] theorem setCtx_steep (s : State) (n : Nat) (x : Ctx) : (setCtx s n x).steep = s.steep := rfl
@[simp] theorem setCtx_boot (s : State) (n : Nat) (x : Ctx) : (setCtx s n x).boot = s.boot := rfl
@[simp] theorem setCtx_board (s : State) (n : Nat) (x : Ctx) : (setCtx s n x).board = s.board := rfl
@[simp] theorem setCtx_power (s : State) (n : Nat) (x : Ctx) : (setCtx s n x).power = s.power := rfl
@[simp] theorem setCtx_pending (s : State) (n : Nat) (x : Ctx) : (setCtx s n x).pending = s.pending := rfl

@[simp] theorem setSo_part (s : State) (n : Nat) (o : SyncObj) : (setSo s n o).part = s.part := rfl
@[simp] theorem setSo_time (s : State) (n : Nat) (o : SyncObj) : (setSo s n o).time = s.time := rfl
@[simp] theorem setSo_tsTurn (s : State) (n : Nat) (o : SyncObj) : (setSo s n o).tsTurn = s.tsTurn := rfl
@[simp] theorem setSo_draws (s : State) (n : Nat) (o : SyncObj) : (setSo s n o).draws = s.draws := rfl
@[simp] theorem setSo_cores (s : State) (n : Nat) (o : SyncObj) : (setSo s n o).cores = s.cores := rfl
@[simp] theorem setSo_mem (s : State) (n : Nat) (o : SyncObj) : (setSo s n o).mem = s.mem := rfl
@[simp] theorem setSo_poison (s : State) (n : Nat) (o : SyncObj) : (setSo s n o).poison = s.poison := rfl
@[simp] theorem setSo_flaws (s : State) (n : Nat) (o : SyncObj) : (setSo s n o).flaws = s.flaws := rfl
@[simp] theorem setSo_unseen (s : State) (n : Nat) (o : SyncObj) : (setSo s n o).unseen = s.unseen := rfl
@[simp] theorem setSo_ctxs (s : State) (n : Nat) (o : SyncObj) : (setSo s n o).ctxs = s.ctxs := rfl
@[simp] theorem setSo_segbuf (s : State) (n : Nat) (o : SyncObj) : (setSo s n o).segbuf = s.segbuf := rfl
@[simp] theorem setSo_objs (s : State) (n : Nat) (o : SyncObj) : (setSo s n o).objs = s.objs := rfl
@[simp] theorem setSo_vercaps (s : State) (n : Nat) (o : SyncObj) : (setSo s n o).vercaps = s.vercaps := rfl
@[simp] theorem setSo_ts (s : State) (n : Nat) (o : SyncObj) : (setSo s n o).ts = s.ts := rfl
@[simp] theorem setSo_groups (s : State) (n : Nat) (o : SyncObj) : (setSo s n o).groups = s.groups := rfl
@[simp] theorem setSo_startP (s : State) (n : Nat) (o : SyncObj) : (setSo s n o).startP = s.startP := rfl
@[simp] theorem setSo_startT (s : State) (n : Nat) (o : SyncObj) : (setSo s n o).startT = s.startT := rfl
@[simp] theorem setSo_droppedP (s : State) (n : Nat) (o : SyncObj) : (setSo s n o).droppedP = s.droppedP := rfl
@[simp] theorem setSo_droppedT (s : State) (n : Nat) (o : SyncObj) : (setSo s n o).droppedT = s.droppedT := rfl
@[simp] theorem setSo_memsys (s : State) (n : Nat) (o : SyncObj) : (setSo s n o).memsys = s.memsys := rfl
@[simp] theorem setSo_fab (s : State) (n : Nat) (o : SyncObj) : (setSo s n o).fab = s.fab := rfl
@[simp] theorem setSo_steep (s : State) (n : Nat) (o : SyncObj) : (setSo s n o).steep = s.steep := rfl
@[simp] theorem setSo_boot (s : State) (n : Nat) (o : SyncObj) : (setSo s n o).boot = s.boot := rfl
@[simp] theorem setSo_board (s : State) (n : Nat) (o : SyncObj) : (setSo s n o).board = s.board := rfl
@[simp] theorem setSo_power (s : State) (n : Nat) (o : SyncObj) : (setSo s n o).power = s.power := rfl
@[simp] theorem setSo_pending (s : State) (n : Nat) (o : SyncObj) : (setSo s n o).pending = s.pending := rfl

@[simp] theorem setTs_part (s : State) (n : Nat) (x : Ts) : (setTs s n x).part = s.part := rfl
@[simp] theorem setTs_time (s : State) (n : Nat) (x : Ts) : (setTs s n x).time = s.time := rfl
@[simp] theorem setTs_tsTurn (s : State) (n : Nat) (x : Ts) : (setTs s n x).tsTurn = s.tsTurn := rfl
@[simp] theorem setTs_draws (s : State) (n : Nat) (x : Ts) : (setTs s n x).draws = s.draws := rfl
@[simp] theorem setTs_cores (s : State) (n : Nat) (x : Ts) : (setTs s n x).cores = s.cores := rfl
@[simp] theorem setTs_mem (s : State) (n : Nat) (x : Ts) : (setTs s n x).mem = s.mem := rfl
@[simp] theorem setTs_poison (s : State) (n : Nat) (x : Ts) : (setTs s n x).poison = s.poison := rfl
@[simp] theorem setTs_flaws (s : State) (n : Nat) (x : Ts) : (setTs s n x).flaws = s.flaws := rfl
@[simp] theorem setTs_unseen (s : State) (n : Nat) (x : Ts) : (setTs s n x).unseen = s.unseen := rfl
@[simp] theorem setTs_ctxs (s : State) (n : Nat) (x : Ts) : (setTs s n x).ctxs = s.ctxs := rfl
@[simp] theorem setTs_segbuf (s : State) (n : Nat) (x : Ts) : (setTs s n x).segbuf = s.segbuf := rfl
@[simp] theorem setTs_objs (s : State) (n : Nat) (x : Ts) : (setTs s n x).objs = s.objs := rfl
@[simp] theorem setTs_vercaps (s : State) (n : Nat) (x : Ts) : (setTs s n x).vercaps = s.vercaps := rfl
@[simp] theorem setTs_so (s : State) (n : Nat) (x : Ts) : (setTs s n x).so = s.so := rfl
@[simp] theorem setTs_groups (s : State) (n : Nat) (x : Ts) : (setTs s n x).groups = s.groups := rfl
@[simp] theorem setTs_startP (s : State) (n : Nat) (x : Ts) : (setTs s n x).startP = s.startP := rfl
@[simp] theorem setTs_startT (s : State) (n : Nat) (x : Ts) : (setTs s n x).startT = s.startT := rfl
@[simp] theorem setTs_droppedP (s : State) (n : Nat) (x : Ts) : (setTs s n x).droppedP = s.droppedP := rfl
@[simp] theorem setTs_droppedT (s : State) (n : Nat) (x : Ts) : (setTs s n x).droppedT = s.droppedT := rfl
@[simp] theorem setTs_memsys (s : State) (n : Nat) (x : Ts) : (setTs s n x).memsys = s.memsys := rfl
@[simp] theorem setTs_fab (s : State) (n : Nat) (x : Ts) : (setTs s n x).fab = s.fab := rfl
@[simp] theorem setTs_steep (s : State) (n : Nat) (x : Ts) : (setTs s n x).steep = s.steep := rfl
@[simp] theorem setTs_boot (s : State) (n : Nat) (x : Ts) : (setTs s n x).boot = s.boot := rfl
@[simp] theorem setTs_board (s : State) (n : Nat) (x : Ts) : (setTs s n x).board = s.board := rfl
@[simp] theorem setTs_power (s : State) (n : Nat) (x : Ts) : (setTs s n x).power = s.power := rfl
@[simp] theorem setTs_pending (s : State) (n : Nat) (x : Ts) : (setTs s n x).pending = s.pending := rfl

@[simp] theorem setLink_part (s : State) (n : Nat) (k : Link) : (setLink s n k).part = s.part := rfl
@[simp] theorem setLink_time (s : State) (n : Nat) (k : Link) : (setLink s n k).time = s.time := rfl
@[simp] theorem setLink_tsTurn (s : State) (n : Nat) (k : Link) : (setLink s n k).tsTurn = s.tsTurn := rfl
@[simp] theorem setLink_draws (s : State) (n : Nat) (k : Link) : (setLink s n k).draws = s.draws := rfl
@[simp] theorem setLink_cores (s : State) (n : Nat) (k : Link) : (setLink s n k).cores = s.cores := rfl
@[simp] theorem setLink_mem (s : State) (n : Nat) (k : Link) : (setLink s n k).mem = s.mem := rfl
@[simp] theorem setLink_poison (s : State) (n : Nat) (k : Link) : (setLink s n k).poison = s.poison := rfl
@[simp] theorem setLink_flaws (s : State) (n : Nat) (k : Link) : (setLink s n k).flaws = s.flaws := rfl
@[simp] theorem setLink_unseen (s : State) (n : Nat) (k : Link) : (setLink s n k).unseen = s.unseen := rfl
@[simp] theorem setLink_ctxs (s : State) (n : Nat) (k : Link) : (setLink s n k).ctxs = s.ctxs := rfl
@[simp] theorem setLink_segbuf (s : State) (n : Nat) (k : Link) : (setLink s n k).segbuf = s.segbuf := rfl
@[simp] theorem setLink_objs (s : State) (n : Nat) (k : Link) : (setLink s n k).objs = s.objs := rfl
@[simp] theorem setLink_vercaps (s : State) (n : Nat) (k : Link) : (setLink s n k).vercaps = s.vercaps := rfl
@[simp] theorem setLink_ts (s : State) (n : Nat) (k : Link) : (setLink s n k).ts = s.ts := rfl
@[simp] theorem setLink_so (s : State) (n : Nat) (k : Link) : (setLink s n k).so = s.so := rfl
@[simp] theorem setLink_groups (s : State) (n : Nat) (k : Link) : (setLink s n k).groups = s.groups := rfl
@[simp] theorem setLink_startP (s : State) (n : Nat) (k : Link) : (setLink s n k).startP = s.startP := rfl
@[simp] theorem setLink_startT (s : State) (n : Nat) (k : Link) : (setLink s n k).startT = s.startT := rfl
@[simp] theorem setLink_droppedP (s : State) (n : Nat) (k : Link) : (setLink s n k).droppedP = s.droppedP := rfl
@[simp] theorem setLink_droppedT (s : State) (n : Nat) (k : Link) : (setLink s n k).droppedT = s.droppedT := rfl
@[simp] theorem setLink_memsys (s : State) (n : Nat) (k : Link) : (setLink s n k).memsys = s.memsys := rfl
@[simp] theorem setLink_steep (s : State) (n : Nat) (k : Link) : (setLink s n k).steep = s.steep := rfl
@[simp] theorem setLink_boot (s : State) (n : Nat) (k : Link) : (setLink s n k).boot = s.boot := rfl
@[simp] theorem setLink_board (s : State) (n : Nat) (k : Link) : (setLink s n k).board = s.board := rfl
@[simp] theorem setLink_power (s : State) (n : Nat) (k : Link) : (setLink s n k).power = s.power := rfl
@[simp] theorem setLink_pending (s : State) (n : Nat) (k : Link) : (setLink s n k).pending = s.pending := rfl

@[simp] theorem setGrp_part (s : State) (g : Nat) (x : Group) : (setGrp s g x).part = s.part := rfl
@[simp] theorem setGrp_time (s : State) (g : Nat) (x : Group) : (setGrp s g x).time = s.time := rfl
@[simp] theorem setGrp_tsTurn (s : State) (g : Nat) (x : Group) : (setGrp s g x).tsTurn = s.tsTurn := rfl
@[simp] theorem setGrp_draws (s : State) (g : Nat) (x : Group) : (setGrp s g x).draws = s.draws := rfl
@[simp] theorem setGrp_cores (s : State) (g : Nat) (x : Group) : (setGrp s g x).cores = s.cores := rfl
@[simp] theorem setGrp_mem (s : State) (g : Nat) (x : Group) : (setGrp s g x).mem = s.mem := rfl
@[simp] theorem setGrp_poison (s : State) (g : Nat) (x : Group) : (setGrp s g x).poison = s.poison := rfl
@[simp] theorem setGrp_flaws (s : State) (g : Nat) (x : Group) : (setGrp s g x).flaws = s.flaws := rfl
@[simp] theorem setGrp_unseen (s : State) (g : Nat) (x : Group) : (setGrp s g x).unseen = s.unseen := rfl
@[simp] theorem setGrp_ctxs (s : State) (g : Nat) (x : Group) : (setGrp s g x).ctxs = s.ctxs := rfl
@[simp] theorem setGrp_segbuf (s : State) (g : Nat) (x : Group) : (setGrp s g x).segbuf = s.segbuf := rfl
@[simp] theorem setGrp_objs (s : State) (g : Nat) (x : Group) : (setGrp s g x).objs = s.objs := rfl
@[simp] theorem setGrp_vercaps (s : State) (g : Nat) (x : Group) : (setGrp s g x).vercaps = s.vercaps := rfl
@[simp] theorem setGrp_ts (s : State) (g : Nat) (x : Group) : (setGrp s g x).ts = s.ts := rfl
@[simp] theorem setGrp_so (s : State) (g : Nat) (x : Group) : (setGrp s g x).so = s.so := rfl
@[simp] theorem setGrp_startP (s : State) (g : Nat) (x : Group) : (setGrp s g x).startP = s.startP := rfl
@[simp] theorem setGrp_startT (s : State) (g : Nat) (x : Group) : (setGrp s g x).startT = s.startT := rfl
@[simp] theorem setGrp_droppedP (s : State) (g : Nat) (x : Group) : (setGrp s g x).droppedP = s.droppedP := rfl
@[simp] theorem setGrp_droppedT (s : State) (g : Nat) (x : Group) : (setGrp s g x).droppedT = s.droppedT := rfl
@[simp] theorem setGrp_memsys (s : State) (g : Nat) (x : Group) : (setGrp s g x).memsys = s.memsys := rfl
@[simp] theorem setGrp_fab (s : State) (g : Nat) (x : Group) : (setGrp s g x).fab = s.fab := rfl
@[simp] theorem setGrp_steep (s : State) (g : Nat) (x : Group) : (setGrp s g x).steep = s.steep := rfl
@[simp] theorem setGrp_boot (s : State) (g : Nat) (x : Group) : (setGrp s g x).boot = s.boot := rfl
@[simp] theorem setGrp_board (s : State) (g : Nat) (x : Group) : (setGrp s g x).board = s.board := rfl
@[simp] theorem setGrp_power (s : State) (g : Nat) (x : Group) : (setGrp s g x).power = s.power := rfl
@[simp] theorem setGrp_pending (s : State) (g : Nat) (x : Group) : (setGrp s g x).pending = s.pending := rfl

@[simp] theorem notify_part (s : State) (k w : Nat) : (notify s k w).part = s.part := rfl
@[simp] theorem notify_time (s : State) (k w : Nat) : (notify s k w).time = s.time := rfl
@[simp] theorem notify_tsTurn (s : State) (k w : Nat) : (notify s k w).tsTurn = s.tsTurn := rfl
@[simp] theorem notify_draws (s : State) (k w : Nat) : (notify s k w).draws = s.draws := rfl
@[simp] theorem notify_cores (s : State) (k w : Nat) : (notify s k w).cores = s.cores := rfl
@[simp] theorem notify_mem (s : State) (k w : Nat) : (notify s k w).mem = s.mem := rfl
@[simp] theorem notify_poison (s : State) (k w : Nat) : (notify s k w).poison = s.poison := rfl
@[simp] theorem notify_flaws (s : State) (k w : Nat) : (notify s k w).flaws = s.flaws := rfl
@[simp] theorem notify_unseen (s : State) (k w : Nat) : (notify s k w).unseen = s.unseen := rfl
@[simp] theorem notify_ctxs (s : State) (k w : Nat) : (notify s k w).ctxs = s.ctxs := rfl
@[simp] theorem notify_segbuf (s : State) (k w : Nat) : (notify s k w).segbuf = s.segbuf := rfl
@[simp] theorem notify_objs (s : State) (k w : Nat) : (notify s k w).objs = s.objs := rfl
@[simp] theorem notify_vercaps (s : State) (k w : Nat) : (notify s k w).vercaps = s.vercaps := rfl
@[simp] theorem notify_ts (s : State) (k w : Nat) : (notify s k w).ts = s.ts := rfl
@[simp] theorem notify_so (s : State) (k w : Nat) : (notify s k w).so = s.so := rfl
@[simp] theorem notify_groups (s : State) (k w : Nat) : (notify s k w).groups = s.groups := rfl
@[simp] theorem notify_startP (s : State) (k w : Nat) : (notify s k w).startP = s.startP := rfl
@[simp] theorem notify_startT (s : State) (k w : Nat) : (notify s k w).startT = s.startT := rfl
@[simp] theorem notify_droppedP (s : State) (k w : Nat) : (notify s k w).droppedP = s.droppedP := rfl
@[simp] theorem notify_droppedT (s : State) (k w : Nat) : (notify s k w).droppedT = s.droppedT := rfl
@[simp] theorem notify_fab (s : State) (k w : Nat) : (notify s k w).fab = s.fab := rfl
@[simp] theorem notify_steep (s : State) (k w : Nat) : (notify s k w).steep = s.steep := rfl
@[simp] theorem notify_boot (s : State) (k w : Nat) : (notify s k w).boot = s.boot := rfl
@[simp] theorem notify_board (s : State) (k w : Nat) : (notify s k w).board = s.board := rfl
@[simp] theorem notify_power (s : State) (k w : Nat) : (notify s k w).power = s.power := rfl
@[simp] theorem notify_pending (s : State) (k w : Nat) : (notify s k w).pending = s.pending := rfl

@[simp] theorem setExt_part (s : State) (e : ExtLink) : (setExt s e).part = s.part := rfl
@[simp] theorem setExt_time (s : State) (e : ExtLink) : (setExt s e).time = s.time := rfl
@[simp] theorem setExt_tsTurn (s : State) (e : ExtLink) : (setExt s e).tsTurn = s.tsTurn := rfl
@[simp] theorem setExt_draws (s : State) (e : ExtLink) : (setExt s e).draws = s.draws := rfl
@[simp] theorem setExt_cores (s : State) (e : ExtLink) : (setExt s e).cores = s.cores := rfl
@[simp] theorem setExt_mem (s : State) (e : ExtLink) : (setExt s e).mem = s.mem := rfl
@[simp] theorem setExt_poison (s : State) (e : ExtLink) : (setExt s e).poison = s.poison := rfl
@[simp] theorem setExt_flaws (s : State) (e : ExtLink) : (setExt s e).flaws = s.flaws := rfl
@[simp] theorem setExt_unseen (s : State) (e : ExtLink) : (setExt s e).unseen = s.unseen := rfl
@[simp] theorem setExt_ctxs (s : State) (e : ExtLink) : (setExt s e).ctxs = s.ctxs := rfl
@[simp] theorem setExt_segbuf (s : State) (e : ExtLink) : (setExt s e).segbuf = s.segbuf := rfl
@[simp] theorem setExt_objs (s : State) (e : ExtLink) : (setExt s e).objs = s.objs := rfl
@[simp] theorem setExt_vercaps (s : State) (e : ExtLink) : (setExt s e).vercaps = s.vercaps := rfl
@[simp] theorem setExt_ts (s : State) (e : ExtLink) : (setExt s e).ts = s.ts := rfl
@[simp] theorem setExt_so (s : State) (e : ExtLink) : (setExt s e).so = s.so := rfl
@[simp] theorem setExt_groups (s : State) (e : ExtLink) : (setExt s e).groups = s.groups := rfl
@[simp] theorem setExt_startP (s : State) (e : ExtLink) : (setExt s e).startP = s.startP := rfl
@[simp] theorem setExt_startT (s : State) (e : ExtLink) : (setExt s e).startT = s.startT := rfl
@[simp] theorem setExt_droppedP (s : State) (e : ExtLink) : (setExt s e).droppedP = s.droppedP := rfl
@[simp] theorem setExt_droppedT (s : State) (e : ExtLink) : (setExt s e).droppedT = s.droppedT := rfl
@[simp] theorem setExt_memsys (s : State) (e : ExtLink) : (setExt s e).memsys = s.memsys := rfl
@[simp] theorem setExt_fab (s : State) (e : ExtLink) : (setExt s e).fab = s.fab := rfl
@[simp] theorem setExt_steep (s : State) (e : ExtLink) : (setExt s e).steep = s.steep := rfl
@[simp] theorem setExt_boot (s : State) (e : ExtLink) : (setExt s e).boot = s.boot := rfl
@[simp] theorem setExt_power (s : State) (e : ExtLink) : (setExt s e).power = s.power := rfl
@[simp] theorem setExt_pending (s : State) (e : ExtLink) : (setExt s e).pending = s.pending := rfl

@[simp] theorem coreOf_setCore (s : State) (c : Nat) (k : Core) : coreOf (setCore s c k) c = k := by simp [coreOf, setCore]

theorem coreOf_setCore_ne (s : State) (c c' : Nat) (k : Core) (h : c' ≠ c) : coreOf (setCore s c k) c' = coreOf s c' := by
  simp [coreOf, setCore, tabGet_tabSet_ne _ _ _ _ _ h]

@[simp] theorem ctxOf_setCtx (s : State) (n : Nat) (x : Ctx) : ctxOf (setCtx s n x) n = x := by simp [ctxOf, setCtx]

@[simp] theorem soOf_setSo (s : State) (n : Nat) (o : SyncObj) : soOf (setSo s n o) n = o := by simp [soOf, setSo]

theorem soOf_setSo_ne (s : State) (n m : Nat) (o : SyncObj) (h : m ≠ n) : soOf (setSo s n o) m = soOf s m := by
  simp [soOf, setSo, tabGet_tabSet_ne _ _ _ _ _ h]

@[simp] theorem tsOf_setTs (s : State) (n : Nat) (x : Ts) : tsOf (setTs s n x) n = x := by simp [tsOf, setTs]

theorem tsOf_setTs_ne (s : State) (n m : Nat) (x : Ts) (h : m ≠ n) : tsOf (setTs s n x) m = tsOf s m := by
  simp [tsOf, setTs, tabGet_tabSet_ne _ _ _ _ _ h]

@[simp] theorem linkOf_setLink (s : State) (n : Nat) (k : Link) : linkOf (setLink s n k) n = k := by simp [linkOf, setLink]

theorem linkOf_setLink_ne (s : State) (n m : Nat) (k : Link) (h : m ≠ n) : linkOf (setLink s n k) m = linkOf s m := by
  simp [linkOf, setLink, tabGet_tabSet_ne _ _ _ _ _ h]

@[simp] theorem grpOf_setGrp (s : State) (g : Nat) (x : Group) : grpOf (setGrp s g x) g = x := by simp [grpOf, setGrp]

@[simp] theorem thOf_setTh (s : State) (c t : Nat) (x : Thread) : thOf (setTh s c t x) c t = x := by
  simp [thOf, setTh, threadOf]

theorem thOf_setTh_ne (s : State) (c t t' : Nat) (x : Thread) (h : t' ≠ t) : thOf (setTh s c t x) c t' = thOf s c t' := by
  simp [thOf, setTh, threadOf, tabGet_tabSet_ne _ _ _ _ _ h]

/-- R112: S0 reads zero. -/
@[simp] theorem getS_zero (x : Thread) : getS x 0#5 = 0#64 := rfl

/-- R112: a register read back after a write; S0 discards it. -/
theorem getS_putS_same (x : Thread) (r : BitVec 5) (v : Word) : getS (putS x r v) r = if r = 0#5 then 0#64 else v := by
  unfold getS putS
  split <;> simp

theorem getS_putS_ne (x : Thread) (r q : BitVec 5) (v : Word) (h : q ≠ r) : getS (putS x r v) q = getS x q := by
  unfold getS putS
  by_cases hr : r = 0#5
  · simp [hr]
  · have : q.toNat ≠ r.toNat := fun e => h (BitVec.eq_of_toNat_eq e)
    by_cases hq : q = 0#5
    · simp [hq]
    · simp [hr, hq, tabGet_tabSet_ne _ _ _ _ _ this]

/-- R152: M0 reads all ones. -/
@[simp] theorem getM_zero (x : Thread) : getM x 0#4 = BitVec.allOnes 1024 := rfl

theorem getM_putM_same (x : Thread) (r : BitVec 4) (v : BitVec 1024) :
    getM (putM x r v) r = if r = 0#4 then BitVec.allOnes 1024 else v := by
  unfold getM putM
  split <;> simp

@[simp] theorem getV_putV_same (x : Thread) (r : BitVec 5) (v : BitVec 8192) : getV (putV x r v) r = v := by
  simp [getV, putV]

theorem getV_putV_ne (x : Thread) (r q : BitVec 5) (v : BitVec 8192) (h : q ≠ r) : getV (putV x r v) q = getV x q := by
  have : q.toNat ≠ r.toNat := fun e => h (BitVec.eq_of_toNat_eq e)
  simp [getV, putV, tabGet_tabSet_ne _ _ _ _ _ this]

end Sys2Proof.Machine
end

