-- ==== Sys2Proof/Laws/Ops.lean ====
section
/-!
SUPPORT. Sys2Proof/Laws/Ops.lean: what the shared operations on cores and threads do: issuing, completing, waiting, exception entry.
-/

namespace Sys2Proof.Machine

/-- What spending clocks leaves of a core. -/
theorem spend_eq (k : Core) (t n : Nat) :
    ∃ p q w, spend k t n = { k with clk := k.clk + n, ran := k.ran + n, usedP := p, usedT := q, win := w } := by
  unfold spend rollWindow
  dsimp only
  split <;> split <;> exact ⟨_, _, _, rfl⟩

/-- Passing the turn changes which thread is current and how long it has run. -/
theorem afterTurn_eq (k : Core) (t : Nat) : ∃ cur ran, afterTurn k t = { k with cur := cur, ran := ran } := by
  unfold afterTurn
  split
  · exact ⟨_, _, rfl⟩
  · split
    · exact ⟨k.cur, k.ran, rfl⟩
    · unfold switchThread
      split
      · exact ⟨_, _, rfl⟩
      · exact ⟨k.cur, _, rfl⟩

theorem settle_eq (k : Core) : ∃ cur ran, settle k = { k with cur := cur, ran := ran } := by
  unfold settle
  split
  · exact ⟨k.cur, k.ran, rfl⟩
  · split
    · exact ⟨_, _, rfl⟩
    · exact ⟨k.cur, k.ran, rfl⟩

theorem noteIssue_eq (k : Core) (t : Nat) (x : Thread) : ∃ l, noteIssue k t x = { k with issued := l } := by
  unfold noteIssue
  dsimp only
  split <;> split <;> first | exact ⟨k.issued, rfl⟩ | exact ⟨_, rfl⟩

/-- The core after thread t has held it with the registers of `x`. -/
theorem held_core (s : State) (c t : Nat) (x : Thread) (n : Nat) :
    ∃ ran cur p q w l, coreOf (held s c t x n) c =
      { coreOf s c with
        th := tabSet (coreOf s c).th t x, clk := (coreOf s c).clk + n, ran := ran, cur := cur, usedP := p, usedT := q, win := w,
        issued := l } := by
  obtain ⟨l, hl⟩ := noteIssue_eq (coreOf s c) t x
  obtain ⟨p, q, w, hs⟩ := spend_eq { (noteIssue (coreOf s c) t x) with th := tabSet (noteIssue (coreOf s c) t x).th t x } t n
  obtain ⟨cur, ran, ha⟩ := afterTurn_eq
    (spend { (noteIssue (coreOf s c) t x) with th := tabSet (noteIssue (coreOf s c) t x).th t x } t n) t
  refine ⟨ran, cur, p, q, w, l, ?_⟩
  unfold held
  simp only [coreOf_setCore]
  rw [ha, hs, hl]

@[simp] theorem held_clk (s : State) (c t : Nat) (x : Thread) (n : Nat) :
    (coreOf (held s c t x n) c).clk = (coreOf s c).clk + n := by
  obtain ⟨_, _, _, _, _, _, h⟩ := held_core s c t x n
  rw [h]

@[simp] theorem thOf_held (s : State) (c t : Nat) (x : Thread) (n : Nat) : thOf (held s c t x n) c t = x := by
  obtain ⟨_, _, _, _, _, _, h⟩ := held_core s c t x n
  unfold thOf threadOf
  rw [h]
  simp

theorem thOf_held_ne (s : State) (c t t' : Nat) (x : Thread) (n : Nat) (ht : t' ≠ t) :
    thOf (held s c t x n) c t' = thOf s c t' := by
  obtain ⟨_, _, _, _, _, _, h⟩ := held_core s c t x n
  unfold thOf threadOf
  rw [h]
  simp [tabGet_tabSet_ne _ _ _ _ _ ht]

theorem coreOf_held_ne (s : State) (c c' t : Nat) (x : Thread) (n : Nat) (h : c' ≠ c) :
    coreOf (held s c t x n) c' = coreOf s c' := coreOf_setCore_ne _ _ _ _ h

theorem held_rest (s : State) (c t : Nat) (x : Thread) (n : Nat) :
    held s c t x n = { s with cores := (held s c t x n).cores } := rfl

/-- R75 to R77: a thread that gives up the core changes nothing beside itself and the core's turn and clock. -/
theorem onlyThread_held (s : State) (c t : Nat) (x : Thread) (n : Nat) : OnlyThread s (held s c t x n) c t := by
  obtain ⟨ran, cur, p, q, w, l, h⟩ := held_core s c t x n
  exact ⟨rfl, fun c' hc => coreOf_held_ne s c c' t x n hc, fun t' ht => thOf_held_ne s c t t' x n ht,
    _, _, _, _, _, _, _, _, h⟩

/-- What core c's loader and stream passes may change as its clock advances: memory, and in core c the matrix unit and the stream
engine. -/
def OnlyUnits (s s' : State) (c : Nat) : Prop :=
  MemOnly { s with cores := s'.cores } s' ∧ (∀ c', c' ≠ c → coreOf s' c' = coreOf s c') ∧
    ∃ mx se, coreOf s' c = { coreOf s c with mx := mx, se := se }

theorem onlyUnits_rfl (s : State) (c : Nat) : OnlyUnits s s c := ⟨rfl, fun _ _ => rfl, _, _, rfl⟩

theorem onlyUnits_trans {a b d : State} {c : Nat} (h : OnlyUnits a b c) (g : OnlyUnits b d c) : OnlyUnits a d c := by
  obtain ⟨h1, h2, mx, se, h3⟩ := h
  obtain ⟨g1, g2, mx', se', g3⟩ := g
  refine ⟨?_, fun c' hc => (g2 c' hc).trans (h2 c' hc), mx', se', by rw [g3, h3]⟩
  unfold MemOnly at *
  rw [g1, h1]

theorem onlyUnits_mem {s s' : State} (c : Nat) (h : MemOnly s s') : OnlyUnits s s' c := by
  have e : s'.cores = s.cores := by rw [h]
  refine ⟨?_, fun c' _ => by unfold coreOf; rw [e], (coreOf s c).mx, (coreOf s c).se, by unfold coreOf; rw [e]⟩
  unfold MemOnly at *
  rw [e]
  exact h

theorem onlyUnits_setMx (s : State) (c : Nat) (m : Matrix) : OnlyUnits s (setMx s c m) c :=
  ⟨rfl, fun _ h => coreOf_setCore_ne _ _ _ _ h, m, _, coreOf_setCore _ _ _⟩

theorem onlyUnits_setSe (s : State) (c : Nat) (e : StreamEng) : OnlyUnits s (setSe s c e) c :=
  ⟨rfl, fun _ h => coreOf_setCore_ne _ _ _ _ h, _, e, coreOf_setCore _ _ _⟩

theorem onlyUnits_streamWrites (s : State) (c clk : Nat) : OnlyUnits s (streamWrites s c clk) c := by
  unfold streamWrites
  dsimp only
  split
  · exact onlyUnits_rfl s c
  · exact onlyUnits_trans (onlyUnits_mem c (memOnly_foldl _ (fun s w => memOnly_memStore s _ _) _ s)) (onlyUnits_setSe _ c _)

theorem onlyUnits_loadGroup (s : State) (c clk : Nat) : OnlyUnits s (loadGroup s c clk) c := by
  unfold loadGroup
  dsimp only
  split
  · exact onlyUnits_rfl s c
  · have h := onlyUnits_mem c (memOnly_foldl _ (fun s (e : Nat × Nat) => memOnly_decodeRead s e.1 e.2) (takeSrc 512 (coreOf s c).mx.loadSrc).1 s)
    split
    · exact onlyUnits_trans h (onlyUnits_setMx _ c _)
    · exact onlyUnits_trans h (onlyUnits_setMx _ c _)

/-- R131, R134: the core's loader and stream passes change memory, the matrix unit and the stream engine, and nothing else. -/
theorem onlyUnits_catchUpFrom (c clk n : Nat) : ∀ s, OnlyUnits s (catchUpFrom c clk n s) c := by
  induction n with
  | zero => exact fun s => onlyUnits_streamWrites s c clk
  | succ n ih =>
    intro s
    unfold catchUpFrom
    dsimp only
    split
    · exact onlyUnits_trans (onlyUnits_trans (onlyUnits_streamWrites s c _) (onlyUnits_loadGroup _ c clk)) (ih _)
    · exact onlyUnits_streamWrites s c clk

theorem onlyUnits_catchUp (s : State) (c : Nat) : OnlyUnits s (catchUp s c) c := onlyUnits_catchUpFrom c _ 128 s

@[simp] theorem thOf_catchUp (s : State) (c t : Nat) : thOf (catchUp s c) c t = thOf s c t := by
  obtain ⟨_, _, _, _, h⟩ := onlyUnits_catchUp s c
  unfold thOf
  rw [h]
  rfl

@[simp] theorem catchUp_clk (s : State) (c : Nat) : (coreOf (catchUp s c) c).clk = (coreOf s c).clk := by
  obtain ⟨_, _, _, _, h⟩ := onlyUnits_catchUp s c
  rw [h]

/-- A core whose loader is idle and whose stream engine has no write to make leaves everything as it is. -/
theorem catchUp_idle (s : State) (c : Nat) (hl : (coreOf s c).mx.loadSrc = [])
    (hw : writesBefore (coreOf s c).se (coreOf s c).clk = []) : catchUp s c = s := by
  unfold catchUp catchUpTo
  rw [catchUpFrom]
  simp [hl, streamWrites, hw]

@[simp] theorem place_clk (s : State) (c t : Nat) (x : Thread) (n : Nat) :
    (coreOf (place s c t x n) c).clk = (coreOf s c).clk + n := by
  unfold place
  simp

@[simp] theorem thOf_place (s : State) (c t : Nat) (x : Thread) (n : Nat) : thOf (place s c t x n) c t = x := by
  unfold place
  simp

/-- A completed instruction: what it leaves before the core's loader and stream passes go on. -/
theorem onlyThread_retire (s : State) (c t : Nat) (x : Thread) (pc : BitVec 18) (n : Nat) :
    ∃ s', retire s c t x pc n = catchUp s' c ∧ OnlyThread s s' c t := ⟨_, rfl, onlyThread_held s c t _ n⟩

@[simp] theorem retire_clk (s : State) (c t : Nat) (x : Thread) (pc : BitVec 18) (n : Nat) :
    (coreOf (retire s c t x pc n) c).clk = (coreOf s c).clk + n := place_clk s c t _ n

/-- A completed instruction: the thread's registers are those given, at the new place in the program. -/
theorem thOf_retire (s : State) (c t : Nat) (x : Thread) (pc : BitVec 18) (n : Nat) :
    ∃ st w, thOf (retire s c t x pc n) c t = { x with pc := pc, icount := x.icount + 1, st := st, wait := w } := by
  unfold retire
  simp only [thOf_place]
  split
  · exact ⟨_, _, rfl⟩
  · exact ⟨x.st, x.wait, rfl⟩

/-- A thread that waits. -/
@[simp] theorem thOf_goWait (s : State) (c t : Nat) (x : Thread) (w : Wait) (n : Nat) :
    thOf (goWait s c t x w n) c t = { x with st := .waiting, wait := w } := thOf_place s c t _ (n + 1)

/-- R75, R81, R87: an instruction that issues is its body on the running thread. -/
theorem issue_of_canIssue (c : BitVec 8) (len : BitVec 18) (regs : List Reg) (body : Nat → Thread → State → State) (s : State)
    (t : Nat) (h : CanIssue s c t len regs) : issue c len regs body s = body t (thOf s c.toNat t) s := by
  obtain ⟨h1, hv, hu, hf, h2, h3, h4⟩ := h
  unfold thOf at hu hf h2 h3 h4
  unfold issue
  simp only [h1, hv, h2, h4, hu, fetchDecode, hf, thOf]
  by_cases hl : len = 8#18
  · simp [hl, h3 hl]
  · simp [hl]

/-- R92: exception entry of a running thread that has no vector instruction in flight. -/
theorem enter_spec (s : State) (c t : Nat) (x : Thread) (cause : Nat) (addr : Word) (resume off : BitVec 18) (n : Nat)
    (h : vecDone (coreOf s c) t = true) : thOf (enter s c t x cause addr resume off n) c t = entered x cause addr resume off := by
  unfold enter
  simp [h]

end Sys2Proof.Machine
end

