-- ==== Sys2Proof/Tests/Slice0.lean ====
section
/-!
SUPPORT. Sys2Proof/Tests/Slice0.lean: ill-formed terms that the checks refuse, states that meet the hypotheses of the statements, clause by
clause, and single steps on the spec's own worked cases.
-/

section

set_option Elab.async false

open Sys2Proof Sys2Proof.Machine

namespace Sys2Proof.Tests

/-- A device whose core 0 is `k`. -/
def coreAt (k : Core) : State := { State.reset with cores := [(0, k)] }

/-- A thread at level S with exceptions enabled. -/
def x0 : Thread := { st := .ready, exm := false }

/-- A device whose core 0 runs `x` as thread 0. -/
def run0 (x : Thread) : State := coreAt { th := [(0, x)] }

/-- The first 2 MiB of scratchpad 0, at virtual address 0, with every right. -/
def spadSeg : Seg := { vbase := 0#48, len := 0x200000#48, pbase := 0x10000000000#64, rights := 0xFFFF#16, en := true }

/-- Context 0 with that segment. -/
def cx0 : Ctx := { ctxEn := true, segEn := true, segs := [(0, spadSeg)] }

/-- The same with context 0 mapping the scratchpad of core 0. -/
def mapped (s : State) : State := { s with ctxs := [(0, cx0)] }

end Sys2Proof.Tests

open Sys2Proof.Tests


namespace Sys2Proof.Tests

/-- 1 GiB of HBM at virtual address 2^32. -/
def hbmSeg : Seg := { vbase := 0x100000000#48, len := 0x40000000#48, pbase := 0#64, rights := 0xFFFF#16, en := true }

/-- Context 0 mapping scratchpad 0 at 0 and HBM at 2^32, of the state's thread 0. -/
def both (s : State) : State := { s with ctxs := [(0, { cx0 with segs := [(0, spadSeg), (1, hbmSeg)] })] }

/-- A thread at level U. -/
def xU : Thread := { x0 with lvl := .U }

/-- A thread with exceptions masked. -/
def xM : Thread := { x0 with exm := true }

/-- A thread with the operands of R116's worked division. -/
def xDiv : Thread := { x0 with s := [(1, 1000#64), (2, 10#64)] }

/-- A core of which world P has no instruction memory. -/
def noPart (x : Thread) : State := coreAt { th := [(0, x)], imSplit := 0#5 }

/-- A thread with the registers S1 = va and S2 = n. -/
def xAt (va n : Nat) : Thread := { x0 with s := [(1, BitVec.ofNat 64 va), (2, BitVec.ofNat 64 n)] }

end Sys2Proof.Tests

/-- R115, R117: every kind of immediate at the bounds of its clause. -/
theorem test_hyp_scalarArithmetic : CanIssue (run0 x0) 0#8 0 4#18 [.s 1#5, .s 2#5, .s 3#5] ∧
    CanIssue (run0 x0) 0#8 0 8#18 [.s 1#5, .s 2#5] ∧ (255#16).toNat < 256 ∧ 256 ≤ (256#16).toNat ∧ (thOf (run0 x0) 0 0).exm = false := by
  unfold CanIssue; decide

theorem test_hyp_scalarMulDiv : CanIssue (run0 xDiv) 0#8 0 4#18 [.s 3#5, .s 1#5, .s 2#5] ∧
    (let x := getS (thOf (run0 xDiv) 0 0) 1#5
     let y := getS (thOf (run0 xDiv) 0 0) 2#5
     x.toInt.natAbs < 2 ^ 10 ∧ 2 ^ 9 ≤ x.toInt.natAbs ∧ y.toNat < 2 ^ 4 ∧ 2 ^ 3 ≤ y.toNat) := by
  unfold CanIssue; decide

theorem test_hyp_controlFlow : CanIssue (run0 x0) 0#8 0 4#18 [.s 1#5, .s 2#5] ∧
    (thOf (run0 { x0 with rs := List.replicate 511 0#18 }) 0 0).rs.length < 512 ∧
    (thOf (run0 { x0 with rs := [4#18] }) 0 0).rs = 4#18 :: [] ∧
    CanIssue (run0 { x0 with rs := List.replicate 512 0#18 }) 0#8 0 4#18 [.s 1#5] ∧
    512 ≤ (thOf (run0 { x0 with rs := List.replicate 512 0#18 }) 0 0).rs.length ∧
    CanIssue (run0 { xU with rs := List.replicate 496 0#18 }) 0#8 0 4#18 [.s 1#5] ∧
    496 ≤ (thOf (run0 { xU with rs := List.replicate 496 0#18 }) 0 0).rs.length ∧
    (thOf (run0 x0) 0 0).rs = [] ∧ (thOf (run0 x0) 0 0).sb = [] ∧ (thOf (run0 x0) 0 0).exm = false := by
  unfold CanIssue; decide +kernel

theorem test_hyp_fetchOutsidePart : running (noPart x0) 0 = some 0 ∧ vecMayFault (coreOf (noPart x0) 0) 0 = false ∧
    vecMayFault (coreOf (noPart xM) 0) 0 = false ∧
    inPart (coreOf (noPart x0) 0) (worldOf (coreOf (noPart x0) 0) 0) (thOf (noPart x0) 0 0).pc = false ∧
    (thOf (noPart x0) 0 0).exm = false ∧ (thOf (noPart x0) 0 0).sb = [] ∧ running (noPart xM) 0 = some 0 ∧
    inPart (coreOf (noPart xM) 0) (worldOf (coreOf (noPart xM) 0) 0) (thOf (noPart xM) 0 0).pc = false ∧
    (thOf (noPart xM) 0 0).exm = true := by decide

theorem test_hyp_trapsAndReserved : ∀ x ∈ [x0, xM, xU], CanIssue (run0 x) 0#8 0 4#18 [.s 1#5, .s 2#5, .s 3#5] ∧
    CanIssue (run0 x) 0#8 0 4#18 [] ∧ Drained (run0 x) 0 0 := by
  unfold CanIssue Drained; decide

/-- R113: words whose major, FUNC, OP, LOP or CTL is unassigned, at a thread that can issue. -/
theorem test_hyp_instructionWords : decodeInstr 0#8 0xF0000000#32 0#32 = none ∧ decodeInstr 0#8 0x00000015#32 0#32 = none ∧
    decodeInstr 0#8 0x8000000F#32 0#32 = none ∧ decodeInstr 0#8 0xDC007000#32 0#32 = none ∧ decodeInstr 0#8 0xBC00000F#32 0#32 = none ∧
    decodeInstr 0#8 0xCC000007#32 0#32 = none ∧ instrBytes 0xDC007000#32 = 8 ∧ instrBytes 0xF0000000#32 = 4 ∧
    (∀ x ∈ [x0, xM], CanIssue (run0 x) 0#8 0 4#18 [] ∧ CanIssue (run0 x) 0#8 0 8#18 [] ∧ (thOf (run0 x) 0 0).sb = []) ∧
    running (run0 x0) 0 = some 0 := by
  unfold CanIssue; decide +kernel

/-- R117: the two worked encodings of the spec, and the bytes of the first in instruction memory. -/
theorem test_words_worked : decodeInstr 0#8 0xDC2001F0#32 0x01050000#32 = some (.addiL 0#8 1#5 0#5 0x1F0#12 0x01050000#32) ∧
    decodeInstr 0#8 0x3041C001#32 0#32 = some (.ld 0#8 2#5 1#5 3#2 false 0#4 1#9) ∧
    fetchWord { State.reset with mem := [(imemBase 0, 0xF0#8), (imemBase 0 + 1, 0x01#8), (imemBase 0 + 2, 0x20#8), (imemBase 0 + 3, 0xDC#8)] } 0 0#18 =
      0xDC2001F0#32 := by decide +kernel

/-- R111, R114 to R126: a word of each format and family, from the tables of its fields. -/
theorem test_words_families : decodeInstr 7#8 (0x00#6 ++ 3#5 ++ 1#5 ++ 2#5 ++ 0x00D#11) 0#32 = some (.minu 7#8 3#5 1#5 2#5) ∧
    decodeInstr 7#8 (0x08#6 ++ 3#5 ++ 1#5 ++ 2#5 ++ 0x004#11) 0#32 = some (.div 7#8 3#5 1#5 2#5) ∧
    decodeInstr 7#8 (0x10#6 ++ 3#5 ++ 1#5 ++ 0xFFFE#16) 0#32 = some (.beq 7#8 3#5 1#5 0xFFFE#16) ∧
    decodeInstr 7#8 (0x16#6 ++ 0x3FFFFFF#26) 0#32 = some (.call 7#8 0x3FFFFFF#26) ∧
    decodeInstr 7#8 (0x0E#6 ++ 3#5 ++ 1#5 ++ 2#5 ++ 0#5 ++ 3#2 ++ 5#4) 0#32 = some (.acas 7#8 3#5 1#5 2#5 3#2 0#5) ∧
    decodeInstr 7#8 (0x1C#6 ++ 3#5 ++ 1#5 ++ 2#5 ++ 0x001#11) 0#32 = some (.fetchadd 7#8 3#5 1#5 2#5) ∧
    decodeInstr 7#8 (0x19#6 ++ 0#18 ++ 0x42#8) 0#32 = some (.trap 7#8 0x42#8 0#18) := by decide +kernel

/-- FIPS 197, appendix C.3: the AES-256 example vector. -/
theorem test_aes_worked : aesBlock (aesKeys [0x00, 0x01, 0x02, 0x03, 0x04, 0x05, 0x06, 0x07, 0x08, 0x09, 0x0A, 0x0B, 0x0C, 0x0D, 0x0E, 0x0F, 0x10, 0x11, 0x12, 0x13, 0x14, 0x15,
      0x16, 0x17, 0x18, 0x19, 0x1A, 0x1B, 0x1C, 0x1D, 0x1E, 0x1F])
      [0x00, 0x11, 0x22, 0x33, 0x44, 0x55, 0x66, 0x77, 0x88, 0x99, 0xAA, 0xBB, 0xCC, 0xDD, 0xEE, 0xFF] =
    [0x8E, 0xA2, 0xB7, 0xCA, 0x51, 0x67, 0x45, 0xBF, 0xEA, 0xFC, 0x49, 0x90, 0x4B, 0x49, 0x60, 0x89] := by decide +kernel

/-- SP 800-38B, appendix D.3: the enciphered zero block of the AES-256 example key, and the two subkeys. -/
theorem test_cmac_worked : aesBlock (aesKeys [0x60, 0x3D, 0xEB, 0x10, 0x15, 0xCA, 0x71, 0xBE, 0x2B, 0x73, 0xAE, 0xF0, 0x85, 0x7D, 0x77, 0x81, 0x1F, 0x35, 0x2C, 0x07, 0x3B, 0x61,
      0x08, 0xD7, 0x2D, 0x98, 0x10, 0xA3, 0x09, 0x14, 0xDF, 0xF4])
      (List.replicate 16 0) =
    [0xE5, 0x68, 0xF6, 0x81, 0x94, 0xCF, 0x76, 0xD6, 0x17, 0x4D, 0x4C, 0xC0, 0x43, 0x10, 0xA8, 0x54] ∧
    cmacDouble [0xE5, 0x68, 0xF6, 0x81, 0x94, 0xCF, 0x76, 0xD6, 0x17, 0x4D, 0x4C, 0xC0, 0x43, 0x10, 0xA8, 0x54] =
    [0xCA, 0xD1, 0xED, 0x03, 0x29, 0x9E, 0xED, 0xAC, 0x2E, 0x9A, 0x99, 0x80, 0x86, 0x21, 0x50, 0x2F] ∧
    cmacDouble [0xCA, 0xD1, 0xED, 0x03, 0x29, 0x9E, 0xED, 0xAC, 0x2E, 0x9A, 0x99, 0x80, 0x86, 0x21, 0x50, 0x2F] =
    [0x95, 0xA3, 0xDA, 0x06, 0x53, 0x3D, 0xDB, 0x58, 0x5D, 0x35, 0x33, 0x01, 0x0C, 0x42, 0xA0, 0xD9] := by decide +kernel

theorem test_hyp_fenceStopMonitorCall : Drained (run0 x0) 0 0 ∧ CanIssue (run0 x0) 0#8 0 4#18 [.s 1#5] ∧
    CanIssue (run0 { x0 with sb := [⟨0, [1#8]⟩] }) 0#8 0 4#18 [] ∧ (thOf (run0 { x0 with sb := [⟨0, [1#8]⟩] }) 0 0).sb ≠ [] ∧
    (thOf (run0 x0) 0 0).lvl = .S ∧ (thOf (run0 xU) 0 0).lvl = .U ∧ (thOf (run0 xU) 0 0).exm = false ∧
    CanIssue (run0 xU) 0#8 0 4#18 [.s 1#5] ∧ Drained (run0 xU) 0 0 := by
  unfold CanIssue Drained; decide

theorem test_hyp_threadRegisterMoves : CanIssue (run0 x0) 0#8 0 4#18 [.s 1#5, .s 2#5] ∧ (run0 x0).steep.replay = [] ∧
    (thOf (run0 x0) 0 0).lvl = .S ∧ (thOf (run0 xU) 0 0).lvl = .U := by
  unfold CanIssue; decide

theorem test_hyp_loads : let s := both (run0 x0)
    let own := (accessOf s 0 0 [rRD] 0#4 .read 8 0).1
    let far := (accessOf s 0 0 [rRD] 0#4 .read 8 0x100000000).1
    CanIssue s 0#8 0 4#18 [.s 1#5, .s 2#5] ∧ CanIssue s 0#8 0 8#18 [.s 1#5, .s 2#5] ∧ vecMemPending (coreOf s 0) 0 = false ∧
    Passes own ∧ AllOwn s 0 own ∧ poisonedPart s [] (own.map (·.half)) = none ∧ Passes far ∧ ¬ AllOwn s 0 far ∧
    outstanding (coreOf s 0) < 64 ∧ tc0Of s 0 < 4 := by
  unfold CanIssue Passes AllOwn; decide +kernel

theorem test_hyp_stores : let s := both (run0 { x0 with sb := List.replicate 7 ⟨0, [1#8]⟩ })
    let own := (accessOf s 0 0 [rWR] 0#4 .write 8 0).1
    let far := (accessOf s 0 0 [rWR] 0#4 .write 8 0x100000000).1
    Memory.wf s = true ∧ CanIssue s 0#8 0 4#18 [.s 1#5, .s 2#5] ∧ vecMemPending (coreOf s 0) 0 = false ∧ Passes own ∧ AllOwn s 0 own ∧
    Passes far ∧ AllPosted s 0 far ∧ (thOf s 0 0).sb.length + far.length ≤ 8 ∧ outstanding (coreOf s 0) + far.length ≤ 64 ∧
    undoLogFull s (far.map (·.half)) = false ∧ isPoisoned s 0x10000000000 = false ∧ undoUsed s < undoCap s ∧
    (thOf s 0 0).sb.length ≤ 8 ∧ outstanding (coreOf s 0) ≤ 64 ∧ (∀ q ∈ own, mergeWaits s (paLocal q.half.pa) q.half.len = false) ∧
    (let w := { mapped (run0 x0) with boot := { State.reset.boot with devEn := 0x400#15 }, unseen := [0x10000000000] }
     let part := (accessOf w 0 0 [rWR] 0#4 .write 4 0).1
     Memory.wf w = true ∧ CanIssue w 0#8 0 4#18 [.s 1#5, .s 2#5] ∧ Passes part ∧ AllOwn w 0 part ∧ (thOf w 0 0).sb.length ≤ 8 ∧
     outstanding (coreOf w 0) ≤ 64 ∧ ∃ q ∈ part, mergeWaits w (paLocal q.half.pa) q.half.len = true) := by
  unfold CanIssue Passes AllOwn AllPosted; decide +kernel

theorem test_hyp_atomics : let s := mapped (run0 x0)
    let q := (checkPart s 0 0 .P true [rAT] 0#4 .atomic true 0 8).1
    Memory.wf s = true ∧ CanIssue s 0#8 0 4#18 [.s 1#5, .s 2#5, .s 3#5] ∧ vecMemPending (coreOf s 0) 0 = false ∧ s.steep.replay = [] ∧
    q.code = 0 ∧ q.multi = false ∧ inOwnSpad s 0 q.half = true ∧ anyPoison s (paLocal q.half.pa) 8 = false ∧
    CanIssue (run0 (xAt 1 0)) 0#8 0 4#18 [.s 3#5, .s 1#5, .s 2#5] ∧ (getS (thOf (run0 (xAt 1 0)) 0 0) 1#5).toNat % 4 ≠ 0 := by
  unfold CanIssue; decide +kernel

theorem test_hyp_returnStackMoves : let s := mapped (run0 { xAt 0 2 with rs := [8#18, 4#18, 0#18] })
    let out := (checkParts s 0 0 .P true [rWR] 0#4 .write true (entryParts 0 2)).1
    let inn := (checkParts s 0 0 .P true [rRD] 0#4 .read true (entryParts 0 2)).1
    Memory.wf s = true ∧ CanIssue s 0#8 0 4#18 [.s 1#5, .s 2#5] ∧ vecMemPending (coreOf s 0) 0 = false ∧ Passes out ∧ AllOwn s 0 out ∧
    Passes inn ∧ AllOwn s 0 inn ∧ poisonedPart s [] (inn.map (·.half)) = none ∧ (thOf s 0 0).lvl = .S ∧
    (let one := mapped (run0 { xAt 0 1 with rs := [8#18] })
     let o := (checkParts one 0 0 .P true [rWR] 0#4 .write true (entryParts 0 1)).1
     CanIssue one 0#8 0 4#18 [.s 1#5, .s 2#5] ∧ Passes o ∧ AllOwn one 0 o ∧
     ∀ q ∈ o, isPoisoned (drainOver one [] (o.map (·.half))).1 (paLocal q.half.pa) = false) ∧
    CanIssue (run0 xU) 0#8 0 4#18 [.s 1#5, .s 2#5] := by
  unfold CanIssue Passes AllOwn; decide +kernel

namespace Sys2Proof.Tests

/-- The sync objects from number 5 on, at virtual address 0x10000. -/
def soSeg : Seg := { vbase := 0x10000#48, len := 0x1000#48, pbase := 0x01E000000000#64, rights := 0xFFFF#16, en := true }

/-- A device whose thread 0, with S1 at sync object 5, S2 = v, may use the sync objects; object 5 is `o`. -/
def withSo (v : Nat) (o : SyncObj) : State :=
  { run0 (xAt 0x100A0 v) with ctxs := [(0, { cx0 with segs := [(0, soSeg)] })], so := [(5, o)] }

/-- A thread that waits for the reply to service n, with S2, S3 and S4 at 0, 0x40 and 0x80. -/
def asking (n : BitVec 8) : Thread := { x0 with s := [(2, 0#64), (3, 0x40#64), (4, 0x80#64)], st := .waiting, wait := .reply (.mcall n) }

end Sys2Proof.Tests

theorem test_hyp_syncOperations : ∀ o ∈ [({} : SyncObj), { ty := 1#2 }, { ty := 3#2 }, { ty := 2#2 }],
    let s := withSo 7 o
    CanIssue s 0#8 0 4#18 [.s 3#5, .s 1#5, .s 2#5] ∧ Drained s 0 0 ∧ s.steep.replay = [] ∧ tc0Of s 0 < 4 ∧
    (soOf s 5).ty = o.ty ∧
    ReachesObject s 0#8 0 .signal 1#5 5 ∧ ReachesObject s 0#8 0 .fetchadd 1#5 5 ∧ ReachesObject s 0#8 0 .waits 1#5 5 ∧
    ReachesObject s 0#8 0 .barrier 1#5 5 := by
  unfold CanIssue Drained ReachesObject; decide +kernel

theorem test_hyp_waits : let holds (o : SyncObj) : Prop := (o.ty = 0#2 ∧ o.tgt.toNat ≤ o.val.toNat) ∨ (o.ty = 1#2 ∧ o.val &&& o.tgt ≠ 0#64) ∨
      (o.ty = 3#2 ∧ o.tgt.toNat % 2 ^ 32 ≤ (o.val.toNat % 2 ^ 32 + 2 ^ 32 - o.val.toNat / 2 ^ 32) % 2 ^ 32)
    holds (soOf (withSo 7 { val := 3#64, tgt := 3#64 }) 5) ∧ ¬ holds (soOf (withSo 7 { val := 2#64, tgt := 3#64 }) 5) ∧
    holds (soOf (withSo 7 { ty := 1#2, val := 2#64, tgt := 3#64 }) 5) ∧ ¬ holds (soOf (withSo 7 { ty := 1#2, val := 4#64, tgt := 3#64 }) 5) ∧
    holds (soOf (withSo 7 { ty := 3#2, val := 3#64, tgt := 3#64 }) 5) ∧ ¬ holds (soOf (withSo 7 { ty := 3#2, tgt := 3#64 }) 5) ∧
    getS (thOf (withSo 0 {}) 0 0) 2#5 = 0#64 ∧ getS (thOf (withSo 7 {}) 0 0) 2#5 ≠ 0#64 := by decide +kernel

theorem test_hyp_barrier : let s := withSo 7 { ty := 2#2, parts := 2#12 }
    parkedAt s 5 (.thread 0 0) = none ∧ (soOf s 5).early = [] ∧ (soOf s 5).val.toNat % 2 ^ 32 < 0xFFF ∧ 0 + 1 < (soOf s 5).parts.toNat ∧
    (let s := withSo 7 { ty := 2#2, parts := 2#12, val := 1#64 }
     (soOf s 5).grp = false ∧ (soOf s 5).parts.toNat ≤ (soOf s 5).val.toNat % 2 ^ 32 + 1 ∧ 0 < (soOf s 5).parts.toNat) := by decide +kernel

theorem test_hyp_steepPoint : CanIssue (run0 x0) 0#8 0 4#18 [.s 1#5] ∧ (run0 x0).steep.pending = false ∧
    (let s := { run0 x0 with steep := { State.reset.steep with pending := true, decls := [(0, {})] } }
     CanIssue s 0#8 0 4#18 [.s 1#5] ∧ (coreOf s 0).ilv = false ∧ s.steep.pending = true ∧ unitsEmpty (coreOf s 0) = true ∧
     ((0#8).toNat * 8 + 0, ({} : Decl)) ∈ s.steep.decls) ∧
    (∀ busy ∈ [false, true],
      let k : Core := { th := [(0, x0)], mx := { loading := if busy then some true else none } }
      let s := { mapped (coreAt k) with steep := { State.reset.steep with pending := true } }
      CanIssue s 0#8 0 4#18 [.s 1#5] ∧ (coreOf s 0).ilv = false ∧ s.steep.pending = true ∧ s.steep.decls = [] ∧
      unitsEmpty (coreOf s 0) = !busy ∧
      (match readDecl s 0 0 0 with
      | .ok (some dc) => decide (declBytes (coreOf s 0) (dc :: latched s 0) ≤ 512 * 1024)
      | _ => false) = true) := by
  unfold CanIssue; decide +kernel

/-- R311: what a service's arguments are read in: the state with its arguments translated. -/
theorem test_hyp_derive_refuses : let s := mapped (run0 (asking 0x20#8))
    let s0 := svcTouch 0 32 [rWR] (svcTouch 0 24 [rRD] (svcTouch 0 32 [rRD] s 0) 0x40) 0x80
    waitsFor (thOf s 0 0) 0x20#8 = true ∧ SvcFresh s 0 0 ∧ (capRights (capAt s0 0 0)).getLsbD 5 = false ∧
    SvcHere s0 0 [rRD] 0 32 ∧ SvcHere s0 0 [rRD] 0x40 24 := by unfold SvcFresh SvcHere; decide +kernel

theorem test_hyp_check : let s := mapped (run0 (asking 0x22#8))
    let s0 := svcTouch 0 32 [rRD] s 0
    waitsFor (thOf s 0 0) 0x22#8 = true ∧ SvcFresh s 0 0 ∧ SvcHere s0 0 [rRD] 0 32 ∧ sealOk s (capAt s0 0 0) = false := by
  unfold SvcFresh SvcHere; decide +kernel

theorem test_hyp_ioSubmission : let s := mapped (run0 (asking 0x30#8))
    waitsFor (thOf s 0 0) 0x30#8 = true ∧ 0 % 8 = 0 ∧ svcOk s 0 [rRD, rWR] 0 32 = true ∧
    ioParse s .P 0 false (wordsOf 4 (svcRead s 0 0 32)) = none ∧
    svcOk s 0 [rRD, rWR] 0x200000 32 = false := by decide +kernel

namespace Sys2Proof.Tests

/-- An I/O request block at the start of scratchpad 0: a read of 4 KiB of file 0 to virtual address 0x1000, of a job that has that file. -/
def ioBlock : State :=
  { mapped (run0 (asking 0x30#8)) with
    mem := [(0x10000000000, 1#8), (0x10000000011, 0x10#8), (0x10000000019, 0x10#8)]
    board := { State.reset.board with files := [(fileKey .P 0, { ns := 0, base := 0, len := 0x1000, output := false })] } }

/-- A segment that names this device and carries a capability. -/
def ownSeg : Seg := { spadSeg with pbase := 0x4000010000000000#64 }

/-- A device whose context 0 has that segment. -/
def named : State := { run0 x0 with ctxs := [(0, { cx0 with segs := [(0, ownSeg)] })] }

/-- A thread in a vector format. -/
def xFmt (f : BitVec 4) : Thread := { x0 with vfmt := f, vl := 64, s := [(1, 0x40#64), (2, 8#64)] }

/-- An instruction in the vector queue, handed off in format `f` by a thread that takes exceptions, with every trap enabled. -/
def vecEnt (i : Instr) (dst : List Reg) (f : BitVec 4) : VEnt :=
  { t := 0, pc := 0#18, kind := .op dst, flags := 0#5, instr := some i, hand := 2, vl := 1, vfmt := f, te := 0x1F#5, exm := false }

/-- A core of which the vector unit holds `q`, with `r` running. -/
def vecCore (q r : List VEnt) : State := coreAt { th := [(0, x0)], vq := q, vrun := r }

end Sys2Proof.Tests

theorem test_hyp_ioAccepted : let s := ioBlock
    waitsFor (thOf s 0 0) 0x30#8 = true ∧ svcOk s 0 [rRD, rWR] 0 32 = true ∧
    (ioParse s .P 0 false (wordsOf 4 (svcRead s 0 0 32))).isSome = true ∧ s.board.io = [] ∧ s.board.lostNs = [] ∧
    (let full := List.replicate 256 ({ key := [], cx := 0, op := 1, file := 0, so := 0, off := 0, va := 0, len := 0, blk := 0, done := none, retried := false, host := false } : IoReq)
     256 ≤ (full.filter fun q => q.cx == 0 && q.done.isNone).length) := by decide +kernel

theorem test_hyp_capabilityRefusalStops : ∃ pa sg g multi miss s1, translate named 0 0 0 [rRD] true = (.ok pa sg g multi miss, s1) ∧
    isRemote s1 pa = false ∧ paSpace pa = 1 ∧ capCheck s1 g.cap .P [rRD] true (paLocal pa) 8 ≠ 0 ∧
    capCheck s1 g.cap .T [rRD] true (paLocal pa) 8 ≠ 0 := by
  refine ⟨_, _, _, _, _, _, rfl, ?_⟩
  decide +kernel

/-- R143: the formats that the vector statements speak of, integer, number and other, each let an instruction issue. -/
theorem test_hyp_vectorForms : (∀ f ∈ [0xA#4, 0x1#4, 0x3#4, 0x4#4, 0x8#4, 0xB#4],
      CanIssue (run0 (xFmt f)) 0#8 0 4#18 [.v 1#5, .v 2#5, .s 2#5, .m 1#4, .m 2#4, .v 3#5]) ∧
    intFormat (vfmtOf (xFmt 0xA#4)) = true ∧ fpFormat (vfmtOf (xFmt 0x1#4)) = true ∧ fmtIsMx (vfmtOf (xFmt 0xA#4)) = false ∧
    wDot2.src (vfmtOf (xFmt 0x3#4)) = true ∧ wDot4.src (vfmtOf (xFmt 0x4#4)) = true ∧ wDot8.src (vfmtOf (xFmt 0x8#4)) = true ∧
    vfmtOf (xFmt 0xB#4) = .int16 ∧ vfmtOf (xFmt 0xA#4) = .int8 ∧ (xFmt 0xA#4).te = 0#5 ∧
    fmtOfCode 1 = some .fp32 ∧ fmtIsMx .fp32 = false ∧ (coreOf (run0 (xFmt 0xA#4)) 0).vq.length < 4 := by
  unfold CanIssue; decide +kernel

/-- R156: an instruction handed off is at the head of an empty queue. -/
theorem test_hyp_atHead (i : Instr) (dst : List Reg) (f : BitVec 4) :
    AtHead (vecCore [vecEnt i dst f] []) 0#8 (vecEnt i dst f) [] i dst := ⟨rfl, rfl, rfl⟩

/-- R143: the formats of the queue entries that the passes speak of; and R53: an addition of opposite infinities with every trap enabled, a
sum of zeros, and a thread that takes no exceptions. -/
theorem test_hyp_vectorTrap : let i : Instr := .vadd 0#8 3#5 1#5 2#5 0#3 0#4 false
    let e := vecEnt i [.v 3#5] 0x1#4
    let g (v : BitVec 8192) : BitVec 5 :=
      let x := { x0 with v := [(1, v), (2, 0xFF800000#8192)] }
      let one (i : Nat) := vfpElem .add (fmtFloat (entFmt e)) (entRound e 0#3 e.sat i) (elemAt (getV x 1#5) 32 i) (elemAt (getV x 2#5) 32 i)
      vecBits (allFlags ((actives (getM x 0#4) e.vl).map fun i => (one i).2))
    ¬ NoTrap e (g 0x7F800000#8192) ∧ NoTrap e (g 0#8192) ∧ NoTrap { e with exm := true } 31#5 ∧ x0.st ≠ .stopped ∧
    (∀ f ∈ [(0xA#4, Fmt.int8), (0x1#4, .fp32), (0x3#4, .bf16), (0x4#4, .e4m3), (0x8#4, .mxfp4), (0xB#4, .int16)],
      entFmt (vecEnt i [] f.1) = f.2) := by
  unfold NoTrap; decide +kernel

theorem test_hyp_vectorReductions : let k := coreOf (run0 (xFmt 0x1#4)) 0
    redFormat (vfmtOf (xFmt 0x1#4)) = true ∧ k.ru.world = worldOf k 0 ∧
    k.ru.hkind = decide (vfmtOf (xFmt 0x1#4) = .fp64 ∨ vfmtOf (xFmt 0x1#4) = .int64) ∧ 1 * 32 + 31 < (if k.ru.hkind then 16 else 64) ∧
    [3, (-1 : Int)].min? = some (-1) ∧ [3, (-1 : Int)].max? = some 3 := by decide +kernel

theorem test_hyp_vectorLengths : ∃ code : BitVec 4, code ≠ 0xF#4 ∧ fmtOfCode code.toNat = some .int64 := ⟨13#4, by decide⟩

/-- R175: 64 elements of 4 bytes, unit-stride and 8 bytes apart, and indexed by a register of zeros. -/
theorem test_hyp_vectorMemory : let s := mapped (run0 (xFmt 0x1#4))
    ∀ b ∈ [0#5, 2#5], CanIssue s 0#8 0 4#18 [.s 1#5, .s b, .v 2#5, .v 3#5] ∧
    ∀ f ∈ vmemForms 0#8 3#5 1#5 b 2#5 0#4 0#4 false (thOf s 0 0),
      let chk := (checkElems s 0 0 (thOf s 0 0) f.need 0#4 f.kind f.elems).1
      (∀ e ∈ chk, Passes e.2 ∧ AllOwn s 0 e.2) ∧ poisonedPart s [] (elemHalves (chk.map (·.1))) = none := by
  unfold CanIssue Passes AllOwn; decide +kernel

theorem test_hyp_vectorPasses : let h : Half := { va := 0, len := 4, pa := 0x10000000000#64, bad := false, cap := 0#256, urg := false, cls := 0#4, data := none }
    let q : VElem := { i := 0, pos := 0, bits := 32, sub := 0, halves := [h] }
    let e (k : VKind) : VEnt := { t := 0, pc := 0#18, kind := k, flags := 0#5, exm := false }
    let s := vecCore [e (.store 5#8192 [q])] []
    let m := catchUpTo s 0 (passClock s 0#8 (e (.store 5#8192 [q])))
    let bad (en : BitVec 15) : State :=
      { vecCore [e (.load 1#5 [] [q])] [] with poison := [0x10000000000], boot := { State.reset.boot with devEn := en } }
    Memory.wf s = true ∧ poisonedElem m [] [q] = none ∧ (∀ g ∈ elemHalves [q], 0 < g.len) ∧ q.halves = [h] ∧ h.bad = false ∧
    q.bits = 8 * h.len ∧ isPoisoned m (paLocal h.pa) = false ∧
    (∀ en ∈ [0#15, 0x400#15], poisonedElem (catchUpTo (bad en) 0 (passClock (bad en) 0#8 (e (.load 1#5 [] [q])))) [] [q] = some (h, false) ∧
      steepEn (bad en) = decide (en ≠ 0#15) ∧ Memory.wf (bad en) = true) ∧ (e (.reg .none)).exm = false ∧ x0.st ≠ .stopped ∧
    (let s := coreAt { th := [(0, x0)], vq := [{ t := 0, pc := 0#18, kind := .ho 63 false [], flags := 0#5 }], ru := { q := [{ t := 0, op := .ho }] } }
     (coreOf s 0).ru.q = [{ t := 0, op := .ho }] ∧ (coreOf s 0).ru.busy = false ∧ (coreOf s 0).ru.kind = false) := by
  decide +kernel

/-- R157: of three results the one whose write clock comes first, and of equal ones the first to have started. -/
theorem test_hyp_vectorWrites : ∀ d ∈ [VDst.v 3#5 1#8192, .m 3#4 1#1024, .s 3#5 1#64],
    let e (n : Nat) : VEnt := { t := 0, pc := 0#18, kind := .reg d, flags := 1#5, wclk := n }
    let s := vecCore [] [e 9, e 5, e 5]
    (coreOf s 0).vrun = [e 9] ++ e 5 :: [e 5] ∧ (∀ q ∈ [e 9], (e 5).wclk < q.wclk) ∧ (∀ q ∈ [e 5], (e 5).wclk ≤ q.wclk) ∧
    (e 5).kind = .reg d := by decide +kernel

namespace Sys2Proof.Tests

/-- Core 0 with its columns powered, matrix unit `m` and thread `x`. -/
def matrixAt (x : Thread) (m : Matrix) : State :=
  { mapped (coreAt { th := [(0, x)], mx := m }) with power := { State.reset.power with domOn := 0xFFFFF#20 } }

/-- A unit that thread 0 owns, with a pass handed off. -/
def owned : Matrix := { owner := some 0, world := some .P, passHanded := true }

/-- A pass of four rows of thread 0 with configuration `cfg`. -/
def pass4 (cfg : MxCfg) : MxPass :=
  { id := 0, t := 0, cfg := cfg, sa := 0#64, rows := 4, start := 0, slot := 0, slots := 0, lastSlot := 0, next := 0, part := none, taken := [],
    got := [], pred := none, fix := [], chks := [], dropped := [], readBits := 0, drains := false, dyn := 0, seed := 0#64, susp := false, lead := 0,
    poisoned := false, bank0 := false }

/-- A queued matrix instruction. -/
def queued (k : MxKind) : MxEnt := { t := 0, kind := k, wait := 0, handoff := 2, seed := 0#64, dyn := 0, spass := none, pred := none }

end Sys2Proof.Tests

theorem test_hyp_matrixHandOffs : ∀ cfg ∈ [({} : MxCfg), { drain := 1#64 }],
    let s := matrixAt (xAt 0 1) { owned with hcfg := cfg }
    let k := coreOf s 0
    CanIssue s 0#8 0 4#18 [.s 1#5, .s 2#5, .v 3#5] ∧ MxReady s 0#8 0 ∧
    classOfFmt 0 = some .d ∧ k.mx.loading = none ∧ (∀ e ∈ k.mx.q, e.kind ≠ .mswap) ∧
    (let rs := mloadRanges .d false 0 1
     let u := unitTouch s 0 0 [rRD] rs
     (∀ r ∈ rs, r.1 % 64 = 0) ∧ firstRangeFail u 0 0 [rRD] rs = none ∧ firstMulti u 0 0 rs = none) ∧
    (let ins := mpassSpan k.mx.hcfg (handSp k.mx) 0 1 :: mpassSide k.mx.hcfg (handSp k.mx) 1
     let drains := decide (cKsteps k.mx.hcfg ≠ 0 ∧ k.mx.hkcount + 1 = cKsteps k.mx.hcfg)
     let u := unitTouch s 0 0 [rRD] ins
     let outs := if drains then drainRanges u 0 0 k.mx.hcfg 1 else []
     let v := unitTouch u 0 0 [rWR] outs
     drains = decide (cfg ≠ {}) ∧ mpassBad k.mx 1 = false ∧ mpassFails u 0 0 k.mx.hcfg (handSp k.mx) 0 1 = none ∧
     firstRangeFail v 0 0 [rWR] outs = none ∧ firstMulti v 0 0 (ins ++ outs) = none) ∧
    (let u := unitTouch s 0 0 [rRD] [(0, 88)]
     spadFail u 0 0 [rRD] 0 88 = none ∧ firstMulti u 0 0 [(0, 88)] = none ∧ unitPoison u 0 0 0 88 = false ∧
     cfgBad (cfgOfWords fun i => (wordsOf 11 (unitRead u 0 0 0 88)).getD i 0#64) = false) ∧
    readOutOk (cForm k.mx.hcfg) (cOrd k.mx.hcfg) 0 = true ∧ 72 ≤ (72#7).toNat ∧ 64 ≤ (64#7).toNat := by
  unfold CanIssue MxReady; decide +kernel

theorem test_hyp_exposedHandOffs : let s := matrixAt x0 owned
    CanIssue s 0#8 0 4#18 [.v 3#5] ∧ MxReady s 0#8 0 ∧ (coreOf s 0).mx.owner = some 0 ∧ (coreOf s 0).mx.passHanded = true ∧
    (coreOf s 0).mx.loading = none ∧ (thOf s 0 0).exm = false ∧ (thOf s 0 0).sb = [] ∧ (63#7).toNat < 64 ∧ (71#7).toNat < 72 := by
  unfold CanIssue MxReady; decide +kernel

theorem test_hyp_matrixEffects : ∀ kind ∈ [MxKind.mswap, .mzero, .mcfg {}, .mcfg { passcfg := 0x300#64 }, .mrel, .mpass 0#64 1 false false,
      .mrd 3#5 0#4 true .rne],
    ∀ ds ∈ [[], [({ id := 0, m := 0, e := 0, d := 0, due := 3, t := 0, dyn := 0, seed := 0#64 } : MxDrain)]],
    let k := coreOf (matrixAt x0 { owned with q := [queued kind], drains := ds }) 0
    k.mx.read = none ∧ k.mx.q = [queued kind] ∧ k.mx.pass = none ∧ k.mx.rows = [] ∧ k.mx.clearing = false ∧ (∀ d ∈ k.mx.drains, 3 ≤ d.due) ∧
    effectClock k (queued kind) = some 3 := by decide +kernel

/-- R186: the two forms of a configuration whose formats differ. -/
theorem test_hyp_matrixEffects_forms : cForm { passcfg := 0x300#64 } ≠ cForm {} ∧
    (let r : MxRead := { due := 7, t := 0, d := 3#5, val := 1#8192, flags := 1#4 }
     (coreOf (matrixAt x0 { owned with read := some r }) 0).mx.read = some r) := by decide +kernel

theorem test_hyp_matrixRow : let p := pass4 {}
    let s := matrixAt x0 { owned with pass := some p }
    let k := coreOf s 0
    k.mx.pass = some p ∧ p.susp = false ∧ p.part = none ∧ cRoute p.cfg = false ∧ cSkip p.cfg = false ∧ p.fix = [] ∧ p.next + 1 < p.rows ∧ k.mx.rows = [] ∧
    drainPending k.mx (passEntry p p.next) = false ∧ stopDue s 0 p.t = false ∧ slotWithheld s 0 p = false ∧
    rowPoison (catchUpTo s 0 p.slot) 0 (coreOf (catchUpTo s 0 p.slot) 0).mx p p.next = false := by decide +kernel

/-- R27: with an FP64 vector instruction under way and the cap at its least, the power manager withholds a slot. -/
theorem test_hyp_matrixWithheld : let p := pass4 {}
    let s0 := matrixAt x0 { owned with pass := some p }
    let s := { s0 with cores := [(0, { coreOf s0 0 with vrun := [{ t := 0, pc := 0#18, kind := .reg .none, flags := 0#5, instr := some (.vadd 0#8 1#5 1#5 1#5 0#3 0#4 false) }] })], power := { s0.power with cap := 0 } }
    (coreOf s 0).mx.pass = some p ∧ p.susp = false ∧ p.part = none ∧ stopDue s 0 p.t = false ∧ slotWithheld s 0 p = true := by decide +kernel

/-- R131: a load under way, and one whose last group has been read. -/
theorem test_hyp_matrixLoads : let l : BankLoad := { fmt := 0#4, sp24 := false, data := 0, clks := [] }
    let s := matrixAt x0 { owned with loading := some true, loadEnd := 9, loadSrc := [(0x10000000000, 512)], bankB := { loads := [l] } }
    let m := (coreOf s 0).mx
    m.loading = some true ∧ m.loadPoison = false ∧ (∀ e ∈ m.loadSrc, 0 < e.2 ∧ anyPoison s e.1 e.2 = false) ∧ 0 < (m.loadSrc.map (·.2)).sum ∧
    (m.loadSrc.map (·.2)).sum ≤ 512 ∧ (bankOf m true).loads = l :: [] ∧ (coreOf s 0).se.run = none ∧ (coreOf s 0).se.ending = [] ∧
    (let m := (coreOf (matrixAt x0 { owned with loading := some true }) 0).mx
     m.loading = some true ∧ m.loadPoison = false ∧ m.loadSrc = []) := by decide +kernel

theorem test_hyp_matrixPart :
    let r : MxRow := { id := 0, t := 0, m := 0, e := 0, d := 0, first := 0, last := 0, final := 0, vals := [], bank0 := false, cfg := {},
                       blk := none, replay := true, judged := false }
    let q : MxPart := { row := r, left := 64, drain := false, after := 0 }
    let p := { pass4 {} with slot := 64, slots := 64, next := 1, part := some q }
    let k := coreOf (matrixAt x0 { owned with pass := some p }) 0
    k.mx.pass = some p ∧ p.susp = false ∧ p.next < p.rows ∧ cRoute p.cfg = false ∧ q.left ≤ 64 - p.slots % 64 ∧ q.after = 0 ∧
    q.row.blk = none ∧ 0 < q.left ∧ k.mx.rows = [] ∧
    stopDue (matrixAt x0 { owned with pass := some p }) 0 p.t = false := by decide +kernel

/-- R229: tanh 1 lies between 3,194,357 and 3,194,358 units of 2^-22; a value 2 units away breaks the bound. -/
theorem test_approx_tanh : let one : FVal := .fin false 1 0
    approxFits 0x24 one (.fin false 3194357 (-22)) = true ∧ approxFits 0x24 one (.fin false 3194359 (-22)) = false ∧
    approxFits 0x24 one (.inf false) = false := by decide +kernel

/-- R229: SILU of -5, GELU of 1, LOG2 of 3 and EXP2 of 0.5, from tables of the functions. -/
theorem test_approx_others : let five : FVal := .fin true 5 0
    approxFits 0x26 five (.fin true 35090 (-20)) = true ∧ approxFits 0x26 five (.fin true 35092 (-20)) = false ∧
    approxFits 0x25 (.fin false 1 0) (.fin false 882214 (-20)) = true ∧ approxFits 0x21 (.fin false 3 0) (.fin false 13295629 (-23)) = true ∧
    approxFits 0x20 (.fin false 1 (-1)) (.fin false 11863283 (-23)) = true ∧
    approxFits 0x20 (.fin false 1 (-1)) (.fin false 11863286 (-23)) = false := by decide +kernel

/-- R215, R216: a replayed FP64 row takes 128 slots, and a boundary falls after its 64th. -/
theorem test_row_divided :
    let p := { pass4 {} with next := 0, rows := 1 }
    let r : MxRow := { id := 0, t := 0, m := 0, e := 0, d := 0, first := 0, last := 0, final := 0, vals := [], bank0 := false, cfg := {},
                       blk := none, replay := true, judged := false }
    let a := issueSlots owned p { row := r, left := rowSlots r, drain := false, after := 0 }
    let b := issueSlots a.1 a.2 (a.2.part.getD { row := r, left := 0, drain := true, after := 0 })
    mxProg { mx := { a.1 with pass := some { a.2 with susp := true } } } = 0xC0000000#64 ∧ a.1.rows = [] ∧
    b.2.slot = 128 ∧ b.1.rows = [{ r with last := 127, final := 199 }] := by decide +kernel

theorem test_hyp_matrixChecks : ∀ susp ∈ [false, true], ∀ ch ∈ [({ clk := 0, blk := 0, predZero := true, bit := true } : MxChk),
      { clk := 0, blk := 0, predZero := true, bit := false }, { clk := 0, blk := 0, predZero := false, bit := true },
      { clk := 0, blk := 0, predZero := false, bit := false }], susp = false ∨ ch.predZero = false →
    let p := { pass4 { passcfg := 0x20#64 } with chks := [ch], susp := susp }
    let k := coreOf (matrixAt x0 { owned with pass := some p }) 0
    k.mx.pass = some p ∧ resolvable p = [ch] ∧ p.next < p.rows ∧ k.mx.rows = [] ∧ cRoute p.cfg = false ∧ cSkip p.cfg = true ∧
    p.pred = none := by decide +kernel

theorem test_hyp_matrixEnds : let e : MxEnd := { id := 0, t := 0, m := 4, drains := true, flags := 0#4, quiet := false }
    let s := matrixAt x0 { owned with ends := [e], upd := some (0, 0, 0, 0) }
    let so := cDso (coreOf s 0).mx.cfg
    (coreOf s 0).mx.ends = [e] ∧ e.drains = true ∧ (coreOf s 0).mx.drains = [] ∧ (coreOf s 0).mx.rows = [] ∧ (coreOf s 0).mx.pass = none ∧
    e.quiet = false ∧ (soOf s so).ty = 0#2 ∧ e.m < 2 ^ 64 ∧ (coreOf s 0).mx.upd.isSome = true := by decide +kernel

theorem test_hyp_matrixDrain : let d : MxDrain := { id := 0, m := 0, e := 0, d := 0, due := 0, t := 0, dyn := 0, seed := 0#64 }
    let s := matrixAt x0 { owned with drains := [d] }
    let m := catchUpTo s 0 d.due
    let va := drainAddr (coreOf s 0).mx.cfg d.d
    let n := drainBytes (coreOf s 0).mx.cfg
    Memory.wf s = true ∧ (coreOf s 0).mx.drains = [d] ∧ (coreOf s 0).mx.rows = [] ∧ headEffect (coreOf s 0) = none ∧
    headEffect (coreOf (matrixAt x0 { owned with drains := [d], q := [queued .mzero] }) 0) = some 3 ∧ va % 2048 + n ≤ 2048 ∧
    unitSpad m 0 0 [rWR] va n = some 0x10000000000 ∧ anyPoison m 0x10000000000 n = false := by decide +kernel

theorem test_hyp_matrixSuspend : let p := { pass4 {} with slots := 64 }
    let s := matrixAt { x0 with excDue := true } { owned with pass := some p }
    (coreOf s 0).mx.pass = some p ∧ p.susp = false ∧ passBoundary s 0 (coreOf s 0).mx p = true ∧ stopDue s 0 p.t = true ∧
    (let k := coreOf (matrixAt x0 { clearing := true, world := some .T }) 0
     k.mx.clearing = true ∧ oldWorkDone k = true ∧ k.mx.rows = []) := by decide +kernel

namespace Sys2Proof.Tests

/-- A pass descriptor of four positions whose one stage copies the constant 0, repeating once, at the start of scratchpad 0. -/
def descMem : List Host.Cell := [(0x10000000000, 4#8), (0x1000000008C, 1#8), (0x100000000E8, 8#8), (0x100000000E9, 3#8)]

/-- Core 0 with stream engine `e` and reduction unit `r`, for thread `x`, which may use sync objects from 5 on too. -/
def streamAt (x : Thread) (e : StreamEng) (r : RedUnit) : State :=
  { coreAt { th := [(0, x)], se := e, ru := r } with
    mem := descMem, ctxs := [(0, { cx0 with segs := [(0, spadSeg), (1, { soSeg with vbase := 0x1000000#48 })] })] }

/-- The descriptor as it is latched. -/
def desc4 : SDesc := { n := 4, ks := List.replicate 8 0, stages := [{ op := 8, src1 := 3 }], repeats := 1 }

/-- A queued stream pass of descriptor `d`. -/
def pass0 (d : SDesc) : SeEnt := { t := 0, prog := [d], ref := false, wait := 0, so := some 5, armed := false, handoff := 0, seed := 0#64, id := 0 }

/-- That pass as it runs. -/
def runs (d : SDesc) : SeRun :=
  { ent := pass0 d, desc := 0, pos := 0, clk := 1, writes := [], lastRead := 0, flags := 0#4, susp := false, lead := 0, poisoned := false }

end Sys2Proof.Tests

theorem test_hyp_streamHandOffs : let s := streamAt (xAt 0 5) {} {}
    CanIssue s 0#8 0 4#18 [.s 1#5, .s 2#5] ∧ SeReady s 0#8 0 ∧ (coreOf s 0).se.q.length < 4 ∧
    mayWait s (thOf s 0 0) 5 = true ∧ progHeld s 0 0 0 = false ∧
    (∀ armed ∈ [false, true], ∃ ds, latchProg s 0 0 (thOf s 0 0) 0 armed = .ok ds ∧
      (let r := progRanges s 0 0 0 armed ds
       firstMulti (unitTouch (unitTouch s 0 0 [rRD] r.1) 0 0 [rWR] r.2) 0 0 (r.1 ++ r.2) = none)) ∧
    (List.range 16).find? (fun i => !((coreOf s 0).se.arms.any fun e => e.1 == i)) = some 0 := by
  refine ⟨by unfold CanIssue; decide +kernel, by unfold SeReady; decide +kernel, by decide +kernel, by decide +kernel, by decide +kernel,
    fun armed h => ?_, by decide +kernel⟩
  rcases List.mem_cons.mp h with rfl | h
  · exact ⟨_, rfl, by decide +kernel⟩
  · rw [List.mem_singleton.mp h]
    exact ⟨_, rfl, by decide +kernel⟩

theorem test_hyp_armFiring : let arm : Arm := { t := 0, sa := 0#64, so := 5, prog := [desc4], k := 0, due := 1 }
    let s := streamAt x0 { arms := [(0, arm)] } {}
    Memory.wf s = true ∧ s.steep.replay = [] ∧ (coreOf s 0).se.arms = [(0, arm)] ∧ arm.k < arm.due ∧ (coreOf s 0).se.q.length < 4 ∧
    arm.prog = desc4 :: [] ∧
    1 + 0 * 65536 + arm.k < 2 ^ 64 ∧ desc4.repeats ≤ arm.k + 1 ∧ arm.k + 1 < ({ desc4 with repeats := 2 } : SDesc).repeats ∧
    (∀ e ∈ (coreOf (streamAt (xAt 0 6) { arms := [(0, arm)] } {}) 0).se.arms, ¬ (e.2.t = 0 ∧ e.2.sa = 0#64 ∧ e.2.so = 6)) := by decide +kernel

theorem test_hyp_streamRuns : let long := { desc4 with n := 257 }
    let s (d : SDesc) := streamAt x0 { run := some (runs d) } {}
    progRowred (pass0 desc4).prog = false ∧ (runs long).susp = false ∧ (runs long).ent.prog[(runs long).desc]? = some long ∧
    (runs long).writes = [] ∧ (coreOf (s long) 0).se.ending = [] ∧ (runs long).pos + 256 < long.n ∧
    (runGroup (catchUpTo (s long) 0 (runs long).clk) 0 (runs long) long).poison = false ∧ desc4.n ≤ (runs desc4).pos + 256 ∧
    (runs desc4).ent.prog = [desc4] ∧ (runs desc4).desc = 0 ∧ (runs desc4).writes = [] ∧
    (runGroup (catchUpTo (s desc4) 0 (runs desc4).clk) 0 (runs desc4) desc4).poison = false ∧ (coreOf (s desc4) 0).se.ending = [] ∧
    (coreOf (streamAt x0 { q := [pass0 desc4] } {}) 0).se.run = none ∧ (coreOf (streamAt x0 { q := [pass0 desc4] } {}) 0).se.q = [pass0 desc4] := by
  decide +kernel

theorem test_hyp_streamEnds : let r := runs desc4
    let s := streamAt { x0 with excDue := true } { ending := [r], run := some { r with writes := [(9, 0x10000000200, [1#8])] } } {}
    Memory.wf s = true ∧ s.steep.replay = [] ∧ (coreOf s 0).se.ending = [r] ∧ r.writes = [] ∧ r.ent.so = some 5 ∧ progRowred r.ent.prog = false ∧
    (coreOf s 0).ru.q = [] ∧ (soOf s 5).ty = 0#2 ∧ stopDue s 0 r.ent.t = true ∧ r.susp = false ∧ isPoisoned s 0x10000000200 = false := by decide +kernel

/-- R131, R134: a pass that has read its last input, with a write to come at clock 5, before and after that clock. -/
theorem test_hyp_unitsGoOn : let r := { runs desc4 with writes := [(5, 0x10000000200, [1#8])] }
    let at_ (n : Nat) : State := { streamAt x0 {} {} with cores := [(0, { th := [(0, x0)], clk := n, se := { ending := [r] } })] }
    (coreOf (at_ 5) 0).mx.loadSrc = [] ∧ (coreOf (at_ 5) 0).se.run = none ∧ (coreOf (at_ 5) 0).se.ending = [r] ∧
    r.writes = [(5, 0x10000000200, [1#8])] ∧ (coreOf (at_ 5) 0).clk ≤ 5 ∧ 5 < (coreOf (at_ 6) 0).clk ∧
    isPoisoned (at_ 6) 0x10000000200 = false ∧ Memory.wf (at_ 6) = true ∧ UnitsQuiet (run0 x0) 0 := by
  unfold UnitsQuiet; decide +kernel

theorem test_hyp_reductionUnit : let s := streamAt { x0 with s := [(1, 0x400#64)] } {} {}
    let u (right len : Nat) := unitTouch s 0 0 [right] [(0x400, len)]
    CanIssue s 0#8 0 4#18 [.s 1#5, .v 1#5] ∧ RuReady s 0#8 0 ∧ Memory.wf s = true ∧ UnitsQuiet s 0 ∧ (63#6).toNat < 64 ∧ ruAddOk false 1 = true ∧
    spadFail (u rRD 136) 0 0 [rRD] 0x400 136 = none ∧ spadFail (u rWR 136) 0 0 [rWR] 0x400 136 = none ∧
    firstMulti (u rRD 136) 0 0 [(0x400, 136)] = none ∧ firstMulti (u rWR 136) 0 0 [(0x400, 136)] = none ∧
    unitPoison s 0 0 0x400 136 = false ∧ unitSpad s 0 0 [rWR] 0x400 136 = some 0x10000000400 ∧
    anyPoison s 0x10000000400 136 = false ∧ spadFail (u rRD 16) 0 0 [rRD] 0x400 16 = none ∧ firstMulti (u rRD 16) 0 0 [(0x400, 16)] = none ∧
    (rucfgWords (u rRD 16) 0 0 0x400).1.getLsbD 0 = false := by
  unfold CanIssue RuReady UnitsQuiet; decide +kernel

theorem test_hyp_reductionUnitKind : let s := streamAt { x0 with s := [(1, 0#64)] } {} { kind := true, hkind := true }
    let u (right len : Nat) := unitTouch s 0 0 [right] [(0, len)]
    CanIssue s 0#8 0 4#18 [.s 1#5, .v 1#5] ∧ RuReady s 0#8 0 ∧ (15#6).toNat < 16 ∧ ruAddOk true 0 = true ∧
    spadFail (u rRD 536) 0 0 [rRD] 0 536 = none ∧ firstMulti (u rRD 536) 0 0 [(0, 536)] = none ∧
    spadFail (u rWR 536) 0 0 [rWR] 0 536 = none ∧ firstMulti (u rWR 536) 0 0 [(0, 536)] = none ∧
    (rucfgWords (u rRD 16) 0 0 0).1.getLsbD 0 ≠ true := by
  unfold CanIssue RuReady; decide +kernel

theorem test_hyp_reductionReadOut : CanIssue (streamAt x0 {} {}) 0#8 0 4#18 [.s 1#5, .v 1#5] ∧ RuReady (streamAt x0 {} {}) 0#8 0 ∧
    (∃ fmt : BitVec 4, ruReadOk false fmt.toNat = true ∧ ruScalar fmt = true) ∧
    (∃ fmt : BitVec 4, ruReadOk false fmt.toNat = true ∧ ruScalar fmt = false) ∧
    (0#64).getLsbD 0 = decide ((coreOf (streamAt x0 {} {}) 0).ru.world = .T) ∧
    (1#64).getLsbD 0 ≠ decide ((coreOf (streamAt x0 {} {}) 0).ru.world = .T) ∧
    ({ busy := true } : RedUnit).busy = true ∧ (World.T : World) ≠ ({ busy := true } : RedUnit).world := by
  unfold CanIssue RuReady; decide +kernel

namespace Sys2Proof.Tests

/-- Eight bytes at the start of scratchpad 0, as a part of an access. -/
def part8 : Half := { va := 0, len := 8, pa := 0x10000000000#64, bad := false, cap := 0#256, urg := false, cls := 0#4, data := none }

/-- A thread that waits for the reply to `r`. -/
def waiting (r : Req) : Thread := { x0 with st := .waiting, wait := .reply r }

/-- Threads 0 and 1 ready, thread 0 having run for n clocks. -/
def turns (n : Nat) : State := coreAt { th := [(0, x0), (1, x0)], ran := n }

/-- An interrupt unit with source 3 enabled for thread 0 and pending. -/
def offered : Core := { th := [(0, x0)], icuSrc := [(3, 1#30)], icuPend := 8#64 }

/-- A device with the extension block enabled for world P. -/
def extended (x : Thread) : State :=
  { coreAt { th := [(0, x)], enP := true } with boot := { State.reset.boot with devEn := 0x4000#15 } }

/-- Thread 0 waits at sync object 5, whose state is `o` but for its waiter. -/
def atSo (o : SyncObj) : State :=
  { run0 (waiting (.syncWait 3#5 5)) with
    so := [(5, { o with waiters := [{ who := .thread 0 0, gen := none, isBarrier := false, deadline := some 10 }] })] }

/-- A group of one device: KIND 1, one contribution, CSO 5, DSO 6. -/
def alone : Group := { word0 := 3#64, arg := BitVec.ofNat 64 (1 + 5 * 2 ^ 9 + 6 * 2 ^ 22), result := 0#48 }

end Sys2Proof.Tests

theorem test_hyp_accessReplies : let s := run0 (waiting (.load 3#5 8 true [part8] 4))
    Memory.wf s = true ∧ (∀ o ∈ s.fab.outst, o.sent.2.replay = false) ∧ s.steep.replay = [] ∧
    (thOf s 0 0).wait = .reply (.load 3#5 8 true [part8] 4) ∧ memPart s part8 = true ∧ isRemote s part8.pa = false ∧
    firstBad s (thOf s 0 0).sb (.load 3#5 8 true [part8] 4) = none ∧ (inboundParts s (some 0) false [part8]).isSome = true ∧
    (inboundParts s (some 0) true [part8]).isSome = true ∧ anyPoison s (paLocal part8.pa) 8 = false ∧
    (thOf (run0 (waiting (.atom .aadd 3#5 8 1#64 part8))) 0 0).wait = .reply (.atom .aadd 3#5 8 1#64 part8) ∧
    (thOf (run0 (waiting (.synced 3#5 1#64))) 0 0).wait = .reply (.synced 3#5 1#64) ∧
    (thOf (run0 (waiting (.mcall 0x1F#8))) 0 0).wait = .reply (.mcall 0x1F#8) ∧
    (thOf (run0 (waiting (.syncWait 3#5 5))) 0 0).wait = .reply (.syncWait 3#5 5) := by decide +kernel

theorem test_hyp_threadTurns : let k := coreOf (turns 1024) 0
    k.ilv = false ∧ isReady k k.cur = true ∧ 1024 ≤ k.ran ∧ (1 < 8 ∧ 1 ≠ k.cur ∧ isReady k 1 = true) ∧ k.cur < 8 ∧ k.pShare = 0#8 ∧
    k.tShare = 0#8 ∧ k.win = k.clk / 4096 ∧ ({ k with clk := 4096 } : Core).win ≠ 4096 / 4096 ∧ (coreOf (turns 1023) 0).ran < 1024 ∧
    (let k := coreOf (coreAt { ilv := true }) 0
     k.ilv = true ∧ isReady k k.cur = false) := by decide

theorem test_hyp_interruptEntry : let s := coreAt offered
    s.steep.replay = [] ∧ icuDue s 0 0 = true ∧ atEntryBoundary s 0 0 = true ∧ (thOf s 0 0).wait = .none ∧ (thOf s 0 0).sb = [] ∧
    (thOf s 0 0).unitDue = 0 ∧ (let s := run0 { x0 with unitDue := 5 }
     s.steep.replay = [] ∧ (thOf s 0 0).unitDue ≠ 0 ∧ (thOf s 0 0).exm = false ∧ (thOf s 0 0).st ≠ .stopped ∧ atEntryBoundary s 0 0 = true ∧
     (thOf s 0 0).wait = .none ∧ (thOf s 0 0).sb = []) ∧ icuOffer s (coreOf s 0) 0 = some (3, false) ∧ (thOf (run0 xM) 0 0).exm = true ∧ (thOf State.reset 0 0).st = .stopped := by decide

theorem test_hyp_interruptSources : tabGet 0#64 ({ icuTmr := [(0, 7#64)] } : Core).icuTmr 0 ≠ 0#64 ∧ (7#64).toNat ≤ max 0 7 := by decide

theorem test_hyp_monitorCoreWrites : (∀ t, t < 8 → (threadOf (coreOf State.reset 0) t).st = .stopped) ∧ 256 < 255 + 2 ∧ 128 + 128 ≤ 256 ∧
    (viewerOf State.reset (.thread 0#8 0#3)).mon = false ∧ ¬ (∀ t, t < 8 → (threadOf (coreOf (run0 x0) 0) t).st = .stopped) ∧ (coreOf (run0 x0) 0).ru.q = [] ∧
    (1#64).getLsbD 0 ≠ (coreOf (run0 x0) 0).ilv := by decide

theorem test_hyp_csrStores : (State.reset.boot.devEn.getLsbD 10 = false) ∧
    ((extended x0).boot.devEn.getLsbD 14 = true) ∧ (thOf (run0 x0) 0 0).lvl = .S ∧ (1#64).toNat % 8 ≠ 0 ∧
    (∀ x ∈ [x0, xM], (thOf (run0 x) 0 0).st ≠ .stopped ∧ (thOf (run0 x) 0 0).sb = [] ∧ (thOf (run0 x) 0 0).wait = .none) ∧ x0.exm = false ∧
    xM.exm = true ∧ (thOf State.reset 0 0).st = .stopped ∧
    (csrBlock 0x01FFFFFFFFF8).1 = .none ∧ (csrBlock 0x01F0000A0000).1 = .steep ∧
    ({ State.reset with boot := { State.reset.boot with devEn := 0x400#15 } } : State).boot.devEn.getLsbD 10 = true := by decide +kernel

theorem test_hyp_extensionBlock : let s := extended x0
    s.steep.replay = [] ∧ CanIssue s 0#8 0 4#18 [.s 3#5, .s 1#5, .s 2#5] ∧ s.boot.devEn.getLsbD 14 = true ∧
    extEnabled (coreOf s 0) (worldOf (coreOf s 0) 0) = true ∧ (thOf s 0 0).xlPort = [] ∧ outstanding (coreOf s 0) < 64 ∧
    s.board.ext.st ≠ .up ∧ CanIssue (run0 x0) 0#8 0 4#18 [.s 3#5, .s 1#5, .s 2#5] ∧ (run0 x0).boot.devEn.getLsbD 14 = false ∧
    (thOf (run0 (waiting (.ext 3#5 0#8 10))) 0 0).wait = .reply (.ext 3#5 0#8 10) ∧ 10 ≤ max 0 10 ∧
    State.reset.time ≤ 10 ∧ 10 < ({ State.reset with time := 11 } : State).time ∧ State.reset.steep.extAgain = [] ∧
    (0#8 ∈ ({ x0 with extLate := [0#8] } : Thread).extLate) ∧
    ({ x0 with xlValid := true, xlPort := [(0#8, 1#64)] } : Thread).xlPort = (0#8, 1#64) :: [] := by
  unfold CanIssue; decide

theorem test_hyp_syncObjectStores : soMay State.reset (.thread 0#8 0#3) 5 = true ∧ 8128 ≤ (8128#13).toNat ∧
    (soOf (atSo { tgt := 3#64 }) 5).ty ≠ 2#2 ∧ (soOf (atSo { tgt := 3#64 }) 5).tgt.toNat ≤ (3#64).toNat ∧ (2#64).toNat < (3#64).toNat ∧
    (thOf (atSo {}) 0 0).wait = .reply (.syncWait 3#5 5) ∧ (viewerOf (atSo {}) .monitor).lvlS = true ∧ soMay (atSo {}) .monitor 5 = true ∧
    (soOf (atSo {}) 5).early = [] ∧ (1#64).getLsbD 1 = false ∧ ((1#64).truncate 2 : BitVec 2) ≠ (soOf (atSo {}) 5).ty ∧
    (soOf (atSo { tgt := 3#64 }) 5).waiters[0]?.map (waiterDone (soOf (atSo { tgt := 3#64 }) 5)) = some false ∧
    (viewerOf (run0 xU) (.thread 0#8 0#3)).lvlS = false := by decide

theorem test_hyp_collective : let s := { State.reset with groups := [(0, alone)], so := [(5, { val := 1#64 })], ctxs := [(0, cx0)] }
    let x := grpOf s 0
    gValid x = true ∧ gKind x = 1 ∧ 0 < gContrib x ∧ (soOf s (gCso x)).ty = 0#2 ∧
    (∀ d, d < 4 → (gRange x d).1 = phaseCoord s.fab.devnum.toNat d ∧ (gRange x d).2 = phaseCoord s.fab.devnum.toNat d) ∧ x.merged = [] ∧
    x.started = x.doneN ∧ gContrib x ≤ (soOf s (gCso x)).val.toNat ∧ s.poison = [] ∧
    (soOf s (gDso x)).ty = 0#2 ∧ 0 % 2048 + imageBytes (gWide x) ≤ 2048 ∧
    svcPa s (gCtx x) [rWR] 0 (imageBytes (gWide x)) = some 0x10000000000 ∧ anyPoison s 0x10000000000 (imageBytes (gWide x)) = false ∧
    Memory.wf s = true ∧ tabGet 0 ({ alone with started := 1, phases := [(0, 4)] } : Group).phases (alone.doneN % 2) = 4 := by decide +kernel

namespace Sys2Proof.Tests

/-- A device with every world enabled. -/
def worldsOn : State := { State.reset with boot := { State.reset.boot with devEn := 3#15 } }

/-- A stream of context 0 in state `st`, of one dimension of four elements of 8 bytes from virtual address 0 to 0x400. -/
def ts4 (st : TsState) : Ts :=
  { ownValid := true, st := st, desc := { ndim := 1, esz := 3, counts := [4], sstr := [8], dstr := [8], dva := 0x400, scls := 0, dcls := 0 }, lvlS := true }

/-- A device with that stream as number 0, mapping scratchpad 0. -/
def tsAt (x : Ts) : State := mapped { State.reset with ts := [(0, x)] }

/-- A last-level cache line with sector 0 valid. -/
def line0 : LlcLine := { tag := 0, valid := 1#4, dirty := 0#4, fill := 2#4, cls := 1, world := .P, cx := 0, stamp := 0, used := 0 }

/-- A device that holds that line. -/
def cached : State :=
  { State.reset with memsys := { State.reset.memsys with llc := [((dramOf State.reset 0).stack * 16384 + llcIndex State.reset 0, { ways := [(0, line0)] })] } }

/-- A request of a channel. -/
def req0 (wr : Bool) : HbmReq := { pc := false, bank := 3, row := 2, col := 8, write := wr, urgent := false, at_ := 0, slot := .general, user := none, again := false }

/-- A device whose channel 0 of stack 0 has that request, after n failed attempts. -/
def chan0 (wr : Bool) (n : Nat) : State :=
  { State.reset with memsys := { State.reset.memsys with chans := [(0, { reqs := [req0 wr], tries := [(0, n)] })] } }

/-- A full steep is held. -/
def full0 (p : Steep) : Steep := { p with full := some {} }

/-- The first 1 GiB of HBM in an enabled segment of context 0, of policy LOGGED. -/
def hbmMapped (s : State) : State := { s with ctxs := [(0, { cx0 with segs := [(0, hbmSeg)] })] }

end Sys2Proof.Tests

theorem test_hyp_contextTables : (ctxOf worldsOn 0).ctxEn = false ∧ ctxReasons worldsOn 0 = [] ∧
    worldsOn.boot.devEn.getLsbD (worldBit (ctxOf worldsOn 0).world) = true ∧
    State.reset.boot.devEn.getLsbD (worldBit (ctxOf State.reset 0).world) = false ∧
    (let s := mapped State.reset
     (ctxOf s 0).ctxEn = true ∧ (ctxOf s 0).segEn = true ∧ ctxBusy s 0 = false ∧ cxMay s (viewerOf s .monitor) 0 = true) ∧
    (let s := { State.reset with ctxs := [(0, { ctxEn := true })] }
     (ctxOf s 0).ctxEn = true ∧ (ctxOf s 0).segEn = false) ∧
    cxMay State.reset (viewerOf (run0 xU) (.thread 0#8 0#3)) 0 = false := by decide

theorem test_hyp_contextTables_empty (n : Nat) : (segOf (ctxOf { State.reset with ctxs := [(0, { ctxEn := true })] } 0) n).en = false := rfl

theorem test_hyp_descriptorStores : let s := mapped State.reset
    cxMay s (viewerOf s .monitor) 0 = true ∧ (ctxOf s 0).segEn = true ∧ (segOf (ctxOf s 0) 0).en = true ∧
    (0x1000#64).toNat % 2 ^ 48 ≤ (segOf (ctxOf s 0) 0).len.toNat ∧ 0 < (0x1000#64).toNat % 2 ^ 48 ∧ (0x1000#64).toNat % 4096 = 0 ∧
    (segOf (ctxOf s 0) 0).len.toNat < (0x200001#64).toNat % 2 ^ 48 ∧ (ctxOf State.reset 0).segEn = false ∧
    cxMay (run0 xU) (viewerOf (run0 xU) (.thread 0#8 0#3)) 0 = false := by decide

theorem test_hyp_rangeInvalidation : let i : Inval := { lo := 0, hi := 0x1000, so := 5#13, waitFor := [7, 8], resume := none, ackTo := none }
    let s := { mapped State.reset with ctxs := [(0, { cx0 with invals := [i] })], board := { State.reset.board with endpoint := true, mirror := some 0#64 } }
    let busy := { run0 { x0 with sb := [⟨0, [1#8]⟩] } with ctxs := [(0, { cx0 with invals := [{ i with waitFor := [0] }] })] }
    (ctxOf s 0).invals.length < 4 ∧ cxMay s (viewerOf s .monitor) 0 = true ∧ (ctxOf s 0).invals = [i] ∧ 7 ∈ i.waitFor ∧
    soMon i.so.toNat = false ∧ (soOf s i.so.toNat).ty = 0#2 ∧ inFlight s 7 0 i.lo i.hi = false ∧
    inFlight (dropEntries busy 0 0 0 0x1000) 0 0 0 0x1000 = true ∧ (segOf (ctxOf s 0) 3).en = false ∧ s.board.endpoint = true ∧
    s.board.mirror.isSome = true ∧ ({ cx0 with invals := [i, i, i, i] } : Ctx).invals.length = 4 ∧
    (ctxOf s 0).queued = [] ∧ i.resume = none ∧ i.ackTo = none ∧
    (let q := { mapped State.reset with ctxs := [(0, { cx0 with invals := [{ i with waitFor := [7] }], queued := [i] })] }
     (ctxOf q 0).queued = i :: [] ∧ inFlight q 7 0 i.lo i.hi = false) := by decide

theorem test_hyp_transferCommands : TsReady (tsAt (ts4 .idle)) 0 (viewerOf (tsAt (ts4 .idle)) .monitor) ∧
    ¬ TsReady (tsAt (ts4 .running)) 0 (viewerOf (tsAt (ts4 .running)) .monitor) ∧ (64#64).toNat % 64 = 0 ∧ (63#64).toNat % 64 ≠ 0 ∧
    (∀ st ∈ [TsState.running, .faulted, .stopped], tsMay (tsAt (ts4 st)) 0 (viewerOf (tsAt (ts4 st)) .monitor) = true ∧
      (tsOf (tsAt (ts4 st)) 0).st = st) ∧
    (ts4 .faulted).desc.ndim ≠ 0 ∧ (ts4 .faulted).desc.minc = 0 ∧ (ts4 .faulted).pre < tsN (ts4 .faulted).desc := by
  unfold TsReady; decide

theorem test_hyp_elementIssue : let s := tsAt (ts4 .running)
    let x := tsOf s 0
    Memory.wf s = true ∧ s.steep.replay = [] ∧ tsCanIssue x = true ∧ x.desc.gather = false ∧
    tsSrc x.desc x.nxt 0 % tsSrcBytes x.desc = 0 ∧ tsDst x.desc x.nxt % tsDstBytes x.desc = 0 ∧
    tsTrans s 0 (tsSrc x.desc x.nxt 0) [rRD] (tsSrcBytes x.desc) = (.ok (0x10000000000#64, spadSeg), (tsTrans s 0 0 [rRD] 8).2) ∧
    isRemote s 0x10000000000#64 = false ∧ regionOf s.part (paLocal 0x10000000000#64) = .spad 0 ∧
    anyPoison s (paLocal 0x10000000000#64) 8 = false ∧ tsMyTurn s 0 = true ∧ tsTagFree s 0 = true ∧
    (inboundAt s (paLocal 0x10000000000#64) false 8).isSome = true ∧
    tsMyTurn { s with ts := [(0, ts4 .running), (1, ts4 .running)], tsTurn := [(256, 0)] } 0 = false ∧
    (let e : TsElem := { idx := 0, data := none, fl := 0#4, zero := false, sent := false }
     tsTagFree { s with ts := [(0, ts4 .running), (1, { ts4 .running with inflight := List.replicate 2048 e })] } 0 = false) ∧
    (let y := { ts4 .running with desc := { (ts4 .running).desc with sva := 1 } }
     tsCanIssue y = true ∧ tsSrc y.desc y.nxt 0 % tsSrcBytes y.desc ≠ 0) := by decide +kernel

theorem test_hyp_elementDelivery : let e : TsElem := { idx := 0, data := some [1#8, 2#8, 3#8, 4#8, 5#8, 6#8, 7#8, 8#8], fl := 0#4, zero := false, sent := false }
    let s := tsAt { ts4 .running with inflight := [e], nxt := 1 }
    let x := tsOf s 0
    x.inflight = [e] ∧ x.st = .running ∧ x.fault = none ∧ x.pre = 0 ∧ x.above = [] ∧ x.desc.minc = 0 ∧
    tsTrans s 0 (tsDst x.desc 0) [rWR] 8 = (.ok (0x10000000400#64, spadSeg), (tsTrans s 0 0x400 [rWR] 8).2) ∧ steepEn s = false ∧
    x.pre + 1 < tsN x.desc ∧ undoUsed s < undoCap s ∧
    (inboundAt s (paLocal 0x10000000400#64) true 8).isSome = true ∧
    (let y := { x with pre := 3 }
     tsN y.desc ≤ y.pre + 1 ∧ y.desc.ndim ≠ 0 ∧ y.marks = 0 ∧ (∀ o ∈ s.fab.outst ++ s.fab.tc0Wait, o.owner ≠ .tsMark 0)) := by decide +kernel

theorem test_hyp_streamFault : let f : TsFault := { idx := 2, cause := 0x01#8, side := 1#3, absent := some 4 }
    let x := { ts4 .running with fault := some f, stopping := true }
    x.fault = some f ∧ x.st = .running ∧ (∀ e ∈ x.inflight, f.idx ≤ e.idx) ∧ f.absent.isSome = true ∧
    ({ ts4 .running with stopping := true } : Ts).fault = none ∧ tsAsked State.reset (.tsMark 0) = false := by decide

theorem test_hyp_cacheRequests : regionOf State.reset.part 0xFFFFFFFFFFFF = .void ∧ regionOf State.reset.part 0 = .hbm ∧ 0 % 64 + 64 ≤ 64 ∧
    tabFind (llcSetOf State.reset (dramOf State.reset 0).stack (llcIndex State.reset 0)).ways (fun _ l => l.tag == 0) = none ∧
    tabFind (llcSetOf cached (dramOf cached 0).stack (llcIndex cached 0)).ways (fun _ l => l.tag == 0) = some (0, line0) ∧
    line0.valid.getLsbD 0 = true ∧ line0.fill.getLsbD 1 = true ∧ State.reset.boot.devEn.getLsbD 11 = false ∧
    ({ State.reset with boot := { State.reset.boot with devEn := 0x800#15 } } : State).boot.devEn.getLsbD 11 = true ∧
    (∀ n ∈ [0, 4, 8], (BitVec.ofNat 64 (n * 65536)).toNat / 65536 % 16 = n) ∧ (BitVec.ofNat 64 (3 * 65536)).toNat / 65536 % 16 < 4 ∧
    userFlight State.reset (.core 3#8) + 1 ≤ userCap (.core 3#8) ∧ 1 ≤ (9#4).toNat ∧ (9#4).toNat ≤ 9 ∧
    (∀ e ∈ (llcSetOf State.reset (dramOf State.reset 0).stack (llcIndex State.reset 0)).ways, e.2.cls ≠ 0xA) ∧
    (let u : MemUser := .cluster false
     let k : Chan := { reqs := List.replicate 64 { req0 false with user := some u } }
     userCap u < userFlight { State.reset with memsys := { State.reset.memsys with chans := [(0, k)] } } u + 1) := by
  decide +kernel

theorem test_hyp_channelController : ∀ wr ∈ [false, true], let s := chan0 wr 3
    let k := chanOf s 0 0
    stackSlot s.part 0 = some 0 ∧ k.reqs = [req0 wr] ∧ (req0 wr).slot ≠ .none ∧ (req0 wr).pc = false ∧ k.outOfService.getLsbD 0 = false ∧
    tabGet 0 k.tries 0 < 4 ∧ 4 ≤ tabGet 0 (chanOf (chan0 wr 4) 0 0).tries 0 ∧ s.memsys.eccNow.getLsbD 0 = true ∧ (req0 wr).bank < 64 ∧
    s.memsys.eccNow.getLsbD 1 = true ∧ (∀ n ∈ [1, 2, 3], ((List.range n).map (BitVec.ofNat 6)).dedup.length = n) ∧
    wordFinding s { internal := .clean, symbols := [0#6, 1#6] } = .uncorrectable ∧
    wordFinding s { internal := .clean, symbols := [] } ≠ .uncorrectable := by
  decide +kernel

theorem test_hyp_scrubAndRebuild : let s := { hbmMapped State.reset with steep := full0 State.reset.steep, poison := [0x40] }
    stackSlot State.reset.part 0 = some 0 ∧
    (let a := dramAddr State.reset 0 { stack := 0, ch := 0, pc := 0, col := 0, bank := 0, row := 0 }
     rebuildable State.reset a = false ∧ isFree State.reset a = true ∧ regionOf State.reset.part a = .hbm ∧ a % 32 = 0 ∧
     isFree s a = false) ∧
    regionOf s.part 0x40 = .hbm ∧ isPoisoned s (poisonBase s.part 0x40) = true ∧ rebuildable s (poisonBase s.part 0x40) = true ∧
    (let on (n : Nat) : State := { State.reset with
        power := { State.reset.power with domOn := 0xFFFFF#20 }
        memsys := { State.reset.memsys with chans := [(0, { reqs := List.replicate n (req0 false) })] } }
     Memory.wf (on 0) = true ∧ State.reset.power.domOn.getLsbD 15 = false ∧ (on 0).power.domOn.getLsbD 15 = true ∧
     ((chanOf (on 31) 0 0).reqs.filter fun q => q.slot == .general).length < 32 ∧
     248 ≤ ((chanOf (on 248) 0 0).reqs.filter fun q => q.slot == .general).length ∧
     (∀ n ∈ [0, 2], wordFinding (on 0) { internal := .clean, symbols := (List.range n).map (BitVec.ofNat 6) } =
       if n = 0 then .clean else .uncorrectable)) ∧
    tabGet 0 s.memsys.patrol 0 = (0#16).toNat ∧ tabGet 0 s.memsys.patrol 0 ≠ (1#16).toNat ∧ s.steep.code = [] ∧
    ({ code := [(imemBase 0, 1#8)] } : Steep).code ≠ [] ∧ memWf [(imemBase 0, 1#8)] = true ∧
    isPoisoned s (poisonBase s.part 0x80) = false ∧ (∀ e ∈ s.cores, e.2.ru.q = []) ∧ regionOf s.part 0xFFFFFFFFFFFF = .void := by decide +kernel

/-- R284: with a redundant lane in the stack, a lane of a young job's busy channel is due. -/
theorem test_hyp_lanes (h : 0 < Config.redundantLanes) : let s := run0 x0
    let k := chanOf s 0 0
    (0 < 64 ∧ 0 ∉ k.retrained ∧ k.redundant < Config.redundantLanes ∧ (tempMoved s 0 = true ∨ (true = true ∧ jobYoung s = true))) ∧
    tempMoved s 0 = false ∧ 10 < ((11 : Int) - tabGet 0 s.memsys.trainTemps 0).natAbs ∧ ((10 : Int) - tabGet 0 s.memsys.trainTemps 0).natAbs ≤ 10 :=
  ⟨⟨by decide, by decide, h, .inr ⟨rfl, by decide⟩⟩, by decide, by decide, by decide⟩

namespace Sys2Proof.Tests

/-- The body of a capability for the local map from the scratchpads on, object 0, of this device, world P, with every right. -/
def capBody0 : Nat := capBody 0x10000000000 0x10000000000 0xFFFF#16 0 0 0 .P

/-- R306: that body's seal under key 0, by FIPS 197 and SP 800-38B. -/
def seal0 : BitVec 64 := 18110408002435812816#64

theorem cmacSeal_zero : cmacSeal 0 capBody0 = seal0 := by decide +kernel

/-- That capability, sealed under key 0. -/
def cap0 : BitVec 256 := BitVec.ofNat 256 (capBody0 + seal0.toNat * 2 ^ 192)

/-- The capability's fields are those of its body, and its seal. -/
theorem cap0_fields : capOwner cap0 = 0 ∧ capWorld cap0 = .P ∧ capObj cap0 = 0 ∧ capEpoch cap0 = 0 ∧ capRights cap0 = 0xFFFF#16 ∧
    capBase cap0 = 0x10000000000 ∧ capLen cap0 = 0x10000000000 ∧ field cap0.toNat 0 192 = capBody0 ∧
    capSeal cap0 = seal0.toNat := by decide +kernel

/-- Under key 0 its seal is good. -/
theorem cap0_sealed (s : State) (h : s.boot.sysKey = some 0) : sealOk s cap0 = true := by
  unfold sealOk
  rw [h]
  simp only [cap0_fields.2.2.2.2.2.2.2.1, cap0_fields.2.2.2.2.2.2.2.2, cmacSeal_zero, beq_self_eq_true]

/-- R308: what makes a capability of world P pass. -/
theorem capCheck_passes (s : State) (k : BitVec 256) (need : List Nat) (l : Bool) (la n : Nat) (o : Obj)
    (h1 : sealOk s k = true)
    (h3 : capOwner k = s.fab.devnum.toNat) (h4 : capWorld k = .P) (h5 : tabGet {} s.objs (capObj k % 65536) = o)
    (h6 : (o.valid && o.objHi.toNat == capObj k / 65536 && o.permP) = true)
    (h7 : capEpoch k = o.epoch.toNat) (h8 : grants (capRights k) need l = true) (h9 : capBase k ≤ la) (h10 : la + n ≤ capBase k + capLen k)
    (h11 : o.base ≤ la) (h12 : la + n ≤ o.base + o.len) : capCheck s k .P need l la n = 0 := by
  unfold capCheck
  simp only [h1, h3, h4, h5, h6, h7, h8, h9, h10, h11, h12, bne_self_eq_false, Bool.not_true, decide_true, Bool.and_true, Bool.false_eq_true, if_false]

/-- Object 0, the local map from the scratchpads on, open to world P. -/
def obj0 : Obj := { valid := true, base := 0x10000000000, len := 0x10000000000, permP := true }

/-- The device with key 0 and object 0. -/
def sealing (s : State) : State := { s with boot := { s.boot with sysKey := some 0 }, objs := [(0, obj0)] }

/-- The capability passes every check of R308 for an access inside its range at level S. -/
theorem cap0_passes (s : State) (hk : s.boot.sysKey = some 0) (ho : s.objs = [(0, obj0)]) (h0 : s.fab.devnum = 0#14) (need : List Nat)
    (hn : grants 0xFFFF#16 need true = true) (la n : Nat) (h1 : 0x10000000000 ≤ la) (h2 : la + n ≤ 0x20000000000) :
    capCheck s cap0 .P need true la n = 0 := by
  obtain ⟨a1, a2, a3, a4, a5, a6, a7, _⟩ := cap0_fields
  refine capCheck_passes _ _ _ _ _ _ obj0 (cap0_sealed s hk) ?_ a2 ?_ ?_ ?_ ?_ ?_ ?_ ?_ ?_
  · rw [a1, h0]; rfl
  · rw [a3, ho]; rfl
  · rw [a3]; rfl
  · rw [a4]; rfl
  · rw [a5]; exact hn
  · rw [a6]; exact h1
  · rw [a6, a7]; omega
  · exact h1
  · show la + n ≤ 0x10000000000 + 0x10000000000
    omega

end Sys2Proof.Tests

namespace Sys2Proof.Tests

/-- A request for this device from device 1 with that capability: LOCAL address `a`, n bytes. -/
def packet0 (a n : Nat) (fn : BitVec 16) (data : List Byte) : Packet :=
  { tc := 1#2, level := 3#4, replay := false, world := .P, lvlS := true, cls := 0#4, dest := 0#14, src := 1#14, bytes := BitVec.ofNat 12 n,
    agent := 0#10, seq := 7#22, lwm := 0#22, plane := false, detour := false, vc := false, hops := 0#6, addr := BitVec.ofNat 48 a, fn := fn,
    operand := 1#64, cap := cap0, data := data }

/-- A device with link 0 UP. -/
def linked : State := { State.reset with fab := { State.reset.fab with links := [(0, { st := .up })] } }

/-- R308, R360: the checks of a request with that capability, but for the capability's own. -/
def performsElse (s : State) (op : Nat) (p : Packet) : Prop :=
  dedupOf s p = none ∧ stillWaits s p = false ∧ s.steep.rollback = false ∧ deviceHalted s = false ∧ s.steep.replay = [] ∧
    s.fab.held = [] ∧ reqRegion s op p = true ∧ reqAligned s op p = true ∧ dedupFull s p = false

theorem performs_of (s : State) (hk : s.boot.sysKey = some 0) (ho : s.objs = [(0, obj0)]) (h0 : s.fab.devnum = 0#14) (op a n : Nat)
    (fn : BitVec 16) (data : List Byte) (h : performsElse s op (packet0 a n fn data))
    (hn : grants 0xFFFF#16 (reqNeed s op (packet0 a n fn data)) true = true)
    (h1 : 0x10000000000 ≤ (packet0 a n fn data).addr.toNat)
    (h2 : (packet0 a n fn data).addr.toNat + reqBytes op (packet0 a n fn data) ≤ 0x20000000000) :
    Performs s op (packet0 a n fn data) := by
  obtain ⟨b1, b2, b3, b4, b5, b6, b7, b8, b9⟩ := h
  exact ⟨b1, b2, b3, b4, b5, b6, cap0_passes _ hk ho h0 _ hn _ _ h1 h2, b7, b8, b9⟩

end Sys2Proof.Tests

/-- R360: a read, a write, an atomic of 8 bytes and a SIGNAL that pass every check. -/
theorem test_hyp_fabricRequests : Performs (sealing linked) opRd (packet0 0x10000000000 4 0#16 []) ∧
    Performs (sealing linked) opWr (packet0 0x10000000000 1 0#16 [9#8]) ∧ Performs (sealing linked) opAtom (packet0 0x10000000000 8 0x30#16 []) ∧
    Performs (sealing linked) opSync (packet0 0x1E0000000A0 0 0#16 []) := by
  refine ⟨performs_of _ rfl rfl rfl _ _ _ _ _ ?_ ?_ ?_ ?_, performs_of _ rfl rfl rfl _ _ _ _ _ ?_ ?_ ?_ ?_,
    performs_of _ rfl rfl rfl _ _ _ _ _ ?_ ?_ ?_ ?_, performs_of _ rfl rfl rfl _ _ _ _ _ ?_ ?_ ?_ ?_⟩
  all_goals first | (unfold performsElse; decide +kernel) | decide +kernel

theorem test_hyp_fabricRequests_taken : let s := sealing linked
    TakenHere s 0#3 opRd (packet0 0x10000000000 4 0#16 []) ∧ TakenHere s 0#3 opWr (packet0 0x10000000000 1 0#16 [9#8]) ∧
    TakenHere s 0#3 opAtom (packet0 0x10000000000 8 0x30#16 []) ∧ TakenHere s 0#3 opSync (packet0 0x1E0000000A0 0 0#16 []) ∧
    regionOf s.part 0x10000000000 = .spad 0 ∧ anyPoison s 0x10000000000 8 = false ∧ steepEn s = false ∧ Memory.wf s = true ∧
    (packet0 0x10000000000 8 0x30#16 []).fn.toNat / 16 % 4 = 3 ∧ regionOf s.part 0x1E0000000A0 = .so 5 ∧ (soOf s 5).ty ≠ 2#2 ∧
    (soOf s 5).waiters = [] := by
  unfold TakenHere HeaderAllowed; decide +kernel

namespace Sys2Proof.Tests

/-- A pass that takes every byte per clock of the scratchpad's ports: two FP32 inputs and an FP32 output. -/
def greedy : SDesc :=
  { desc4 with stages := [{ op := 8, src1 := 3, fmt := 1 }], ga := { en := true, fmt := 1, rowstride := 4 }, gb := { en := true, fmt := 1, rowstride := 4 }, go := { en := true, fmt := 1 } }

/-- A device that runs it in core 0, with n bytes in the core's inbound buffer each way. -/
def fullPorts (n : Nat) : State :=
  { sealing linked with cores := [(0, { se := { run := some (runs greedy) }, inRd := n, inWr := n })] }

end Sys2Proof.Tests

/-- R250: a write of 1 byte and a read of 4 while the pass takes the ports: within the buffer, and beyond it by one byte. -/
theorem test_hyp_inboundBuffer : ∀ n ∈ [4095, 4096],
    let s := fullPorts n
    let k := coreOf s 0
    regionOf s.part 0x10000000000 = .spad 0 ∧ portsTaken k true = true ∧ portsTaken k false = true ∧ portsTaken ({} : Core) true = false ∧
    portsTaken ({} : Core) false = false ∧ TakenHere s 0#3 opWr (packet0 0x10000000000 1 0#16 [9#8]) ∧
    TakenHere s 0#3 opRd (packet0 0x10000000000 4 0#16 []) ∧ k.inWr + 1 = n + 1 ∧ 4096 < k.inRd + 4 ∧ steepEn s = false := by
  unfold TakenHere HeaderAllowed; decide +kernel

theorem test_hyp_inboundBuffer_performs : Performs (fullPorts 4095) opWr (packet0 0x10000000000 1 0#16 [9#8]) ∧
    Performs (fullPorts 4096) opWr (packet0 0x10000000000 1 0#16 [9#8]) ∧ Performs (fullPorts 4096) opRd (packet0 0x10000000000 4 0#16 []) := by
  refine ⟨performs_of _ rfl rfl rfl _ _ _ _ _ ?_ ?_ ?_ ?_, performs_of _ rfl rfl rfl _ _ _ _ _ ?_ ?_ ?_ ?_,
    performs_of _ rfl rfl rfl _ _ _ _ _ ?_ ?_ ?_ ?_⟩
  all_goals first | (unfold performsElse; decide +kernel) | decide +kernel

/-- R304: an object that may move and one that may not, a mapper of it, and the two messages about it from device 1. -/
theorem test_hyp_mirroredObjects : let s := sealing linked
    let m : Mapper := { dev := 1, cx := 0, sg := 0, pbase := 0#64, cap := cap0 }
    let far : Seg := { spadSeg with pbase := 0x4001010000000000#64 }
    let p (k : Byte) (n : Nat) : Packet := { packet0 0 (3 + n) 0#16 (k :: 0#8 :: 0#8 :: List.replicate n 1#8) with tc := 3#2, cap := 0#256 }
    let t := { s with ctxs := [(0, { cx0 with segs := [(0, far)] })] }
    MayMove s 0#32 0x20000000000#48 ∧ ¬ MayMove s 1#32 0x20000000000#48 ∧ ¬ MayMove s 0#32 0xFFFFFFFFFFFF#48 ∧ s.poison = [] ∧
    s.fab.mappers = [] ∧ Memory.wf s = true ∧ capObj m.cap = (0#32).toNat ∧ TakenHere s 0#3 opSvc (p mirrorRegister 64) ∧
    TakenHere t 0#3 opSvc (p mirrorMoved 40) ∧ isRemote t (segOf (ctxOf t 0) 0).pbase = true ∧
    paDev (segOf (ctxOf t 0) 0).pbase = (p mirrorMoved 40).src.toNat ∧ (ctxOf t 0).invals = [] ∧ (ctxOf t 0).queued = [] := by
  unfold MayMove TakenHere HeaderAllowed; decide +kernel

/-- R308: without a system key no capability passes; R360: a request whose entry is held. -/
theorem test_hyp_fabricRequests_refused : let p := { packet0 0x10000000000 1 0#16 [9#8] with cap := 0#256 }
    let e : Dedup := { die := agentDie linked 1, src := 1, agent := 0, seq := 7, tc0 := false, status := 0#16, operand := 0#64, made := 0 }
    let s := { linked with fab := { linked.fab with dedup := [e] } }
    capCheck linked p.cap p.world (reqNeed linked opWr p) p.lvlS p.addr.toNat (reqBytes opWr p) ≠ 0 ∧ TakenHere linked 0#3 opWr p ∧
    TakenHere s 0#3 opWr p ∧ s.fab.held = [] ∧ seqBelow p.seq.toNat p.lwm.toNat = false ∧ dedupOf s p = some e := by
  unfold TakenHere HeaderAllowed; decide +kernel

namespace Sys2Proof.Tests

/-- The words of a request of DERIVE at offset 0x40 of scratchpad 0: one byte at the start of the scratchpads, RD. -/
def deriveMem : List Host.Cell := [(0x10000000045, 1#8), (0x10000000048, 1#8), (0x10000000050, 1#8)]

/-- A device whose thread 0 asks for service n, with that capability at the start of scratchpad 0. -/
def capState (n : BitVec 8) : State :=
  { sealing (mapped (run0 (asking n))) with mem := writeOk (fun _ => true) deriveMem 0x10000000000 (natLe 32 cap0.toNat) }

/-- A service that has had its effect and still writes 32 bytes at 0x80. -/
def svcEnd0 (hi : Nat) : SvcEnd :=
  { c := 0, t := 0, ic := 0, obj := 0, lo := 0x10000000000, hi := hi, out := some (0x80, List.replicate 32 1#8), code := 0 }

end Sys2Proof.Tests

/-- R311: a request of DERIVE for one byte with RD, of a capability of everything. -/
theorem test_hyp_deriveNarrows : let s := capState 0x20#8
    let s0 := svcTouch 0 32 [rWR] (svcTouch 0 24 [rRD] (svcTouch 0 32 [rRD] s 0) 0x40) 0x80
    let k := capAt s0 0 0
    waitsFor (thOf s 0 0) 0x20#8 = true ∧ SvcFresh s 0 0 ∧ SvcHere s0 0 [rRD] 0 32 ∧ SvcHere s0 0 [rRD] 0x40 24 ∧
    SvcHere s0 0 [rWR] 0x80 32 ∧ sealOk s k = true ∧ capWorld k = .P ∧ (capRights k).getLsbD 5 = true ∧ capBase k ≤ 0x10000000000 ∧
    0x10000000000 + 1 ≤ capBase k + capLen k ∧ capBase k + capLen k ≤ 2 ^ 48 ∧ 1 &&& (capRights k).toNat = 1 ∧
    wordsOf 3 (svcRead s0 0 0x40 24) = [0x10000000000#64, 1#64, 1#64] := by
  intro s s0 k
  have hk : k = cap0 := by decide +kernel
  rw [hk]
  refine ⟨by decide +kernel, ?_, ?_, ?_, ?_, cap0_sealed _ rfl, ?_⟩
  all_goals first | (unfold SvcFresh; decide +kernel) | (unfold SvcHere; decide +kernel) | decide +kernel

/-- R312: REVOKE of a capability over its whole object, with nothing under way and with a posted store of another thread under way; and the
command that ends the service. -/
theorem test_hyp_revoke : let s := capState 0x21#8
    let busy := { s with cores := [(0, { th := [(0, asking 0x21#8), (1, { x0 with sb := [⟨0x10000000100, [1#8]⟩] })] })] }
    let s0 := svcTouch 0 32 [rWR] (svcTouch 0 32 [rRD] s 0) 0x80
    let k := capAt s0 0 0
    waitsFor (thOf s 0 0) 0x21#8 = true ∧ SvcFresh s 0 0 ∧ SvcHere s0 0 [rRD] 0 32 ∧ SvcHere s0 0 [rWR] 0x80 32 ∧
    mayRevoke s .P k = true ∧ (tabGet {} s.objs (capObj k % 65536)).epoch ≠ 0xFFFF#16 ∧ capObj k = 0 ∧
    underWay s 0 obj0.base (obj0.base + obj0.len) = false ∧ underWay busy 0 obj0.base (obj0.base + obj0.len) = true ∧ obj0.len ≠ 0 ∧
    (∀ hi ∈ [0, 0x20000000000], let t := { s with board := { s.board with svcEnds := [svcEnd0 hi] } }
      t.board.svcEnds = [svcEnd0 hi] ∧ (svcEnd0 hi).ic = (thOf t 0 0).icount ∧
      (decide ((svcEnd0 hi).lo < (svcEnd0 hi).hi) && underWay t (svcEnd0 hi).obj (svcEnd0 hi).lo (svcEnd0 hi).hi) = false ∧
      SvcHere t 0 [rWR] 0x80 32) := by
  intro s busy s0 k
  have hk : k = cap0 := by decide +kernel
  have ho : (tabGet {} s.objs (0 % 65536)) = obj0 := by decide +kernel
  have hm : mayRevoke s .P k = true := by
    unfold mayRevoke
    rw [hk, cap0_fields.2.2.1, ho]
    simp only [beq_iff_eq]
    exact cap0_passes _ (by decide +kernel) (by decide +kernel) (by decide +kernel) _ (by decide) _ _ (by decide) (by decide)
  refine ⟨by decide +kernel, ?_, ?_, ?_, hm, ?_⟩
  all_goals first | (unfold SvcFresh; decide +kernel) | (unfold SvcHere; decide +kernel)

/-- R311: CHECK of a capability with a good seal, of this device and the requester's world. -/
theorem test_hyp_check_sealed : let s := capState 0x22#8
    let s0 := svcTouch 0 32 [rRD] s 0
    let k := capAt s0 0 0
    waitsFor (thOf s 0 0) 0x22#8 = true ∧ SvcFresh s 0 0 ∧ SvcHere s0 0 [rRD] 0 32 ∧ sealOk s k = true ∧
    capOwner k = s.fab.devnum.toNat ∧ capWorld k = .P := by
  intro s s0 k
  have hk : k = cap0 := by decide +kernel
  rw [hk]
  refine ⟨by decide +kernel, ?_, ?_, cap0_sealed _ rfl, ?_⟩
  all_goals first | (unfold SvcFresh; decide +kernel) | (unfold SvcHere; decide +kernel) | decide +kernel

namespace Sys2Proof.Tests

/-- The same without a capability. -/
def bare0 (st : BitVec 16) : Packet :=
  { tc := 1#2, level := 3#4, replay := false, world := .P, lvlS := true, cls := 0#4, dest := 0#14, src := 1#14, bytes := 0#12,
    agent := 0#10, seq := 7#22, lwm := 0#22, plane := false, detour := false, vc := false, hops := 0#6, addr := 0#48, fn := st,
    operand := 1#64, cap := 0#256, data := [] }

/-- A request of thread 0 of core 0 that device 1 answers, sent as operation `op` in TC1. -/
def outst0 (op : Nat) (busy : Bool) : Outst :=
  { agent := 0, seq := 7, sent := (op, { bare0 0#16 with dest := 1#14, src := 0#14 }), owner := .thread 0 0 0, busy := busy, since := 0 }

/-- A linked device that waits for it with its thread 0. -/
def asked (op : Nat) (busy : Bool) : State :=
  { linked with cores := [(0, { th := [(0, waiting (.load 3#5 8 true [part8] 4))] })], fab := { linked.fab with outst := [outst0 op busy] } }

/-- The response to it. -/
def answer0 (st : BitVec 16) : Packet := bare0 st

/-- A valid group of devices 0 and 1 on a linked device. -/
def grouped : State := { linked with groups := [(0, { word0 := BitVec.ofNat 64 (1 + 2 + 2 ^ 15), arg := 1#64 })] }

/-- A device with one link in state `st` and its enable bit set. -/
def oneLink (st : LinkSt) (k : Link) : State :=
  { State.reset with fab := { State.reset.fab with links := [(0, { k with st := st })] }, boot := { State.reset.boot with devEn := 4#15 } }

/-- A device with steep state `p` and STEEP_EN set. -/
def steepAt (p : Steep) : State := { run0 x0 with steep := p, boot := { State.reset.boot with devEn := 0x400#15 } }

end Sys2Proof.Tests

theorem test_hyp_packetArrival : let p := packet0 0x10000000000 4 0#16 []
    InboundForm 0#3 p opRd (.rd 0#3 p) ∧ dataFits opRd p = true ∧ linkUp State.reset 0 = false ∧ linkUp linked 0 = true ∧
    ({ p with hops := 63#6 } : Packet).hops = 63#6 ∧ p.hops ≠ 63#6 ∧ ¬ HeaderAllowed linked opRd { p with tc := 3#2 } ∧
    HeaderAllowed linked opRd p ∧ ({ p with dest := 5#14 } : Packet).dest ≠ linked.fab.devnum := by
  refine ⟨by unfold InboundForm; simp only [opRd]; exact List.mem_cons_self, ?_⟩
  unfold HeaderAllowed; decide +kernel

theorem test_hyp_repeatedRequests : let p := packet0 0x10000000000 1 0#16 [9#8]
    State.reset.steep.replay = [] ∧ State.reset.fab.held = [] ∧ seqBelow p.seq.toNat p.lwm.toNat = false ∧ PlainAt State.reset p.addr.toNat ∧
    exec (.wr 0#3 p) State.reset = .next State.reset :=
  ⟨rfl, rfl, by decide, .inr ⟨0, by decide⟩, by rfl⟩

theorem test_hyp_fabricResponses : TakenHere linked 0#3 opRdr (answer0 0#16) ∧ findOutst linked 0 7 = none ∧
    TakenHere (asked opRd false) 0#3 opRdr (answer0 0#16) ∧ TakenHere (asked opRd false) 0#3 opRdr (answer0 4#16) ∧
    findOutst (asked opRd false) 0 7 = some (outst0 opRd false) ∧
    (outst0 opRd false).sent.1 + 1 = opRdr ∧ (answer0 0#16).tc ≠ 0#2 ∧ (outst0 opRd false).owner = .thread 0 0 0 ∧
    (thOf (asked opRd false) 0 0).wait = .reply (.load 3#5 8 true [part8] 4) ∧
    (∀ h ∈ waitParts (.load 3#5 8 true [part8] 4), h.err = 0) ∧
    findOutst (asked opRd true) 0 7 = some (outst0 opRd true) ∧ (outst0 opRd true).sent.1 ≠ opSync := by
  unfold TakenHere HeaderAllowed; decide +kernel

/-- R387: a partial of operation 0 from device 1, and one of a group that is not valid. -/
theorem test_hyp_partials : let p := bare0 0#16
    TakenHere grouped 0#3 opComb p ∧ combOk grouped p = true ∧ (grpOf grouped (combGroup p)).doneN ≤ p.operand.toNat % 2 ^ 48 ∧
    (grpOf grouped (combGroup p)).merged = [] ∧ TakenHere linked 0#3 opComb p ∧ combOk linked p = false ∧
    p.operand.toNat % 2 ^ 48 < ({ word0 := 3#64, doneN := 2 } : Group).doneN ∧
    TakenHere linked 0#3 opSvc { p with tc := 3#2, bytes := 1#12, data := [0x04#8] } ∧
    TakenHere linked 0#3 opSvcr { p with tc := 3#2 } ∧ TakenHere linked 0#3 opTsync { p with tc := 3#2 } := by
  unfold TakenHere HeaderAllowed; decide +kernel

/-- R334, R441: a system of one pot without spares, as a link map of one device and its torus links gives it. -/
def map1 : LinkmapImg :=
  { devs := [{ num := 0#14, board := 0, part := .h512, far := [(0, 1#14), (1, 8#14), (2, 64#14), (4, 7#14), (5, 56#14), (6, 448#14)] }],
    spares := [], master := 0#14, potMasters := [] }

/-- R416: a link map whose spare at port 9 is of another part than device 6. -/
def map2 : LinkmapImg :=
  { devs := [{ num := 6#14, board := 0, part := .h512, far := [] }], spares := [(9#14, .a384)], master := 0#14, potMasters := [] }

/-- R367: the worked rule: toward a master at x = 0, PX− from x = 3 and PX+ from x = 5; then PY−; a pot master has U0. -/
theorem test_parentLink : parentLink 3 0 = 4 ∧ parentLink 5 0 = 0 ∧ parentLink 8 0 = 5 ∧ parentLink 512 512 = 3 ∧
    timeRole map1 0 = 2#2 ∧ timeRole map1 512 = 1#2 ∧ timeRole map1 1 = 0#2 := by decide

/-- R332, R334, R458: the checks of LINK_EN over a link map: its torus links are the neighbours; a map that gives PX+ another far end is
refused with 0x31, and one that has an up-link without need with 0x32. -/
theorem test_linkmap : let s (m : LinkmapImg) : State := { State.reset with boot := { State.reset.boot with linkmap := some m } }
    mapReasons (s map1) 0 = [] ∧
    (mapReasons (s { map1 with devs := map1.devs.map fun d => { d with far := [(0, 2#14)] } }) 0).map Prod.fst = [0x31] ∧
    (mapReasons (s { map1 with devs := map1.devs.map fun d => { d with far := (3, 0#14) :: d.far } }) 0).map Prod.fst = [0x32] := by
  decide

/-- R458: an override toward devices 1 to 4 may name PX+, and not PX−, which leads minimally to 4 alone. -/
theorem test_onMinimal : onMinimal 0 0 1 4 = true ∧ onMinimal 0 4 1 3 = false ∧ onMinimal 0 4 1 4 = true := by decide +kernel

theorem test_hyp_linkLayer : linkUp (oneLink .down {}) 0 = false ∧ (oneLink .down {}).boot.devEn.getLsbD 2 = true ∧
    linkPresent (oneLink .down {}) 0 = true ∧
    linkPresent { State.reset with boot := { State.reset.boot with linkmap := some map1 } } 3 = false ∧
    linkAdmits (oneLink .down {}) (linkOf (oneLink .down {}) 0) 0#14 3#4 = true ∧
    linkAdmits (oneLink .down {}) (linkOf (oneLink .down {}) 0) 1#14 3#4 = false ∧ linkUp (oneLink .up {}) 0 = true ∧
    (oneLink .up {}).fab.held = [] ∧ (linkOf (oneLink .up { resend := some 3#12 }) 0).resend = some 3#12 ∧
    (∀ st ∈ [LinkSt.up, .upSpare], stormsDue (oneLink st { storms := [0, 0, 0] }) (linkOf (oneLink st { storms := [0, 0, 0] }) 0) = true ∧
      (linkOf (oneLink st { storms := [0, 0, 0] }) 0).st = st) ∧
    stormsDue (oneLink .up { storms := [0, 0] }) (linkOf (oneLink .up { storms := [0, 0] }) 0) = false ∧
    (linkOf (oneLink .up { sparing := some 2#4 }) 0).sparing = some 2#4 := by decide

theorem test_hyp_fabricControl : (∀ i, i < 8 → (linkOf State.reset i).st = .down) ∧ (2 ≤ (0x20#64).toNat / 16 % 16) ∧ (0x30#64).toNat / 16 % 16 ≤ 3 ∧
    State.reset.fab.devnum = State.reset.fab.master ∧ ({ State.reset.fab with master := 1#14 } : Fabric).devnum ≠ 1#14 ∧
    (let f : Fabric := { State.reset.fab with votes := [(3, 4)], count := 4 }
     tabGet 0 f.votes 3 = f.count ∧ 0 < f.count ∧ tabGet 0 f.votes 2 ≠ f.count) ∧
    State.reset.fab.role ≠ 2#2 ∧ linkUp (oneLink .up {}) (oneLink .up {}).fab.parent.toNat = true ∧
    (∃ o ∈ (asked opRd false).fab.outst ++ (asked opRd false).fab.tc0Wait, o.agent = 0) := by decide

theorem test_hyp_localSteeps : let idle := steepAt {}
    let due := steepAt { pending := true }
    steepEn idle = true ∧ idle.steep.pending = false ∧ idle.steep.cutting = none ∧ logFull idle = false ∧
    logFull { State.reset with steep := { State.reset.steep with ctl := 0#58 } } = true ∧
    (∀ k ∈ ({ due with cores := [] } : State).cores, ∀ x ∈ k.2.th, holdsCut x.2 = false) ∧ due.steep.pending = true ∧
    (∃ k ∈ due.cores, k.2.ilv = false ∧ ∃ x ∈ k.2.th, x.2.st = .ready) ∧
    (∀ k ∈ ({ due with cores := [(0, { th := [(0, x0)], ilv := true })] } : State).cores, k.2.ilv = false → ∀ x ∈ k.2.th, x.2.st ≠ .ready) ∧
    UnitsQuiet idle 0 ∧ due.steep.reqAt + steepWindow due ≤ max due.time 0xFFFFFFFFFFFFFFFF ∧
    max due.time 0 < due.steep.reqAt + steepWindow due ∧ (steepAt { cutting := some {} }).steep.cutting = some {} := by
  unfold UnitsQuiet; decide +kernel

theorem test_hyp_returnToSteep : let r : UndoRec := { line := 0x100, old := List.replicate 256 1#8, localTier := true, fullTier := true, oldGen := false }
    let s := steepAt { rollback := true, snap := some {}, undo := [r] }
    Memory.wf s = true ∧ s.steep.recovery = [] ∧ s.steep.rollback = true ∧ s.steep.halted = false ∧ s.steep.snap = some {} ∧
    stillReplaying s = false ∧ s.steep.undo = [r] ∧ r.localTier = true ∧ s.steep.prevUndo = [] ∧ s.poison = [] ∧ r.old.length = 256 ∧
    (let a : Archive := { mem := [(5, 1#8)] }
     let h := steepAt { halted := true, archive := some a, partners := [1#14, 2#14, 3#14], window := [1#14, 2#14, 3#14] }
     h.steep.halted = true ∧ thirdLoss h = true ∧ h.steep.archive = some a ∧ h.poison = [] ∧ a.poison = [] ∧ a.snap.spads = [] ∧
     ∀ e ∈ a.mem, e.1 < hbmTop h.part) ∧
    (let f := steepAt { full := some {} }
     archiveRoom f = true ∧ f.steep.archives = [] ∧ f.steep.undo = []) ∧ 0 ∈ ({ archives := [0] } : Steep).archives := by decide +kernel

theorem test_hyp_fullSteeps : let s := steepAt {}
    let a := parityBase s
    steepEn s = true ∧ s.steep.announced = none ∧ regionOf s.part 0xFFFFFFFFFFFF = .void ∧ regionOf s.part a = .hbm ∧ a / 256 * 256 = a ∧
    a < logBase s ∧ isPoisoned s a = false ∧ (∀ q ∈ s.steep.preimg, q.1 ≠ a) ∧ undoUsed s < undoCap s ∧
    (let last := parityBase s + jobGiB s * 2 ^ 28 + 2 ^ 29 - 256
     last / 256 * 256 = last ∧ parityBase s ≤ last ∧ last < logBase s) ∧
    (let c := steepAt { fullNext := some {}, announced := some 1, cutTaken := true }
     c.steep.fullNext = some {} ∧ c.steep.announced = some 1 ∧ c.steep.cutTaken = true ∧ c.steep.cutting = none) := by decide +kernel

theorem test_hyp_fullSteeps_sound (i : Nat) : isPoisoned (steepAt {}) i = false := by
  unfold isPoisoned
  rw [show (steepAt {}).poison = [] from rfl]
  rfl

namespace Sys2Proof.Tests

/-- A device at boot phase `p` with enable bits `en` and the leader's outputs enabled. -/
def bootAt (p : BootPhase) (en : BitVec 15) : State :=
  { State.reset with
    boot := { State.reset.boot with phase := p, devEn := en }
    steep := { State.reset.steep with holder := 1#2, aonGate := true, gateA := true, leaseEnd := 100 } }

/-- A device that runs its job loader, ready for a job of world P on thread 0 of core 0 with the default declaration given. -/
def loaderOn : State :=
  { bootAt .loader 0xC07#15 with
    fab := { State.reset.fab with locked := true }
    boot := { (bootAt .loader 0xC07#15).boot with slots := 1#4 }
    ctxs := [(0, { ctxEn := true })] }

/-- A job description of one thread. -/
def job0 : JobDesc :=
  { world := .P, slot := some 0#2, ctxs := [], streams := [], cores := [], groups := [], seeds := [], objs := [], copies := [],
    threads := [{ c := 0#8, t := 0#3, cx := 0#6, pc := 0x40#18, dsp := 5#64, decl := some (List.replicate 8 0#64) }], recovery := [], files := [],
    boost := false, env := [] }

/-- A device whose endpoint serves the mailbox with a command waiting. -/
def mailbox : State :=
  { bootAt .loader 0#15 with
    board := { State.reset.board with
      endpoint := true, ready := true, cmdTail := 1#8
      files := [(fileKey .P 0, { ns := 0, base := 0, len := 0x1000, output := false })] } }

/-- An I/O request of op 1 for n bytes. -/
def io0 (retried : Bool) : IoReq :=
  { key := [1], cx := 0, op := 1, file := 0, so := 5, off := 0, va := 0, len := 0x1000, blk := 0, done := none, retried := retried, host := true }

/-- A device with supplies `p`. -/
def powered (p : Power) : State := { State.reset with power := p }

end Sys2Proof.Tests

theorem test_hyp_lossAndChecks : let s := { steepAt { missed := [(5, 3)], spares := [9#14], lost := [6#14] } with cores := [] }
    Memory.wf s = true ∧ (5#14 : BitVec 14) ≠ s.fab.devnum ∧ 3 ≤ tabGet 0 s.steep.missed 5 ∧ 2 ≤ (2#3).toNat ∧ 5#14 ∉ s.steep.lost ∧
    (5#14 : BitVec 14) ∉ s.fab.suspects ∧ s.boot.image.role = false ∧ 6#14 ∈ s.steep.lost ∧ 9#14 ∈ s.steep.spares ∧ spareFits s 6#14 9#14 = true ∧ thirdLoss s = false ∧
    spareFits { s with boot := { s.boot with linkmap := some map2 } } 6#14 9#14 = false ∧
    (∀ e ∈ s.cores, e.2.ru.q = []) ∧ pairNo true 3#2 ∉ s.steep.retiredPairs ∧
    ({ fails := [(2, [0, 1])] } : Steep).fails.length = 1 ∧ 2 ≤ ([0, 1].filter fun t => decide (5 < t + 86400000000000)).length := by decide

theorem test_hyp_poisonRecovery : let s := { hbmMapped (steepAt { full := some {} }) with cores := [], poison := [0x40, 0x10000000000] }
    let a := poisonBase s.part 0x40
    regionOf s.part 0x40 = .hbm ∧ steepEn s = true ∧ isPoisoned s a = true ∧ a < parityBase s ∧
    (∀ r ∈ s.steep.undo ++ s.steep.prevUndo, r.line ≠ a / 256 * 256) ∧ policyAt s a = some 0 ∧ s.steep.full.isSome = true ∧
    regionOf s.part 0x10000000000 = .spad 0 ∧ isPoisoned s (poisonBase s.part 0x10000000000) = true ∧
    regionOf s.part 0xFFFFFFFFFFFF = .void ∧ steepEn State.reset = false := by decide +kernel

theorem test_hyp_leaderToken : let p := (bootAt .loader 0#15).steep
    p.epoch = 0#32 ∧ p.holder = 1#2 ∧ p.holder ≠ 2#2 ∧ 99 < p.leaseEnd ∧ p.leaseEnd ≤ max 0 100 ∧ State.reset.steep.holder = 0#2 ∧
    p.claimA + 2000000 ≤ max 0 2000000 ∧ max 0 1999999 < p.claimB + 2000000 ∧ outputsOn (bootAt .loader 0#15) = true ∧
    outputsOn State.reset = false := by decide

/-- R456: a device with worlds enabled and no failing check, and one without. -/
theorem test_hyp_strainer : classReasons (bootAt .loader 4#15) ++ needLink (bootAt .loader 4#15) ++ envReasons (envFor [] 0x50 0x54) = [] ∧
    devBit (bootAt .loader 4#15) 11 = false ∧
    classReasons State.reset ++ needLink State.reset ++ envReasons (envFor [] 0x50 0x54) ≠ [] ∧ devBit State.reset 11 = false ∧
    extReasons worldsOn ++ needWorld worldsOn ++ envReasons (envOnly [] 0x70 0x72) = [] ∧ devBit worldsOn 14 = false ∧
    devBit (bootAt .loader 0x800#15) 11 = true ∧ State.reset.boot.phase ≠ .loader := by decide +kernel

theorem test_hyp_worldEn : worldReasons State.reset true true = [] ∧ worldReasons State.reset true false = [] ∧
    envReasons (envOnly [] 0x01 0x04) = [] := by decide +kernel

theorem test_hyp_steepEn : let s := { worldsOn with steep := { State.reset.steep with partners := List.replicate 10 1#14 } }
    steepReasons s ++ needWorld s ++ needTables s ++ envReasons (envFor [] 0x40 0x45) = [] := by decide +kernel

/-- R452, R458: a store that sets both bits of WORLD_EN enables both worlds over cores that hold threads of both. -/
theorem test_bothWorlds : let s := { State.reset with cores := [(0, { threadT := 0x0F#8 })] }
    devBit (devRuns [] [0, 1] s) 1 = true ∧ devBit (devRuns [] [0] s) 0 = false := by decide +kernel

/-- R371, R383: a BARRIER group of device 0 alone marks the object that CSO names. -/
theorem test_barrierGrp : let s := markGroups (setGrp State.reset 0 { word0 := 1#64, arg := BitVec.ofNat 64 (5 * 2 ^ 9) })
    (soOf s 5).grp = true ∧ (soOf s 4).grp = false ∧ soRead s 5 0x10 = 0x108#64 := by decide

theorem test_hyp_jobLoad : let s := loaderOn
    s.boot.phase = .loader ∧ s.boot.barred = false ∧ s.fab.locked = true ∧ job0.slot = some 0#2 ∧ s.boot.slots.getLsbD 0 = true ∧
    devBit s (12 + worldBit job0.world) = false ∧
    (let s2 := jobAssign s job0
     jobReasons s2 .P [(0, 0)] ++ needDev s2 10 ++ needDev s2 11 ++ needCtx s2 .P ++ envReasons (envFor job0.env 0x60 0x67) = []) := by
  decide +kernel

theorem test_hyp_bootSequence : (∀ p ∈ [BootPhase.off, .supplies, .aon, .loaded, .clusters, .hbm, .links, .strained, .loader], (bootAt p 0#15).boot.phase = p) ∧
    (powered { agood := true }).power.pwrgd = false ∧ (powered { agood := true }).power.agood = true ∧
    (let s := { bootAt .aon 0#15 with power := { State.reset.power with fabRef := true } }
     s.power.fabRef = true ∧ s.board.jtagSel = false ∧ bankOrder s = [false, true]) ∧ State.reset.steep.holder = 0#2 ∧
    (let s := bootAt .loader 4#15
     linkReasons (bootAt .hbm 0#15) 0 ++ needPhase (booted (bootAt .hbm 0#15)) ++ envReasons (envFor [] 0x30 0x35) = [] ∧
     devBit (bootAt .hbm 0#15) 2 = false ∧ devBit s 2 = true) ∧
    ({ migrated := true } : Boot).migrated = true ∧ (steepAt { full := some {} }).steep.full.isSome = true ∧ State.reset.boot.resetN = true := by
  decide +kernel

theorem test_hyp_firmwareUpdate : updateOn State.reset = false ∧ updateOn (bootAt .loader 0#15) = true ∧ updateOn (bootAt .refused 0#15) = true ∧
    (bootAt .loader 0#15).boot.updating = false ∧ ({ updating := true, verified := true } : Boot).updating = true ∧
    jobOn (bootAt .loader 0x1000#15) = true ∧ jobOn (bootAt .loader 0#15) = false ∧ 33554431 + 1 ≤ 33554432 ∧ 33554432 < 33554432 + 1 := by decide

theorem test_hyp_managementBus : booted State.reset = false ∧ booted (bootAt .clusters 0#15) = true ∧ outputsOn (bootAt .clusters 0#15) = true ∧
    (19#8).toNat < 20 ∧ 20 ≤ (20#8).toNat ∧ 4 ≤ (4#8).toNat := by decide

theorem test_hyp_mailbox : mbReady mailbox = true ∧ mailbox.board.endpoint = true ∧ State.reset.board.endpoint = false ∧
    (let ws : List Word := [1#64, 0#64, 0#64, 0x1000#64]
     ws.length = 4 ∧ ioParse mailbox (ctxOf mailbox 0).world 0 true ws = some { (io0 false) with key := [], so := 0 } ∧
     ioParse State.reset .P 0 true ws = none ∧ (List.replicate 8 0#64 : List Word).length = 8 ∧
     ((List.replicate 8 0#64 : List Word).getD 3 0#64).getLsbD 24 = false ∧ mailbox.board.lostNs = []) ∧
    State.reset.board.cmdHead = State.reset.board.cmdTail := by decide +kernel

theorem test_hyp_io : let b := { State.reset.board with io := [io0 false] }
    (b.io.filter fun q => q.done.isNone)[0]? = some (io0 false) ∧ (List.replicate 0x1000 0#8 : List Byte).length = (io0 false).len ∧
    (b.io.filter fun q => q.done.isNone)[1]? = none ∧ b.failed.contains 0 = false := by decide +kernel

/-- R466: a window over HBM of a write to the device in progress, on the root port. -/
theorem test_hyp_inboundTlp : let s := { hbmMapped State.reset with board := { State.reset.board with
      rate := 3#2, io := [{ io0 false with va := 0x100000000, len := 0x1000, host := false }] } }
    (0, 0x1000) ∈ openWindows s true ∧ s.board.endpoint = false ∧ s.board.rate ≠ 0#2 ∧ openWindows State.reset true = [] := by decide +kernel

theorem test_hyp_hostBar : let s := { mailbox with ctxs := [(0, { cx0 with segs := [(0, { spadSeg with rights := 0xFDFF#16 })] })] }
    s.board.endpoint = true ∧ booted s = true ∧ ((hostAccess s true 0 8).1.map fun q => q.code) = [0] ∧
    ((hostAccess s true 0 8).1.map fun q => isRemote (hostAccess s true 0 8).2 q.half.pa) = [false] ∧
    ((hostAccess s true 0 8).1.map fun q => regionOf s.part (paLocal q.half.pa)) = [.spad 0] ∧
    ((hostAccess s true 0 8).1.map fun q => (q.half.bad, (inboundAt (hostAccess s true 0 8).2 (paLocal q.half.pa) true q.half.len).isSome)) = [(false, true)] ∧
    (let t := { s with cores := (fullPorts 4096).cores }
     (hostAccess t true 0 8).1.map (fun q => (q.code, q.half.bad, (inboundAt (hostAccess t true 0 8).2 (paLocal q.half.pa) true q.half.len).isSome)) =
       [(0, false, false)]) ∧
    (hostAccess State.reset true 0 8).1.any (fun q => q.code != 0) = true := by decide +kernel

theorem test_hyp_extensionLink : let e : ExtLink := { en := true }
    e.en = true ∧ booted (bootAt .loader 0#15) = true ∧ e.st = .down ∧ e.tries < 2 ∧ 2 ≤ ({ tries := 2 } : ExtLink).tries ∧
    ({ st := .up } : ExtLink).st = .up ∧ ({ unacked := [(3#8, { func := 0#13, opa := 0#64, opb := 0#64, core := 0#8, thread := 0#3, world := .P, seq := 0#8, replay := false })] } : ExtLink).unacked.findIdx? (fun u => u.1 == 3#8) = some 0 ∧
    (({ ty := 2#4, core := 0#8, thread := 0#3, seq := 0#8, result := 0#64, lseq := 0#8, ack := 0#8, nak := false, cred := 0#12 } : ExtFlit).lseq = e.rxSeq) ∧
    extKnown State.reset { ty := 2#4, core := 0#8, thread := 0#3, seq := 0#8, result := 0#64, lseq := 0#8, ack := 0#8, nak := false, cred := 0#12 } = false ∧
    extKnown (run0 { x0 with extLate := [0#8] }) { ty := 2#4, core := 0#8, thread := 0#3, seq := 0#8, result := 0#64, lseq := 0#8, ack := 0#8, nak := false, cred := 0#12 } = true := by
  decide +kernel

theorem test_hyp_suppliesAndDomains : let p : Power := { pwrgd := true, agood := true, bgood := true }
    p.pwrgd = true ∧ p.inuseB = false ∧ p.bgood = true ∧ ({ p with inuseB := true } : Power).agood = true ∧
    (let q : Power := { domOn := 1#20, domReq := 3#20 }
     q.domOn.getLsbD 1 = false ∧ q.domWake = 0#20 ∧ q.domReq.getLsbD 1 = true ∧ q.domSleep.getLsbD 1 = false ∧
     (∀ i, i < 1 → q.domReq.getLsbD i = true → q.domOn.getLsbD i = true)) ∧
    (let s := powered { domOn := 0xFFFFF#20 }
     maySleep s 3 = true ∧ s.power.domOn.getLsbD 3 = true ∧ s.power.domReq.getLsbD 3 = false ∧ s.power.domSleep.getLsbD 3 = false ∧
     maySleep s 15 = true ∧ maySleep s 1 = false ∧ maySleep s 17 = true ∧
     ({ s.power with domSleep := 8#20 } : Power).domSleep.getLsbD 3 = true ∧ ({ s.power with domWake := 2#20 } : Power).domWake.getLsbD 1 = true) ∧
    State.reset.power.pwrgd = false := by decide

theorem test_hyp_clocksAndTemperatures : let p : Power := { boostEn := true, measured := [7], intervals := [(9, 31)], temps := [(0, 100)] }
    p.boostEn = true ∧ 7 ∈ p.measured ∧ tabGet 0 p.lvls (7 / 64) = 0 ∧ 256 ≤ p.cap ∧ 7 ∉ p.boosted ∧ 9 ∉ p.measured ∧ 31 ≤ tabGet 0 p.intervals 9 ∧
    tabGet 0 p.intervals 8 < 31 ∧ (255#9).toNat < 256 ∧ 256 ≤ (256#9).toNat ∧ 6 ≤ (6#3).toNat ∧ (5#3).toNat < 6 ∧ tabGet 0 p.lvls 5 ≤ 3 ∧
    (∃ e ∈ p.temps, 100 ≤ e.2) ∧ (∀ e ∈ State.reset.power.temps, e.2 < 100) ∧
    (let s := matrixAt x0 { owned with pass := some (pass4 {}) }
     let t := { s with cores := [(0, { coreOf s 0 with vq := [{ t := 0, pc := 0#18, kind := .reg .none, flags := 0#5 }] })] }
     ((∃ k ∈ t.cores, fp64Vec k.2 = true) ∧ ∃ k ∈ t.cores, fp64Mat k.2 = true) ∧ ¬ ∃ k ∈ s.cores, fp64Vec k.2 = true) := by decide +kernel

/-- The model's own tick and a waiting command. -/
theorem test_hyp_queue : State.reset.pending = [] ∧ Memory.wf State.reset = true ∧ (Instr.nop 0#3).wf = true ∧
    step { State.reset with pending := [.nop 0#3] } = .next State.reset := ⟨rfl, rfl, rfl, by rfl⟩

namespace Sys2Proof.Tests

/-- Whether a command is refused as ill formed. -/
def illFormed (i : Instr) : Bool := match exec i State.reset with
  | .refused .illFormed => true
  | _ => false

/-- A packet whose data has n bytes but whose header says m. -/
def torn (n m : Nat) (fn : BitVec 16) : Packet := { bare0 fn with bytes := BitVec.ofNat 12 m, data := List.replicate n 1#8 }

/-- The next state of a command, or the one it came from. -/
def after (i : Instr) (s : State) : State := match exec i s with
  | .next t => t
  | _ => s

end Sys2Proof.Tests

/-- One ill-formed term for each check of WellFormed. -/
theorem test_illFormed_packets : ∀ i ∈ [Instr.rd 0#3 (torn 1 0 0#16), .wr 0#3 (torn 1 2 0#16), .atom 0#3 (torn 8 8 0x30#16), .atom 0#3 (torn 0 8 0x35#16),
      .sync 0#3 (torn 1 1 0#16), .rdr 0#3 (torn 1 2 0#16), .wrr 0#3 (torn 1 1 0#16), .atomr 0#3 (torn 1 1 0#16), .syncr 0#3 (torn 1 1 0#16),
      .comb 0#3 (torn 1 2 0#16), .combr 0#3 (torn 1 2 0#16), .svc 0#3 (torn 1 2 0#16), .svcr 0#3 (torn 1 2 0#16), .tsync 0#3 (torn 1 2 0#16)],
    i.wf = false ∧ illFormed i = true := by decide +kernel

theorem test_illFormed_lists : ∀ i ∈ [Instr.segChange 0#16 0#6 0#4 (List.replicate 7 0#64), .hostIo 0#16 0#6 [0#64], .hostBarAccess true 0#36 2#12 [1#8],
      .wordRebuild 0#48 [1#8], .poisonRecovery 0#48 [1#8], .checkLineRebuild 0#48 [1#8], .deltaApply 0#48 [1#8] 0#3 false],
    i.wf = false ∧ illFormed i = true := by decide +kernel

/-- R75's worked division: 1,000 by 10 in 12 clocks. -/
theorem test_div_worked : let t := after (.div 0#8 3#5 1#5 2#5) (run0 xDiv)
    getS (thOf t 0 0) 3#5 = 100#64 ∧ (coreOf t 0).clk = 12 := by decide +kernel

/-- R81's worked case: a load of HBM at clock 3 leaves after 2 clocks, and at clock 6 thread 1 runs. -/
theorem test_switch_on_miss : let s := { both (run0 { x0 with s := [(1, 0x100000000#64)] }) with cores := [(0, { clk := 3, th := [(0, { x0 with s := [(1, 0x100000000#64)] }), (1, x0)] })], segbuf := [(0, [{ cx := 0, sg := 1, seg := hbmSeg }])] }
    let t := after (.ld 0#8 2#5 1#5 3#2 true 0#4 0#9) s
    (coreOf t 0).cur = 1 ∧ (coreOf t 0).clk = 6 ∧ (thOf t 0 0).st = .waiting := by decide +kernel

/-- R103's worked merge. -/
theorem test_merge_worked : readMerged { State.reset with mem := [(0x1000, 0x44#8), (0x1001, 0x44#8), (0x1002, 0x33#8), (0x1003, 0x33#8), (0x1004, 0x22#8),
      (0x1005, 0x22#8), (0x1006, 0x11#8), (0x1007, 0x11#8)] } [⟨0x1002, [0xDD#8, 0xCC#8]⟩, ⟨0x1004, [0xBB#8, 0xAA#8]⟩] 0x1000 8 =
    [0x44#8, 0x44#8, 0xDD#8, 0xCC#8, 0xBB#8, 0xAA#8, 0x11#8, 0x11#8] := by decide

/-- R129's worked sequence: the clocks of the MSWAP and the MRD. -/
theorem test_effect_clocks_worked : effectClock { mx := { owned with lastEnd := some 276, lastRow := some 276 } } { queued .mswap with wait := 64, handoff := 70 } = some 340 ∧
    effectClock { mx := { owned with lastEnd := some 340, lastRow := some 276 } } { queued (.mrd 4#5 1#4 true .rne) with wait := 72, handoff := 80 } = some 348 := by
  decide

/-- R197's worked case: a masked exposed MSWAP takes effect at clock 139. -/
theorem test_exposed_swap_worked : effectClock { mx := { owned with lastEnd := some 99, lastRow := some 99 } } { queued .mswap with wait := 40, handoff := 50 } = some 139 := by
  decide

/-- R169's worked case: an accumulating VDOT2 rounds once. -/
theorem test_vdot2_worked : let x := { x0 with vfmt := 3#4, vl := 2, v := [(1, 0x39803980#8192), (2, 0x39803980#8192), (3, 0x3F800000#8192)] }
    ((coreOf (after (.vectorPassStart 0#8) (after (.vdot2 0#8 3#5 1#5 2#5 0#3 0#4 true) (run0 x))) 0).vrun.map fun e => (e.kind, e.flags)) =
      [(.reg (.v 3#5 0x3F800001#8192), 0#5)] := by
  decide +kernel

/-- R35's worked block: 10.0, -3.0, 0.75 and 0.125 as MXFP4. -/
theorem test_mxfp4_worked : let x := { x0 with vfmt := 1#4, vl := 32, v := [(1, 0x3E0000003F400000C040000041200000#8192)] }
    ((coreOf (after (.vectorPassStart 0#8) (after (.vcvt 0#8 3#5 1#5 8#4 true 0#3 0#4 0#4) (run0 x))) 0).vrun.map fun e => match e.kind with
      | .reg (.v _ r) => (r.toNat % 2 ^ 128, scaleAt r 0)
      | _ => (0, 0)) = [(0x01B6, 0x80)] := by decide +kernel

namespace Sys2Proof.Tests

/-- The two stages of R70's worked case, of constants. -/
def chain2 : SDesc :=
  let d : SDesc := { n := 1, ks := [0x9C80, 0x1C80, 0x3F80, 0, 0, 0, 0, 0], kfmt := 0x333 }
  { d with stages := [{ op := 3, src1 := 8, src2 := 9, fmt := 3 }, { op := 4, src1 := 10, src2 := 16, fmt := 3 }], go := { addr := 0x100, fmt := 3, en := true } }

end Sys2Proof.Tests

/-- R70's worked case: -2^-70 times 2^-70 in BF16, then the reciprocal: a fused chain keeps the sign of the zero. -/
theorem test_fused_zero_worked : (runGroup (mapped (run0 x0)) 0 (runs chain2) chain2).writes = [(0x10000000100, [0x80#8, 0xFF#8])] := by decide +kernel

/-- R306's worked capability. -/
theorem test_capability_worked : let k := 0x5E1F02B79C4D11A000000443000500000312001B000010000000000040000000#256
    capBase k = 0x40000000 ∧ capLen k = 0x10000000 ∧ capRights k = 0x001B#16 ∧ capObj k = 0x312 ∧ capEpoch k = 5 ∧ capOwner k = 1091 ∧
    capWorld k = .P ∧ capSeal k = 0x5E1F02B79C4D11A0 := by decide +kernel

/-- R378's worked race: at the deadline the waiter times out, and the later SIGNAL stays in the object. -/
theorem test_wait_race_worked : let s := { run0 (waiting (.syncWait 3#5 300)) with
      time := 20000, so := [(300, { val := 4#64, tgt := 5#64, waiters := [{ who := .thread 0 0, gen := none, isBarrier := false, deadline := some 21000 }] })] }
    let t := after (.waitsTimeout 300#13 0#12 21000#64) s
    (thOf t 0 0).wait = .reply (.synced 3#5 1#64) ∧ (soOf (signalSo t 300 1#64) 300).val = 5#64 ∧ (soOf (signalSo t 300 1#64) 300).waiters = [] := by
  decide +kernel

/-- R458's worked refusal: SG5 begins inside SG2 of context 3. -/
theorem test_seg_en_worked : let sg (lo n : Nat) : Seg := { vbase := BitVec.ofNat 48 lo, len := BitVec.ofNat 48 n, rights := 3#16, en := true }
    let s := { worldsOn with ctxs := [(3, { ctxEn := true, segs := [(2, sg 0x1000000000 0x40000000), (5, { sg 0x1020000000 0x20000000 with pbase := 0x40000000#64 })] })] }
    let t := after (.segEn .monitor 3#6 true []) s
    (ctxOf t 3).segEn = false ∧ (ctxOf t 3).strReason = 0x4122#64 ∧ (ctxOf t 3).strWhere = 0x0BC001F000043540#64 := by decide +kernel

end
end

section
/-!
SUPPORT. Reset (O57, O58) and the stores to sync objects (O34): what the completion of a waiter changes, what an update of an object that
is no barrier gives, and how waiters end by a change of TYPE and by their deadline.
-/

namespace Sys2Proof.Machine

/-- R112: a thread in which nothing is written has zero in every scalar register. -/
theorem getS_default (r : BitVec 5) : getS {} r = 0#64 := by simp [getS]

/-- A map of a table that leaves a part of every value alone leaves that part of the value read. -/
theorem tabGet_tabMap_part {α β : Type} (p : α → β) (d : α) (t : Tab α) (f : Nat → α → α) (k : Nat) (h : ∀ i x, p (f i x) = p x) :
    p (tabGet d (tabMap t f) k) = p (tabGet d t k) := by
  induction t with
  | nil => rfl
  | cons e t ih =>
    simp only [tabMap, List.map_cons, tabGet]
    split
    · exact h _ _
    · exact ih

/-- A state with the same cores has the same threads. -/
theorem thOf_of_cores {s s' : State} (h : s'.cores = s.cores) (c t : Nat) : thOf s' c t = thOf s c t := by
  unfold thOf coreOf
  rw [h]

theorem soOf_of_so {s s' : State} (h : s'.so = s.so) (n : Nat) : soOf s' n = soOf s n := by
  unfold soOf
  rw [h]

theorem sameMemory_rfl (s : State) : SameMemory s s := ⟨rfl, rfl⟩

theorem sameMemory_trans {a b c : State} (h : SameMemory a b) (g : SameMemory b c) : SameMemory a c :=
  ⟨g.1.trans h.1, g.2.trans h.2⟩

/-- R374, R376, R392: what the completion of a waiter may change: a thread's wait, the logs of outcomes, and the packets that leave. -/
def ReplyOnly (s s' : State) : Prop := s' = { s with cores := s'.cores, steep := s'.steep, fab := s'.fab, boot := s'.boot }

theorem replyOnly_rfl (s : State) : ReplyOnly s s := rfl

theorem replyOnly_trans {a b c : State} (h : ReplyOnly a b) (g : ReplyOnly b c) : ReplyOnly a c := by
  unfold ReplyOnly at *
  rw [g, h]

theorem replyOnly_so {s s' : State} (h : ReplyOnly s s') : s'.so = s.so := by rw [h]

theorem replyOnly_sameMemory {s s' : State} (h : ReplyOnly s s') : SameMemory s s' := by rw [h]; exact ⟨rfl, rfl⟩

theorem replyOnly_outcome (s : State) (ty : Nat) (key : List Nat) (v : Word) : ReplyOnly s (outcome s ty key v).2 := by
  unfold outcome
  split
  · rfl
  · split <;> rfl

theorem replyOnly_countMultiRoute (s : State) (p : Packet) : ReplyOnly s (countMultiRoute s p) := by
  unfold countMultiRoute
  split <;> rfl

theorem replyOnly_emit (s : State) (inn : Option Nat) (op : Nat) (p : Packet) : ReplyOnly s (emit s inn op p) := by
  unfold emit
  dsimp only
  split <;> exact replyOnly_trans (replyOnly_countMultiRoute s p) rfl

theorem replyOnly_finishWaiter (s : State) (n : Nat) (w : Waiter) (code : Word) : ReplyOnly s (finishWaiter s n w code) := by
  unfold finishWaiter
  split
  · dsimp only
    split
    · split
      · exact replyOnly_trans (replyOnly_outcome s 1 _ code) rfl
      · rfl
    · rfl
  · exact replyOnly_trans (b := { s with fab := _ }) rfl (replyOnly_emit _ none _ _)

theorem replyOnly_finishWaiters (n : Nat) (code : Word) (l : List WaitEnt) :
    ∀ s, ReplyOnly s (l.foldl (fun s w => finishWaiter s n w.who code) s) := by
  induction l with
  | nil => exact replyOnly_rfl
  | cons w l ih => exact fun s => replyOnly_trans (replyOnly_finishWaiter s n w.who code) (ih _)

/-- R403, R408: outside replay an event has the outcome of the hardware. -/
theorem outcome_of_no_replay (s : State) (ty : Nat) (key : List Nat) (v : Word) (h : s.steep.replay = []) :
    (outcome s ty key v).1 = v ∧ (outcome s ty key v).2.cores = s.cores := by
  unfold outcome
  rw [h]
  dsimp only [List.find?]
  split <;> exact ⟨rfl, rfl⟩

/-- R374, R376: outside replay a waiting thread gets the result on its way. -/
theorem thOf_finishWaiter (s : State) (n c t : Nat) (d : BitVec 5) (code : Word) (hr : s.steep.replay = [])
    (hw : (thOf s c t).wait = .reply (.syncWait d n)) :
    thOf (finishWaiter s n (.thread c t) code) c t = { thOf s c t with wait := .reply (.synced d code) } := by
  obtain ⟨hv, _⟩ := outcome_of_no_replay s 1 [c, t, (thOf s c t).icount] code hr
  unfold finishWaiter
  simp only [hw, if_true, thOf_setTh, hv]

/-- R376: a notification reaches the interrupt sources and arms of cores, and no thread. -/
@[simp] theorem thOf_notifySo (s : State) (n c t : Nat) : thOf (notifySo s n) c t = thOf s c t := by
  unfold thOf threadOf coreOf notifySo
  exact congrArg (fun th => tabGet {} th t) (tabGet_tabMap_part Core.th {} s.cores
    (fun _ k => notifyArms (notifySources k n) n (soOf s n).val) c fun _ _ => rfl)

@[simp] theorem soOf_notifySo (s : State) (n m : Nat) : soOf (notifySo s n) m = soOf s m := rfl

/-- R380: an object that is no barrier has no generation to complete. -/
theorem evalBarrier_of_not_barrier (o : SyncObj) (h : o.ty ≠ 2#2) : evalBarrier o = o := by
  simp [evalBarrier, h]

/-- R372, R376, R378: an update of an object that is no barrier releases its waiters and notifies. -/
theorem soUpdate_of_not_barrier (s : State) (n : Nat) (o : SyncObj) (h : o.ty ≠ 2#2) :
    soUpdate s n o = notifySo (releaseWaiters (setSo s n o) n) n := by
  unfold soUpdate
  rw [evalBarrier_of_not_barrier o h, evalBarrier_of_not_barrier o h]

/-- R378: the waiters whose condition holds leave the object. -/
theorem soOf_releaseWaiters (s : State) (n : Nat) :
    soOf (releaseWaiters s n) n = { soOf s n with waiters := (soOf s n).waiters.filter fun w => !(waiterDone (soOf s n) w) } := by
  unfold releaseWaiters
  rw [soOf_of_so (replyOnly_so (replyOnly_finishWaiters n 0#64 _ _)), soOf_setSo]

theorem sameMemory_releaseWaiters (s : State) (n : Nat) : SameMemory s (releaseWaiters s n) :=
  replyOnly_sameMemory (s := setSo s n _) (replyOnly_finishWaiters n 0#64 _ _)

/-- R372, R378: the object after an update, where it is no barrier. -/
theorem soOf_soUpdate (s : State) (n : Nat) (o : SyncObj) (h : o.ty ≠ 2#2) :
    soOf (soUpdate s n o) n = { o with waiters := o.waiters.filter fun w => !(waiterDone o w) } := by
  rw [soUpdate_of_not_barrier s n o h, soOf_notifySo, soOf_releaseWaiters, soOf_setSo]

theorem sameMemory_soUpdate (s : State) (n : Nat) (o : SyncObj) : SameMemory s (soUpdate s n o) :=
  sameMemory_releaseWaiters (setSo s n _) n

theorem soUpdate_val (s : State) (n : Nat) (o : SyncObj) (h : o.ty ≠ 2#2) : (soOf (soUpdate s n o) n).val = o.val := by
  rw [soOf_soUpdate s n o h]

theorem soUpdate_tgt (s : State) (n : Nat) (o : SyncObj) (h : o.ty ≠ 2#2) : (soOf (soUpdate s n o) n).tgt = o.tgt := by
  rw [soOf_soUpdate s n o h]

/-- An update after which no waiter's condition holds touches no thread. -/
theorem thOf_soUpdate_of_none_done (s : State) (n c t : Nat) (o : SyncObj) (h : o.ty ≠ 2#2)
    (hw : o.waiters.filter (waiterDone o) = []) : thOf (soUpdate s n o) c t = thOf s c t := by
  rw [soUpdate_of_not_barrier s n o h, thOf_notifySo, releaseWaiters]
  simp only [soOf_setSo, hw, List.foldl_nil]
  exact thOf_of_cores rfl c t

/-- R378: an update after which the condition of the one waiting thread holds has ARRIVED on its way to it. -/
theorem thOf_soUpdate_of_done (s : State) (n c t : Nat) (o : SyncObj) (w : WaitEnt) (d : BitVec 5) (h : o.ty ≠ 2#2)
    (hr : s.steep.replay = []) (ho : o.waiters = [w]) (hd : waiterDone o w = true) (hwho : w.who = .thread c t)
    (hw : (thOf s c t).wait = .reply (.syncWait d n)) :
    thOf (soUpdate s n o) c t = { thOf s c t with wait := .reply (.synced d 0#64) } := by
  rw [soUpdate_of_not_barrier s n o h, thOf_notifySo, releaseWaiters]
  simp only [soOf_setSo, ho, List.filter_cons, hd, if_true, List.filter_nil, List.foldl_cons, List.foldl_nil, hwho]
  exact thOf_finishWaiter (setSo (setSo s n o) n _) n c t d 0#64 hr hw

/-- R371: a change of TYPE leaves an object without entries. -/
theorem soOf_endWaiters (s : State) (n : Nat) :
    soOf (endWaiters s n) n = { soOf s n with waiters := [], early := [], parked := [] } := by
  unfold endWaiters
  rw [soOf_of_so (replyOnly_so (replyOnly_finishWaiters n 3#64 _ _)), soOf_setSo]

theorem sameMemory_endWaiters (s : State) (n : Nat) : SameMemory s (endWaiters s n) :=
  replyOnly_sameMemory (s := setSo s n _) (replyOnly_finishWaiters n 3#64 _ _)

/-- R371: a change of TYPE has result 3 on its way to the one waiting thread. -/
theorem thOf_endWaiters (s : State) (n c t : Nat) (w : WaitEnt) (d : BitVec 5) (hr : s.steep.replay = [])
    (ho : (soOf s n).waiters = [w]) (he : (soOf s n).early = []) (hwho : w.who = .thread c t)
    (hw : (thOf s c t).wait = .reply (.syncWait d n)) :
    thOf (endWaiters s n) c t = { thOf s c t with wait := .reply (.synced d 3#64) } := by
  unfold endWaiters
  simp only [ho, he, List.append_nil, List.foldl_cons, List.foldl_nil, hwho]
  exact thOf_finishWaiter (setSo s n _) n c t d 3#64 hr hw

/-- R378: a WAITS whose deadline has passed leaves the object. -/
theorem soOf_expireWaiter (s : State) (n : Nat) (w : WaitEnt) (hb : w.isBarrier = false) :
    soOf (expireWaiter s n w) n = { soOf s n with waiters := (soOf s n).waiters.filter fun e => e.who != w.who } := by
  unfold expireWaiter
  rw [hb, if_neg Bool.false_ne_true, soOf_of_so (replyOnly_so (replyOnly_finishWaiter _ n w.who 1#64)), soOf_setSo]

theorem sameMemory_expireWaiter (s : State) (n : Nat) (w : WaitEnt) (hb : w.isBarrier = false) : SameMemory s (expireWaiter s n w) := by
  unfold expireWaiter
  rw [hb, if_neg Bool.false_ne_true]
  exact replyOnly_sameMemory (s := setSo s n _) (replyOnly_finishWaiter _ n w.who 1#64)

/-- R378: a WAITS whose deadline has passed has TIMEOUT on its way to its thread. -/
theorem thOf_expireWaiter (s : State) (n c t : Nat) (w : WaitEnt) (d : BitVec 5) (hb : w.isBarrier = false) (hr : s.steep.replay = [])
    (hwho : w.who = .thread c t) (hw : (thOf s c t).wait = .reply (.syncWait d n)) :
    thOf (expireWaiter s n w) c t = { thOf s c t with wait := .reply (.synced d 1#64) } := by
  unfold expireWaiter
  rw [hb, if_neg Bool.false_ne_true, hwho]
  exact thOf_finishWaiter (setSo s n _) n c t d 1#64 hr hw

theorem exec_soStore (who : Agent) (so : BitVec 13) (tgt : Bool) (v : Word) (s : State) :
    exec (.soStore who so tgt v) s = .next (if soMay s who so.toNat then soStoreVal s so.toNat tgt v else s) := rfl

theorem exec_soCfgStore (who : Agent) (so : BitVec 13) (v : Word) (s : State) :
    exec (.soCfgStore who so v) s =
      .next (if soMay s who so.toNat && (viewerOf s who).lvlS then soStoreCfg s so.toNat v else s) := rfl

/-- R373, R378: an update of a counter that brings VAL to TGT has ARRIVED on its way to the one waiting thread. -/
theorem soUpdate_counter_done (s : State) (n c t : Nat) (o : SyncObj) (w : WaitEnt) (d : BitVec 5) (hr : s.steep.replay = [])
    (ho : o.waiters = [w]) (hwho : w.who = .thread c t) (hg : w.gen = none) (hw : (thOf s c t).wait = .reply (.syncWait d n))
    (hty : o.ty = 0#2) (hv : o.tgt.toNat ≤ o.val.toNat) :
    thOf (soUpdate s n o) c t = { thOf s c t with wait := .reply (.synced d 0#64) } ∧ (soOf (soUpdate s n o) n).waiters = [] := by
  have hnb : o.ty ≠ 2#2 := by rw [hty]; decide
  have hd : waiterDone o w = true := by simp [waiterDone, hg, soCond, hty, hv]
  refine ⟨thOf_soUpdate_of_done s n c t o w d hnb hr ho hd hwho hw, ?_⟩
  simp [soOf_soUpdate s n o hnb, ho, hd]

/-- R373, R378: while VAL is below TGT the thread goes on waiting. -/
theorem soUpdate_counter_below (s : State) (n c t : Nat) (o : SyncObj) (w : WaitEnt) (ho : o.waiters = [w]) (hg : w.gen = none)
    (hty : o.ty = 0#2) (hv : o.val.toNat < o.tgt.toNat) :
    thOf (soUpdate s n o) c t = thOf s c t ∧ (soOf (soUpdate s n o) n).waiters = [w] := by
  have hnb : o.ty ≠ 2#2 := by rw [hty]; decide
  have hd : waiterDone o w = false := by simp [waiterDone, hg, soCond, hty, hv]
  refine ⟨thOf_soUpdate_of_none_done s n c t o hnb (by simp [ho, hd]), ?_⟩
  simp [soOf_soUpdate s n o hnb, ho, hd]

/-- R371: PARTS of 0 counts as 1. -/
theorem partsField_toNat (v : Word) : (if (v >>> 8).truncate 12 = 0#12 then 1#12 else (v >>> 8).truncate 12 : BitVec 12).toNat =
    max 1 (v.toNat / 256 % 4096) := by
  have h : ((v >>> 8).truncate 12 : BitVec 12).toNat = v.toNat / 256 % 4096 := by
    simp [BitVec.toNat_setWidth, BitVec.toNat_ushiftRight, Nat.shiftRight_eq_div_pow]
  split
  · rename_i h0
    rw [h0] at h
    simp at h ⊢
    omega
  · rename_i h0
    have : ((v >>> 8).truncate 12 : BitVec 12).toNat ≠ 0 := fun e => h0 (BitVec.eq_of_toNat_eq e)
    omega

/-- R371: a store to SO_CFG that changes TYPE ends the waiters first. -/
theorem soStoreCfg_of_new_type (s : State) (n : Nat) (v : Word) (hty : (v.truncate 2 : BitVec 2) ≠ (soOf s n).ty) :
    soStoreCfg s n v = soUpdate (endWaiters s n) n { soOf (endWaiters s n) n with
      ty := v.truncate 2, parts := if (v >>> 8).truncate 12 = 0#12 then 1#12 else (v >>> 8).truncate 12 } := by
  have h : ((v.truncate 2 : BitVec 2) != (soOf s n).ty) = true := bne_iff_ne.2 hty
  simp only [soStoreCfg, h, if_true]

/-- R371: a store to SO_CFG that gives a waiting thread's object another TYPE, no barrier's, ends its wait with result 3. -/
theorem soStoreCfg_spec (s : State) (n c t : Nat) (v : Word) (w : WaitEnt) (d : BitVec 5) (hr : s.steep.replay = [])
    (ho : (soOf s n).waiters = [w]) (he : (soOf s n).early = []) (hwho : w.who = .thread c t)
    (hw : (thOf s c t).wait = .reply (.syncWait d n)) (hnb : (v.truncate 2 : BitVec 2) ≠ 2#2)
    (hty : (v.truncate 2 : BitVec 2) ≠ (soOf s n).ty) :
    (soOf (soStoreCfg s n v) n).ty = v.truncate 2 ∧ (soOf (soStoreCfg s n v) n).waiters = [] ∧
      (soOf (soStoreCfg s n v) n).parts.toNat = max 1 (v.toNat / 256 % 4096) ∧
      thOf (soStoreCfg s n v) c t = { thOf s c t with wait := .reply (.synced d 3#64) } ∧ SameMemory s (soStoreCfg s n v) := by
  rw [soStoreCfg_of_new_type s n v hty]
  have hn := soOf_endWaiters s n
  generalize hgo : ({ soOf (endWaiters s n) n with
      ty := v.truncate 2, parts := if (v >>> 8).truncate 12 = 0#12 then 1#12 else (v >>> 8).truncate 12 } : SyncObj) = o
  have hot : o.ty = v.truncate 2 := by rw [← hgo]
  have how : o.waiters = [] := by rw [← hgo, hn]
  have hop : o.parts.toNat = max 1 (v.toNat / 256 % 4096) := by rw [← hgo]; exact partsField_toNat v
  have hob : o.ty ≠ 2#2 := by rw [hot]; exact hnb
  rw [soOf_soUpdate _ n o hob]
  refine ⟨hot, by simp [how], hop, ?_, sameMemory_trans (sameMemory_endWaiters s n) (sameMemory_soUpdate _ n o)⟩
  rw [thOf_soUpdate_of_none_done _ n c t o hob (by simp [how])]
  exact thOf_endWaiters s n c t w d hr ho he hwho hw

/-- R378: when TIME reaches the deadline of a WAITS whose condition does not hold, it expires. -/
theorem execWaitsTimeout_expires (so : BitVec 13) (idx : BitVec 12) (now : Word) (s : State) (w : WaitEnt) (dl : Nat)
    (hi : (soOf s so.toNat).waiters[idx.toNat]? = some w) (he : (soOf s so.toNat).early = []) (hdl : w.deadline = some dl)
    (ht : dl ≤ max s.time now.toNat) (hd : waiterDone (soOf s so.toNat) w = false) :
    execWaitsTimeout so idx now s = .next (expireWaiter { s with time := max s.time now.toNat } so.toNat w) := by
  obtain ⟨hlt, _⟩ := List.getElem?_eq_some_iff.1 hi
  have hs : soOf { s with time := max s.time now.toNat } so.toNat = soOf s so.toNat := rfl
  unfold execWaitsTimeout
  simp only [hs, he, List.append_nil, hi, hdl, hd, Bool.and_false, Bool.false_eq_true, if_false, if_neg (Nat.not_lt.2 ht),
    if_neg (Nat.not_le.2 hlt)]

end Sys2Proof.Machine

open Sys2Proof Sys2Proof.Machine

/-- Settles O58: reset lists no cell of memory. -/
theorem resetMemoryCanonical : Obligations.ResetMemoryCanonical := ⟨rfl, fun _ => rfl⟩

/-- Settles O57: every table is empty at reset, so each entry reads as its default, and the other registers hold the values of their fields. -/
theorem resetState : Obligations.ResetState := by
  refine ⟨fun c t => ?_, fun c => ?_, fun n => ⟨rfl, rfl, fun g => ⟨rfl, rfl⟩⟩, fun n => ⟨rfl, rfl, rfl⟩, fun l => rfl, by decide⟩
  · exact ⟨rfl, rfl, rfl, rfl, rfl, rfl, rfl, rfl, getS_default, rfl, rfl, rfl, rfl, rfl⟩
  · exact ⟨rfl, rfl, rfl, rfl, rfl, rfl, rfl, rfl, rfl, rfl, rfl, rfl⟩

/-- Settles O34: what an update of an object that is no barrier gives (soUpdate), and how waiters end by a change of TYPE and by their
deadline. -/
theorem syncObjectStores : Obligations.SyncObjectStores := by
  intro who so v now s hr
  refine ⟨fun hm hty => ?_, fun hm hty => ?_, ?_, fun hl => ?_, ?_, ?_⟩
  · refine ⟨soUpdate s so.toNat { soOf s so.toNat with val := v }, by simp [exec_soStore, hm, soStoreVal],
      soUpdate_val _ _ _ hty, soUpdate_tgt _ _ _ hty, sameMemory_soUpdate s _ _, fun w c t d ho hwho hg hw => ?_⟩
    exact ⟨soUpdate_counter_done s so.toNat c t { soOf s so.toNat with val := v } w d hr ho hwho hg hw,
        soUpdate_counter_below s so.toNat c t { soOf s so.toNat with val := v } w ho hg⟩
  · exact ⟨soUpdate s so.toNat { soOf s so.toNat with tgt := v }, by simp [exec_soStore, hm, soStoreVal],
      soUpdate_tgt _ _ _ hty, soUpdate_val _ _ _ hty, sameMemory_soUpdate s _ _⟩
  · intro c t hwho hn tgt
    have hm : soMay s who so.toNat = false := by simp [soMay, soMon, viewerOf, hwho, hn]
    exact ⟨by simp [exec_soStore, hm], by simp [exec_soCfgStore, hm]⟩
  · simp [exec_soCfgStore, hl]
  · intro w c t d hm hl ho he hwho hw hv hty
    have hbit : (v.truncate 2 : BitVec 2).getLsbD 1 = v.getLsbD 1 := by simp
    have hnb : (v.truncate 2 : BitVec 2) ≠ 2#2 := fun e => by
      rw [e, hv] at hbit
      exact absurd hbit (by decide)
    exact ⟨soStoreCfg s so.toNat v, by simp [exec_soCfgStore, hm, hl], soStoreCfg_spec s _ c t v w d hr ho he hwho hw hnb hty⟩
  · intro idx w c t d dl hi he hwho hb hdl ht hd hw
    have hs := soOf_expireWaiter { s with time := max s.time now.toNat } so.toNat w hb
    refine ⟨_, execWaitsTimeout_expires so idx now s w dl hi he hdl ht hd, ?_, ?_, ?_, sameMemory_expireWaiter _ _ w hb⟩
    · exact thOf_expireWaiter _ _ c t w d hb hr hwho hw
    · intro q hq
      rw [hs] at hq
      exact bne_iff_ne.1 (List.mem_filter.1 hq).2
    · rw [hs]
      rfl

end

section
/-!
SUPPORT. A thread that stops (O36): what the reduction unit, the stream engine and the waking of other threads leave of it.
-/

namespace Sys2Proof.Machine

/-- A core's stream engine, and of every thread its state and its place in the program, are as before. -/
def RuKept (s s' : State) (c : Nat) : Prop :=
  (coreOf s' c).se = (coreOf s c).se ∧ ∀ t, (thOf s' c t).st = (thOf s c t).st ∧ (thOf s' c t).pc = (thOf s c t).pc

theorem ruKept_rfl (s : State) (c : Nat) : RuKept s s c := ⟨rfl, fun _ => ⟨rfl, rfl⟩⟩

theorem ruKept_trans {a b d : State} {c : Nat} (h : RuKept a b c) (g : RuKept b d c) : RuKept a d c := by
  obtain ⟨hse, hth⟩ := h
  obtain ⟨gse, gth⟩ := g
  exact ⟨gse.trans hse, fun t => ⟨(gth t).1.trans (hth t).1, (gth t).2.trans (hth t).2⟩⟩

theorem ruKept_of_cores {s s' : State} (c : Nat) (h : s'.cores = s.cores) : RuKept s s' c := by
  unfold RuKept thOf coreOf
  rw [h]
  exact ⟨rfl, fun _ => ⟨rfl, rfl⟩⟩

theorem ruKept_memOnly {s s' : State} (c : Nat) (h : MemOnly s s') : RuKept s s' c := ruKept_of_cores c (by rw [h])

theorem ruKept_setRu (s : State) (c : Nat) (r : RedUnit) : RuKept s (setRu s c r) c := by
  unfold RuKept thOf setRu
  rw [coreOf_setCore]
  exact ⟨rfl, fun _ => ⟨rfl, rfl⟩⟩

theorem ruKept_setTh (s : State) (c t : Nat) (x : Thread) (hst : x.st = (thOf s c t).st) (hpc : x.pc = (thOf s c t).pc) :
    RuKept s (setTh s c t x) c := by
  refine ⟨by simp [setTh], fun t' => ?_⟩
  by_cases h : t' = t
  · subst h
    rw [thOf_setTh]
    exact ⟨hst, hpc⟩
  · rw [thOf_setTh_ne _ _ _ _ _ h]
    exact ⟨rfl, rfl⟩

@[simp] theorem clearBusy_st (x : Thread) (r : Reg) : (clearBusy x r).st = x.st := by cases r <;> rfl
@[simp] theorem clearBusy_pc (x : Thread) (r : Reg) : (clearBusy x r).pc = x.pc := by cases r <;> rfl
@[simp] theorem clearBusy_s (x : Thread) (r : Reg) : (clearBusy x r).s = x.s := by cases r <;> rfl

theorem putS_st (x : Thread) (d : BitVec 5) (v : Word) : (putS x d v).st = x.st := by unfold putS; split <;> rfl
theorem putS_pc (x : Thread) (d : BitVec 5) (v : Word) : (putS x d v).pc = x.pc := by unfold putS; split <;> rfl

/-- R245: the result of an RURD reaches registers, flags and scoreboard. -/
theorem ruKept_ruWrite (s : State) (c t : Nat) (fmt : BitVec 4) (d : BitVec 5) (pat : Nat) (g : FFlags) :
    RuKept s (ruWrite s c t fmt d pat g) c := by
  unfold ruWrite
  dsimp only
  split
  · exact ruKept_setTh s c t _ ((clearBusy_st _ _).trans (putS_st _ _ _)) ((clearBusy_pc _ _).trans (putS_pc _ _ _))
  · exact ruKept_setTh s c t _ (clearBusy_st _ _) (clearBusy_pc _ _)

theorem setDropped_cores (s : State) (w : World) : (setDropped s w).cores = s.cores := by cases w <;> rfl

theorem countMem_cores (s : State) (w : World) (lo : Nat) : (countMem s w lo).cores = s.cores := by cases w <;> rfl

/-- R94: a masked outcome is counted in XDROP and in its world's DROPPED. -/
theorem ruKept_countMasked (s : State) (c t n : Nat) : RuKept s (countMasked s c t n) c := by
  unfold countMasked
  split
  · exact ruKept_rfl s c
  · have hc : (setDropped s (worldOf (coreOf s c) t)).cores = s.cores := setDropped_cores s _
    refine ruKept_trans (ruKept_of_cores c hc) (ruKept_setTh _ c t _ ?_ ?_)
    · rw [thOf_of_cores hc]; rfl
    · rw [thOf_of_cores hc]; rfl

theorem ruKept_unitPoisoned (s : State) (c t : Nat) : RuKept s (unitPoisoned s c t) c := by
  unfold unitPoisoned unitFault
  dsimp only
  split
  · exact ruKept_countMasked s c t 1
  · exact ruKept_setTh s c t _ rfl rfl

theorem memOnly_unitDecode (s : State) (c t va n : Nat) : MemOnly s (unitDecode s c t va n) := by
  refine memOnly_foldl _ (fun s p => ?_) _ s
  split
  · split
    · exact memOnly_rfl s
    · exact memOnly_decodeRead s _ _
  · exact memOnly_rfl s

theorem memOnly_unitWrite (s : State) (c t va : Nat) (bs : List Byte) : MemOnly s (unitWrite s c t va bs) := by
  unfold unitWrite
  generalize pieces va bs.length = l
  induction l generalizing s bs with
  | nil => exact memOnly_rfl s
  | cons p l ih =>
    rw [List.foldl_cons]
    refine memOnly_trans ?_ (ih _ _)
    dsimp only
    split
    · exact memOnly_memStore s _ _
    · exact memOnly_rfl s

/-- R62, R245: RUMRG changes the unit, and counts what its read has met. -/
theorem ruKept_ruMerge (s : State) (c t acc va : Nat) : RuKept s (ruMerge s c t acc va) c := by
  unfold ruMerge
  dsimp only
  have hm := ruKept_memOnly c (memOnly_unitDecode s c t va (imageBytes (coreOf s c).ru.kind))
  split
  · exact ruKept_trans hm (ruKept_setRu _ c _)
  · exact ruKept_trans (ruKept_trans hm (ruKept_setRu _ c _))
      (ruKept_trans (ruKept_of_cores c (countMem_cores _ _ 16)) (ruKept_unitPoisoned _ c t))

/-- R244 to R247: an instruction of the reduction unit stops no thread and moves none. -/
theorem ruKept_ruAct (s : State) (c : Nat) (e : RuEnt) : RuKept s (ruAct s c e) c := by
  obtain ⟨t, op⟩ := e
  cases op with
  | clr acc => exact ruKept_setRu s c _
  | addv acc fmt v =>
    simp only [ruAct]
    split
    · exact ruKept_setRu s c _
    · exact ruKept_rfl s c
  | mrg acc va wide =>
    simp only [ruAct]
    split
    · exact ruKept_ruMerge s c t acc va
    · exact ruKept_rfl s c
  | spill acc va => exact ruKept_memOnly c (memOnly_unitWrite s c t va _)
  | rd acc fmt d rm sat seed =>
    simp only [ruAct]
    split
    · exact ruKept_ruWrite s c t fmt d _ _
    · exact ruKept_ruWrite s c t fmt d _ _
  | cfg w0 w1 => exact ruKept_setRu s c _
  | ctl w => exact ruKept_setRu s c _
  | ho => exact ruKept_rfl s c

theorem ruKept_ruDrainList (c : Nat) (l : List RuEnt) : ∀ s, RuKept s (ruDrainList c l s) c := by
  induction l with
  | nil => exact fun s => ruKept_setRu s c _
  | cons e l ih =>
    intro s
    unfold ruDrainList
    split
    · exact ruKept_setRu s c _
    · exact ruKept_trans (ruKept_ruAct s c e) (ih _)

/-- R247: what the reduction unit still has to do stops no thread and moves none. -/
theorem ruKept_ruDrain (s : State) (c : Nat) : RuKept s (ruDrain s c) c := by
  unfold ruDrain
  dsimp only
  split
  · exact ruKept_rfl s c
  · exact ruKept_ruDrainList c _ s

/-- R247: a reduction unit with no instruction waiting has nothing to do. -/
theorem ruDrain_of_empty (s : State) (c : Nat) (h : (coreOf s c).ru.q = []) : ruDrain s c = s := by
  unfold ruDrain
  simp [h]

/-- R238, R239, R247: a thread that stops frees its arms; where its held pass is abandoned, the reduction unit goes on. -/
theorem seStop_cases (s : State) (c t : Nat) : ∃ k,
    (seStop s c t = setCore s c k ∨ seStop s c t = ruDrain (setCore s c k) c) ∧ k.th = (coreOf s c).th ∧
      k.ru.q = (coreOf s c).ru.q ∧ k.se.arms = ((coreOf s c).se.arms.filter fun e => e.2.t != t) := by
  unfold seStop
  dsimp only
  split
  · split
    · exact ⟨_, .inr rfl, rfl, rfl, rfl⟩
    · exact ⟨_, .inl rfl, rfl, rfl, rfl⟩
  · exact ⟨_, .inl rfl, rfl, rfl, rfl⟩

/-- R238, R239: what a stop leaves of the threads and of the arms of the core. -/
theorem seStop_kept (s : State) (c t : Nat) :
    (coreOf (seStop s c t) c).se.arms = ((coreOf s c).se.arms.filter fun e => e.2.t != t) ∧
      ∀ t', (thOf (seStop s c t) c t').st = (thOf s c t').st ∧ (thOf (seStop s c t) c t').pc = (thOf s c t').pc := by
  obtain ⟨k, h, hth, -, harms⟩ := seStop_cases s c t
  have hk : RuKept (setCore s c k) (seStop s c t) c := by
    rcases h with h | h
    · rw [h]; exact ruKept_rfl _ c
    · rw [h]; exact ruKept_ruDrain _ c
  obtain ⟨hse, hst⟩ := hk
  have ht : ∀ t', thOf (setCore s c k) c t' = thOf s c t' := fun t' => by simp [thOf, threadOf, hth]
  refine ⟨by rw [hse, coreOf_setCore, harms], fun t' => ?_⟩
  rw [← ht t']
  exact hst t'

/-- R239: with no instruction waiting in the reduction unit a stop changes no thread's registers and no memory. -/
theorem seStop_idle (s : State) (c t : Nat) (hq : (coreOf s c).ru.q = []) :
    (∀ t', thOf (seStop s c t) c t' = thOf s c t') ∧ SameMemory s (seStop s c t) := by
  obtain ⟨k, h, hth, hru, -⟩ := seStop_cases s c t
  have e : seStop s c t = setCore s c k := by
    rcases h with h | h
    · exact h
    · rw [h, ruDrain_of_empty]
      rw [coreOf_setCore, hru, hq]
  rw [e]
  exact ⟨fun t' => by simp [thOf, threadOf, hth], sameMemory_rfl s⟩

/-- R77: waking the threads of a core changes its threads, its turn and nothing else. -/
theorem wake_eq (s : State) (c : Nat) : ∃ cur ran, wake s c = setCore s c { coreOf s c with
    th := tabMap (coreOf s c).th fun t x => if x.st == .waiting && waitOver s c (coreOf s c) t x then awakened x else x
    cur := cur, ran := ran } := by
  obtain ⟨cur, ran, h⟩ := settle_eq { coreOf s c with
    th := tabMap (coreOf s c).th fun t x => if x.st == .waiting && waitOver s c (coreOf s c) t x then awakened x else x }
  exact ⟨cur, ran, congrArg (setCore s c) h⟩

@[simp] theorem wake_se (s : State) (c : Nat) : (coreOf (wake s c) c).se = (coreOf s c).se := by
  obtain ⟨_, _, h⟩ := wake_eq s c
  rw [h, coreOf_setCore]

theorem sameMemory_wake (s : State) (c : Nat) : SameMemory s (wake s c) := sameMemory_rfl s

/-- A thread that does not wait is not woken. -/
theorem thOf_wake_of_not_waiting (s : State) (c t : Nat) (h : (thOf s c t).st ≠ .waiting) : thOf (wake s c) c t = thOf s c t := by
  have hb : ((thOf s c t).st == ThState.waiting) = false := beq_eq_false_iff_ne.2 h
  obtain ⟨_, _, e⟩ := wake_eq s c
  unfold thOf threadOf at *
  rw [e, coreOf_setCore, tabGet_tabMap _ _ _ _ rfl]
  simp [hb]

/-- R121, R128, R238, R239: a thread that stops keeps its place in the program, and leaves no arm. -/
theorem stopThread_spec (s : State) (c t : Nat) :
    (thOf (stopThread s c t) c t).st = .stopped ∧ (thOf (stopThread s c t) c t).pc = (thOf s c t).pc ∧
      (∀ e ∈ (coreOf (stopThread s c t) c).se.arms, e.2.t ≠ t) ∧
      ((coreOf s c).ru.q = [] → (thOf (stopThread s c t) c t).s = (thOf s c t).s ∧ SameMemory s (stopThread s c t)) := by
  unfold stopThread
  dsimp only
  generalize hs1 : setTh s c t { thOf s c t with st := .stopped, wait := .none } = s1
  generalize hs2 : setCore s1 c (mxRelease (coreOf s1 c) t) = s2
  have hx : thOf s2 c t = { thOf s c t with st := .stopped, wait := .none } := by
    rw [← thOf_setTh s c t { thOf s c t with st := .stopped, wait := .none }, hs1, ← hs2]
    unfold thOf
    rw [coreOf_setCore]
    rfl
  have hq : (coreOf s2 c).ru = (coreOf s c).ru := by
    rw [← hs2, ← hs1, coreOf_setCore]
    simp [mxRelease, setTh]
  have hm : SameMemory s s2 := by rw [← hs2, ← hs1]; exact sameMemory_rfl s
  obtain ⟨harms, hkept⟩ := seStop_kept s2 c t
  have hst : (thOf (seStop s2 c t) c t).st = .stopped := by rw [(hkept t).1, hx]
  have hpc : (thOf (seStop s2 c t) c t).pc = (thOf s c t).pc := by rw [(hkept t).2, hx]
  have hw := thOf_wake_of_not_waiting (seStop s2 c t) c t (by rw [hst]; decide)
  rw [hw, wake_se]
  refine ⟨hst, hpc, fun e he => ?_, fun h0 => ?_⟩
  · rw [harms] at he
    exact bne_iff_ne.1 (List.mem_filter.1 he).2
  · obtain ⟨hth, hmem⟩ := seStop_idle s2 c t (by rw [hq]; exact h0)
    exact ⟨by rw [hth, hx], sameMemory_trans (sameMemory_trans hm hmem) (sameMemory_wake _ c)⟩

theorem foldl_clearBusy (l : List Reg) : ∀ x : Thread, (l.foldl clearBusy x).pc = x.pc ∧ (l.foldl clearBusy x).s = x.s := by
  induction l with
  | nil => exact fun x => ⟨rfl, rfl⟩
  | cons r l ih =>
    intro x
    obtain ⟨hpc, hs⟩ := ih (clearBusy x r)
    exact ⟨hpc.trans (clearBusy_pc x r), hs.trans (clearBusy_s x r)⟩

/-- R128, R238: the monitor stops a thread: what it waited for is abandoned first, which changes no register. -/
theorem execMonitorThreadStop_eq (c : BitVec 8) (t : BitVec 3) (s : State) : ∃ s1 y,
    execMonitorThreadStop c t s = .next (stopThread (setTh s1 c.toNat t.toNat y) c.toNat t.toNat) ∧ s1.cores = s.cores ∧
      SameMemory s s1 ∧ y.pc = (thOf s c.toNat t.toNat).pc ∧ y.s = (thOf s c.toNat t.toNat).s := by
  refine ⟨_, _, rfl, rfl, sameMemory_rfl s, ?_⟩
  split
  · exact foldl_clearBusy _ _
  · exact ⟨rfl, rfl⟩

/-- R87: whether some thread is not stopped and passes a test. -/
theorem anyRunning_eq_false (k : Core) (p : Nat → Bool) (h : ∀ t, t < 8 → (threadOf k t).st = .stopped) :
    anyRunning k p = false := by
  unfold anyRunning
  rw [List.any_eq_false]
  intro t ht
  simp [h t (List.mem_range.1 ht)]

theorem anyRunning_of_not_idle (k : Core) (h : ¬ ∀ t, t < 8 → (threadOf k t).st = .stopped) :
    anyRunning k (fun _ => true) = true := by
  push Not at h
  obtain ⟨t, ht, hst⟩ := h
  unfold anyRunning
  rw [List.any_eq_true]
  exact ⟨t, List.mem_range.2 ht, by simp [hst]⟩

end Sys2Proof.Machine
end

section
/-!
SUPPORT. Register writes (O36): the monitor's writes to CORE_WORLD and CORE_MODE, and the stores to registers of CSR space.
-/

namespace Sys2Proof.Machine

theorem exec_coreWorldWrite (c : BitVec 8) (who : Agent) (v : Word) (s : State) :
    exec (.coreWorldWrite c who v) s = .next (coreWorldWrite s c.toNat (viewerOf s who) v) := rfl

theorem exec_coreModeWrite (c : BitVec 8) (who : Agent) (v : Word) (s : State) :
    exec (.coreModeWrite c who v) s = .next (coreModeWrite s c.toNat (viewerOf s who) v) := rfl

/-- Two 8-bit fields of a word as CORE_WORLD takes them. -/
theorem shares_toNat (v : Word) : (v.truncate 8 : BitVec 8).toNat = v.toNat % 256 ∧
    ((v >>> 8).truncate 8 : BitVec 8).toNat = v.toNat / 256 % 256 := by
  simp [BitVec.toNat_setWidth, BitVec.toNat_ushiftRight, Nat.shiftRight_eq_div_pow]

/-- A field of a word from bit `lo` on. -/
theorem truncate_shift (v : Word) (lo n : Nat) :
    ((v >>> lo).truncate n : BitVec n) = BitVec.ofNat n (v.toNat / 2 ^ lo) := by
  apply BitVec.eq_of_toNat_eq
  simp [BitVec.toNat_setWidth, BitVec.toNat_ushiftRight, Nat.shiftRight_eq_div_pow]

/-- R87: shares above 256 in all, or a writer that is not the monitor: CORE_WORLD stays. -/
theorem coreWorldWrite_refused (s : State) (c : Nat) (v : Viewer) (w : Word)
    (h : v.mon = false ∨ 256 < w.toNat % 256 + w.toNat / 256 % 256) : coreWorldWrite s c v w = s := by
  obtain ⟨hp, ht⟩ := shares_toNat w
  unfold coreWorldWrite
  simp only [hp, ht]
  rcases h with h | h
  · simp [h]
  · simp [h]

/-- R87: CORE_WORLD written by the monitor while no thread of the core runs. -/
theorem coreWorldWrite_idle (s : State) (c : Nat) (v : Viewer) (w : Word) (hm : v.mon = true)
    (hi : ∀ t, t < 8 → (threadOf (coreOf s c) t).st = .stopped) (hs : w.toNat % 256 + w.toNat / 256 % 256 ≤ 256) :
    coreWorldWrite s c v w = setCore s c { coreOf s c with
      pShare := BitVec.ofNat 8 (w.toNat % 256), tShare := BitVec.ofNat 8 (w.toNat / 256 % 256),
      imSplit := BitVec.ofNat 5 (w.toNat / 2 ^ 16), threadT := BitVec.ofNat 8 (w.toNat / 2 ^ 24) } := by
  obtain ⟨hp, ht⟩ := shares_toNat w
  have hp' : (w.truncate 8 : BitVec 8) = BitVec.ofNat 8 (w.toNat % 256) := BitVec.eq_of_toNat_eq (by simp [hp])
  have ht' : ((w >>> 8).truncate 8 : BitVec 8) = BitVec.ofNat 8 (w.toNat / 256 % 256) := BitVec.eq_of_toNat_eq (by simp [ht])
  have hs' : ¬ 256 < (BitVec.ofNat 8 (w.toNat % 256)).toNat + (BitVec.ofNat 8 (w.toNat / 256 % 256)).toNat := by
    simpa using hs
  unfold coreWorldWrite
  simp only [hp', ht', hm, anyRunning_eq_false _ _ hi, hs', decide_false, Bool.not_true, Bool.or_self, Bool.false_eq_true,
    if_false, truncate_shift w 16 5, truncate_shift w 24 8]

/-- R107: CORE_MODE written by the monitor while no thread of the core runs. -/
theorem coreModeWrite_idle (s : State) (c : Nat) (v : Viewer) (w : Word) (hm : v.mon = true)
    (hi : ∀ t, t < 8 → (threadOf (coreOf s c) t).st = .stopped) :
    ∃ cur, coreModeWrite s c v w = setCore s c { coreOf s c with ilv := w.getLsbD 0, cur := cur } := by
  unfold coreModeWrite
  simp only [hm, anyRunning_eq_false _ _ hi, Bool.and_false, Bool.not_true, Bool.or_self, Bool.false_eq_true, if_false]
  exact ⟨_, rfl⟩

/-- R107: a change of CORE_MODE by another than the monitor, or while a thread of the core runs, is not made. -/
theorem coreModeWrite_refused (s : State) (c : Nat) (v : Viewer) (w : Word)
    (h : v.mon = false ∨ (w.getLsbD 0 ≠ (coreOf s c).ilv ∧ ¬ ∀ t, t < 8 → (threadOf (coreOf s c) t).st = .stopped)) :
    coreModeWrite s c v w = s := by
  unfold coreModeWrite
  rcases h with h | ⟨hw, hr⟩
  · simp [h]
  · have hb : (w.getLsbD 0 != (coreOf s c).ilv) = true := bne_iff_ne.2 hw
    simp only [hb, anyRunning_of_not_idle _ hr, Bool.and_self, Bool.or_true, if_true]

/-- R87, R107, R128: the writes of the monitor to a core, and its stop of a thread. -/
theorem monitorCoreWrites_hold : MonitorCoreWrites := by
  intro c t who v s
  refine ⟨fun hi hs => ?_, fun hs => ?_, fun hm => ?_, fun hi => ?_, fun hi hv => ?_, ?_⟩
  · refine ⟨_, exec_coreWorldWrite c .monitor v s, ?_⟩
    rw [coreWorldWrite_idle s c.toNat (viewerOf s .monitor) v rfl hi hs, coreOf_setCore]
    exact ⟨rfl, sameMemory_rfl s⟩
  · rw [exec_coreWorldWrite, coreWorldWrite_refused s _ _ v (.inr hs)]
  · rw [exec_coreWorldWrite, exec_coreModeWrite, coreWorldWrite_refused s _ _ v (.inl hm), coreModeWrite_refused s _ _ v (.inl hm)]
    exact ⟨rfl, rfl⟩
  · obtain ⟨cur, h⟩ := coreModeWrite_idle s c.toNat (viewerOf s .monitor) v rfl hi
    refine ⟨_, exec_coreModeWrite c .monitor v s, ?_⟩
    rw [h, coreOf_setCore]
    exact ⟨rfl, rfl, sameMemory_rfl s⟩
  · rw [exec_coreModeWrite, coreModeWrite_refused s _ _ v (.inr ⟨hv, hi⟩)]
  · obtain ⟨s1, y, he, hc, hm, hpc, hs⟩ := execMonitorThreadStop_eq c t s
    obtain ⟨gst, gpc, garms, gidle⟩ := stopThread_spec (setTh s1 c.toNat t.toNat y) c.toNat t.toNat
    rw [thOf_setTh] at gpc gidle
    have hru : (coreOf (setTh s1 c.toNat t.toNat y) c.toNat).ru = (coreOf s c.toNat).ru := by
      simp [setTh, coreOf, setCore, hc]
    refine ⟨_, he, gst, gpc.trans hpc, garms, fun hq => ?_⟩
    obtain ⟨gs, gm⟩ := gidle (by rw [hru]; exact hq)
    exact ⟨gs.trans hs, sameMemory_trans hm gm⟩

/-- R516: the contexts' blocks. -/
theorem csrBlock_ctx (o : Nat) (h1 : 0x40000 ≤ o) (h2 : o < 0x80000) :
    csrBlock (csrBase + o) = (.ctx ((o - 0x40000) / 0x1000), o % 0x1000) := by
  have hcore : (decide (0x1000000 ≤ o) && decide (o < 0x2000000)) = false := by
    rw [decide_eq_false (by omega), Bool.false_and]
  have hstream : (decide (0x8000000 ≤ o) && decide (o < 0x8100000)) = false := by
    rw [decide_eq_false (by omega), Bool.false_and]
  unfold csrBlock
  simp only [Nat.add_sub_cancel_left, if_neg (Nat.not_lt.2 (Nat.le_add_right csrBase o)), hcore, hstream, Bool.false_eq_true, if_false,
    decide_eq_true h1, decide_eq_true h2, Bool.and_self, if_true]

/-- R516: the cores' blocks. -/
theorem csrBlock_core (o : Nat) (h1 : 0x1000000 ≤ o) (h2 : o < 0x2000000) :
    csrBlock (csrBase + o) = (.core ((o - 0x1000000) / 0x10000), o % 0x10000) := by
  unfold csrBlock
  simp only [Nat.add_sub_cancel_left, if_neg (Nat.not_lt.2 (Nat.le_add_right csrBase o)), decide_eq_true h1, decide_eq_true h2,
    Bool.and_self, if_true]

/-- R49, R291: CX_KRGSEED of a context. -/
theorem csrBlock_seed (cx : BitVec 6) : csrBlock (0x01F000040038 + cx.toNat * 0x1000) = (.ctx cx.toNat, 0x038) := by
  have h := csrBlock_ctx (0x40038 + cx.toNat * 0x1000) (by omega) (by omega)
  have e1 : (0x40038 + cx.toNat * 0x1000 - 0x40000) / 0x1000 = cx.toNat := by omega
  have e2 : (0x40038 + cx.toNat * 0x1000) % 0x1000 = 0x038 := by omega
  have e3 : csrBase + (0x40038 + cx.toNat * 0x1000) = 0x01F000040038 + cx.toNat * 0x1000 := by unfold csrBase; omega
  rw [e1, e2, e3] at h
  exact h

/-- R97: ICU_TMRt of a core. -/
theorem csrBlock_timer (c : BitVec 8) (t : BitVec 3) :
    csrBlock (0x01F001000040 + c.toNat * 0x10000 + t.toNat * 8) = (.core c.toNat, 0x040 + t.toNat * 8) := by
  have h := csrBlock_core (0x1000040 + c.toNat * 0x10000 + t.toNat * 8) (by omega) (by omega)
  have e1 : (0x1000040 + c.toNat * 0x10000 + t.toNat * 8 - 0x1000000) / 0x10000 = c.toNat := by omega
  have e2 : (0x1000040 + c.toNat * 0x10000 + t.toNat * 8) % 0x10000 = 0x040 + t.toNat * 8 := by omega
  have e3 : csrBase + (0x1000040 + c.toNat * 0x10000 + t.toNat * 8) = 0x01F001000040 + c.toNat * 0x10000 + t.toNat * 8 := by
    unfold csrBase; omega
  rw [e1, e2, e3] at h
  exact h

/-- R97: a store to ICU_TMRt reaches the timer of thread t. -/
theorem coreBlockWrite_timer (s : State) (v : Viewer) (c : Nat) (t : BitVec 3) (w : Word) :
    coreBlockWrite s v c (0x040 + t.toNat * 8) w = icuTmrWrite s c t.toNat v w := by
  have h1 : (decide (0x100 ≤ 0x040 + t.toNat * 8) && decide (0x040 + t.toNat * 8 < 0x300) && (0x040 + t.toNat * 8) % 8 == 0) = false := by
    rw [decide_eq_false (by omega), Bool.false_and, Bool.false_and]
  have h2 : (decide (0x040 ≤ 0x040 + t.toNat * 8) && decide (0x040 + t.toNat * 8 < 0x080) && (0x040 + t.toNat * 8) % 8 == 0) = true := by
    simp
    omega
  have e : (0x040 + t.toNat * 8 - 0x040) / 8 = t.toNat := by omega
  unfold coreBlockWrite
  rw [h1, h2, e]
  rfl

/-- R49, R291: a store to CX_KRGSEED by the monitor. -/
theorem ctxBlockWrite_seed (s : State) (v : Viewer) (cx : Nat) (w : Word) (hm : v.mon = true) :
    ctxBlockWrite s v cx 0x038 w = some (setCtx s cx { ctxOf s cx with seed := w }) := by
  simp [ctxBlockWrite, cxMay, hm]

/-- R7, R9: an aligned store goes to the register at its address. -/
theorem exec_csrWrite_aligned (who : Agent) (addr v : Word) (s : State) (h : addr.toNat % 8 = 0) :
    exec (.csrWrite who addr v) s = .next (csrStore s (viewerOf s who) addr.toNat v) :=
  if_neg (c := (addr.toNat % 8 != 0) = true) (by simp [h])

/-- R7, R9: the monitor makes no store that is not aligned. -/
theorem exec_csrWrite_unaligned_monitor (addr v : Word) (s : State) (h : addr.toNat % 8 ≠ 0) :
    exec (.csrWrite .monitor addr v) s = .next s :=
  if_pos (c := (addr.toNat % 8 != 0) = true) (bne_iff_ne.2 h)

/-- R7, R9: a thread's store that is not aligned is a fault, or its masked outcome. -/
theorem exec_csrWrite_unaligned_thread (c : BitVec 8) (t : BitVec 3) (addr v : Word) (s : State) (h : addr.toNat % 8 ≠ 0) :
    exec (.csrWrite (.thread c t) addr v) s = .next (if (thOf s c.toNat t.toNat).st == .stopped then s
      else if (thOf s c.toNat t.toNat).exm then countMasked s c.toNat t.toNat 1
      else faultWaiting s c.toNat t.toNat cAlignf addr.toNat) :=
  if_pos (c := (addr.toNat % 8 != 0) = true) (bne_iff_ne.2 h)

/-- R303: a store that does not wait has its effect. -/
theorem csrStore_of_csrWrite (s s' : State) (v : Viewer) (a : Nat) (w : Word) (h : csrWrite s v a w = some s') :
    csrStore s v a w = s' := by
  rw [csrStore, h]

/-- R7, R516: a store where no register lies changes nothing. -/
theorem csrStore_none (s : State) (v : Viewer) (a : Nat) (w : Word) (h : (csrBlock a).1 = .none) : csrStore s v a w = s := by
  apply csrStore_of_csrWrite
  unfold csrWrite
  generalize csrBlock a = b at h
  obtain ⟨b, off⟩ := b
  subst h
  rfl

/-- R10, R394: a block that only the monitor may write. -/
def monitorBlock : CsrBlock → Bool
  | .mem | .steep | .strainer | .aon | .board | .power => true
  | _ => false

theorem steepBlockWrite_refused (s : State) (v : Viewer) (off : Nat) (w : Word) (h : v.mon = false) : steepBlockWrite s v off w = s := by
  unfold steepBlockWrite
  split
  · simp [h]
  · rfl

theorem aonBlockWrite_refused (s : State) (v : Viewer) (off : Nat) (w : Word) (h : v.mon = false) : aonBlockWrite s v off w = s := by
  unfold aonBlockWrite
  split
  · simp [h]
  · rfl

theorem powerBlockWrite_refused (s : State) (v : Viewer) (off : Nat) (w : Word) (h : v.mon = false) : powerBlockWrite s v off w = s := by
  unfold powerBlockWrite
  split
  · simp [domReqWrite, h]
  · simp [h]
  · rfl

/-- R10: a world's store to a register of the monitor's changes nothing. -/
theorem csrStore_monitorBlock (s : State) (v : Viewer) (a : Nat) (w : Word) (hm : v.mon = false) (h : monitorBlock (csrBlock a).1 = true) :
    csrStore s v a w = s := by
  apply csrStore_of_csrWrite
  unfold csrWrite
  generalize csrBlock a = b at h
  obtain ⟨b, off⟩ := b
  cases b with
  | mem => simp [memCfgWrite, hm]
  | steep => exact congrArg some (steepBlockWrite_refused s v off w hm)
  | strainer => simp [hm]
  | aon => exact congrArg some (aonBlockWrite_refused s v off w hm)
  | board => simp [extLinkcfgWrite, hm]
  | power => exact congrArg some (powerBlockWrite_refused s v off w hm)
  | fab | none => exact Bool.noConfusion h
  | ctx n | group n | core n | stream n => exact Bool.noConfusion h

/-- R394, R453: a store to STEEP_CTL by the monitor. -/
theorem csrStore_steepCtl (s : State) (v : Viewer) (w : Word) (hm : v.mon = true) : csrStore s v 0x01F0000A0000 w =
    if s.boot.devEn.getLsbD 10 then s else { s with steep := { s.steep with ctl := w.truncate 58 } } := by
  apply csrStore_of_csrWrite
  have hb : csrBlock 0x01F0000A0000 = (.steep, 0) := by decide
  rw [csrWrite, hb]
  simp only [steepBlockWrite, hm, devBit, Bool.true_and]
  cases s.boot.devEn.getLsbD 10 <;> rfl

/-- R95: a masked outcome of a store grows XDROP by one, up to its greatest value. -/
theorem countMasked_one (s : State) (c t : Nat) : SameMemory s (countMasked s c t 1) ∧
    (thOf (countMasked s c t 1) c t).xdrop.toNat = min ((thOf s c t).xdrop.toNat + 1) 0xFFFFFFFF := by
  have hm : SameMemory s (setDropped s (worldOf (coreOf s c) t)) := by
    cases worldOf (coreOf s c) t <;> exact sameMemory_rfl s
  refine ⟨hm, ?_⟩
  rw [countMasked, if_neg (by decide), thOf_setTh, addDrop, BitVec.toNat_ofNat]
  omega

@[simp] theorem spend_th (k : Core) (t n : Nat) : (spend k t n).th = k.th := by
  obtain ⟨_, _, _, h⟩ := spend_eq k t n
  rw [h]

@[simp] theorem settle_th (k : Core) : (settle k).th = k.th := by
  obtain ⟨_, _, h⟩ := settle_eq k
  rw [h]

/-- R92: exception entry from outside a thread's turn, where no posted store is to drain. -/
theorem thOf_enterOutside (s : State) (c t cause : Nat) (addr : Word) (resume off : BitVec 18) (hb : (thOf s c t).sb = []) :
    thOf (enterOutside s c t cause addr resume off) c t =
      if vecDone (coreOf s c) t then entered (thOf s c t) cause addr resume off
      else { thOf s c t with sb := [], st := .waiting, wait := .entry cause addr resume off } := by
  have hs : applyStores s (thOf s c t).sb = s := by rw [hb]; rfl
  unfold enterOutside
  rw [hs]
  unfold thOf threadOf
  rw [coreOf_setCore, settle_th, spend_th, tabGet_tabSet_same]

theorem sameMemory_enterOutside (s : State) (c t cause : Nat) (addr : Word) (resume off : BitVec 18) (hb : (thOf s c t).sb = []) :
    SameMemory s (enterOutside s c t cause addr resume off) := by
  unfold enterOutside
  rw [hb]
  exact sameMemory_rfl s

/-- R92: what exception entry does to a thread's registers, with vector instructions in flight or without. -/
theorem entersAt_of_vecDone (k : Core) (t : Nat) (x : Thread) (cause : Nat) (addr : Word) (resume off : BitVec 18) :
    EntersAt k t x (if vecDone k t then entered x cause addr resume off
      else { x with sb := [], st := .waiting, wait := .entry cause addr resume off }) cause addr resume off := by
  unfold EntersAt
  cases vecDone k t
  · exact ⟨rfl, rfl, rfl, rfl, nofun, fun _ => ⟨rfl, rfl, rfl, rfl, rfl⟩⟩
  · exact ⟨rfl, rfl, rfl, rfl, fun _ => ⟨rfl, BitVec.toNat_ofNat _ _, rfl, rfl, rfl, rfl, rfl, rfl, rfl⟩, nofun⟩

/-- A thread that does not wait has nothing to abandon. -/
theorem abandonWait_of_not_waiting (s : State) (c t : Nat) (h : (thOf s c t).wait = .none) :
    abandonWait s c t = setTh s c t (thOf s c t) := by
  unfold abandonWait
  dsimp only
  rw [h]
  exact congrArg (setTh s c t) (by rw [← h])

/-- R7, R9, R92: a fault of a thread that does not wait and has no posted store. -/
theorem faultWaiting_spec (s : State) (c t cause va : Nat) (hb : (thOf s c t).sb = []) (hw : (thOf s c t).wait = .none) :
    EntersAt (coreOf s c) t (thOf s c t) (thOf (faultWaiting s c t cause va) c t) cause (BitVec.ofNat 64 va) (thOf s c t).pc 0#18 ∧
      SameMemory s (faultWaiting s c t cause va) := by
  have hv : vecDone (coreOf (setTh s c t (thOf s c t)) c) t = vecDone (coreOf s c) t := by simp [setTh, vecDone]
  have hx := thOf_setTh s c t (thOf s c t)
  unfold faultWaiting
  simp only [abandonWait_of_not_waiting s c t hw]
  refine ⟨?_, sameMemory_enterOutside _ c t cause _ _ _ (by rw [hx]; exact hb)⟩
  rw [thOf_enterOutside _ _ _ _ _ _ _ (by rw [hx]; exact hb), hx, hv]
  exact entersAt_of_vecDone _ t _ cause _ _ _

/-- R7 to R10, R49, R97, R394, R453: the stores to registers of CSR space that the statement names. -/
theorem csrStores_hold : CsrStores := by
  intro who v cx c t s
  have hseed : (BitVec.ofNat 64 (0x01F000040038 + cx.toNat * 0x1000) : Word).toNat = 0x01F000040038 + cx.toNat * 0x1000 := by
    rw [BitVec.toNat_ofNat]; omega
  have htimer : (BitVec.ofNat 64 (0x01F001000040 + c.toNat * 0x10000 + t.toNat * 8) : Word).toNat =
      0x01F001000040 + c.toNat * 0x10000 + t.toNat * 8 := by
    rw [BitVec.toNat_ofNat]; omega
  refine ⟨?_, fun hen => ?_, fun hen => ?_, fun hl => ?_, fun addr ha => ⟨?_, fun hst => ?_, fun hst hx => ?_, fun hst hx hb hw => ?_⟩,
    fun addr ha hn => ?_, fun addr ha hm hb => ?_⟩
  · rw [exec_csrWrite_aligned _ _ _ _ (by rw [hseed]; omega), hseed]
    refine congrArg Host.Outcome.next (csrStore_of_csrWrite s _ _ _ v ?_)
    rw [csrWrite, csrBlock_seed]
    exact ctxBlockWrite_seed s _ cx.toNat v rfl
  · rw [exec_csrWrite_aligned _ _ _ _ (by decide)]
    refine congrArg Host.Outcome.next ((csrStore_steepCtl s _ v rfl).trans ?_)
    rw [hen, if_neg Bool.false_ne_true]
  · rw [exec_csrWrite_aligned _ _ _ _ (by decide)]
    exact congrArg Host.Outcome.next ((csrStore_steepCtl s _ v rfl).trans (if_pos hen))
  · rw [exec_csrWrite_aligned _ _ _ _ (by rw [htimer]; omega), htimer]
    refine congrArg Host.Outcome.next (csrStore_of_csrWrite s _ _ _ v ?_)
    rw [csrWrite, csrBlock_timer]
    simp [coreBlockWrite_timer, icuTmrWrite, worldS, viewerOf, isS, hl]
  · exact exec_csrWrite_unaligned_monitor addr v s ha
  · rw [exec_csrWrite_unaligned_thread c t addr v s ha, hst]
    rfl
  · refine ⟨_, exec_csrWrite_unaligned_thread c t addr v s ha, ?_⟩
    rw [if_neg (by simpa using hst), if_pos hx]
    exact countMasked_one s c.toNat t.toNat
  · refine ⟨_, exec_csrWrite_unaligned_thread c t addr v s ha, ?_⟩
    rw [if_neg (by simpa using hst), hx, if_neg Bool.false_ne_true]
    have h := faultWaiting_spec s c.toNat t.toNat cAlignf addr.toNat hb hw
    rw [BitVec.ofNat_toNat, BitVec.setWidth_eq] at h
    exact h
  · rw [exec_csrWrite_aligned _ _ _ _ ha, csrStore_none s _ _ v hn]
  · rw [exec_csrWrite_aligned _ _ _ _ ha, csrStore_monitorBlock s _ _ v hm]
    rcases hb with hb | hb | hb | hb | hb | hb <;> rw [hb] <;> rfl

end Sys2Proof.Machine

open Sys2Proof Sys2Proof.Machine

/-- Settles O36: the monitor's writes to a core, and the stores to registers of CSR space. -/
theorem registerWrites : Obligations.RegisterWrites := ⟨monitorCoreWrites_hold, csrStores_hold⟩

end

section
/-!
SUPPORT. Clocks and temperatures (O56): boost and its withdrawal, the thermal level that a reading gives, and what the trip leaves.
-/

namespace Sys2Proof.Machine

/-- R497: the conditions of boost. -/
theorem mayBoost_iff (s : State) (c : Nat) : mayBoost s c = true ↔
    s.power.boostEn = true ∧ c ∈ s.power.measured ∧ tabGet 0 s.power.lvls (c / 64) = 0 ∧ 256 ≤ s.power.cap := by
  simp [mayBoost, and_assoc]

/-- R496: an interval at full load. -/
theorem execDroopMeasure_eq (c : BitVec 8) (s : State) : exec (.droopMeasure c) s =
    .next (if c.toNat ∈ s.power.measured then s
      else if tabGet 0 s.power.intervals c.toNat < 31 then
        { s with power := { s.power with intervals := tabSet s.power.intervals c.toNat (tabGet 0 s.power.intervals c.toNat + 1) } }
      else { s with power := { s.power with
        intervals := tabErase s.power.intervals c.toNat
        measured := c.toNat :: s.power.measured
        measTemp := tabSet s.power.measTemp c.toNat (tabGet 0 s.power.temps (c.toNat / 64)) } }) := by
  show execDroopMeasure c s = _
  unfold execDroopMeasure
  by_cases hm : c.toNat ∈ s.power.measured
  · simp [hm]
  · by_cases hn : tabGet 0 s.power.intervals c.toNat < 31
    · simp [hm, hn]
    · have hn' : ¬ tabGet 0 s.power.intervals c.toNat + 1 < 32 := by omega
      simp [hm, hn, hn']

/-- R497: a request to boost. -/
theorem execBoostChange_up (c : BitVec 8) (s : State) : exec (.boostChange c true) s =
    .next (if mayBoost s c.toNat && !(s.power.boosted.contains c.toNat) then
      { s with power := { s.power with boosted := c.toNat :: s.power.boosted } } else s) := rfl

/-- R27: the power manager's limit, capped at the whole window. -/
theorem execPowerCapAdjust_eq (cap : BitVec 9) (s : State) : exec (.powerCapAdjust cap) s =
    .next (if min 256 cap.toNat < 256 && !((s.cores.any fun k => fp64Vec k.2) && s.cores.any fun k => fp64Mat k.2) then s
      else { s with power := { s.power with
        cap := min 256 cap.toNat, boosted := if min 256 cap.toNat < 256 then [] else s.power.boosted } }) := rfl

/-- R500: the level after a reading. -/
theorem nextLevel_eq (old : Nat) (t : Int) (h : old ≤ 3) : nextLevel old t =
    max (if t ≥ 94 then 3 else if t ≥ 91 then 2 else if t ≥ 88 then 1 else 0)
      (if old = 3 ∧ 92 ≤ t then 3 else if 2 ≤ old ∧ 89 ≤ t then 2 else if 1 ≤ old ∧ 86 ≤ t then 1 else 0) := by
  unfold nextLevel
  dsimp only
  congr 1
  obtain rfl | rfl | rfl | rfl : old = 0 ∨ old = 1 ∨ old = 2 ∨ old = 3 := by omega
  · simp [nextLevel.down]
  all_goals
    simp only [nextLevel.down, levelAt, true_and]
    split_ifs <;> omega

/-- R500, R502: the power registers after the reading t of die d. -/
def sampledPower (p : Power) (d : Nat) (t : Int) : Power :=
  let lvl := nextLevel (tabGet 0 p.lvls d) t
  { p with
    temps := tabSet p.temps d t
    lvls := tabSet p.lvls d lvl
    tmax := BitVec.ofNat 8 ((tabSet p.temps d t).foldl (fun m e => max m e.2.toNat) 0)
    measured := coolMeasured p d t
    boosted := p.boosted.filter fun c => !(1 ≤ lvl && c / 64 == d) && (coolMeasured p d t).contains c }

/-- R500, R502: a reading changes the power registers and the record of the hottest one. -/
theorem execThermalSample_eq (die : BitVec 3) (temp : BitVec 8) (s : State) (h : die.toNat < 6) : ∃ n,
    exec (.thermalSample die temp) s = .next { s with
      power := sampledPower s.power die.toNat temp.toInt, steep := { s.steep with counts := n } } := by
  let hot := (tabSet s.power.temps die.toNat temp.toInt).foldl (fun m e => max m e.2.toNat) 0
  exact ⟨tabMod 0 s.steep.counts 30 fun n => max n hot, if_neg (Nat.not_le.2 h)⟩

/-- R496: an island stays measured while its die is within 10 degrees of the temperature of the measurement. -/
theorem mem_coolMeasured (p : Power) (d : Nat) (t : Int) (x : Nat) : x ∈ coolMeasured p d t ↔
    x ∈ p.measured ∧ (x / 64 = d → (t - tabGet 0 p.measTemp x).natAbs ≤ 10) := by
  by_cases hx : x / 64 = d <;> simp [coolMeasured, hx]

/-- R497, R500: the islands that stay at 2.1 GHz. -/
theorem mem_sampledPower_boosted (p : Power) (d : Nat) (t : Int) (x : Nat) : x ∈ (sampledPower p d t).boosted ↔
    x ∈ p.boosted ∧ ¬ (1 ≤ nextLevel (tabGet 0 p.lvls d) t ∧ x / 64 = d) ∧ x ∈ coolMeasured p d t := by
  simp only [sampledPower, List.mem_filter, Bool.and_eq_true, Bool.not_eq_true', List.contains_iff_mem, ← Bool.not_eq_true,
    decide_eq_true_eq, beq_iff_eq]

/-- What the sleep of a domain may change: cores, memory and the memory system, and the state of links. -/
def SleepOnly (s s' : State) : Prop :=
  s' = { s with cores := s'.cores, mem := s'.mem, poison := s'.poison, flaws := s'.flaws, unseen := s'.unseen, memsys := s'.memsys,
                fab := s'.fab }

theorem sleepOnly_rfl (s : State) : SleepOnly s s := rfl

theorem sleepOnly_trans {a b c : State} (h : SleepOnly a b) (g : SleepOnly b c) : SleepOnly a c := by
  unfold SleepOnly at *
  rw [g, h]

theorem sleepOnly_eraseMem (s : State) (lo hi : Nat) : SleepOnly s (eraseMem s lo hi) := rfl

theorem sleepOnly_cores (s : State) (l : Tab Core) : SleepOnly s { s with cores := l } := rfl

theorem sleepOnly_sleepCores (s : State) (die : Nat) : SleepOnly s (sleepCores s die) :=
  sleepOnly_trans (sleepOnly_trans (sleepOnly_eraseMem _ _ _) (sleepOnly_eraseMem _ _ _)) (sleepOnly_cores _ _)

theorem sleepOnly_sleepEffect (s : State) (d : Nat) : SleepOnly s (sleepEffect s d) := by
  unfold sleepEffect
  split_ifs
  · exact sleepOnly_sleepCores s _
  all_goals rfl

theorem sleepOnly_sleepEffects (ds : List Nat) : ∀ s, SleepOnly s (ds.foldl sleepEffect s) := by
  induction ds with
  | nil => exact sleepOnly_rfl
  | cons d ds ih => exact fun s => sleepOnly_trans (sleepOnly_sleepEffect s d) (ih _)

/-- R488, R501: the mask of the domains in a list. -/
def domMask (ds : List Nat) : BitVec 20 := ds.foldl (fun m d => m ||| domBit d) 0#20

/-- R488, R501: domains switched off at once keep everything that no domain holds, and only they are off. -/
theorem cutDomains_kept (s : State) (ds : List Nat) :
    (cutDomains s ds).steep = s.steep ∧ (cutDomains s ds).boot = s.boot ∧
      (cutDomains s ds).power.domOn = s.power.domOn &&& ~~~(domMask ds) := by
  have h := sleepOnly_sleepEffects ds s
  unfold SleepOnly at h
  unfold cutDomains
  dsimp only
  generalize ds.foldl sleepEffect s = s1 at h
  rw [h]
  split_ifs <;> exact ⟨rfl, rfl, rfl⟩

/-- R415: a device that loses itself is in its own list of lost devices; its power, its boot block and its lifetime counts stay. -/
theorem loseSelf_kept (s : State) : s.fab.devnum ∈ (loseSelf s).steep.lost ∧ (loseSelf s).power = s.power ∧
    (loseSelf s).boot = s.boot ∧ (loseSelf s).steep.counts = s.steep.counts := by
  unfold loseSelf fenceLinks loseDevice
  split_ifs with h
  · exact ⟨List.contains_iff_mem.1 h, rfl, rfl, rfl⟩
  · exact ⟨List.mem_append_right _ (List.mem_singleton.2 rfl), rfl, rfl, rfl⟩

/-- R501: the domains that a thermal trip switches off are D03 to D17. -/
theorem getLsbD_tripMask : ∀ d, d < 20 → (domMask ((List.range 15).map (· + 3))).getLsbD d = decide (3 ≤ d ∧ d < 18) := by decide

/-- R501: a domain of the device after a thermal trip. -/
theorem tripDomain (on : BitVec 20) (d : Nat) (h : d < 20) :
    (on &&& ~~~(domMask ((List.range 15).map (· + 3)))).getLsbD d = (on.getLsbD d && !decide (3 ≤ d ∧ d < 18)) := by
  simp only [BitVec.getLsbD_and, BitVec.getLsbD_not, getLsbD_tripMask d h, h, decide_true, Bool.true_and]

/-- R501: the state after a thermal trip. -/
def tripped (s : State) : State :=
  let s1 := cutDomains (loseSelf s) ((List.range 15).map (· + 3))
  countLife { s1 with power := { s1.power with trip := true, thermtripN := false } } 20

/-- R501: a die at 100 degrees or more trips the device. -/
theorem execThermalTrip_eq (s : State) :
    exec .thermalTrip s = .next (if s.power.temps.any fun e => decide (100 ≤ e.2) then tripped s else s) := by
  show execThermalTrip s = _
  unfold execThermalTrip
  split <;> rfl

theorem tripped_spec (s : State) : (tripped s).power.trip = true ∧ (tripped s).power.thermtripN = false ∧
    s.fab.devnum ∈ (tripped s).steep.lost ∧
    (tripped s).power.domOn = s.power.domOn &&& ~~~(domMask ((List.range 15).map (· + 3))) ∧
    tabGet 0 (tripped s).steep.counts 20 = tabGet 0 s.steep.counts 20 + 1 ∧ (tripped s).boot = s.boot := by
  obtain ⟨hlost, hpow, hboot, hcounts⟩ := loseSelf_kept s
  obtain ⟨csteep, cboot, cdom⟩ := cutDomains_kept (loseSelf s) ((List.range 15).map (· + 3))
  unfold tripped countLife
  generalize cutDomains (loseSelf s) ((List.range 15).map (· + 3)) = s1 at csteep cboot cdom
  refine ⟨rfl, rfl, ?_, ?_, ?_, cboot.trans hboot⟩
  · show s.fab.devnum ∈ s1.steep.lost
    rw [csteep]
    exact hlost
  · rw [← hpow]
    exact cdom
  · simp only [tabGet_tabMod_same, csteep, hcounts]

end Sys2Proof.Machine

open Sys2Proof Sys2Proof.Machine

/-- Settles O56: droop measurements, boost, the limit on row issue, thermal levels, the trip and stretched cycles, one by one. -/
theorem clocksAndTemperatures : Obligations.ClocksAndTemperatures := by
  intro c cap die temp isl e8 s
  refine ⟨fun hm => ?_, fun hm hn => ?_, fun hm hn => ?_, fun hmay hb => ?_, fun h => ?_, rfl, ⟨fun hc hboth => ?_, fun hc hboth => ?_⟩,
    fun hc => ?_, fun hd => ?_, fun hd hl => ?_, fun hcool => ?_, fun hhot => ?_, ?_⟩
  · rw [execDroopMeasure_eq, if_pos hm]
  · exact (execDroopMeasure_eq c s).trans (by rw [if_neg hm, if_pos hn])
  · refine ⟨_, (execDroopMeasure_eq c s).trans (by rw [if_neg hm, if_neg (Nat.not_lt.2 hn)]), rfl, ?_, ?_⟩
    · exact tabGet_tabErase_same 0 _ _
    · exact tabGet_tabSet_same 0 _ _ _
  · refine (execBoostChange_up c s).trans ?_
    rw [(mayBoost_iff s c.toNat).2 hmay]
    simp [hb]
  · rw [execBoostChange_up, if_neg]
    rw [Bool.and_eq_true, mayBoost_iff]
    rintro ⟨hmay, hnb⟩
    exact h.elim (· hmay) fun hb => by simp [hb] at hnb
  · obtain ⟨hv, hx⟩ := hboth
    simp [execPowerCapAdjust_eq, Nat.min_eq_right (Nat.le_of_lt hc), hc, List.any_eq_true.2 hv, List.any_eq_true.2 hx]
  · have hany : ((s.cores.any fun k => fp64Vec k.2) && s.cores.any fun k => fp64Mat k.2) = false := by
      rw [← Bool.not_eq_true, Bool.and_eq_true, List.any_eq_true, List.any_eq_true]
      exact hboth
    simp [execPowerCapAdjust_eq, Nat.min_eq_right (Nat.le_of_lt hc), hc, hany]
  · simp [execPowerCapAdjust_eq, Nat.min_eq_left hc]
  · exact if_pos hd
  · obtain ⟨n, he⟩ := execThermalSample_eq die temp s hd
    refine ⟨_, he, rfl, tabGet_tabSet_same 0 _ _ _, ?_, fun d hne => ⟨tabGet_tabSet_ne _ _ _ _ _ hne, tabGet_tabSet_ne _ _ _ _ _ hne⟩,
      fun hlv _ x hx => ?_, fun x hx => ?_, fun x hx hdie => ?_, fun x hx hdie => ?_⟩
    · exact (tabGet_tabSet_same 0 _ _ _).trans (nextLevel_eq _ _ hl)
    · have hwarm : 1 ≤ nextLevel (tabGet 0 s.power.lvls die.toNat) temp.toInt := by simpa [sampledPower] using hlv
      exact fun hdie => ((mem_sampledPower_boosted _ _ _ _).1 hx).2.1 ⟨hwarm, hdie⟩
    · exact ((mem_sampledPower_boosted _ _ _ _).1 hx).2.2
    · exact (mem_coolMeasured _ _ _ _).trans ⟨fun h => h.2 hdie, fun h => ⟨hx, fun _ => h⟩⟩
    · exact (mem_coolMeasured _ _ _ _).2 ⟨hx, fun h => absurd h hdie⟩
  · rw [execThermalTrip_eq, if_neg]
    rw [List.any_eq_true]
    rintro ⟨e, he, h100⟩
    have := hcool e he
    have := of_decide_eq_true h100
    omega
  · have hany : (s.power.temps.any fun e => decide (100 ≤ e.2)) = true := by simpa using hhot
    obtain ⟨htrip, hpin, hlost, hdom, hcount, hboot⟩ := tripped_spec s
    refine ⟨tripped s, by rw [execThermalTrip_eq, if_pos hany], htrip, hpin, hlost, fun d h3 h18 => ?_, fun d hd => ?_, hcount,
      by rw [hboot]⟩
    · rw [hdom, tripDomain _ d (by omega), decide_eq_true ⟨h3, h18⟩, Bool.not_true, Bool.and_false]
    · have hout : d < 20 ∧ ¬ (3 ≤ d ∧ d < 18) := by revert d; decide
      rw [hdom, tripDomain _ d hout.1, decide_eq_false hout.2, Bool.not_false, Bool.and_true]
  · refine ⟨{ s.power with stretched := tabMod 0 s.power.stretched isl.toNat (· + min 8 e8.toNat) }, rfl, rfl, ?_, fun i hi => ?_⟩
    · simp
    · simp [tabGet_tabMod_ne _ _ _ _ _ hi]

end

section
/-!
SUPPORT. Matrix events (O28): what the loader and the stream passes leave of a core as they go on, what waking and the flags of passes
without a drain change, and that a unit with no row under way has none to land.
-/

namespace Sys2Proof.Machine

/-- R131, R134: what the loader and the stream passes of a core may change of it: the load and the banks, and the passes that run or end. -/
def UnitsMoved (k k' : Core) : Prop :=
  k' = { k with
    mx := { k.mx with loadEnd := k'.mx.loadEnd, loadSrc := k'.mx.loadSrc, loadPoison := k'.mx.loadPoison,
                      bankA := k'.mx.bankA, bankB := k'.mx.bankB }
    se := { k.se with run := k'.se.run, ending := k'.se.ending } }

theorem unitsMoved_rfl (k : Core) : UnitsMoved k k := rfl

theorem unitsMoved_trans {a b d : Core} (h : UnitsMoved a b) (g : UnitsMoved b d) : UnitsMoved a d := by
  unfold UnitsMoved at *
  rw [g, h]

theorem coreOf_of_memOnly {s s' : State} (h : MemOnly s s') (c : Nat) : coreOf s' c = coreOf s c := by rw [h]; rfl

theorem unitsMoved_streamWrites (s : State) (c clk : Nat) : UnitsMoved (coreOf s c) (coreOf (streamWrites s c clk) c) := by
  unfold streamWrites
  dsimp only
  split
  · exact unitsMoved_rfl _
  · unfold setSe
    rw [coreOf_setCore, coreOf_of_memOnly (memOnly_foldl _ (fun s w => memOnly_memStore s _ _) _ s)]
    rfl

theorem unitsMoved_loadGroup (s : State) (c clk : Nat) : UnitsMoved (coreOf s c) (coreOf (loadGroup s c clk) c) := by
  unfold loadGroup setMx
  dsimp only
  split
  · exact unitsMoved_rfl _
  · have h := memOnly_foldl _ (fun s (e : Nat × Nat) => memOnly_decodeRead s e.1 e.2) (takeSrc 512 (coreOf s c).mx.loadSrc).1 s
    split
    · rw [coreOf_setCore, coreOf_of_memOnly h]
      rfl
    · rw [coreOf_setCore, coreOf_of_memOnly h]
      split <;> rfl

/-- R131, R134: what a core's loader and stream passes leave of it as its clock advances. -/
theorem unitsMoved_catchUpFrom (c clk n : Nat) : ∀ s, UnitsMoved (coreOf s c) (coreOf (catchUpFrom c clk n s) c) := by
  induction n with
  | zero => exact fun s => unitsMoved_streamWrites s c clk
  | succ n ih =>
    intro s
    unfold catchUpFrom
    dsimp only
    split
    · exact unitsMoved_trans (unitsMoved_trans (unitsMoved_streamWrites s c _) (unitsMoved_loadGroup _ c clk)) (ih _)
    · exact unitsMoved_streamWrites s c clk

theorem unitsMoved_catchUpTo (s : State) (c clk : Nat) : UnitsMoved (coreOf s c) (coreOf (catchUpTo s c clk) c) :=
  unitsMoved_catchUpFrom c clk 128 s

theorem memWf_memStores (ws : List (Nat × Nat × List Byte)) : ∀ s : State, memWf s.mem = true →
    memWf (ws.foldl (fun s w => memStore s w.2.1 w.2.2) s).mem = true := by
  induction ws with
  | nil => exact fun _ h => h
  | cons w ws ih =>
    intro s h
    rw [List.foldl_cons]
    exact ih (memStore s w.2.1 w.2.2) (memWf_memStore s _ _ h)

theorem memWf_streamWrites (s : State) (c clk : Nat) (h : memWf s.mem = true) : memWf (streamWrites s c clk).mem = true := by
  unfold streamWrites
  dsimp only
  split
  · exact h
  · rw [setSe, setCore_mem]
    exact memWf_memStores _ s h

/-- Decoding pieces changes no byte and no poison. -/
theorem decodePieces_kept (l : List (Nat × Nat)) : ∀ s : State,
    (l.foldl (fun s (e : Nat × Nat) => decodeRead s e.1 e.2) s).mem = s.mem ∧
      (l.foldl (fun s (e : Nat × Nat) => decodeRead s e.1 e.2) s).poison = s.poison := by
  induction l with
  | nil => exact fun _ => ⟨rfl, rfl⟩
  | cons e l ih =>
    intro s
    obtain ⟨hm, hp⟩ := ih (decodeRead s e.1 e.2)
    exact ⟨hm.trans (decodeRead_mem s _ _), hp.trans (decodeRead_poison s _ _)⟩

theorem loadGroup_mem (s : State) (c clk : Nat) : (loadGroup s c clk).mem = s.mem := by
  unfold loadGroup
  dsimp only
  split
  · rfl
  · have h := (decodePieces_kept (takeSrc 512 (coreOf s c).mx.loadSrc).1 s).1
    split <;> exact h

theorem memWf_catchUpFrom (c clk n : Nat) : ∀ s : State, memWf s.mem = true → memWf (catchUpFrom c clk n s).mem = true := by
  induction n with
  | zero => exact fun s h => memWf_streamWrites s c clk h
  | succ n ih =>
    intro s h
    unfold catchUpFrom
    dsimp only
    split
    · exact ih _ (by rw [loadGroup_mem]; exact memWf_streamWrites s c _ h)
    · exact memWf_streamWrites s c clk h

/-- R131, R134: the loader and the stream passes keep the canonical form of memory. -/
theorem memWf_catchUpTo (s : State) (c clk : Nat) (h : memWf s.mem = true) : memWf (catchUpTo s c clk).mem = true :=
  memWf_catchUpFrom c clk 128 s h

/-- No stream pass is under way: none has a write to make. -/
theorem writesBefore_idle (e : StreamEng) (clk : Nat) (hr : e.run = none) (he : e.ending = []) : writesBefore e clk = [] := by
  simp [writesBefore, hr, he]

theorem streamWrites_idle (s : State) (c clk : Nat) (hr : (coreOf s c).se.run = none) (he : (coreOf s c).se.ending = []) :
    streamWrites s c clk = s := by
  unfold streamWrites
  dsimp only
  rw [writesBefore_idle _ clk hr he]

theorem catchUpFrom_idle (c clk n : Nat) (s : State) (hl : (coreOf s c).mx.loadSrc = []) (hr : (coreOf s c).se.run = none)
    (he : (coreOf s c).se.ending = []) : catchUpFrom c clk n s = s := by
  cases n with
  | zero => exact streamWrites_idle s c clk hr he
  | succ n =>
    unfold catchUpFrom
    dsimp only
    rw [hl]
    exact streamWrites_idle s c clk hr he

/-- R196: with no row on its way none reaches its entry. -/
theorem landRows_of_no_rows (x : Matrix) (clk : Nat) (h : x.rows = []) : landRows x clk = x := by
  have hj : judgeRows x clk = x := by simp [judgeRows, h]
  unfold landRows
  rw [hj]
  cases x
  dsimp only at h
  subst h
  rfl

@[simp] theorem wake_mx (s : State) (c : Nat) : (coreOf (wake s c) c).mx = (coreOf s c).mx := by
  obtain ⟨_, _, h⟩ := wake_eq s c
  rw [h, coreOf_setCore]

@[simp] theorem wake_clk (s : State) (c : Nat) : (coreOf (wake s c) c).clk = (coreOf s c).clk := by
  obtain ⟨_, _, h⟩ := wake_eq s c
  rw [h, coreOf_setCore]

@[simp] theorem coreOf_setMx (s : State) (c : Nat) (m : Matrix) : coreOf (setMx s c m) c = { coreOf s c with mx := m } :=
  coreOf_setCore _ _ _

/-- R52: what collecting flags may change: threads of core c. -/
def ThreadsOnly (s s' : State) (c : Nat) : Prop :=
  s' = { s with cores := s'.cores } ∧ ∃ th, coreOf s' c = { coreOf s c with th := th }

theorem threadsOnly_rfl (s : State) (c : Nat) : ThreadsOnly s s c := ⟨rfl, _, rfl⟩

theorem threadsOnly_trans {a b d : State} {c : Nat} (h : ThreadsOnly a b c) (g : ThreadsOnly b d c) : ThreadsOnly a d c := by
  obtain ⟨hs, th, hc⟩ := h
  obtain ⟨gs, th', gc⟩ := g
  exact ⟨by rw [gs, hs], th', by rw [gc, hc]⟩

theorem threadsOnly_setTh (s : State) (c t : Nat) (x : Thread) : ThreadsOnly s (setTh s c t x) c := ⟨rfl, _, coreOf_setCore _ _ _⟩

theorem threadsOnly_giveFlags (s : State) (c : Nat) (e : MxEnd) : ThreadsOnly s (giveFlags s c e) c := by
  unfold giveFlags
  split
  · exact threadsOnly_rfl s c
  · exact threadsOnly_setTh s c _ _

theorem threadsOnly_giveAllFlags (c : Nat) (l : List MxEnd) : ∀ s, ThreadsOnly s (l.foldl (fun s e => giveFlags s c e) s) c := by
  induction l with
  | nil => exact fun s => threadsOnly_rfl s c
  | cons e l ih => exact fun s => threadsOnly_trans (threadsOnly_giveFlags s c e) (ih _)

/-- R52: the flags that passes without a drain give change the list of passes under way, and threads. -/
theorem mxFlush_spec (s : State) (c : Nat) : SameMemory s (mxFlush s c) ∧
    ∃ l th, coreOf (mxFlush s c) c = { coreOf s c with mx := { (coreOf s c).mx with ends := l }, th := th } := by
  unfold mxFlush
  dsimp only
  split
  · obtain ⟨hs, th, hc⟩ := threadsOnly_giveAllFlags c
      ((coreOf s c).mx.ends.filter fun e => !e.drains && passDone (coreOf s c).mx e)
      (setMx s c { (coreOf s c).mx with
        ends := (coreOf s c).mx.ends.filter fun e => !(!e.drains && passDone (coreOf s c).mx e) })
    rw [coreOf_setMx] at hc
    exact ⟨by rw [hs]; exact ⟨rfl, rfl⟩, _, th, hc⟩
  · exact ⟨sameMemory_rfl s, _, _, rfl⟩

/-- The matrix unit after an event of its pass. -/
theorem putPass_spec (s : State) (c : Nat) (m : Matrix) (p : MxPass) (clk : Nat) : SameMemory s (putPass s c m p clk) ∧
    ∃ l, (coreOf (putPass s c m p clk) c).mx = { endPass m p with ends := l } := by
  unfold putPass
  dsimp only
  generalize hs : setCore s c { coreOf s c with clk := max (coreOf s c).clk clk, mx := endPass m p } = s1
  obtain ⟨hm, l, th, hc⟩ := mxFlush_spec s1 c
  refine ⟨sameMemory_trans (b := s1) (by rw [← hs]; exact sameMemory_rfl s) (sameMemory_trans hm (sameMemory_wake _ c)), l, ?_⟩
  rw [wake_mx, hc, ← hs, coreOf_setCore]

/-- R192: a pass without a route list that has a row to issue goes on. -/
theorem endPass_of_row_left (m : Matrix) (p : MxPass) (hr : cRoute p.cfg = false) (hn : p.next < p.rows) :
    endPass m p = { m with pass := some p } := by
  have h : decide (p.rows ≤ p.next) = false := decide_eq_false (Nat.not_le.2 hn)
  simp [endPass, hr, h]

end Sys2Proof.Machine
end

section
/-!
SUPPORT. The pass of a matrix unit (O28): the slots of a row up to its end or to a boundary, a row of a pass without skip or route list,
and a check of the zero map.
-/

namespace Sys2Proof.Machine

theorem sameMemory_unitDecode (s : State) (c t va n : Nat) : SameMemory s (unitDecode s c t va n) := by
  unfold unitDecode
  generalize pieces va n = l
  induction l generalizing s with
  | nil => exact sameMemory_rfl s
  | cons p l ih =>
    rw [List.foldl_cons]
    refine sameMemory_trans ?_ (ih _)
    split
    · split
      · exact sameMemory_rfl s
      · exact ⟨decodeRead_mem s _ _, decodeRead_poison s _ _⟩
    · exact sameMemory_rfl s

theorem sameMemory_rowDecode (s : State) (c : Nat) (m : Matrix) (p : MxPass) (n : Nat) : SameMemory s (rowDecode s c m p n) := by
  unfold rowDecode
  dsimp only
  split
  · exact sameMemory_trans (sameMemory_unitDecode s c _ _ _) (sameMemory_unitDecode _ c _ _ _)
  · exact sameMemory_unitDecode s c _ _ _

/-- R193, R204: only the next slot of a pass depends on when its entry was drained. -/
theorem afterDrain_eq (m : Matrix) (p : MxPass) (e : Nat) : ∃ n, afterDrain m p e = { p with slot := n } := by
  unfold afterDrain
  split
  · exact ⟨_, rfl⟩
  · exact ⟨p.slot, rfl⟩

/-- R193, R204: the clock of an entry's latest drain moves a pass's next slot alike, whatever row it stands at. -/
theorem afterDrain_slot (m m' : Matrix) (p : MxPass) (e n : Nat) (h : m'.drainedAt = m.drainedAt) :
    (afterDrain m' { p with next := n } e).slot = (afterDrain m p e).slot := by
  unfold afterDrain
  rw [h]
  split <;> rfl

/-- R200: every row takes a slot. -/
theorem rowSlots_pos (r : MxRow) : 0 < rowSlots r := by
  have hq : 0 < classQ (cClass r.cfg) := by cases cClass r.cfg <;> decide
  unfold rowSlots
  split <;> omega

/-- R192, R196: the end of a row that is no row of a skipped block. -/
theorem finishRow_spec (m : Matrix) (p : MxPass) (q : MxPart) (hb : q.row.blk = none) (ha : q.after = 0) (hl : 0 < q.left)
    (hr : m.rows = []) :
    (finishRow m p q).1.rows = [{ q.row with last := p.slot + q.left - 1, final := p.slot + q.left - 1 + 72 }] ∧
      (finishRow m p q).2 = { p with
        slot := p.slot + q.left, slots := p.slots + q.left, lastSlot := p.slot + q.left - 1, part := none } := by
  have hs : max (p.slot + q.left - 1 + 1) 0 = p.slot + q.left := by omega
  unfold finishRow
  simp only [hb, ha, hr, hs, Bool.false_eq_true, if_false, List.nil_append, and_self]

/-- R192, R215: a row that ends before the pass's next boundary. -/
theorem issueSlots_ends (m : Matrix) (p : MxPass) (q : MxPart) (hb : q.row.blk = none) (ha : q.after = 0) (hl : 0 < q.left)
    (hr : m.rows = []) (hroom : q.left ≤ 64 - p.slots % 64) :
    (issueSlots m p q).1.rows = [{ q.row with last := p.slot + q.left - 1, final := p.slot + q.left - 1 + 72 }] ∧
      (issueSlots m p q).2 = { p with
        slot := p.slot + q.left, slots := p.slots + q.left, lastSlot := p.slot + q.left - 1, part := none } := by
  unfold issueSlots
  simp only [hroom, decide_true, if_true]
  exact finishRow_spec (countSlots m p.slot q.left) p q hb ha hl hr

/-- R192, R215: a row that the pass's next boundary divides. -/
theorem issueSlots_divided (m : Matrix) (p : MxPass) (q : MxPart) (hroom : 64 - p.slots % 64 < q.left) :
    (issueSlots m p q).1.rows = m.rows ∧ (issueSlots m p q).2 = { p with
      slot := p.slot + (64 - p.slots % 64), slots := p.slots + (64 - p.slots % 64),
      lastSlot := p.slot + (64 - p.slots % 64) - 1, part := some { q with left := q.left - (64 - p.slots % 64) } } := by
  have hnot : decide (q.left ≤ 64 - p.slots % 64) = false := decide_eq_false (Nat.not_le.2 hroom)
  unfold issueSlots
  dsimp only
  rw [hnot]
  exact ⟨rfl, rfl⟩

/-- R192: row n of a pass as it begins at the pass's next slot, with entry offset d. -/
def freshRow (m : Matrix) (p : MxPass) (n d : Nat) (vals : List FVal) : MxRow where
  id := p.id
  t := p.t
  m := n
  e := passEntry p d
  d := d
  first := p.slot
  last := p.slot
  final := p.slot
  vals := vals
  bank0 := p.bank0
  cfg := p.cfg
  blk := none
  replay := rowReplays m p.cfg vals p.bank0 p.slot
  judged := false

theorem issueRow_eq (m : Matrix) (p : MxPass) (n d : Nat) (vals : List FVal) (drain : Bool) : issueRow m p n d vals none drain =
    issueSlots m p { row := freshRow m p n d vals, left := rowSlots (freshRow m p n d vals), drain := drain, after := 0 } := rfl

/-- R192, R215: row r of a pass p has begun, with `left` of its slots behind the pass's next boundary: the pass after it, and the rows
on their way. -/
def RowBegun (p p' : MxPass) (r : MxRow) (rows : List MxRow) (left : Nat) : Prop :=
  p' = { p with slot := p'.slot, slots := p'.slots, lastSlot := p'.lastSlot, part := p'.part } ∧
    p'.slots + left = p.slots + rowSlots r ∧ p'.slot + left = p.slot + rowSlots r ∧
    (left = 0 → rows = [r] ∧ p'.part = none ∧ p'.slot = r.last + 1) ∧
    (0 < left → rows = [] ∧ p'.slots % 64 = 0 ∧ ∃ q, p'.part = some q ∧ q.row = r ∧ q.left = left)

/-- R192, R215: a row issued at the next slot of a pass, in a unit with no row on its way. -/
theorem issueRow_spec (m : Matrix) (p : MxPass) (n d : Nat) (vals : List FVal) (drain : Bool) (hr : m.rows = []) :
    ∃ r left, RowBegun p (issueRow m p n d vals none drain).2 r (issueRow m p n d vals none drain).1.rows left ∧
      r.m = n ∧ r.e = passEntry p d ∧ r.first = p.slot := by
  rw [issueRow_eq]
  have hpos := rowSlots_pos (freshRow m p n d vals)
  by_cases hroom : rowSlots (freshRow m p n d vals) ≤ 64 - p.slots % 64
  · obtain ⟨hrows, hp⟩ := issueSlots_ends m p
      { row := freshRow m p n d vals, left := rowSlots (freshRow m p n d vals), drain := drain, after := 0 } rfl rfl hpos hr hroom
    refine ⟨_, 0, ⟨?_, ?_, ?_, fun _ => ⟨hrows, ?_, ?_⟩, fun h => absurd h (Nat.lt_irrefl 0)⟩, rfl, rfl, rfl⟩
    all_goals rw [hp]
    · rfl
    · rfl
    · dsimp only
      omega
  · obtain ⟨hrows, hp⟩ := issueSlots_divided m p
      { row := freshRow m p n d vals, left := rowSlots (freshRow m p n d vals), drain := drain, after := 0 } (Nat.not_le.1 hroom)
    refine ⟨freshRow m p n d vals, rowSlots (freshRow m p n d vals) - (64 - p.slots % 64), ⟨?_, ?_, ?_, fun h => absurd h (by omega),
      fun _ => ⟨hrows.trans hr, ?_, ?_⟩⟩, rfl, rfl, rfl⟩
    all_goals rw [hp]
    · dsimp only
      omega
    · dsimp only
      omega
    · dsimp only
      omega
    · exact ⟨_, rfl, rfl, rfl⟩

/-- R192, R207: a pass without skip or route list issues its next row, in order, where its entry has no drain pending and its bytes are
not poisoned. -/
theorem issueNext_plain (s : State) (c : Nat) (m : Matrix) (p : MxPass) (hfix : p.fix = []) (hn : p.next < p.rows)
    (hskip : cSkip p.cfg = false) (hd : drainPending m (passEntry p p.next) = false) (hp : rowPoison s c m p p.next = false) :
    ∃ vals s1 clk, SameMemory s s1 ∧ issueNext s c m p =
      putPass s1 c (issueRow m (afterDrain m { p with next := p.next + 1 } (passEntry p p.next)) p.next p.next vals none p.drains).1
        (issueRow m (afterDrain m { p with next := p.next + 1 } (passEntry p p.next)) p.next p.next vals none p.drains).2 clk := by
  have hdone : decide (p.rows ≤ p.next) = false := decide_eq_false (Nat.not_le.2 hn)
  have hd' : drainPending m (passEntry { p with next := p.next + 1 } p.next) = false := hd
  have hp' : rowPoison s c m { p with next := p.next + 1 } p.next = false := hp
  unfold issueNext
  dsimp only
  split
  · rename_i h
    exact absurd (hfix.symm.trans h) (List.cons_ne_nil _ _).symm
  · simp only [hdone, hskip, Bool.false_and, Bool.false_eq_true, if_false, hd', hp', markPoison]
    exact ⟨_, _, _, sameMemory_rowDecode s c m p p.next, rfl⟩

/-- R27, R192: a whole row of a pass p that does not stop; p1 is the pass after `held` idle clocks. -/
theorem exec_matrixRowIssue_whole (c : BitVec 8) (held : BitVec 32) (j : BitVec 12) (s : State) (p p1 : MxPass)
    (hpass : (coreOf s c.toNat).mx.pass = some p) (hs : p.susp = false) (hstop : stopDue s c.toNat p.t = false) (hpart : p.part = none)
    (hp1 : p1 = { p with slot := p.slot + held.toNat }) :
    exec (.matrixRowIssue c held j) s =
      let s1 := catchUpTo s c.toNat p1.slot
      let m := landRows (coreOf s1 c.toNat).mx p1.slot
      if slotWithheld s c.toNat p1 then .next s
      else .next (if cRoute p1.cfg then issueRoute s1 c.toNat m p1 j.toNat else issueNext s1 c.toNat m p1) := by
  have hif : (if p.part.isSome then p else { p with slot := p.slot + held.toNat }) = p1 := by
    rw [hp1, if_neg (by simp [hpart])]
  have hn : p1.part = none := by rw [hp1]; exact hpart
  show execMatrixRowIssue c held j s = _
  unfold execMatrixRowIssue
  rw [hpass]
  dsimp only
  rw [hif]
  simp only [hs, hstop, hn, Option.isNone_none, Bool.true_and, Bool.false_and, Bool.false_eq_true, if_false]

/-- R27: a slot that the power manager withholds issues no row. -/
theorem rowIssue_withheld (c : BitVec 8) (held : BitVec 32) (j : BitVec 12) (s : State) (p : MxPass)
    (hpass : (coreOf s c.toNat).mx.pass = some p) (hs : p.susp = false) (hpart : p.part = none) (hstop : stopDue s c.toNat p.t = false)
    (hw : slotWithheld s c.toNat { p with slot := p.slot + held.toNat } = true) : exec (.matrixRowIssue c held j) s = .next s :=
  (exec_matrixRowIssue_whole c held j s p _ hpass hs hstop hpart rfl).trans (if_pos hw)

/-- R215: the rest of a row that a boundary divided, of a pass that does not stop. -/
theorem exec_matrixRowIssue_part (c : BitVec 8) (held : BitVec 32) (j : BitVec 12) (s : State) (p : MxPass) (q : MxPart)
    (hpass : (coreOf s c.toNat).mx.pass = some p) (hs : p.susp = false) (hstop : stopDue s c.toNat p.t = false)
    (hpart : p.part = some q) :
    exec (.matrixRowIssue c held j) s =
      let s1 := catchUpTo s c.toNat p.slot
      let m := landRows (coreOf s1 c.toNat).mx p.slot
      .next (putPass s1 c.toNat (issueSlots m p q).1 (issueSlots m p q).2 p.slot) := by
  show execMatrixRowIssue c held j s = _
  have hif : (if p.part.isSome then p else { p with slot := p.slot + held.toNat }) = p := if_pos (by simp [hpart])
  unfold execMatrixRowIssue
  rw [hpass]
  dsimp only
  rw [hif]
  simp only [hs, hstop, hpart, Option.isNone_some, Bool.false_and, Bool.false_eq_true, if_false]

/-- The parts of the matrix unit that no load changes. -/
theorem unitsMoved_mx {k k' : Core} (h : UnitsMoved k k') : k'.mx.rows = k.mx.rows ∧ k'.mx.pass = k.mx.pass ∧
    k'.mx.drains = k.mx.drains ∧ k'.mx.drainedAt = k.mx.drainedAt ∧ k'.mx.cfg = k.mx.cfg ∧ k'.mx.acc = k.mx.acc ∧
    k'.mx.ident = k.mx.ident := by
  rw [h]
  exact ⟨rfl, rfl, rfl, rfl, rfl, rfl, rfl⟩

/-- R193, R208: whether an entry has a drain pending is told by the drains and the pass. -/
theorem drainPending_congr {m m' : Matrix} (hd : m'.drains = m.drains) (hp : m'.pass = m.pass) (e : Nat) :
    drainPending m' e = drainPending m e := by
  unfold drainPending
  rw [hd, hp]

/-- R193, R215: a pass that has a row left after an event goes on, with the rows on their way. -/
theorem putPass_of_row_left (s : State) (c : Nat) (m : Matrix) (p : MxPass) (clk : Nat) (hr : cRoute p.cfg = false)
    (hn : p.next < p.rows) :
    (coreOf (putPass s c m p clk) c).mx.pass = some p ∧ (coreOf (putPass s c m p clk) c).mx.rows = m.rows := by
  obtain ⟨_, l, hmx⟩ := putPass_spec s c m p clk
  rw [hmx, endPass_of_row_left m p hr hn]
  exact ⟨rfl, rfl⟩

/-- R192, R193, R215: the next row of a pass without skip or route list. -/
theorem rowIssue_next (c : BitVec 8) (held : BitVec 32) (j : BitVec 12) (s : State) (p : MxPass)
    (hpass : (coreOf s c.toNat).mx.pass = some p) (hs : p.susp = false) (hpart : p.part = none) (hroute : cRoute p.cfg = false)
    (hskip : cSkip p.cfg = false) (hfix : p.fix = []) (hn : p.next + 1 < p.rows) (hrows : (coreOf s c.toNat).mx.rows = [])
    (hdrain : drainPending (coreOf s c.toNat).mx (passEntry p p.next) = false) (hstop : stopDue s c.toNat p.t = false)
    (hw : slotWithheld s c.toNat { p with slot := p.slot + held.toNat } = false)
    (hp : rowPoison (catchUpTo s c.toNat (p.slot + held.toNat)) c.toNat
      (coreOf (catchUpTo s c.toNat (p.slot + held.toNat)) c.toNat).mx p p.next = false) :
    ∃ s' r p1 p' left, exec (.matrixRowIssue c held j) s = .next s' ∧ (coreOf s' c.toNat).mx.pass = some p' ∧
      SameMemory (catchUpTo s c.toNat (p.slot + held.toNat)) s' ∧ RowBegun p1 p' r (coreOf s' c.toNat).mx.rows left ∧
      r.m = p.next ∧ r.e = passEntry p p.next ∧ r.first = p1.slot ∧
      p1 = { p with
        next := p.next + 1
        slot := (afterDrain (coreOf s c.toNat).mx { p with slot := p.slot + held.toNat } (passEntry p p.next)).slot } := by
  have hmoved := unitsMoved_catchUpTo s c.toNat (p.slot + held.toNat)
  have hexec := exec_matrixRowIssue_whole c held j s p _ hpass hs hstop hpart rfl
  dsimp only at hexec
  rw [hw, hroute] at hexec
  simp only [Bool.false_eq_true, if_false] at hexec
  generalize catchUpTo s c.toNat (p.slot + held.toNat) = s1 at hmoved hp hexec
  obtain ⟨mrows, mpass, mdrains, mdrained, -, -, -⟩ := unitsMoved_mx hmoved
  generalize (coreOf s1 c.toNat).mx = m at mrows mpass mdrains mdrained hp hexec
  rw [landRows_of_no_rows m _ (mrows.trans hrows)] at hexec
  obtain ⟨vals, s2, clk, hsame, hissue⟩ := issueNext_plain s1 c.toNat m { p with slot := p.slot + held.toNat } hfix
    (Nat.lt_of_succ_lt hn) hskip ((drainPending_congr mdrains mpass _).trans hdrain) hp
  obtain ⟨n, hafter⟩ := afterDrain_eq m { p with slot := p.slot + held.toNat, next := p.next + 1 } (passEntry p p.next)
  have hslot : n = (afterDrain (coreOf s c.toNat).mx { p with slot := p.slot + held.toNat } (passEntry p p.next)).slot := by
    rw [← afterDrain_slot _ m _ _ (p.next + 1) mdrained, hafter]
  obtain ⟨r, left, hbegun, hm', he, hfirst⟩ := issueRow_spec m { p with slot := n, next := p.next + 1 } p.next p.next vals p.drains
    (mrows.trans hrows)
  have hissue' : exec (.matrixRowIssue c held j) s = .next (putPass s2 c.toNat
      (issueRow m { p with slot := n, next := p.next + 1 } p.next p.next vals none p.drains).1
      (issueRow m { p with slot := n, next := p.next + 1 } p.next p.next vals none p.drains).2 clk) := by
    rw [hexec, hissue, ← hafter]
    rfl
  generalize issueRow m { p with slot := n, next := p.next + 1 } p.next p.next vals none p.drains = i at hbegun hissue'
  have hr' : cRoute i.2.cfg = false := by rw [hbegun.1]; exact hroute
  have hn' : i.2.next < i.2.rows := by rw [hbegun.1]; exact hn
  obtain ⟨gpass, grows⟩ := putPass_of_row_left s2 c.toNat i.1 i.2 clk hr' hn'
  refine ⟨_, r, _, i.2, left, hissue', gpass, sameMemory_trans hsame (putPass_spec s2 c.toNat i.1 i.2 clk).1, grows ▸ hbegun, hm', he,
    hfirst, by rw [hslot]⟩

/-- R215: the rest of a row that a boundary divided. -/
theorem rowIssue_rest (c : BitVec 8) (held : BitVec 32) (j : BitVec 12) (s : State) (p : MxPass) (q : MxPart)
    (hpass : (coreOf s c.toNat).mx.pass = some p) (hs : p.susp = false) (hpart : p.part = some q) (hn : p.next < p.rows)
    (hroute : cRoute p.cfg = false) (hroom : q.left ≤ 64 - p.slots % 64) (ha : q.after = 0) (hb : q.row.blk = none) (hl : 0 < q.left)
    (hrows : (coreOf s c.toNat).mx.rows = []) (hstop : stopDue s c.toNat p.t = false) :
    ∃ s', exec (.matrixRowIssue c held j) s = .next s' ∧ (coreOf s' c.toNat).mx.pass = some { p with
        slot := p.slot + q.left, slots := p.slots + q.left, lastSlot := p.slot + q.left - 1, part := none } ∧
      SameMemory (catchUpTo s c.toNat p.slot) s' ∧
      (coreOf s' c.toNat).mx.rows = [{ q.row with last := p.slot + q.left - 1, final := p.slot + q.left - 1 + 72 }] := by
  have hexec := exec_matrixRowIssue_part c held j s p q hpass hs hstop hpart
  dsimp only at hexec
  obtain ⟨mrows, -⟩ := unitsMoved_mx (unitsMoved_catchUpTo s c.toNat p.slot)
  generalize catchUpTo s c.toNat p.slot = s1 at mrows hexec
  rw [hrows] at mrows
  rw [landRows_of_no_rows _ _ mrows] at hexec
  obtain ⟨hrow, hp⟩ := issueSlots_ends (coreOf s1 c.toNat).mx p q hb ha hl mrows hroom
  rw [hp] at hexec
  obtain ⟨gpass, grows⟩ := putPass_of_row_left s1 c.toNat (issueSlots (coreOf s1 c.toNat).mx p q).1 { p with
    slot := p.slot + q.left, slots := p.slots + q.left, lastSlot := p.slot + q.left - 1, part := none } p.slot hroute hn
  exact ⟨_, hexec, gpass, (putPass_spec _ _ _ _ _).1, grows.trans hrow⟩

/-- R208: what a check that resolves leaves of its pass. -/
def ChkResolved (p p' : MxPass) (ch : MxChk) : Prop :=
  p'.chks = p.chks.erase ch ∧
    p'.fix = p.fix ++ (if ch.predZero && !ch.bit then
      ((List.range 16).map fun i => 16 * ch.blk + i).filter fun n => decide (n < p.rows) else []) ∧
    p'.dropped = (if !ch.predZero && ch.bit then ch.blk :: p.dropped else p.dropped) ∧
    p'.cfg = p.cfg ∧ p'.next = p.next ∧ p'.rows = p.rows

/-- R208: the oldest check that can resolve: of a block predicted zero whose map bit is 0 the rows are issued after all, and of a block
predicted otherwise whose map bit is 1 they are dropped. -/
theorem exec_skipCheck (c : BitVec 8) (s : State) (p : MxPass) (ch : MxChk) (more : List MxChk)
    (hpass : (coreOf s c.toNat).mx.pass = some p) (hch : resolvable p = ch :: more) :
    ∃ m p', exec (.skipCheck c) s = .next (putPass s c.toNat m p' ch.clk) ∧ ChkResolved p p' ch := by
  show ∃ m p', execSkipCheck c s = .next _ ∧ _
  unfold execSkipCheck ChkResolved
  dsimp only
  rw [hpass]
  dsimp only
  rw [hch]
  dsimp only
  cases ch.predZero <;> cases ch.bit
  case false.false => exact ⟨_, _, rfl, rfl, (List.append_nil _).symm, rfl, rfl, rfl, rfl⟩
  case false.true => exact ⟨_, _, rfl, rfl, (List.append_nil _).symm, rfl, rfl, rfl, rfl⟩
  case true.false => exact ⟨_, _, rfl, rfl, rfl, rfl, rfl, rfl, rfl⟩
  case true.true => exact ⟨_, _, rfl, rfl, (List.append_nil _).symm, rfl, rfl, rfl, rfl⟩

/-- R208: a pass with a row left goes on when a check of its resolves. -/
theorem skipCheck_spec (c : BitVec 8) (s : State) (p : MxPass) (ch : MxChk) (more : List MxChk)
    (hpass : (coreOf s c.toNat).mx.pass = some p) (hch : resolvable p = ch :: more) (hn : p.next < p.rows)
    (hroute : cRoute p.cfg = false) :
    ∃ s' p', exec (.skipCheck c) s = .next s' ∧ (coreOf s' c.toNat).mx.pass = some p' ∧ SameMemory s s' ∧ ChkResolved p p' ch := by
  obtain ⟨m, p', hexec, hres⟩ := exec_skipCheck c s p ch more hpass hch
  have ⟨_, _, _, hcfg, hnext, hrows⟩ := hres
  exact ⟨_, p', hexec, (putPass_of_row_left s c.toNat m p' ch.clk (by rw [hcfg]; exact hroute) (by rw [hnext, hrows]; exact hn)).1,
    (putPass_spec s c.toNat m p' ch.clk).1, hres⟩

end Sys2Proof.Machine
end

section
/-!
SUPPORT. The other events of the matrix unit (O28): the end of a load and its last group, the predictor, the signal of a drained pass,
a stopped pass and the clear for a new owner.
-/

namespace Sys2Proof.Machine

/-- R131, R218: the load of a unit whose loader has read its last bytes, none of them poisoned, is over. -/
theorem exec_mloadLoadEnd (c : BitVec 8) (s s1 : State) (b : Bool) (hload : (coreOf s c.toNat).mx.loading = some b)
    (hs1 : catchUpTo s c.toNat (max (coreOf s c.toNat).clk (coreOf s c.toNat).mx.loadEnd + 1) = s1)
    (hsrc : (coreOf s1 c.toNat).mx.loadSrc = []) (hp : (coreOf s1 c.toNat).mx.loadPoison = false) :
    ∃ s', exec (.mloadLoadEnd c) s = .next s' ∧ (coreOf s' c.toNat).mx = { (coreOf s1 c.toNat).mx with loading := none } ∧
      (coreOf s' c.toNat).clk = max (coreOf s c.toNat).clk (coreOf s c.toNat).mx.loadEnd ∧ SameMemory s1 s' := by
  refine ⟨wake (setCore s1 c.toNat { coreOf s1 c.toNat with
    clk := max (coreOf s c.toNat).clk (coreOf s c.toNat).mx.loadEnd
    mx := { (coreOf s1 c.toNat).mx with loading := none, loadPoison := false } }) c.toNat, ?_, ?_, ?_, sameMemory_rfl s1⟩
  · show execMloadLoadEnd c s = _
    unfold execMloadLoadEnd
    rw [hload]
    dsimp only
    rw [hs1, hsrc, hp]
    rfl
  · rw [wake_mx, coreOf_setCore, ← hp]
  · rw [wake_clk, coreOf_setCore]

/-- R131: pieces of at most n bytes in all, none of them empty, are all taken. -/
theorem takeSrc_all (l : List (Nat × Nat)) : ∀ n, (∀ e ∈ l, 0 < e.2) → (l.map (·.2)).sum ≤ n → takeSrc n l = (l, []) := by
  induction l with
  | nil => exact fun _ _ _ => by simp [takeSrc]
  | cons e l ih =>
    intro n hpos hsum
    obtain ⟨a, k⟩ := e
    have hk : 0 < k := hpos (a, k) (List.mem_cons_self ..)
    have hs : k + (l.map (·.2)).sum ≤ n := by simpa using hsum
    rw [takeSrc, if_neg (by omega), if_pos (by omega), ih (n - k) (fun e he => hpos e (List.mem_cons_of_mem _ he)) (by omega)]

/-- Decoding words does not change which bytes read as zero for poison. -/
theorem loadZeroPoison_of_memOnly {s s' : State} (h : MemOnly s s') (hm : s'.mem = s.mem) (hp : s'.poison = s.poison) (a n : Nat) :
    loadZeroPoison s' a n = loadZeroPoison s a n := by
  have hpart : s'.part = s.part := by rw [h]
  unfold loadZeroPoison loadBytes isPoisoned
  rw [hm, hp, hpart]

/-- R131, R194: the last group of a load, none of whose bytes is poisoned, written into the bank being loaded. -/
theorem loadGroup_last (s : State) (c clk : Nat) (b : Bool) (hload : (coreOf s c).mx.loading = some b)
    (hsrc : ∀ e ∈ (coreOf s c).mx.loadSrc, 0 < e.2 ∧ anyPoison s e.1 e.2 = false)
    (hsum : ((coreOf s c).mx.loadSrc.map (·.2)).sum ≤ 512) :
    SameMemory s (loadGroup s c clk) ∧ coreOf (loadGroup s c clk) c =
      let m := (coreOf s c).mx
      let nb := bankWrite (bankOf m b) (leNat (m.loadSrc.map fun e => loadZeroPoison s e.1 e.2).flatten) (nextLoad m)
      { coreOf s c with mx := if b then { m with loadSrc := [], bankB := nb } else { m with loadSrc := [], bankA := nb } } := by
  have htake := takeSrc_all (coreOf s c).mx.loadSrc 512 (fun e he => (hsrc e he).1) hsum
  have hbad : ((coreOf s c).mx.loadSrc.any fun e => anyPoison s e.1 e.2) = false := by
    rw [List.any_eq_false]
    exact fun e he => by simp [(hsrc e he).2]
  obtain ⟨hmem, hpoison⟩ := decodePieces_kept (coreOf s c).mx.loadSrc s
  have honly := memOnly_foldl _ (fun s (e : Nat × Nat) => memOnly_decodeRead s e.1 e.2) (coreOf s c).mx.loadSrc s
  unfold loadGroup
  dsimp only
  rw [hload]
  dsimp only
  rw [htake]
  dsimp only
  rw [hbad]
  generalize (coreOf s c).mx.loadSrc.foldl (fun s e => decodeRead s e.1 e.2) s = s1 at hmem hpoison honly
  simp only [Bool.false_and, Bool.false_eq_true, if_false, Bool.or_false, loadZeroPoison_of_memOnly honly hmem hpoison, coreOf_setMx,
    coreOf_of_memOnly honly]
  refine ⟨⟨hmem, hpoison⟩, ?_⟩
  cases b <;> rfl

/-- R131: 512 bytes or fewer are read in the load's last clock. -/
theorem nextLoad_last (m : Matrix) (h0 : 0 < (m.loadSrc.map (·.2)).sum) (h512 : (m.loadSrc.map (·.2)).sum ≤ 512) :
    nextLoad m = m.loadEnd := by
  unfold nextLoad loadLeft
  omega

/-- R131, R134: a loader with one group to read, and no stream pass under way, has only that group to catch up on. -/
theorem catchUpTo_last_group (s : State) (c clk : Nat) (b : Bool) (hload : (coreOf s c).mx.loading = some b)
    (hsrc : ∀ e ∈ (coreOf s c).mx.loadSrc, 0 < e.2 ∧ anyPoison s e.1 e.2 = false)
    (h0 : 0 < ((coreOf s c).mx.loadSrc.map (·.2)).sum) (h512 : ((coreOf s c).mx.loadSrc.map (·.2)).sum ≤ 512)
    (hr : (coreOf s c).se.run = none) (he : (coreOf s c).se.ending = []) (hclk : (coreOf s c).mx.loadEnd < clk) :
    catchUpTo s c clk = loadGroup s c clk := by
  have hne : (coreOf s c).mx.loadSrc.isEmpty = false := by
    cases h : (coreOf s c).mx.loadSrc with
    | nil => simp [h] at h0
    | cons e l => rfl
  obtain ⟨_, hcore⟩ := loadGroup_last s c clk b hload hsrc h512
  unfold catchUpTo catchUpFrom
  dsimp only
  rw [hne, nextLoad_last _ h0 h512, decide_eq_true hclk, streamWrites_idle s c _ hr he]
  refine catchUpFrom_idle c clk 127 (loadGroup s c clk) ?_ ?_ ?_
  · rw [hcore]
    cases b <;> rfl
  · rw [hcore]
    exact hr
  · rw [hcore]
    exact he

/-- R131, R194: the end of a load whose last group is still to be read. -/
theorem mloadLoadEnd_last_group (c : BitVec 8) (s : State) (b : Bool) (l : BankLoad) (more : List BankLoad)
    (hload : (coreOf s c.toNat).mx.loading = some b) (hp : (coreOf s c.toNat).mx.loadPoison = false)
    (hsrc : ∀ e ∈ (coreOf s c.toNat).mx.loadSrc, 0 < e.2 ∧ anyPoison s e.1 e.2 = false)
    (h0 : 0 < ((coreOf s c.toNat).mx.loadSrc.map (·.2)).sum) (h512 : ((coreOf s c.toNat).mx.loadSrc.map (·.2)).sum ≤ 512)
    (hl : (bankOf (coreOf s c.toNat).mx b).loads = l :: more)
    (hr : (coreOf s c.toNat).se.run = none) (he : (coreOf s c.toNat).se.ending = []) :
    ∃ s', exec (.mloadLoadEnd c) s = .next s' ∧ (coreOf s' c.toNat).mx.loading = none ∧ SameMemory s s' ∧
      (bankOf (coreOf s' c.toNat).mx b).loads = { l with
        clks := l.clks ++ [(coreOf s c.toNat).mx.loadEnd]
        data := l.data + leNat ((coreOf s c.toNat).mx.loadSrc.map fun e => loadZeroPoison s e.1 e.2).flatten *
          2 ^ (4096 * l.clks.length) } :: more ∧
      bankOf (coreOf s' c.toNat).mx (!b) = bankOf (coreOf s c.toNat).mx (!b) := by
  have hlast := catchUpTo_last_group s c.toNat (max (coreOf s c.toNat).clk (coreOf s c.toNat).mx.loadEnd + 1) b hload hsrc h0 h512 hr he
    (Nat.lt_succ_of_le (Nat.le_max_right ..))
  obtain ⟨hsame, hcore⟩ := loadGroup_last s c.toNat (max (coreOf s c.toNat).clk (coreOf s c.toNat).mx.loadEnd + 1) b hload hsrc h512
  generalize loadGroup s c.toNat _ = s1 at hlast hsame hcore
  obtain ⟨s', hexec, hmx, -, hmem⟩ := exec_mloadLoadEnd c s s1 b hload hlast (by rw [hcore]; cases b <;> rfl)
    (by rw [hcore]; cases b <;> exact hp)
  refine ⟨s', hexec, by rw [hmx], sameMemory_trans hsame hmem, ?_, ?_⟩
  · rw [hmx, hcore]
    rw [← nextLoad_last _ h0 h512]
    cases b <;> simp [bankOf, bankWrite] at hl ⊢ <;> simp [hl]
  · rw [hmx, hcore]
    cases b <;> rfl

theorem exec_predictorReply_pass (c : BitVec 8) (s : State) (p : MxPass) (hpass : (coreOf s c.toNat).mx.pass = some p)
    (hskip : cSkip p.cfg = true) (hpred : p.pred = none) : exec (.predictorReply c) s =
      let r := predict s c.toNat (thOf s c.toNat p.t).cx.toNat p.cfg.zmap.toNat ((p.rows + 15) / 16)
      .next (setMx r.2 c.toNat { (coreOf s c.toNat).mx with pass := some { p with pred := some r.1 } }) := by
  show execPredictorReply c s = _
  unfold execPredictorReply
  dsimp only
  rw [hpass]
  simp [hskip, hpred]

/-- R265: a prediction makes entries of the predictors recent, and changes nothing else. -/
theorem predict_rest (s : State) (c cx addr blocks : Nat) :
    (predict s c cx addr blocks).2 = { s with memsys := (predict s c cx addr blocks).2.memsys } := by
  unfold predict
  refine List.foldlRecOn (motive := fun st : Nat × State => st.2 = { s with memsys := st.2.memsys }) _ _ rfl fun st h g _ => ?_
  dsimp only
  split
  · exact h
  · dsimp only
    rw [h]

/-- R265: predictors that hold nothing predict nothing. -/
theorem predict_empty (s : State) (c cx addr blocks : Nat) (h0 : s.memsys.pred = []) : (predict s c cx addr blocks).1 = 0 := by
  have h : (predict s c cx addr blocks).1 = 0 ∧ (predict s c cx addr blocks).2.memsys.pred = [] := by
    unfold predict
    refine List.foldlRecOn (motive := fun st : Nat × State => st.1 = 0 ∧ st.2.memsys.pred = []) _ _ ⟨rfl, h0⟩ fun st h g _ => ?_
    dsimp only
    rw [h.2]
    exact h
  exact h.1

/-- R265: the reply for the pass that issues. -/
theorem predictorReply_spec (c : BitVec 8) (s : State) (p : MxPass) (hpass : (coreOf s c.toNat).mx.pass = some p)
    (hskip : cSkip p.cfg = true) (hpred : p.pred = none) : ∃ s' v, exec (.predictorReply c) s = .next s' ∧
      (coreOf s' c.toNat).mx.pass = some { p with pred := some v } ∧ SameMemory s s' ∧ (s.memsys.pred = [] → v = 0) := by
  have hexec := exec_predictorReply_pass c s p hpass hskip hpred
  have hrest := predict_rest s c.toNat (thOf s c.toNat p.t).cx.toNat p.cfg.zmap.toNat ((p.rows + 15) / 16)
  have hempty := predict_empty s c.toNat (thOf s c.toNat p.t).cx.toNat p.cfg.zmap.toNat ((p.rows + 15) / 16)
  dsimp only at hexec
  generalize predict s c.toNat (thOf s c.toNat p.t).cx.toNat p.cfg.zmap.toNat ((p.rows + 15) / 16) = r at hexec hrest hempty
  refine ⟨_, r.1, hexec, by rw [coreOf_setMx], ?_, hempty⟩
  rw [hrest]
  exact ⟨rfl, rfl⟩

/-- R265: what the checks of a finished pass read goes to the predictors, and nowhere else. -/
theorem predictorUpdate_spec (c : BitVec 8) (s : State) (u : Nat × Nat × Nat × Nat) (hupd : (coreOf s c.toNat).mx.upd = some u) :
    ∃ s', exec (.predictorUpdate c) s = .next s' ∧ (coreOf s' c.toNat).mx = { (coreOf s c.toNat).mx with upd := none } ∧
      SameMemory s s' := by
  obtain ⟨t, addr, bits, blocks⟩ := u
  have hexec : ∃ s1 : State, exec (.predictorUpdate c) s = .next (setMx s1 c.toNat { (coreOf s1 c.toNat).mx with upd := none }) ∧
      s1 = { s with memsys := s1.memsys } := by
    show ∃ s1, execPredictorUpdate c s = _ ∧ _
    unfold execPredictorUpdate
    dsimp only
    rw [hupd]
    dsimp only
    refine ⟨_, rfl, ?_⟩
    refine List.foldlRecOn (motive := fun s1 : State => s1 = { s with memsys := s1.memsys }) _ _ rfl fun s1 h g _ => ?_
    dsimp only
    rw [h]
  obtain ⟨s1, he, hs1⟩ := hexec
  refine ⟨_, he, ?_, ?_⟩
  · rw [coreOf_setMx, hs1]
    rfl
  · rw [hs1]
    exact ⟨rfl, rfl⟩

/-- R101, R215: a stopped pass, with its lead. -/
theorem pass_suspendPass (s : State) (c : Nat) (m : Matrix) (p : MxPass) : (coreOf (suspendPass s c m p) c).mx.pass =
    some { p with susp := true, lead := min 0xFF (p.lastSlot - tabGet 0 (coreOf s c).issued p.t) } := by
  rw [suspendPass, coreOf_setMx]

/-- R101, R215: a pass at its boundary whose thread has an exception due stops there. -/
theorem exec_mpassSuspend (c : BitVec 8) (s : State) (p : MxPass) (hpass : (coreOf s c.toNat).mx.pass = some p) (hs : p.susp = false)
    (hb : passBoundary s c.toNat (coreOf s c.toNat).mx p = true) (hstop : stopDue s c.toNat p.t = true) :
    exec (.mpassSuspend c) s = .next (suspendPass s c.toNat (coreOf s c.toNat).mx p) := by
  show execMpassSuspend c s = _
  unfold execMpassSuspend
  dsimp only
  rw [hpass]
  simp [hs, hb, hstop]

/-- A change of the matrix unit alone leaves every thread. -/
theorem thOf_setMx (s : State) (c t : Nat) (m : Matrix) : thOf (setMx s c m) c t = thOf s c t := by
  unfold thOf
  rw [coreOf_setMx]
  rfl

/-- R128, R186: a core whose matrix unit is clear for its new owner from clock `fin` on. -/
def clearedCore (k : Core) (fin : Nat) : Core :=
  { k with
    clk := max k.clk fin
    mx := { k.mx with clearing := false, bankA := {}, bankB := {}, acc := [], ident := {}, cfg := {}, rdptr := 0, kcount := 0,
                      lastEnd := some fin, lastRow := none } }

/-- R128: the clear of a unit with no row on its way ends 64 clocks after the old owner's work or later. -/
theorem exec_matrixWorldClear (c : BitVec 8) (s : State) (hclear : (coreOf s c.toNat).mx.clearing = true)
    (hdone : oldWorkDone (coreOf s c.toNat) = true) (hrows : (coreOf s c.toNat).mx.rows = []) :
    ∃ fin, oldWorkEnd (coreOf s c.toNat).mx + 64 ≤ fin ∧ exec (.matrixWorldClear c) s =
      let s1 := mxFlush (setMx s c.toNat (coreOf s c.toNat).mx) c.toNat
      .next (wake (setCore s1 c.toNat (clearedCore (coreOf s1 c.toNat) fin)) c.toNat) := by
  have hexec : ∃ hand, exec (.matrixWorldClear c) s =
      let s1 := mxFlush (setMx s c.toNat (coreOf s c.toNat).mx) c.toNat
      .next (wake (setCore s1 c.toNat (clearedCore (coreOf s1 c.toNat) (max (oldWorkEnd (coreOf s c.toNat).mx) hand + 64))) c.toNat) := by
    show ∃ hand, execMatrixWorldClear c s = _
    unfold execMatrixWorldClear
    dsimp only
    rw [hclear, hdone, landRows_of_no_rows _ _ hrows]
    exact ⟨_, rfl⟩
  obtain ⟨hand, hexec⟩ := hexec
  exact ⟨_, Nat.add_le_add_right (Nat.le_max_left _ hand) 64, hexec⟩

/-- R128, R186: the clear of the unit for its new owner. -/
theorem matrixWorldClear_spec (c : BitVec 8) (s : State) (hclear : (coreOf s c.toNat).mx.clearing = true)
    (hdone : oldWorkDone (coreOf s c.toNat) = true) (hrows : (coreOf s c.toNat).mx.rows = []) :
    ∃ s' k fin, exec (.matrixWorldClear c) s = .next s' ∧ oldWorkEnd (coreOf s c.toNat).mx + 64 ≤ fin ∧ SameMemory s s' ∧
      k.clk = (coreOf s c.toNat).clk ∧ (coreOf s' c.toNat).mx = (clearedCore k fin).mx ∧
      (coreOf s' c.toNat).clk = (clearedCore k fin).clk := by
  obtain ⟨fin, hfin, hexec⟩ := exec_matrixWorldClear c s hclear hdone hrows
  obtain ⟨hmem, l, th, hcore⟩ := mxFlush_spec (setMx s c.toNat (coreOf s c.toNat).mx) c.toNat
  refine ⟨_, coreOf (mxFlush (setMx s c.toNat (coreOf s c.toNat).mx) c.toNat) c.toNat, fin, hexec, hfin,
    sameMemory_trans hmem (sameMemory_wake (setCore _ _ _) _), ?_, ?_, ?_⟩
  · rw [hcore, coreOf_setMx]
  · rw [wake_mx, coreOf_setCore]
  · rw [wake_clk, coreOf_setCore]

end Sys2Proof.Machine
end

section
/-!
SUPPORT. Drains of the matrix unit (O28): the signal of a drained pass, and the row that a drain writes.
-/

namespace Sys2Proof.Machine

/-- The matrix unit of core c and the flags that its threads have collected are as before. -/
def FlagsKept (s s' : State) (c : Nat) : Prop :=
  (coreOf s' c).mx = (coreOf s c).mx ∧ ∀ t, (thOf s' c t).nflags = (thOf s c t).nflags

theorem flagsKept_trans {a b d : State} {c : Nat} (h : FlagsKept a b c) (g : FlagsKept b d c) : FlagsKept a d c :=
  ⟨g.1.trans h.1, fun t => (g.2 t).trans (h.2 t)⟩

theorem flagsKept_of_cores {s s' : State} (c : Nat) (h : s'.cores = s.cores) : FlagsKept s s' c := by
  unfold FlagsKept thOf coreOf
  rw [h]
  exact ⟨rfl, fun _ => rfl⟩

theorem flagsKept_setTh (s : State) (c c' t : Nat) (x : Thread) (h : x.nflags = (thOf s c' t).nflags) :
    FlagsKept s (setTh s c' t x) c := by
  by_cases hc : c = c'
  · subst hc
    refine ⟨by simp [setTh], fun t' => ?_⟩
    by_cases ht : t' = t
    · rw [ht, thOf_setTh, h]
    · rw [thOf_setTh_ne _ _ _ _ _ ht]
  · unfold FlagsKept thOf setTh
    rw [coreOf_setCore_ne _ _ _ _ hc]
    exact ⟨rfl, fun _ => rfl⟩

theorem outcome_cores (s : State) (ty : Nat) (key : List Nat) (v : Word) : (outcome s ty key v).2.cores = s.cores := by
  unfold outcome
  split
  · rfl
  · split <;> rfl

theorem emit_cores (s : State) (inn : Option Nat) (op : Nat) (p : Packet) : (emit s inn op p).cores = s.cores := by
  have h : (countMultiRoute s p).cores = s.cores := by
    unfold countMultiRoute
    split <;> rfl
  unfold emit
  dsimp only
  split <;> exact h

/-- R374, R376: a waiter that completes keeps its collected flags. -/
theorem flagsKept_finishWaiter (s : State) (n c : Nat) (w : Waiter) (code : Word) : FlagsKept s (finishWaiter s n w code) c := by
  unfold finishWaiter
  split
  · dsimp only
    split
    · split
      · exact flagsKept_trans (flagsKept_of_cores c (outcome_cores s 1 _ code))
          (flagsKept_setTh _ c _ _ _ (by rw [thOf_of_cores (outcome_cores s 1 _ code)]))
      · exact flagsKept_of_cores c rfl
    · exact flagsKept_of_cores c rfl
  · exact flagsKept_of_cores c (emit_cores _ none _ _)

theorem flagsKept_finishWaiters (n c : Nat) (code : Word) (l : List WaitEnt) :
    ∀ s, FlagsKept s (l.foldl (fun s w => finishWaiter s n w.who code) s) c := by
  induction l with
  | nil => exact fun s => flagsKept_of_cores c rfl
  | cons w l ih => exact fun s => flagsKept_trans (flagsKept_finishWaiter s n c w.who code) (ih _)

/-- R376: a notification reaches no matrix unit. -/
theorem flagsKept_notifySo (s : State) (n c : Nat) : FlagsKept s (notifySo s n) c := by
  refine ⟨?_, fun t => by rw [thOf_notifySo]⟩
  exact tabGet_tabMap_part Core.mx {} s.cores (fun _ k => notifyArms (notifySources k n) n (soOf s n).val) c fun _ _ => rfl

/-- R372, R378: an update of a sync object reaches no matrix unit and no collected flag. -/
theorem flagsKept_soUpdate (s : State) (n c : Nat) (o : SyncObj) : FlagsKept s (soUpdate s n o) c := by
  unfold soUpdate releaseWaiters
  exact flagsKept_trans (flagsKept_trans (b := setSo (setSo s n _) n _) (flagsKept_of_cores c rfl)
    (flagsKept_finishWaiters n c 0#64 _ _)) (flagsKept_notifySo _ n c)

/-- R373: a signal to a counter adds to it. -/
theorem signalSo_counter (s : State) (n : Nat) (v : Word) (h : (soOf s n).ty = 0#2) :
    signalSo s n v = soUpdate s n { soOf s n with val := (soOf s n).val + v } := by
  simp [signalSo, doSignal, soSignal, h]

/-- R52: the flags of a pass that was not abandoned. -/
theorem nflags_giveFlags (s : State) (c : Nat) (e : MxEnd) (hq : e.quiet = false) :
    (thOf (giveFlags s c e) c e.t).nflags = (thOf s c e.t).nflags ||| (e.flags.zeroExtend 20 <<< 8) := by
  unfold giveFlags
  rw [hq]
  dsimp only [Bool.false_eq_true, if_false]
  rw [if_neg Bool.false_ne_true, thOf_setTh]
  rfl

/-- R52, R189, R205: the signal of the one draining pass, whose rows are all drained, at a counter. -/
theorem drainComplete_spec (c : BitVec 8) (s : State) (e : MxEnd) (hends : (coreOf s c.toNat).mx.ends = [e]) (hd : e.drains = true)
    (hdrains : (coreOf s c.toNat).mx.drains = []) (hrows : (coreOf s c.toNat).mx.rows = []) (hpass : (coreOf s c.toNat).mx.pass = none)
    (hq : e.quiet = false) (hty : (soOf s (cDso (coreOf s c.toNat).mx.cfg)).ty = 0#2) :
    ∃ s', exec (.drainComplete c) s = .next s' ∧ (coreOf s' c.toNat).mx.ends = [] ∧ SameMemory s s' ∧
      (soOf s' (cDso (coreOf s c.toNat).mx.cfg)).val = (soOf s (cDso (coreOf s c.toNat).mx.cfg)).val + BitVec.ofNat 64 e.m ∧
      (thOf s' c.toNat e.t).nflags = (thOf s c.toNat e.t).nflags ||| (e.flags.zeroExtend 20 <<< 8) := by
  have hexec : exec (.drainComplete c) s = .next (signalSo
      (giveFlags (setMx s c.toNat { (coreOf s c.toNat).mx with ends := [] }) c.toNat e) (cDso (coreOf s c.toNat).mx.cfg)
      (BitVec.ofNat 64 e.m)) := by
    show execDrainComplete c s = _
    unfold execDrainComplete
    simp [hends, hd, passDone, hdrains, hrows, hpass, hq]
  obtain ⟨hrest, th, hcore⟩ := threadsOnly_giveFlags (setMx s c.toNat { (coreOf s c.toNat).mx with ends := [] }) c.toNat e
  have hflags := nflags_giveFlags (setMx s c.toNat { (coreOf s c.toNat).mx with ends := [] }) c.toNat e hq
  rw [thOf_setMx] at hflags
  rw [coreOf_setMx] at hcore
  generalize giveFlags (setMx s c.toNat { (coreOf s c.toNat).mx with ends := [] }) c.toNat e = s1 at hexec hrest hcore hflags
  have hso : soOf s1 (cDso (coreOf s c.toNat).mx.cfg) = soOf s (cDso (coreOf s c.toNat).mx.cfg) := soOf_of_so (by rw [hrest]; rfl) _
  have hsame : SameMemory s s1 := by rw [hrest]; exact ⟨rfl, rfl⟩
  rw [signalSo_counter s1 _ _ (by rw [hso]; exact hty)] at hexec
  obtain ⟨kmx, kflags⟩ := flagsKept_soUpdate s1 (cDso (coreOf s c.toNat).mx.cfg) c.toNat
    { soOf s1 (cDso (coreOf s c.toNat).mx.cfg) with val := (soOf s1 (cDso (coreOf s c.toNat).mx.cfg)).val + BitVec.ofNat 64 e.m }
  refine ⟨_, hexec, ?_, sameMemory_trans hsame (sameMemory_soUpdate _ _ _), ?_, ?_⟩
  · rw [kmx, hcore]
  · rw [soUpdate_val _ _ _ (by rw [hso, hty]; decide), hso]
  · rw [kflags, hflags]

end Sys2Proof.Machine
end

section
/-!
SUPPORT. The row that a drain writes (O28): one store in the scratchpad, and the entry it leaves.
-/

namespace Sys2Proof.Machine

/-- A run of table entries set to one value. -/
theorem tabGet_setRun {α : Type} (d v : α) (t : Tab α) (b n j : Nat) :
    tabGet d ((List.range n).foldl (fun a i => tabSet a (b + i) v) t) j = if b ≤ j ∧ j < b + n then v else tabGet d t j := by
  induction n with
  | zero => rw [if_neg (by omega)]; rfl
  | succ n ih =>
    rw [List.range_succ, List.foldl_append, List.foldl_cons, List.foldl_nil, tabGet_tabSet, ih]
    by_cases hj : j = b + n
    · rw [if_pos hj, if_pos (by omega)]
    · rw [if_neg hj]
      exact if_congr (by omega) rfl rfl

/-- R193, R204: a drained entry holds the identity in every lane, and the other entries are as before. -/
theorem entryAt_drained (m : Matrix) (d : MxDrain) (rest : List MxDrain) (f : BitVec 4) (i j : Nat) (hj : j < 128) :
    entryAt (drained m d rest f) i j = if i = d.e then opIdent (cOp m.cfg) else entryAt m i j := by
  unfold entryAt drained
  dsimp only
  rw [tabGet_setRun]
  exact if_congr (by omega) rfl rfl

/-- R193, R204: the drains after a drain are those that waited behind it. -/
theorem length_drains_drained (m : Matrix) (d : MxDrain) (rest : List MxDrain) (f : BitVec 4) :
    (drained m d rest f).drains.length = rest.length := by
  unfold drained
  dsimp only
  rw [List.length_map]

/-- R45, R189, R204: what a drain writes is told by the configuration in force and the entries. -/
theorem drainValue_congr {m m' : Matrix} (d : MxDrain) (hc : m'.cfg = m.cfg) (ha : m'.acc = m.acc) (hi : m'.ident = m.ident) :
    drainValue m' d = drainValue m d := by
  unfold drainValue entryAt
  rw [hc, ha, hi]

theorem entryAt_congr {m m' : Matrix} (ha : m'.acc = m.acc) (hi : m'.ident = m.ident) (i j : Nat) : entryAt m' i j = entryAt m i j := by
  unfold entryAt
  rw [ha, hi]

/-- R129: loads and stream writes do not move the effect clock of the queue's head. -/
theorem headEffect_unitsMoved {k k' : Core} (h : UnitsMoved k k') : headEffect k' = headEffect k := by
  rw [h]
  rfl

theorem length_natLe (n : Nat) : ∀ v, (natLe n v).length = n := by
  induction n with
  | zero => exact fun _ => rfl
  | succ n ih => exact fun v => by simp [natLe, ih]

/-- R204: a drained row has the bytes of 128 elements. -/
theorem length_drainValue (m : Matrix) (d : MxDrain) : (drainValue m d).1.length = drainBytes m.cfg := length_natLe _ _

theorem drainBytes_pos (k : MxCfg) : 0 < drainBytes k := by
  unfold drainBytes
  cases (fmtOfCode (cDfmt k)).getD .fp64 <;> decide

/-- R197, R204: a drain that acts before the queue's head: its entry is set to the identity and the row is written. -/
theorem exec_drainRow (c : BitVec 8) (s s1 : State) (d : MxDrain) (rest : List MxDrain) (hd : (coreOf s c.toNat).mx.drains = d :: rest)
    (hrows : (coreOf s c.toNat).mx.rows = []) (hhead : ∀ e, headEffect (coreOf s c.toNat) = some e → d.due < e)
    (hs1 : catchUpTo s c.toNat d.due = s1) :
    exec (.drainRow c) s =
      let m := (coreOf s1 c.toNat).mx
      .next (mxFlush (unitWrite (setCore s1 c.toNat { coreOf s1 c.toNat with
          clk := max (coreOf s1 c.toNat).clk d.due, mx := drained m d rest (engBits (drainValue m d).2) })
        c.toNat d.t (drainAddr m.cfg d.d) (drainValue m d).1) c.toNat) := by
  have hmoved := unitsMoved_catchUpTo s c.toNat d.due
  rw [hs1] at hmoved
  obtain ⟨mrows, -, mdrains, -⟩ := unitsMoved_mx hmoved
  rw [← headEffect_unitsMoved hmoved] at hhead
  show execDrainRow c s = _
  unfold execDrainRow
  rw [hd]
  dsimp only
  rw [hs1, landRows_of_no_rows _ _ (mrows.trans hrows), mdrains, hd]
  dsimp only
  rw [decide_eq_false (Nat.lt_irrefl _)]
  simp only [Bool.false_eq_true, if_false]
  cases h : headEffect (coreOf s1 c.toNat) with
  | none => rfl
  | some e =>
    exact if_neg fun hle => Nat.not_le.2 (hhead e h) (of_decide_eq_true hle)

/-- R295: the segments that translate an address are told by the contexts and the segment buffers, and by no core. -/
theorem segHits_setCore (s : State) (c : Nat) (k : Core) (eng cx va : Nat) : segHits (setCore s c k) eng cx va = segHits s eng cx va := by
  unfold segHits engSeg ctxOf
  rw [setCore_ctxs, setCore_segbuf]

theorem bufHit_setCore (s : State) (c : Nat) (k : Core) (eng cx n : Nat) : bufHit (setCore s c k) eng cx n = bufHit s eng cx n := by
  unfold bufHit
  rw [setCore_segbuf]

theorem isRemote_setCore (s : State) (c : Nat) (k : Core) (pa : Word) : isRemote (setCore s c k) pa = isRemote s pa := by
  unfold isRemote
  rw [setCore_fab]

/-- R298: no core tells how an address is translated. -/
theorem translate_setCore (s : State) (c : Nat) (k : Core) (eng cx va : Nat) (need : List Nat) (l : Bool) :
    (translate (setCore s c k) eng cx va need l).1 = (translate s eng cx va need l).1 := by
  unfold translate
  rw [segHits_setCore]
  cases segHits s eng cx va with
  | nil => rfl
  | cons e more =>
    dsimp only
    rw [bufHit_setCore, setCore_part, isRemote_setCore]
    simp only [apply_ite Prod.fst]

/-- R308: a capability is judged by the device and its objects, and by no core. -/
theorem ownCheck_setCore (s : State) (c : Nat) (k : Core) (pa : Word) (g : Seg) (w : World) (need : List Nat) (l : Bool) (n : Nat) :
    ownCheck (setCore s c k) pa g w need l n = ownCheck s pa g w need l n := by
  unfold ownCheck capCheck sealOk
  rw [setCore_boot, setCore_fab, setCore_objs]

theorem regionCode_setCore (s : State) (c : Nat) (k : Core) (pa : Word) (kind : AccKindOf) (b : Bool) :
    regionCode (setCore s c k) pa kind b = regionCode s pa kind b := by
  unfold regionCode
  rw [setCore_part, isRemote_setCore]

/-- A unit reaches its scratchpad alike as long as the threads of its core and their worlds stay. -/
theorem unitSpad_setCore (s : State) (c t : Nat) (k : Core) (need : List Nat) (va n : Nat) (hth : k.th = (coreOf s c).th)
    (hw : k.threadT = (coreOf s c).threadT) : unitSpad (setCore s c k) c t need va n = unitSpad s c t need va n := by
  have hx : thOf (setCore s c k) c t = thOf s c t := by
    unfold thOf threadOf
    rw [coreOf_setCore, hth]
  have hworld : worldOf (coreOf (setCore s c k) c) t = worldOf (coreOf s c) t := by
    unfold worldOf
    rw [coreOf_setCore, hw]
  have hcode : unitCode (setCore s c k) c t need va n = unitCode s c t need va n := by
    unfold unitCode
    dsimp only
    rw [hx, hworld, translate_setCore]
    simp only [ownCheck_setCore, isRemote_setCore, regionCode_setCore]
  unfold unitSpad unitPa
  rw [hcode]
  simp only [isRemote_setCore, setCore_part]

/-- R293: a range within 2 KiB is one piece. -/
theorem pieces_one (va n : Nat) (hn : 0 < n) (hva : va < 2 ^ 64) (hfit : va % 2048 + n ≤ 2048) : pieces va n = [(va, n)] := by
  have hk : min n (2048 - va % 2048) = n := by omega
  unfold pieces
  rw [piecesFrom, if_neg (by omega), hk, Nat.mod_eq_of_lt hva]
  dsimp only
  rw [Nat.sub_self, piecesFrom, if_pos rfl]

/-- A write of a unit within 2 KiB of its scratchpad is one store. -/
theorem unitWrite_one (s : State) (c t va a : Nat) (bs : List Byte) (hn : 0 < bs.length) (hva : va < 2 ^ 64)
    (hfit : va % 2048 + bs.length ≤ 2048) (hs : unitSpad s c t [rWR] va bs.length = some a) : unitWrite s c t va bs = memStore s a bs := by
  unfold unitWrite
  rw [pieces_one va _ hn hva hfit, List.foldl_cons, List.foldl_nil]
  dsimp only
  rw [hs, List.take_length]

theorem undoLine_poison (s : State) (n : Nat) : (undoLine s n).poison = s.poison := by
  unfold undoLine
  split
  · dsimp only
    split <;> rfl
  · rfl

theorem undoLines_poison (s : State) (a n : Nat) : (undoLines s a n).poison = s.poison := by
  unfold undoLines
  generalize List.range _ = l
  induction l generalizing s with
  | nil => rfl
  | cons i l ih => rw [List.foldl_cons, ih, undoLine_poison]

/-- R252, R278: the memory after a store, in terms of the memory and the poison before. -/
theorem memStore_mem (s : State) (a : Nat) (bs : List Byte) : (memStore s a bs).mem =
    writeOk (fun x => !(isPoisoned s x) || coversWord s.part a bs.length x) s.mem a bs := by
  have store (s1 : State) (h : MemOnly s s1) (hm : s1.mem = s.mem) (hp : s1.poison = s.poison) : (storeBytes s1 a bs).mem =
      writeOk (fun x => !(isPoisoned s x) || coversWord s.part a bs.length x) s.mem a bs := by
    have hpart : s1.part = s.part := by rw [h]
    unfold storeBytes isPoisoned
    dsimp only
    rw [hm, hp, hpart]
  unfold memStore
  split
  · exact store _ (memOnly_undoLines s a _) (undoLines_mem s a _) (undoLines_poison s a _)
  · exact store _ (memOnly_decodeMerge s a _) (decodeMerge_mem s a _) (decodeMerge_poison s a _)

/-- A store touches no byte outside those it writes. -/
theorem readByte_memStore_outside (s : State) (a z : Nat) (bs : List Byte) (hw : memWf s.mem = true) (hz : z < a ∨ a + bs.length ≤ z) :
    readByte (memStore s a bs).mem z = readByte s.mem z := by
  rw [memStore_mem]
  exact readByte_writeOk_outside _ bs s.mem a z hw (by omega)

/-- A list of bytes read back from where each of them reads. -/
theorem readList_eq (m : List Host.Cell) (bs : List Byte) : ∀ a, (∀ i, i < bs.length → readByte m (a + i) = bs.getD i 0#8) →
    readList m a bs.length = bs := by
  induction bs with
  | nil => exact fun _ _ => rfl
  | cons b bs ih =>
    intro a h
    have hb : readByte m a = b := h 0 (Nat.zero_lt_succ _)
    have hbs : readList m (a + 1) bs.length = bs := ih (a + 1) fun i hi => by
      have := h (i + 1) (Nat.succ_lt_succ hi)
      rwa [Nat.add_comm i 1, ← Nat.add_assoc, Nat.add_comm 1 i] at this
    rw [List.length_cons, readList, hb, hbs]

/-- R289: the HBM range. -/
theorem regionOf_hbm (p : Part) (a : Nat) (h : a < hbmTop p) : regionOf p a = .hbm := by
  rw [regionOf, if_pos h]

/-- R289: the instruction memories. -/
theorem regionOf_imem (p : Part) (a : Nat) (h : ¬ a < hbmTop p) (h1 : 0x014000000000 ≤ a) (h2 : a < 0x014004000000) :
    ∃ n, regionOf p a = .imem n := by
  refine ⟨(a - 0x014000000000) / 0x40000, ?_⟩
  rw [regionOf, if_neg h, decide_eq_false (show ¬ a < 0x010040000000 by omega), Bool.and_false, if_neg Bool.false_ne_true,
    decide_eq_true h1, decide_eq_true h2, Bool.and_self, if_pos rfl]

/-- R289: no other address lies in HBM or in an instruction memory. -/
theorem regionOf_else (p : Part) (a : Nat) (hh : ¬ a < hbmTop p) (hi : ¬ (0x014000000000 ≤ a ∧ a < 0x014004000000)) :
    regionOf p a ≠ .hbm ∧ ∀ n, regionOf p a ≠ .imem n := by
  have hi' : (decide (0x014000000000 ≤ a) && decide (a < 0x014004000000)) = false := by
    rw [← Bool.not_eq_true, Bool.and_eq_true, decide_eq_true_eq, decide_eq_true_eq]
    exact hi
  rw [regionOf, if_neg hh, hi', if_neg Bool.false_ne_true]
  split_ifs <;> exact ⟨nofun, nofun⟩

/-- R252, R256, R278: the size of a code word by address. The function stands as a variable, so that the kernel unfolds it with nothing to
evaluate it at. -/
theorem codeWord_eq (f : Part → Nat → Nat) (hf : f = poisonWord) (p : Part) (a : Nat) : f p a =
    if a < hbmTop p then 32 else if 0x014000000000 ≤ a ∧ a < 0x014004000000 then 4 else 8 := by
  delta poisonWord at hf
  rw [hf]
  dsimp only
  by_cases hh : a < hbmTop p
  · rw [regionOf_hbm p a hh, if_pos hh]
  · rw [if_neg hh]
    by_cases hi : 0x014000000000 ≤ a ∧ a < 0x014004000000
    · obtain ⟨n, hn⟩ := regionOf_imem p a hh hi.1 hi.2
      rw [hn, if_pos hi]
    · obtain ⟨hhbm, himem⟩ := regionOf_else p a hh hi
      rw [if_neg hi]
      generalize regionOf p a = r at hhbm himem
      cases r with
      | hbm => exact absurd rfl hhbm
      | imem n => exact absurd rfl (himem n)
      | spad n | so n | csr | void => rfl

theorem poisonWord_eq (p : Part) (a : Nat) : poisonWord p a =
    if a < hbmTop p then 32 else if 0x014000000000 ≤ a ∧ a < 0x014004000000 then 4 else 8 := codeWord_eq _ rfl p a

theorem poisonWord_pos (p : Part) (a : Nat) : 0 < poisonWord p a := by
  rw [poisonWord_eq]
  split_ifs <;> omega

/-- R252, R278: the first byte of a code word lies in a word of the same size. -/
theorem poisonWord_base (p : Part) (a : Nat) : poisonWord p (poisonBase p a) = poisonWord p a := by
  have htop : 32 ∣ hbmTop p := by cases p <;> decide
  obtain ⟨k, hk⟩ := htop
  unfold poisonBase
  simp only [poisonWord_eq, hk]
  split_ifs <;> omega

/-- A byte in a range without poison is not poisoned. -/
theorem isPoisoned_of_anyPoison (s : State) (a n x : Nat) (h : anyPoison s a n = false) (h1 : a ≤ x) (h2 : x < a + n) :
    isPoisoned s x = false := by
  have hmod := Nat.mod_lt x (poisonWord_pos s.part x)
  have hle := Nat.mod_le x (poisonWord s.part x)
  rw [← Bool.not_eq_true]
  intro hp
  have hmem : poisonBase s.part x ∈ s.poison := List.contains_iff_mem.1 hp
  have := List.any_eq_false.1 h _ hmem
  rw [poisonWord_base, Bool.and_eq_true, decide_eq_true_eq, decide_eq_true_eq] at this
  unfold poisonBase at this
  omega

/-- R252: bytes stored where nothing is poisoned read back. -/
theorem loadBytes_memStore (s : State) (a : Nat) (bs : List Byte) (hw : memWf s.mem = true) (hp : anyPoison s a bs.length = false) :
    loadBytes (memStore s a bs) a bs.length = bs := by
  unfold loadBytes
  refine readList_eq _ bs a fun i hi => ?_
  rw [memStore_mem]
  exact readByte_writeOk_inside _ bs s.mem a i hw hi
    (by rw [isPoisoned_of_anyPoison s a bs.length (a + i) hp (Nat.le_add_right ..) (Nat.add_lt_add_left hi a)]; rfl)

/-- A write of a unit within 2 KiB of its scratchpad: what memory holds afterwards. -/
theorem unitWrite_stores (s s' : State) (c t va a : Nat) (bs : List Byte) (hw : memWf s.mem = true) (hn : 0 < bs.length)
    (hva : va < 2 ^ 64) (hfit : va % 2048 + bs.length ≤ 2048) (hs : unitSpad s c t [rWR] va bs.length = some a)
    (hmem : SameMemory (unitWrite s c t va bs) s') :
    (∀ z, z < a ∨ a + bs.length ≤ z → readByte s'.mem z = readByte s.mem z) ∧
      (anyPoison s a bs.length = false → loadBytes s' a bs.length = bs) := by
  rw [unitWrite_one s c t va a bs hn hva hfit hs] at hmem
  have hload (n : Nat) : loadBytes s' a n = loadBytes (memStore s a bs) a n := by
    unfold loadBytes
    rw [hmem.1]
  exact ⟨fun z hz => by rw [hmem.1, readByte_memStore_outside s a z bs hw hz],
    fun hp => by rw [hload, loadBytes_memStore s a bs hw hp]⟩

/-- A range has poison in two states alike, where they hold the same memory and are of the same part. -/
theorem anyPoison_congr {s s' : State} (h : SameMemory s s') (hp : s'.part = s.part) (a n : Nat) : anyPoison s' a n = anyPoison s a n := by
  unfold anyPoison
  rw [h.2, hp]

theorem drainAddr_lt (k : MxCfg) (d : Nat) : drainAddr k d < 2 ^ 64 := Nat.mod_lt _ (by decide)

end Sys2Proof.Machine
end

section
/-!
SUPPORT. The statements on the events of the matrix unit (O28), from the lemmas on its parts.
-/

namespace Sys2Proof.Machine

/-- R193, R197, R204: the unit and memory after a drain that acts before the queue's head; s1 is the state that the loader and the stream
passes leave at the drain's clock. -/
theorem drainRow_spec (c : BitVec 8) (s : State) (d : MxDrain) (rest : List MxDrain) (hd : (coreOf s c.toNat).mx.drains = d :: rest)
    (hrows : (coreOf s c.toNat).mx.rows = []) (hhead : ∀ e, headEffect (coreOf s c.toNat) = some e → d.due < e) :
    ∃ s' s2 m f, exec (.drainRow c) s = .next s' ∧ m.cfg = (coreOf s c.toNat).mx.cfg ∧ m.acc = (coreOf s c.toNat).mx.acc ∧
      m.ident = (coreOf s c.toNat).mx.ident ∧
      (coreOf s' c.toNat).mx.drains = (drained m d rest f).drains ∧ (coreOf s' c.toNat).mx.acc = (drained m d rest f).acc ∧
      (coreOf s' c.toNat).mx.ident = (drained m d rest f).ident ∧
      SameMemory (unitWrite s2 c.toNat d.t (drainAddr (coreOf s c.toNat).mx.cfg d.d) (drainValue (coreOf s c.toNat).mx d).1) s' ∧
      SameMemory (catchUpTo s c.toNat d.due) s2 ∧ s2.part = (catchUpTo s c.toNat d.due).part ∧
      ∀ va n, unitSpad s2 c.toNat d.t [rWR] va n = unitSpad (catchUpTo s c.toNat d.due) c.toNat d.t [rWR] va n := by
  have hexec := exec_drainRow c s _ d rest hd hrows hhead rfl
  have hmoved := unitsMoved_catchUpTo s c.toNat d.due
  obtain ⟨-, -, -, -, mcfg, macc, mident⟩ := unitsMoved_mx hmoved
  generalize catchUpTo s c.toNat d.due = s1 at hexec mcfg macc mident
  dsimp only at hexec
  rw [drainValue_congr d mcfg macc mident, mcfg] at hexec
  generalize hs2 : setCore s1 c.toNat { coreOf s1 c.toNat with
    clk := max (coreOf s1 c.toNat).clk d.due
    mx := drained (coreOf s1 c.toNat).mx d rest (engBits (drainValue (coreOf s c.toNat).mx d).2) } = s2 at hexec
  have hwrite := memOnly_unitWrite s2 c.toNat d.t (drainAddr (coreOf s c.toNat).mx.cfg d.d) (drainValue (coreOf s c.toNat).mx d).1
  generalize hs3 : unitWrite s2 c.toNat d.t (drainAddr (coreOf s c.toNat).mx.cfg d.d) (drainValue (coreOf s c.toNat).mx d).1 = s3
    at hexec hwrite ⊢
  obtain ⟨hmem, l, th, hcore⟩ := mxFlush_spec s3 c.toNat
  have hmx : (coreOf (mxFlush s3 c.toNat) c.toNat).mx =
      { drained (coreOf s1 c.toNat).mx d rest (engBits (drainValue (coreOf s c.toNat).mx d).2) with ends := l } := by
    rw [hcore, coreOf_of_memOnly hwrite, ← hs2, coreOf_setCore]
  refine ⟨_, s2, (coreOf s1 c.toNat).mx, engBits (drainValue (coreOf s c.toNat).mx d).2, hexec, mcfg, macc, mident, by rw [hmx], by rw [hmx],
    by rw [hmx], by rw [hs3]; exact hmem, ?_, ?_, fun va n => ?_⟩
  · rw [← hs2]
    exact sameMemory_rfl s1
  · rw [← hs2, setCore_part]
  · rw [← hs2]
    exact unitSpad_setCore s1 c.toNat d.t _ [rWR] va n rfl rfl

/-- R204, R215, R128: a drained row, a pass that stops at its boundary, and the clear for a new owner. -/
theorem matrixDrainSuspendClear_holds : MatrixDrainSuspendClear := by
  intro c s hw
  refine ⟨fun d rest hd hrows hhead => ?_, fun p hpass hs hb hstop => ?_, fun hclear hdone hrows => ?_⟩
  · obtain ⟨s', s2, m, f, hexec, mcfg, macc, mident, gdrains, gacc, gident, hmem, hsame, hpart, hspad⟩ :=
      drainRow_spec c s d rest hd hrows hhead
    have hentry (i j : Nat) (hj : j < 128) : entryAt (coreOf s' c.toNat).mx i j =
        if i = d.e then opIdent (cOp (coreOf s c.toNat).mx.cfg) else entryAt (coreOf s c.toNat).mx i j := by
      rw [entryAt_congr gacc gident, entryAt_drained m d rest f i j hj, mcfg, entryAt_congr macc mident]
    refine ⟨s', hexec, ?_, fun i hi => ?_, fun i j hi hj => ?_, fun pa hfit hpa => ?_⟩
    · rw [gdrains, length_drains_drained]
    · rw [hentry _ _ hi, if_pos rfl]
    · rw [hentry _ _ hj, if_neg hi]
    · have hlen := length_drainValue (coreOf s c.toNat).mx d
      have hw2 : memWf s2.mem = true := by
        rw [hsame.1]
        exact memWf_catchUpTo s c.toNat d.due hw
      have hstores := unitWrite_stores s2 s' c.toNat d.t (drainAddr (coreOf s c.toNat).mx.cfg d.d) pa (drainValue (coreOf s c.toNat).mx d).1
        hw2
      rw [hlen, hspad, anyPoison_congr hsame hpart, hsame.1] at hstores
      exact hstores (drainBytes_pos _) (drainAddr_lt _ _) hfit hpa hmem
  · exact ⟨_, _, exec_mpassSuspend c s p hpass hs hb hstop, pass_suspendPass s c.toNat _ p, rfl, rfl, rfl, rfl, sameMemory_rfl s,
      thOf_setMx s c.toNat p.t _⟩
  · obtain ⟨s', k, fin, hexec, hfin, hmem, hclk, hmx, hclk'⟩ := matrixWorldClear_spec c s hclear hdone hrows
    refine ⟨s', hexec, by rw [hmx]; rfl, ⟨fin, by rw [hmx]; rfl, hfin⟩, by rw [hmx]; rfl, by rw [hmx]; rfl, by rw [hmx]; rfl,
      fun i n => by rw [hmx]; rfl, ?_, hmem⟩
    rw [hclk', ← hclk]
    exact Nat.le_max_left ..

/-- R27, R131, R192, R205, R208, R265: the events of loads, rows, checks, predictions and signals. -/
theorem matrixEvents_holds : MatrixEvents := by
  intro c s
  refine ⟨fun b hload hp hsrc hr he => ?_, fun b l more hload hp hsrc h0 h512 hl hr he =>
      mloadLoadEnd_last_group c s b l more hload hp hsrc h0 h512 hl hr he,
    fun p held j hpass hs hpart hroute hskip hfix hn hrows hdrain hstop hw => ?_,
    fun p q held j hpass hs hpart hn hroute hroom ha hb hl hrows hstop => ?_,
    fun p hpass hs hpart held j hstop hw => rowIssue_withheld c held j s p hpass hs hpart hstop hw,
    fun p ch more hpass hch hn hrows hroute => ?_, fun p hpass hskip hpred => predictorReply_spec c s p hpass hskip hpred,
    fun u hupd => predictorUpdate_spec c s u hupd,
    fun e hends hd hdrains hrows hpass hq hty _ => drainComplete_spec c s e hends hd hdrains hrows hpass hq hty⟩
  · exact exec_mloadLoadEnd c s s b hload (catchUpFrom_idle c.toNat _ 128 s hsrc hr he) hsrc hp
  · intro m p0 hpoison
    obtain ⟨s', r, p1, p', left, hexec, gpass, gmem, hbegun, hm, he, hfirst, hp1⟩ :=
      rowIssue_next c held j s p hpass hs hpart hroute hskip hfix hn hrows hdrain hstop hw hpoison
    obtain ⟨hp', hslots, hslot, hwhole, hdivided⟩ := hbegun
    rw [hp1] at hp' hslots hslot hfirst
    exact ⟨s', r, p', left, hexec, gpass, gmem, hm, he, hfirst, by rw [hp'], by rw [hp'], hslots, hslot, hwhole, hdivided⟩
  · obtain ⟨s', hexec, gpass, gmem, grows⟩ := rowIssue_rest c held j s p q hpass hs hpart hn hroute hroom ha hb hl hrows hstop
    exact ⟨s', _, hexec, gpass, gmem, rfl, rfl, rfl, grows⟩
  · obtain ⟨s', p', hexec, gpass, gmem, hchks, hfix, hdropped, -, -, -⟩ := skipCheck_spec c s p ch more hpass hch hn hroute
    refine ⟨s', p', hexec, gpass, hchks, fun heq => ?_, fun hz hb => ?_, fun hz hb => ?_, gmem⟩
    · rw [hfix, hdropped, heq]
      cases ch.bit <;> exact ⟨List.append_nil _, rfl⟩
    · rw [hfix, hz, hb]
      rfl
    · rw [hdropped, hz, hb]
      rfl

end Sys2Proof.Machine

open Sys2Proof Sys2Proof.Machine

/-- Settles O28: the matrix unit's own events, one by one, from the rules on its loads, its pass, its drains and its clear. -/
theorem matrixUnitEvents : Obligations.MatrixUnitEvents := ⟨matrixEvents_holds, matrixDrainSuspendClear_holds⟩

end

section
/-!
SUPPORT. The reduction unit's merge (O30) against a segment buffer with an outdated copy: a state in which the translation of an image's
first page pushes the copy of the segment of its second page out of the buffer, so that the merge reads the second page through the
context's own descriptor, where the state before the instruction translates it through the outdated copy.
-/

namespace Sys2Proof.Machine

/-- R293: a segment of one 4 KiB page of virtual memory, over the page of scratchpad 0 that begins at `off`, with every right. -/
def pageSeg (page off : Nat) : Seg where
  vbase := BitVec.ofNat 48 (page * 0x1000)
  len := 0x1000#48
  pbase := BitVec.ofNat 64 (spadBase 0 + off)
  rights := 0xFFFF#16
  en := true

/-- R299: a full segment buffer whose oldest entry holds segment 1 of context 0 as it was before the context placed it elsewhere; the
other entries are of another context. -/
def fullBuffer : List SegBuf :=
  ((List.range 15).map fun n => { cx := 1, sg := n, seg := {} }) ++ [{ cx := 0, sg := 1, seg := pageSeg 1 0x1000 }]

/-- Core 0 runs thread 0, whose S1 names an image of 136 bytes, 8 of them in page 0 and the rest in page 1. Only the page that context 0
gives for page 1 holds a byte that is not zero. -/
def staleBufferState : State where
  cores := [(0, { th := [(0, { st := .ready, exm := false, s := [(1, 0xFF8#64)] })] })]
  ctxs := [(0, { segEn := true, segs := [(0, pageSeg 0 0), (1, pageSeg 1 0x2000)] })]
  segbuf := [(0, fullBuffer)]
  mem := [(spadBase 0 + 0x2000, 1#8)]

/-- What a command that is executed leaves in accumulator n of core c. -/
def accAfter (o : Out) (c n : Nat) : Option Acc :=
  match o with
  | .next s => some (tabGet {} (coreOf s c).ru.acc n)
  | _ => none

theorem staleBufferState_canIssue : CanIssue staleBufferState 0#8 0 4#18 [.s 1#5, .v 1#5] := by
  unfold CanIssue
  decide +kernel

theorem staleBufferState_ruReady : RuReady staleBufferState 0#8 0 := by
  unfold RuReady
  decide +kernel

/-- R246, R297: the image lies in scratchpad 0, once its pages have been translated, with one segment for each page. -/
theorem staleBufferState_ranged : let touched := unitTouch staleBufferState 0 0 [rRD] [(0xFF8, 136)]
    spadFail touched 0 0 [rRD] 0xFF8 136 = none ∧ firstMulti touched 0 0 [(0xFF8, 136)] = none := by
  decide +kernel

theorem staleBufferState_unpoisoned : unitPoison staleBufferState 0 0 0xFF8 136 = false := by decide +kernel

/-- R245, R299: RUMRG merges the image that the context's descriptor of page 1 shows. -/
theorem rumrg_staleBufferState :
    accAfter (exec (.rumrg 0#8 0#5 1#5 0#6 0#4 0#3) staleBufferState) 0 0 = some { mag := 2 ^ 64 } := by
  decide +kernel

/-- R62, R299: the outdated copy shows an image of zeros. -/
theorem merge_staleBufferState :
    accMerge {} (accOfBits (ruKind false) (leNat (unitRead staleBufferState 0 0 0xFF8 136))) = {} := by
  decide +kernel

end Sys2Proof.Machine

open Sys2Proof Sys2Proof.Machine

/-- Refutes O30: its clause on RUMRG takes the image as the state before the instruction translates it. With the 16 entries of the core's
segment buffer in use, the oldest of them an outdated copy of the segment of the image's second page, translating the first page replaces
that copy (R299), and RUMRG merges other bytes. -/
theorem not_reductionUnitOperations : ¬ Obligations.ReductionUnitOperations := by
  rintro ⟨hunit, -, -⟩
  obtain ⟨-, -, hmerge, -, -⟩ :=
    hunit 0#8 1#5 0#6 0#4 staleBufferState 0 rfl staleBufferState_canIssue staleBufferState_ruReady
  obtain ⟨hspad, hmulti⟩ := staleBufferState_ranged
  obtain ⟨s', hexec, ⟨hacc, -⟩, -⟩ :=
    hmerge (by decide) ⟨rfl, hspad, hmulti⟩ ⟨rfl, rfl, rfl⟩ staleBufferState_unpoisoned
  have hmerged : tabGet {} (coreOf s' 0).ru.acc 0 = ({ mag := 2 ^ 64 } : Acc) :=
    Option.some.inj ((congrArg (accAfter · 0 0) hexec).symm.trans rumrg_staleBufferState)
  have hclaimed : tabGet {} (coreOf s' 0).ru.acc 0 = ({} : Acc) := hacc.trans merge_staleBufferState
  exact absurd (hmerged.symm.trans hclaimed) (by decide)

end

section
/-!
SUPPORT. Elements of a vector register (O19): values packed into a register are read back element by element.
-/

namespace Sys2Proof.Machine

theorem packElems_lt (w : Nat) (l : List Nat) : packElems w l < 2 ^ (w * l.length) := by
  induction l with
  | nil => simp [packElems]
  | cons x xs ih =>
    have hx : x % 2 ^ w < 2 ^ w := Nat.mod_lt _ (Nat.two_pow_pos w)
    rw [packElems, List.length_cons, Nat.mul_succ, Nat.pow_add, Nat.mul_comm (2 ^ (w * xs.length))]
    calc x % 2 ^ w + 2 ^ w * packElems w xs < 2 ^ w * (packElems w xs + 1) := by rw [Nat.mul_succ]; omega
      _ ≤ 2 ^ w * 2 ^ (w * xs.length) := Nat.mul_le_mul_left _ ih

/-- R143: a packed value read back. -/
theorem field_packElems (w : Nat) (l : List Nat) : ∀ i, i < l.length → field (packElems w l) (w * i) w = l.getD i 0 % 2 ^ w := by
  induction l with
  | nil => exact fun i h => absurd h (Nat.not_lt_zero i)
  | cons x xs ih =>
    intro i hi
    unfold field packElems
    cases i with
    | zero => simp
    | succ i =>
      have hshift : (x % 2 ^ w + 2 ^ w * packElems w xs) / 2 ^ w = packElems w xs := by
        rw [Nat.add_mul_div_left _ _ (Nat.two_pow_pos w), Nat.div_eq_of_lt (Nat.mod_lt _ (Nat.two_pow_pos w)), Nat.zero_add]
      rw [Nat.mul_succ, Nat.add_comm (w * i), Nat.pow_add, ← Nat.div_div_eq_div_mul, hshift, List.getD_cons_succ]
      exact ih i (Nat.lt_of_succ_lt_succ hi)

theorem elemAt_lt (v : BitVec 8192) (w i : Nat) : elemAt v w i < 2 ^ w := Nat.mod_lt _ (Nat.two_pow_pos w)

/-- R153: an element of a register built element by element. -/
theorem elemAt_buildV (old : BitVec 8192) (w i : Nat) (f : Nat → Option Nat) (hi : i < 8192 / w) :
    elemAt (buildV old w f) w i = (f i).getD (elemAt old w i) % 2 ^ w := by
  have hlen : ((List.range (8192 / w)).map fun i => (f i).getD (elemAt old w i)).length = 8192 / w := by simp
  have hlt := packElems_lt w ((List.range (8192 / w)).map fun i => (f i).getD (elemAt old w i))
  rw [hlen] at hlt
  unfold elemAt buildV
  rw [BitVec.toNat_ofNat, Nat.mod_eq_of_lt (Nat.lt_of_lt_of_le hlt (Nat.pow_le_pow_right Nat.zero_lt_two (Nat.mul_div_le 8192 w))),
    field_packElems w _ i (by rw [hlen]; exact hi)]
  congr 1
  rw [List.getD_eq_getElem?_getD, List.getElem?_map, List.getElem?_range hi]
  rfl

/-- R153: the active elements take the new values, and the others stay. -/
theorem elemsBy_buildV (old : BitVec 8192) (m : BitVec 1024) (n w : Nat) (f : Nat → Nat) :
    ElemsBy old (buildV old w fun i => if activeAt m n i then some (f i) else none) w n m f := by
  intro i hi
  rw [elemAt_buildV old w i _ hi]
  by_cases h : i < n ∧ m.getLsbD i = true
  · simp [activeAt, h]
  · rw [if_neg h, if_neg (by simpa [activeAt] using h), Option.getD_none, Nat.mod_eq_of_lt (elemAt_lt old w i)]

end Sys2Proof.Machine
end

section
/-!
SUPPORT. The vector queue (O19, O25): how an instruction is handed off, what the pass at the head of the queue starts from, what it leaves
behind, and how it takes an exception.
-/

namespace Sys2Proof.Machine

theorem anyBusy_of_subset {x : Thread} {l l' : List Reg} (h : anyBusy x l = false) (hs : l' ⊆ l) : anyBusy x l' = false := by
  unfold anyBusy at *
  rw [List.any_eq_false] at *
  exact fun r hr => h r (hs hr)

/-- R81: an instruction that names fewer registers issues as well. -/
theorem canIssue_of_subset {s : State} {c : BitVec 8} {t : Nat} {len : BitVec 18} {l l' : List Reg} (h : CanIssue s c t len l)
    (hs : l' ⊆ l) : CanIssue s c t len l' := by
  obtain ⟨hrun, hvec, hunseen, hflaws, hpart, hlong, hbusy⟩ := h
  exact ⟨hrun, hvec, hunseen, hflaws, hpart, hlong, anyBusy_of_subset hbusy hs⟩

@[simp] theorem markBusy_icount (x : Thread) (r : Reg) : (markBusy x r).icount = x.icount := by
  cases r with
  | s r => simp only [markBusy]; split <;> rfl
  | v r | m r => rfl

theorem foldl_markBusy_icount (l : List Reg) : ∀ x : Thread, (l.foldl markBusy x).icount = x.icount := by
  induction l with
  | nil => exact fun _ => rfl
  | cons r l ih => exact fun x => (ih (markBusy x r)).trans (markBusy_icount x r)

/-- A completed instruction before the core's loader and stream passes go on: the registers of its thread, the core's clock, and what
else there is. -/
theorem retire_eq (s : State) (c t : Nat) (x : Thread) (pc : BitVec 18) (n : Nat) :
    ∃ s' y, retire s c t x pc n = catchUp s' c ∧ s' = held s c t y n ∧
      (∃ st w, y = { x with pc := pc, icount := x.icount + 1, st := st, wait := w }) := by
  refine ⟨_, _, rfl, rfl, ?_⟩
  split
  · exact ⟨_, _, rfl⟩
  · exact ⟨x.st, x.wait, rfl⟩

/-- R75, R81, R150, R156: an instruction of thread t handed off to a queue with a free entry. -/
theorem handVec_handsOff (s : State) (c : BitVec 8) (t : Nat) (dst : List Reg) (i : Instr) (k : VKind) (late : Nat)
    (hroom : (coreOf s c.toNat).vq.length < 4) :
    ∃ s', handVec s c.toNat t (thOf s c.toNat t) dst i { t := t, pc := (thOf s c.toNat t).pc, kind := k, flags := 0#5 } late =
      catchUp s' c.toNat ∧ HandedOff s s' c t i dst k late := by
  have hr : vecRoom (coreOf s c.toNat) = true := decide_eq_true hroom
  unfold handVec
  simp only [hr, Bool.not_true, Bool.false_eq_true, if_false]
  generalize hs1 : setCore s c.toNat { coreOf s c.toNat with
    vq := (coreOf s c.toNat).vq ++ [latchVec s c.toNat (thOf s c.toNat t) i
      { t := t, pc := (thOf s c.toNat t).pc, kind := k, flags := 0#5 }] } = s1
  obtain ⟨s', y, hret, rfl, st, w, hy⟩ := retire_eq s1 c.toNat t (dst.foldl markBusy (thOf s c.toNat t))
    ((thOf s c.toNat t).pc + 4#18) (2 + late)
  obtain ⟨ran, cur, p, q, win, l, hcore⟩ := held_core s1 c.toNat t y (2 + late)
  have hcore1 : coreOf s1 c.toNat = { coreOf s c.toNat with
      vq := (coreOf s c.toNat).vq ++ [latchVec s c.toNat (thOf s c.toNat t) i
        { t := t, pc := (thOf s c.toNat t).pc, kind := k, flags := 0#5 }] } := by rw [← hs1, coreOf_setCore]
  refine ⟨_, hret, ?_, ⟨st, w, ?_⟩, ?_, ?_, fun c' hc => ?_⟩
  · rw [hcore, hcore1]
    rfl
  · rw [thOf_held, hy, foldl_markBusy_icount]
  · rw [held_clk, hcore1, Nat.add_assoc]
  · rw [held_rest, ← hs1]
    exact sameMemory_rfl s
  · rw [coreOf_held_ne _ _ _ _ _ _ hc, ← hs1, coreOf_setCore_ne _ _ _ _ hc]

/-- R156: a vector instruction on registers whose format its body accepts joins the queue. -/
theorem joinsQueue_of_vecOp (s : State) (c : BitVec 8) (t : Nat) (i : Instr) (b : VBody) (hexec : exec i s = .next (vecOp i c s))
    (hbody : vecBody i = some b) (hissue : CanIssue s c t 4#18 (b.regs ++ b.dst)) (hroom : (coreOf s c.toNat).vq.length < 4)
    (hrun : (b.run (thOf s c.toNat t) s).isSome = true) : JoinsQueue s c t i b.dst := by
  obtain ⟨r, hr⟩ := Option.isSome_iff_exists.1 hrun
  obtain ⟨s', hhand, hoff⟩ := handVec_handsOff s c t b.dst i (.op b.dst) 0 hroom
  refine ⟨s', ?_, hoff⟩
  rw [hexec]
  unfold vecOp
  rw [hbody]
  dsimp only
  rw [issue_of_canIssue c 4#18 _ _ s t hissue, hr]
  exact congrArg Host.Outcome.next hhand

/-- The threads of a core are not the loader's or the stream passes' to change. -/
theorem thOf_of_unitsMoved {s s' : State} {c : Nat} (h : UnitsMoved (coreOf s c) (coreOf s' c)) (t : Nat) :
    thOf s' c t = thOf s c t := by
  unfold thOf threadOf
  rw [h]

/-- R131, R134, R156: state s1 is what the pass at the head of core c's queue, starting at clock n, finds of state s: the core's loader
and stream passes have gone on to that clock, and words may have been decoded. -/
def PassFinds (s s1 : State) (c n : Nat) : Prop :=
  UnitsMoved (coreOf s c) (coreOf s1 c) ∧ SameMemory (catchUpTo s c n) s1

theorem passFinds_catchUpTo (s : State) (c n : Nat) : PassFinds s (catchUpTo s c n) c n :=
  ⟨unitsMoved_catchUpTo s c n, sameMemory_rfl _⟩

/-- R156, R157, R180: the pass of the head of the queue has run. -/
theorem passGives_of_runPass (s s1 : State) (c : BitVec 8) (e : VEnt) (rest : List VEnt) (d : VDst) (g : BitVec 5)
    (hq : (coreOf s c.toNat).vq = e :: rest) (hfinds : PassFinds s s1 c.toNat (passClock s c e))
    (hexec : exec (.vectorPassStart c) s = .next (runPass s1 c.toNat e (passClock s c e) d g)) : PassGives s c e rest d g := by
  obtain ⟨hmoved, hmem⟩ := hfinds
  obtain ⟨cur, ran, hwake⟩ := wake_eq (setCore s1 c.toNat { (beginPass (coreOf s1 c.toNat) e (passClock s c e)).1 with
    vrun := (beginPass (coreOf s1 c.toNat) e (passClock s c e)).1.vrun ++
      [{ e with kind := .reg d, flags := g, wclk := (beginPass (coreOf s1 c.toNat) e (passClock s c e)).2 }] }) c.toNat
  have hrun : runPass s1 c.toNat e (passClock s c e) d g = _ := hwake
  refine ⟨_, (beginPass (coreOf s1 c.toNat) e (passClock s c e)).2, hexec, ?_, ?_, ?_, hmem, fun i hi => ?_⟩
  · rw [hrun, coreOf_setCore, coreOf_setCore]
    simp only [beginPass]
    rw [hmoved, hq, List.tail_cons]
  · rw [hrun, coreOf_setCore, coreOf_setCore]
    simp only [beginPass]
    rw [hmoved]
  · rw [hrun, coreOf_setCore, coreOf_setCore]
    simp only [beginPass]
    rw [hmoved]
  · simp only [beginPass, hi]

theorem memOnly_applyStores (s : State) (sb : List SBuf) : MemOnly s (applyStores s sb) := by
  unfold applyStores
  exact memOnly_foldl _ (fun s e => memOnly_memStore s e.pa e.bytes) sb s

/-- R92: exception entry sees of its core only whether the thread's vector instructions have completed. -/
theorem entersAt_congr {k k' : Core} {t : Nat} {x y : Thread} {cause : Nat} {addr : Word} {resume off : BitVec 18}
    (hq : k'.vq = k.vq) (hr : k'.vrun = k.vrun) (h : EntersAt k t x y cause addr resume off) :
    EntersAt k' t x y cause addr resume off := by
  have hd : vecDone k' t = vecDone k t := by
    unfold vecDone
    rw [hq, hr]
  unfold EntersAt at *
  rw [hd]
  exact h

/-- What exception entry keeps of a thread is told by the registers and the levels that entry saves. -/
def EntryKept (x y : Thread) : Prop :=
  y.s = x.s ∧ y.v = x.v ∧ y.m = x.m ∧ y.rs = x.rs ∧ y.exm = x.exm ∧ y.lvl = x.lvl ∧ y.xvec = x.xvec ∧ y.pc = x.pc ∧ y.st = x.st

theorem entryKept_clearBusy (x : Thread) (r : Reg) : EntryKept x (clearBusy x r) := by
  cases r <;> exact ⟨rfl, rfl, rfl, rfl, rfl, rfl, rfl, rfl, rfl⟩

theorem entryKept_trans {x y z : Thread} (h : EntryKept x y) (g : EntryKept y z) : EntryKept x z := by
  obtain ⟨h1, h2, h3, h4, h5, h6, h7, h8, h9⟩ := h
  obtain ⟨g1, g2, g3, g4, g5, g6, g7, g8, g9⟩ := g
  exact ⟨g1.trans h1, g2.trans h2, g3.trans h3, g4.trans h4, g5.trans h5, g6.trans h6, g7.trans h7, g8.trans h8, g9.trans h9⟩

theorem entryKept_clearBusys (l : List Reg) : ∀ x, EntryKept x (l.foldl clearBusy x) := by
  induction l with
  | nil => exact fun _ => ⟨rfl, rfl, rfl, rfl, rfl, rfl, rfl, rfl, rfl⟩
  | cons r l ih => exact fun x => entryKept_trans (entryKept_clearBusy x r) (ih (clearBusy x r))

/-- R92: a thread that enters at once, or waits for its vector instructions to do so. -/
theorem entersAt_of_kept (k : Core) (t : Nat) {x y : Thread} (h : EntryKept x y) (cause : Nat) (addr : Word) (resume off : BitVec 18) :
    EntersAt k t x (if vecDone k t then entered y cause addr resume off
      else { y with sb := [], st := .waiting, wait := .entry cause addr resume off }) cause addr resume off := by
  obtain ⟨hs, hv, hm, hrs, hexm, hlvl, hxvec, hpc, -⟩ := h
  unfold EntersAt
  cases hd : vecDone k t with
  | true =>
    rw [if_pos rfl]
    exact ⟨hs, hv, hm, hrs, fun _ => ⟨rfl, BitVec.toNat_ofNat .., rfl, hexm, hlvl, rfl, rfl, by rw [← hxvec]; rfl, rfl⟩, nofun⟩
  | false =>
    rw [if_neg Bool.false_ne_true]
    exact ⟨hs, hv, hm, hrs, nofun, fun _ => ⟨rfl, rfl, hpc, hexm, hlvl⟩⟩

/-- A waiting thread whose wait is not over is not woken. -/
theorem thOf_wake_of_not_over (s : State) (c t : Nat)
    (h : ((thOf s c t).st == .waiting && waitOver s c (coreOf s c) t (thOf s c t)) = false) : thOf (wake s c) c t = thOf s c t := by
  obtain ⟨_, _, e⟩ := wake_eq s c
  unfold thOf threadOf at *
  rw [e, coreOf_setCore, tabGet_tabMap _ _ _ _ rfl, h]
  rfl

/-- Exception entry from outside a thread's turn, on the core's queue and threads. -/
theorem enterOutside_core (s : State) (c t cause : Nat) (addr : Word) (resume off : BitVec 18) :
    ∃ th ran cur p q w, coreOf (enterOutside s c t cause addr resume off) c =
        { coreOf s c with th := th, clk := (coreOf s c).clk + 4, ran := ran, cur := cur, usedP := p, usedT := q, win := w } ∧
      thOf (enterOutside s c t cause addr resume off) c t = if vecDone (coreOf s c) t then entered (thOf s c t) cause addr resume off
        else { thOf s c t with sb := [], st := .waiting, wait := .entry cause addr resume off } := by
  have hm := memOnly_applyStores s (thOf s c t).sb
  unfold enterOutside
  dsimp only
  rw [coreOf_of_memOnly hm, thOf_of_cores (show (applyStores s (thOf s c t).sb).cores = s.cores by rw [hm])]
  generalize (if vecDone (coreOf s c) t then entered (thOf s c t) cause addr resume off
    else { thOf s c t with sb := [], st := .waiting, wait := .entry cause addr resume off }) = y
  obtain ⟨p, q, w, hspend⟩ := spend_eq { coreOf s c with th := tabSet (coreOf s c).th t y } t 4
  obtain ⟨cur, ran, hsettle⟩ := settle_eq (spend { coreOf s c with th := tabSet (coreOf s c).th t y } t 4)
  refine ⟨tabSet (coreOf s c).th t y, ran, cur, p, q, w, ?_, ?_⟩
  · rw [coreOf_setCore, hsettle, hspend]
  · unfold thOf threadOf
    rw [coreOf_setCore, hsettle, hspend, tabGet_tabSet_same]

/-- R92: after exception entry from outside its turn no thread is woken into another state: it has entered, or its vector instructions
have not completed. -/
theorem thOf_wake_enterOutside (s : State) (c t cause : Nat) (addr : Word) (resume off : BitVec 18) :
    thOf (wake (enterOutside s c t cause addr resume off) c) c t = thOf (enterOutside s c t cause addr resume off) c t := by
  obtain ⟨th, ran, cur, p, q, w, hcore, hth⟩ := enterOutside_core s c t cause addr resume off
  have hd : vecDone (coreOf (enterOutside s c t cause addr resume off) c) t = vecDone (coreOf s c) t := by rw [hcore]; rfl
  refine thOf_wake_of_not_over _ c t ?_
  rw [hth]
  cases h : vecDone (coreOf s c) t with
  | true => rfl
  | false => simp [waitOver, hd, h]

/-- R53, R92, R179: the head of the queue takes an exception: it leaves the queue, and its thread, which has not stopped, enters at the
instruction. -/
theorem vecFault_enters (s : State) (c : Nat) (e : VEnt) (rest : List VEnt) (cause va : Nat) (hq : (coreOf s c).vq = e :: rest)
    (hst : (thOf s c e.t).st ≠ .stopped) :
    (coreOf (vecFault s c e cause va) c).vq = rest ∧ (coreOf (vecFault s c e cause va) c).vrun = (coreOf s c).vrun ∧
      EntersAt { coreOf s c with vq := rest } e.t (thOf s c e.t) (thOf (vecFault s c e cause va) c e.t) cause (BitVec.ofNat 64 va)
        e.pc 0#18 := by
  have hx : thOf (setCore s c { coreOf s c with vq := (coreOf s c).vq.tail }) c e.t = thOf s c e.t := by
    unfold thOf
    rw [coreOf_setCore]
    rfl
  have hb : ((thOf s c e.t).st == ThState.stopped) = false := beq_eq_false_iff_ne.2 hst
  unfold vecFault
  dsimp only
  rw [hx, hb]
  simp only [Bool.false_eq_true, if_false]
  generalize hy : ({ (vecMarks e).foldl clearBusy (thOf s c e.t) with icount := (thOf s c e.t).icount - 1 } : Thread) = y
  have hkept : EntryKept (thOf s c e.t) y := by
    rw [← hy]
    exact entryKept_clearBusys (vecMarks e) (thOf s c e.t)
  generalize hs2 : setTh (setCore s c { coreOf s c with vq := (coreOf s c).vq.tail }) c e.t y = s2
  have hcore2 : coreOf s2 c = { coreOf s c with vq := rest, th := tabSet (coreOf s c).th e.t y } := by
    rw [← hs2, setTh, coreOf_setCore, coreOf_setCore, hq]
    rfl
  have hth2 : thOf s2 c e.t = y := by rw [← hs2, thOf_setTh]
  obtain ⟨th, ran, cur, p, q, w, hcore, hth⟩ := enterOutside_core s2 c e.t cause (BitVec.ofNat 64 va) e.pc 0#18
  obtain ⟨_, _, hwake⟩ := wake_eq (enterOutside s2 c e.t cause (BitVec.ofNat 64 va) e.pc 0#18) c
  refine ⟨?_, ?_, ?_⟩
  · rw [hwake, coreOf_setCore, hcore, hcore2]
  · rw [hwake, coreOf_setCore, hcore, hcore2]
  · rw [thOf_wake_enterOutside, hth, hth2]
    exact entersAt_congr (k := coreOf s2 c) (by rw [hcore2]) (by rw [hcore2]) (entersAt_of_kept _ _ hkept _ _ _ _)

/-- R53, R92, R179: the pass at the head of the queue starts with an exception. -/
theorem passFault_enters {s s1 : State} {c : BitVec 8} {e : VEnt} {rest : List VEnt} {cause va : Nat}
    (hq : (coreOf s c.toNat).vq = e :: rest) (hmoved : UnitsMoved (coreOf s c.toNat) (coreOf s1 c.toNat))
    (hst : (thOf s c.toNat e.t).st ≠ .stopped) (hexec : exec (.vectorPassStart c) s = .next (vecFault s1 c.toNat e cause va)) :
    ∃ s', exec (.vectorPassStart c) s = .next s' ∧ (coreOf s' c.toNat).vq = rest ∧ (coreOf s' c.toNat).vrun = (coreOf s c.toNat).vrun ∧
      EntersAt { coreOf s c.toNat with vq := rest } e.t (thOf s c.toNat e.t) (thOf s' c.toNat e.t) cause (BitVec.ofNat 64 va)
        e.pc 0#18 := by
  have hx := thOf_of_unitsMoved hmoved e.t
  have hrun : (coreOf s1 c.toNat).vrun = (coreOf s c.toNat).vrun := by rw [hmoved]
  obtain ⟨hvq, hvrun, henters⟩ := vecFault_enters s1 c.toNat e rest cause va (by rw [hmoved]; exact hq) (by rw [hx]; exact hst)
  rw [hx] at henters
  exact ⟨_, hexec, hvq, hvrun.trans hrun, entersAt_congr (k := { coreOf s1 c.toNat with vq := rest }) rfl hrun.symm henters⟩

end Sys2Proof.Machine
end

section
/-!
SUPPORT. Vector floating-point arithmetic (O19): the pass of an instruction on registers at the head of the queue, and the elements and
flags that a floating-point form gives.
-/

namespace Sys2Proof.Machine

/-- R53, R157: the instruction on registers at the head of the queue computes its result, and traps or runs. -/
theorem exec_vectorPassStart_op {s : State} {c : BitVec 8} {e : VEnt} {rest : List VEnt} {i : Instr} {dst : List Reg} {d : VDst}
    {g : BitVec 5} (hhead : AtHead s c e rest i dst)
    (hgives : vecGives (catchUpTo s c.toNat (passClock s c e)) c.toNat e = some (d, g)) :
    exec (.vectorPassStart c) s =
      .next (if g &&& e.te != 0#5 && !e.exm then
          vecFault (catchUpTo s c.toNat (passClock s c e)) c.toNat e (cNumtrap + g.toNat * 256) 0
        else runPass (catchUpTo s c.toNat (passClock s c e)) c.toNat e (passClock s c e) d g) := by
  obtain ⟨hq, -, hk⟩ := hhead
  show execVectorPassStart c s = _
  unfold execVectorPassStart
  rw [hq]
  dsimp only
  rw [hk]
  dsimp only
  rw [show passStart (coreOf s c.toNat) e = passClock s c e from rfl, hgives]

/-- R53, R157: the head of the queue computes its result, whose conditions cause no trap. -/
theorem passGives_of_vecGives {s : State} {c : BitVec 8} {e : VEnt} {rest : List VEnt} {i : Instr} {dst : List Reg} {d : VDst}
    {g : BitVec 5} (hhead : AtHead s c e rest i dst)
    (hgives : vecGives (catchUpTo s c.toNat (passClock s c e)) c.toNat e = some (d, g)) (hn : NoTrap e g) : PassGives s c e rest d g := by
  have hno : ¬ (g &&& e.te != 0#5 && !e.exm) = true := by
    rcases hn with h | h <;> simp [h]
  refine passGives_of_runPass s _ c e rest d g hhead.1 (passFinds_catchUpTo s c.toNat _) ?_
  rw [exec_vectorPassStart_op hhead hgives, if_neg hno]

/-- R53, R92: the head of the queue computes its result, one of whose conditions traps. -/
theorem passTraps_of_vecGives {s : State} {c : BitVec 8} {e : VEnt} {rest : List VEnt} {i : Instr} {dst : List Reg} {d : VDst}
    {g : BitVec 5} (hhead : AtHead s c e rest i dst)
    (hgives : vecGives (catchUpTo s c.toNat (passClock s c e)) c.toNat e = some (d, g)) (hn : ¬ NoTrap e g)
    (hst : (thOf s c.toNat e.t).st ≠ .stopped) : PassTraps s c e rest g := by
  have htrap : (g &&& e.te != 0#5 && !e.exm) = true := by
    simpa [NoTrap, not_or] using hn
  refine passFault_enters (va := 0) hhead.1 (unitsMoved_catchUpTo s c.toNat (passClock s c e)) hst ?_
  rw [exec_vectorPassStart_op hhead hgives, if_pos htrap]
  rfl

/-- R160 to R162: a floating-point form does what its operation's body does. -/
theorem exec_vfpForms (c : BitVec 8) (vd va vb : BitVec 5) (rm : BitVec 3) (mk : BitVec 4) (sf : Bool) :
    ∀ f ∈ vfpForms c vd va vb rm mk sf, vecBody f.1 = some (vfp f.2 vd va vb rm mk sf) ∧
      ∀ s, exec f.1 s = .next (vecOp f.1 c s) := by
  simp only [vfpForms, List.forall_mem_cons]
  refine ⟨?_, ?_, ?_, ?_, ?_, ?_, ?_, ?_, ?_, ?_, ?_, ?_, fun f hf => absurd hf List.not_mem_nil⟩
  all_goals exact ⟨rfl, fun _ => rfl⟩

/-- The registers that a floating-point form reads and writes. -/
theorem vfp_regs_subset (op : VfpOp) (vd va vb : BitVec 5) (rm : BitVec 3) (mk : BitVec 4) (sf : Bool) :
    (vfp op vd va vb rm mk sf).regs ++ (vfp op vd va vb rm mk sf).dst ⊆ [.v va] ++ [.v vb] ++ maskReg mk ++ [.v vd] := by
  unfold vfp
  split <;> simp

/-- R160 to R164: what a floating-point form computes in a floating-point format. -/
theorem vfp_run (op : VfpOp) (vd va vb : BitVec 5) (rm : BitVec 3) (mk : BitVec 4) (sf : Bool) (x : Thread) (s : State)
    (hf : fpFormat (vfmtOf x) = true) : (vfp op vd va vb rm mk sf).run x s =
      let one (i : Nat) := vfpElem op (fmtFloat (vfmtOf x)) (vecRound x (seedOf s x) rm x.sat i)
        (elemAt (getV x va) (fmtBits (vfmtOf x)) i) (elemAt (getV x vb) (fmtBits (vfmtOf x)) (bIndex sf i))
      some (.v vd (buildV (getV x vd) (fmtBits (vfmtOf x)) fun i => if activeAt (getM x mk) x.vl i then some (one i).1 else none),
        allFlags ((actives (getM x mk) x.vl).map fun i => (one i).2)) := by
  simp only [vfp, vecResult, hf, Bool.not_true, Bool.false_eq_true, if_false]

/-- R45, R150: the pass of a queue entry sees the seed that its hand-off latched. -/
theorem seedOf_latched (s : State) (c : Nat) (e : VEnt) : seedOf (seedLatched s c e) (asLatched e (thOf s c e.t)) = e.seed := by
  unfold seedOf seedLatched
  exact congrArg Ctx.seed (ctxOf_setCtx s _ _)

/-- R157: an instruction on registers computes on its thread's registers with what its hand-off latched. -/
theorem vecGives_eq {s : State} {c : Nat} {e : VEnt} {i : Instr} {b : VBody} (hi : e.instr = some i) (hb : vecBody i = some b) :
    vecGives s c e = (b.run (asLatched e (thOf s c e.t)) (seedLatched s c e)).map fun r => (r.1, vecBits r.2) := by
  unfold vecGives
  rw [hi, Option.bind_some, hb]

end Sys2Proof.Machine

open Sys2Proof Sys2Proof.Machine

/-- Settles O19: a floating-point form is handed off, and its pass writes the elements of `vfpElem` and collects their flags, or traps. -/
theorem vectorFloatForms : Obligations.VectorFloatForms := by
  intro c vd va vb rm mk sf f hf s
  obtain ⟨hbody, hexec⟩ := exec_vfpForms c vd va vb rm mk sf f hf
  refine ⟨fun t hissue hroom hfmt => ?_, fun e rest hhead hfmt => ?_⟩
  · exact joinsQueue_of_vecOp s c t f.1 _ (hexec s) hbody (canIssue_of_subset hissue (vfp_regs_subset f.2 vd va vb rm mk sf)) hroom
      (by rw [vfp_run _ _ _ _ _ _ _ _ _ hfmt]; rfl)
  · have ⟨_, hinstr, _⟩ := hhead
    intro x w one g
    have hx : thOf (catchUpTo s c.toNat (passClock s c e)) c.toNat e.t = x := thOf_of_unitsMoved (unitsMoved_catchUpTo s c.toNat _) e.t
    have hlatched : fpFormat (vfmtOf (asLatched e x)) = true := hfmt
    have hgives : vecGives (catchUpTo s c.toNat (passClock s c e)) c.toNat e =
        some (.v vd (buildV (getV x vd) w fun i => if activeAt (getM x mk) e.vl i then some (one i).1 else none), g) := by
      rw [vecGives_eq hinstr hbody, hx, vfp_run _ _ _ _ _ _ _ _ _ hlatched, ← hx, seedOf_latched, hx]
      rfl
    exact ⟨fun hn => ⟨_, passGives_of_vecGives hhead hgives hn, elemsBy_buildV _ _ _ _ _⟩,
      fun hn hst => passTraps_of_vecGives hhead hgives hn hst⟩

end

section
/-!
SUPPORT. Memory of any form (O25, O29): what a byte reads as after a store, whether or not the list of cells is in its canonical form.
-/

namespace Sys2Proof.Machine

theorem readByte_insertCell_same (m : List Host.Cell) (a : Nat) (b : Byte) : readByte (insertCell m a b) a = b := by
  induction m with
  | nil => simp [insertCell, readByte]
  | cons e m ih =>
    obtain ⟨k, v⟩ := e
    simp only [insertCell]
    split_ifs with hk hlt
    · simp [readByte]
    · simp [readByte]
    · simp [readByte, Ne.symm hk, ih]

theorem readByte_insertCell_ne (m : List Host.Cell) (a x : Nat) (b : Byte) (h : x ≠ a) :
    readByte (insertCell m a b) x = readByte m x := by
  induction m with
  | nil => simp [insertCell, readByte, h.symm]
  | cons e m ih =>
    obtain ⟨k, v⟩ := e
    simp only [insertCell]
    split_ifs with hk hlt
    · simp [readByte, ← hk, h.symm]
    · simp [readByte, h.symm]
    · simp [readByte, ih]

theorem readByte_erased_same (m : List Host.Cell) (a : Nat) : readByte (m.filter fun e => e.1 != a) a = unlisted := by
  induction m with
  | nil => rfl
  | cons e m ih =>
    obtain ⟨k, v⟩ := e
    by_cases hk : k = a
    · simp [hk, ih]
    · simp [hk, readByte, ih]

theorem readByte_erased_ne (m : List Host.Cell) (a x : Nat) (h : x ≠ a) : readByte (m.filter fun e => e.1 != a) x = readByte m x := by
  induction m with
  | nil => rfl
  | cons e m ih =>
    obtain ⟨k, v⟩ := e
    by_cases hk : k = a
    · simp [hk, readByte, h.symm, ih]
    · simp [hk, readByte, ih]

/-- A byte reads as it was last written. -/
theorem readByte_writeByte_same (m : List Host.Cell) (a : Nat) (b : Byte) : readByte (writeByte m a b) a = b := by
  unfold writeByte
  split_ifs with h
  · rw [readByte_erased_same, h]
  · exact readByte_insertCell_same m a b

/-- A write of one address leaves every other as it was. -/
theorem readByte_writeByte_ne (m : List Host.Cell) (a x : Nat) (b : Byte) (h : x ≠ a) :
    readByte (writeByte m a b) x = readByte m x := by
  unfold writeByte
  split_ifs
  · exact readByte_erased_ne m a x h
  · exact readByte_insertCell_ne m a x b h

theorem readByte_writeOk_beyond (ok : Nat → Bool) (bs : List Byte) : ∀ (m : List Host.Cell) (a x : Nat),
    x < a ∨ a + bs.length ≤ x → readByte (writeOk ok m a bs) x = readByte m x := by
  induction bs with
  | nil => exact fun _ _ _ _ => rfl
  | cons b bs ih =>
    intro m a x hx
    rw [List.length_cons] at hx
    rw [writeOk, ih _ _ _ (by omega)]
    split_ifs
    · exact readByte_writeByte_ne m a x b (by omega)
    · rfl

theorem readByte_writeOk_at (ok : Nat → Bool) (bs : List Byte) : ∀ (m : List Host.Cell) (a i : Nat), i < bs.length →
    ok (a + i) = true → readByte (writeOk ok m a bs) (a + i) = bs.getD i 0#8 := by
  induction bs with
  | nil => exact fun _ _ _ h => absurd h (Nat.not_lt_zero _)
  | cons b bs ih =>
    intro m a i hi hok
    rw [writeOk]
    cases i with
    | zero =>
      rw [readByte_writeOk_beyond ok bs _ _ _ (by omega), if_pos (show ok a = true from hok)]
      exact readByte_writeByte_same m a b
    | succ i =>
      rw [show a + (i + 1) = a + 1 + i by omega] at hok ⊢
      rw [ih _ _ _ (Nat.lt_of_succ_lt_succ hi) hok, List.getD_cons_succ]

/-- R252: a store touches no byte outside those it writes. -/
theorem readByte_memStore_beyond (s : State) (a z : Nat) (bs : List Byte) (hz : z < a ∨ a + bs.length ≤ z) :
    readByte (memStore s a bs).mem z = readByte s.mem z := by
  rw [memStore_mem]
  exact readByte_writeOk_beyond _ bs s.mem a z hz

/-- R252: a byte stored in a word that is not poisoned. -/
theorem readByte_memStore_at (s : State) (a i : Nat) (bs : List Byte) (hi : i < bs.length) (hp : isPoisoned s (a + i) = false) :
    readByte (memStore s a bs).mem (a + i) = bs.getD i 0#8 := by
  rw [memStore_mem]
  exact readByte_writeOk_at _ bs s.mem a i hi (by rw [hp]; rfl)

end Sys2Proof.Machine
end

section
/-!
SUPPORT. Vector loads and stores at their pass (O25): what decoding words leaves of a read, and the bytes that stored elements change.
-/

namespace Sys2Proof.Machine

theorem memOnly_decodeHalves (s : State) (hs : List Half) : MemOnly s (decodeHalves s hs) := by
  refine memOnly_foldl _ (fun s h => ?_) hs s
  split
  · exact memOnly_rfl s
  · exact memOnly_decodeRead s _ _

theorem sameMemory_decodeHalves (s : State) (hs : List Half) : SameMemory s (decodeHalves s hs) := by
  unfold decodeHalves
  induction hs generalizing s with
  | nil => exact sameMemory_rfl s
  | cons h hs ih =>
    rw [List.foldl_cons]
    refine sameMemory_trans ?_ (ih _)
    split
    · exact sameMemory_rfl s
    · exact ⟨decodeRead_mem s _ _, decodeRead_poison s _ _⟩

theorem isPoisoned_congr {s s' : State} (h : SameMemory s s') (hp : s'.part = s.part) (a : Nat) : isPoisoned s' a = isPoisoned s a := by
  unfold isPoisoned
  rw [h.2, hp]

theorem readPoison_congr {s s' : State} (h : SameMemory s s') (hp : s'.part = s.part) (sb : List SBuf) (a n : Nat) :
    readPoison s' sb a n = readPoison s sb a n := by
  unfold readPoison
  simp only [isPoisoned_congr h hp]

/-- R103, R104: what a read gives is told by memory, its poison and the part. -/
theorem readParts_congr {s s' : State} (h : SameMemory s s') (hp : s'.part = s.part) (sb : List SBuf) (hs : List Half) :
    readParts s' sb hs = readParts s sb hs := by
  unfold readParts readMerged
  simp only [readPoison_congr h hp, h.1]

theorem poisonedElem_congr {s s' : State} (h : SameMemory s s') (hp : s'.part = s.part) (sb : List SBuf) (es : List VElem) :
    poisonedElem s' sb es = poisonedElem s sb es := by
  induction es with
  | nil => rfl
  | cons e es ih =>
    unfold poisonedElem poisonedPart
    simp only [readPoison_congr h hp, ih]

/-- R175: a register loaded without fills, element by element. -/
theorem loadInto_loadedElems (s : State) (old : BitVec 8192) (es : List VElem) : loadInto old [] (loadedElems s [] es) =
    BitVec.ofNat 8192
      (es.foldl (fun v q => setBits v q.pos q.bits (leNat (readParts s [] q.halves) / 2 ^ q.sub)) old.toNat) := by
  unfold loadInto loadedElems readElem
  rw [List.foldl_nil]
  dsimp only
  rw [List.foldl_map]

/-- Every piece of the bytes of a stored element belongs to one of its parts, and is no longer than that. -/
theorem partBytes_mem (hs : List Half) : ∀ (bs : List Byte), ∀ p ∈ partBytes hs bs, p.1 ∈ hs ∧ p.2.length ≤ p.1.len := by
  induction hs with
  | nil => exact fun _ p hp => absurd hp List.not_mem_nil
  | cons h hs ih =>
    intro bs p hp
    rcases List.mem_cons.1 hp with rfl | hp
    · exact ⟨List.mem_cons_self .., by simp⟩
    · obtain ⟨hmem, hlen⟩ := ih _ p hp
      exact ⟨List.mem_cons_of_mem _ hmem, hlen⟩

theorem memOnly_storeParts (l : List (Half × List Byte)) (s : State) :
    MemOnly s (l.foldl (fun s p => if p.1.bad then s else memStore s (paLocal p.1.pa) p.2) s) := by
  refine memOnly_foldl _ (fun s p => ?_) l s
  split
  · exact memOnly_rfl s
  · exact memOnly_memStore s _ _

theorem memOnly_storeElem (s : State) (v : BitVec 8192) (e : VElem) : MemOnly s (storeElem s v e) := by
  unfold storeElem
  split
  · split
    · split
      · exact memOnly_rfl s
      · exact memOnly_memStore s _ _
    · exact memOnly_rfl s
  · exact memOnly_storeParts _ s

theorem memOnly_storeElems (s : State) (v : BitVec 8192) (es : List VElem) : MemOnly s (es.foldl (fun s q => storeElem s v q) s) :=
  memOnly_foldl _ (fun s q => memOnly_storeElem s v q) es s

/-- An address lies in none of the parts, each of which has a byte. -/
def OutsideHalves (hs : List Half) (z : Nat) : Prop :=
  ∀ h ∈ hs, (z < paLocal h.pa ∨ paLocal h.pa + h.len ≤ z) ∧ 0 < h.len

theorem readByte_storeParts_outside (hs : List Half) (z : Nat) (hz : OutsideHalves hs z) (l : List (Half × List Byte)) :
    ∀ s : State, (∀ p ∈ l, p.1 ∈ hs ∧ p.2.length ≤ p.1.len) →
      readByte (l.foldl (fun s p => if p.1.bad then s else memStore s (paLocal p.1.pa) p.2) s).mem z = readByte s.mem z := by
  induction l with
  | nil => exact fun _ _ => rfl
  | cons p l ih =>
    intro s hl
    obtain ⟨hp, hlen⟩ := hl p (List.mem_cons_self ..)
    obtain ⟨hout, -⟩ := hz p.1 hp
    rw [List.foldl_cons, ih _ fun q hq => hl q (List.mem_cons_of_mem _ hq)]
    split
    · rfl
    · exact readByte_memStore_beyond s _ z _ (by omega)

/-- R177: an element written to memory changes no byte outside its parts. -/
theorem readByte_storeElem_outside (s : State) (v : BitVec 8192) (e : VElem) (z : Nat) (hz : OutsideHalves e.halves z) :
    readByte (storeElem s v e).mem z = readByte s.mem z := by
  unfold storeElem
  split
  · split
    · rename_i h hs heq
      obtain ⟨hout, hlen⟩ := hz h (by rw [heq]; exact List.mem_cons_self ..)
      split
      · rfl
      · exact readByte_memStore_beyond s _ z _ (by rw [List.length_singleton]; omega)
    · rfl
  · exact readByte_storeParts_outside e.halves z hz _ s (partBytes_mem _ _)

theorem readByte_storeElems_outside (v : BitVec 8192) (z : Nat) (es : List VElem) : ∀ s : State, OutsideHalves (elemHalves es) z →
    readByte (es.foldl (fun s q => storeElem s v q) s).mem z = readByte s.mem z := by
  induction es with
  | nil => exact fun _ _ => rfl
  | cons e es ih =>
    intro s hz
    have hsplit : elemHalves (e :: es) = e.halves ++ elemHalves es := rfl
    rw [hsplit] at hz
    rw [List.foldl_cons, ih _ fun h hh => hz h (List.mem_append_right _ hh)]
    exact readByte_storeElem_outside s v e z fun h hh => hz h (List.mem_append_left _ hh)

theorem getD_natLe (n : Nat) : ∀ v i, i < n → (natLe n v).getD i 0#8 = BitVec.ofNat 8 (v / 256 ^ i) := by
  induction n with
  | zero => exact fun _ _ h => absurd h (Nat.not_lt_zero _)
  | succ n ih =>
    intro v i hi
    cases i with
    | zero => simp [natLe]
    | succ i =>
      rw [natLe, List.getD_cons_succ, ih _ _ (Nat.lt_of_succ_lt_succ hi), Nat.div_div_eq_div_mul, Nat.pow_succ, Nat.mul_comm 256]

/-- R6: a byte of a field whose width is a whole number of bytes. -/
theorem byte_of_field (v pos n i : Nat) (hi : i < n) : field v pos (8 * n) / 256 ^ i % 256 = v / 2 ^ (pos + 8 * i) % 256 := by
  have hn : 8 * n = 8 * i + (8 + 8 * (n - i - 1)) := by omega
  have h256 : 256 ^ i = 2 ^ (8 * i) := by rw [Nat.pow_mul]
  unfold field
  rw [h256, hn, Nat.pow_add 2 (8 * i), Nat.mod_mul_right_div_self, Nat.pow_add 2 8, Nat.mod_mul_right_mod, Nat.div_div_eq_div_mul,
    ← Nat.pow_add]

/-- R175, R177: an element of whole bytes, written where it has one part. -/
theorem readByte_storeElem_inside (s : State) (v : BitVec 8192) (q : VElem) (h : Half) (i : Nat) (hh : q.halves = [h])
    (hbad : h.bad = false) (hbits : q.bits = 8 * h.len) (hi : i < h.len) (hp : isPoisoned s (paLocal h.pa + i) = false) :
    (readByte (storeElem s v q).mem (paLocal h.pa + i)).toNat = v.toNat / 2 ^ (q.pos + 8 * i) % 256 := by
  have hbytes : elemBytes v q = natLe h.len (field v.toNat q.pos (8 * h.len)) := by
    rw [elemBytes, hbits, Nat.mul_div_cancel_left _ (by decide : 0 < 8)]
  have hlen := length_natLe h.len (field v.toNat q.pos (8 * h.len))
  have hstore : storeElem s v q = memStore s (paLocal h.pa) (natLe h.len (field v.toNat q.pos (8 * h.len))) := by
    have htake : (natLe h.len (field v.toNat q.pos (8 * h.len))).take h.len = natLe h.len (field v.toNat q.pos (8 * h.len)) :=
      List.take_of_length_le (Nat.le_of_eq hlen)
    rw [storeElem, if_neg (by omega), hh, hbytes, partBytes, htake, partBytes, List.foldl_cons, List.foldl_nil, hbad,
      if_neg Bool.false_ne_true]
  rw [hstore, readByte_memStore_at s _ i _ (by rw [hlen]; exact hi) hp, getD_natLe _ _ _ hi, BitVec.toNat_ofNat,
    byte_of_field _ _ _ _ hi]

end Sys2Proof.Machine
end

section
/-!
SUPPORT. The passes of the vector queue (O25): results computed before, loads, stores and the values handed to the reduction unit.
-/

namespace Sys2Proof.Machine

theorem passFinds_decodeHalves {s s1 : State} {c n : Nat} (h : PassFinds s s1 c n) (hs : List Half) :
    PassFinds s (decodeHalves s1 hs) c n := by
  obtain ⟨hmoved, hmem⟩ := h
  refine ⟨?_, sameMemory_trans hmem (sameMemory_decodeHalves s1 hs)⟩
  rw [coreOf_of_memOnly (memOnly_decodeHalves s1 hs)]
  exact hmoved

/-- R451: catching up and decoding words do not touch the enables. -/
theorem steepEn_catchUpTo (s : State) (c n : Nat) : steepEn (catchUpTo s c n) = steepEn s := by
  obtain ⟨h, -⟩ := onlyUnits_catchUpFrom c n 128 s
  unfold steepEn catchUpTo
  rw [h]

theorem steepEn_of_memOnly {s s' : State} (h : MemOnly s s') : steepEn s' = steepEn s := by
  unfold steepEn
  rw [h]

/-- R157: a pass whose result is known already. -/
theorem passGives_reg (c : BitVec 8) (s : State) (e : VEnt) (rest : List VEnt) (d : VDst) (hq : (coreOf s c.toNat).vq = e :: rest)
    (hk : e.kind = .reg d) : PassGives s c e rest d e.flags := by
  refine passGives_of_runPass s _ c e rest d e.flags hq (passFinds_catchUpTo s c.toNat _) ?_
  show execVectorPassStart c s = _
  unfold execVectorPassStart
  rw [hq]
  dsimp only
  rw [hk]
  rfl

/-- R179, R252, R421: the pass of a load, by what it meets: s1 is the state with the words that it reads decoded. -/
theorem exec_vectorPassStart_load (c : BitVec 8) (s s1 : State) (e : VEnt) (rest : List VEnt) (d : BitVec 5) (es : List VElem)
    (hq : (coreOf s c.toNat).vq = e :: rest) (hk : e.kind = .load d [] es)
    (hs1 : s1 = decodeHalves (catchUpTo s c.toNat (passClock s c e)) (elemHalves es)) :
    (poisonedElem s1 [] es = none → exec (.vectorPassStart c) s = .next (runPass s1 c.toNat e (passClock s c e)
      (.v d (loadInto (getV (thOf (catchUpTo s c.toNat (passClock s c e)) c.toNat e.t) d) [] (loadedElems s1 [] es))) 0#5)) ∧
    (∀ h second, poisonedElem s1 [] es = some (h, second) →
      (steepEn s1 = true → exec (.vectorPassStart c) s = .next (decodeHalves s (elemHalves es))) ∧
      (steepEn s1 = false → e.exm = false → exec (.vectorPassStart c) s =
        .next (vecFault s1 c.toNat e (cPoison + (if second then 0x2000 else 0)) h.va))) := by
  have hexec : exec (.vectorPassStart c) s = execVectorPassStart c s := rfl
  unfold execVectorPassStart at hexec
  rw [hq] at hexec
  dsimp only at hexec
  rw [hk] at hexec
  dsimp only at hexec
  rw [show passStart (coreOf s c.toNat) e = passClock s c e from rfl, ← hs1] at hexec
  refine ⟨fun hnone => ?_, fun h second hsome => ⟨fun hen => ?_, fun hen hexm => ?_⟩⟩
  · rw [hexec, hnone]
  · rw [hexec, hsome]
    dsimp only
    rw [hen, if_pos rfl]
  · rw [hexec, hsome]
    dsimp only
    rw [hen, hexm, if_neg Bool.false_ne_true]
    rfl

/-- R156, R157, R177: the pass of a store. -/
theorem exec_vectorPassStart_store (c : BitVec 8) (s : State) (e : VEnt) (rest : List VEnt) (val : BitVec 8192) (es : List VElem)
    (hq : (coreOf s c.toNat).vq = e :: rest) (hk : e.kind = .store val es) :
    let s1 := catchUpTo s c.toNat (passClock s c e)
    exec (.vectorPassStart c) s = .next (wake (es.foldl (fun s q => storeElem s (storeValue (thOf s1 c.toNat e.t) e val) q)
      (setCore s1 c.toNat (beginPass (coreOf s1 c.toNat) e (passClock s c e)).1)) c.toNat) := by
  show execVectorPassStart c s = _
  unfold execVectorPassStart
  rw [hq]
  dsimp only
  rw [hk]
  rfl

@[simp] theorem addAll_q (l : List (Nat × FVal)) : ∀ r : RedUnit, (addAll r l).q = r.q := by
  induction l with
  | nil => exact fun _ => rfl
  | cons e l ih => exact fun r => ih { r with acc := tabMod {} r.acc e.1 fun a => accAdd (ruKind r.kind) a e.2 }

/-- R61: values added one after the other into one accumulator. -/
theorem addAll_one (n : Nat) (vals : List FVal) : ∀ r : RedUnit,
    addAll r (vals.map fun v => (n, v)) = { r with acc := (addAll r (vals.map fun v => (n, v))).acc } ∧
      tabGet {} (addAll r (vals.map fun v => (n, v))).acc n = vals.foldl (fun a v => accAdd (ruKind r.kind) a v) (tabGet {} r.acc n) ∧
      ∀ j, j ≠ n → tabGet {} (addAll r (vals.map fun v => (n, v))).acc j = tabGet {} r.acc j := by
  induction vals with
  | nil => exact fun _ => ⟨rfl, rfl, fun _ _ => rfl⟩
  | cons v vals ih =>
    intro r
    obtain ⟨hrest, hacc, hother⟩ := ih { r with acc := tabMod {} r.acc n fun a => accAdd (ruKind r.kind) a v }
    have hcons : addAll r ((v :: vals).map fun v => (n, v)) =
        addAll { r with acc := tabMod {} r.acc n fun a => accAdd (ruKind r.kind) a v } (vals.map fun v => (n, v)) := rfl
    rw [hcons]
    refine ⟨hrest, ?_, fun j hj => ?_⟩
    · rw [hacc, tabGet_tabMod_same, List.foldl_cons]
    · rw [hother j hj, tabGet_tabMod_ne _ _ _ _ _ hj]

@[simp] theorem wake_ru (s : State) (c : Nat) : (coreOf (wake s c) c).ru = (coreOf s c).ru := by
  obtain ⟨_, _, h⟩ := wake_eq s c
  rw [h, coreOf_setCore]

@[simp] theorem wake_vq (s : State) (c : Nat) : (coreOf (wake s c) c).vq = (coreOf s c).vq := by
  obtain ⟨_, _, h⟩ := wake_eq s c
  rw [h, coreOf_setCore]

@[simp] theorem wake_vrun (s : State) (c : Nat) : (coreOf (wake s c) c).vrun = (coreOf s c).vrun := by
  obtain ⟨_, _, h⟩ := wake_eq s c
  rw [h, coreOf_setCore]

/-- R157, R174: the pass of a VRSUM.HO whose place in the reduction unit's order has come, with a unit of its kind. -/
theorem exec_vectorPassStart_ho (c : BitVec 8) (s : State) (e : VEnt) (rest : List VEnt) (acc : Nat) (wide : Bool) (vals : List FVal)
    (q : RuEnt) (hq : (coreOf s c.toNat).vq = e :: rest) (hk : e.kind = .ho acc wide vals) (hru : (coreOf s c.toNat).ru.q = [q])
    (hop : q.op = .ho) (hbusy : (coreOf s c.toNat).ru.busy = false) (hkind : (coreOf s c.toNat).ru.kind = wide)
    (hacc : acc < (if wide then 16 else 64)) :
    let s1 := catchUpTo s c.toNat (passClock s c e)
    ∃ k, (coreOf s c.toNat).vq.tail = k.vq ∧
      k.ru = addAll { (coreOf s c.toNat).ru with q := [] } ((hoNow (thOf s c.toNat e.t) e vals).map fun v => (acc, v)) ∧
      exec (.vectorPassStart c) s = .next (wake (setCore s1 c.toNat k) c.toNat) := by
  intro s1
  have hmoved : UnitsMoved (coreOf s c.toNat) (coreOf s1 c.toNat) := unitsMoved_catchUpTo s c.toNat _
  have hru1 : (coreOf s1 c.toNat).ru = (coreOf s c.toNat).ru := by rw [hmoved]
  have hx := thOf_of_unitsMoved hmoved e.t
  have hfits : ((coreOf s c.toNat).ru.kind == wide && decide (acc < ruCount (coreOf s c.toNat).ru.kind)) = true := by
    rw [hkind, beq_self_eq_true, Bool.true_and]
    exact decide_eq_true hacc
  refine ⟨{ (beginPass (coreOf s1 c.toNat) e (max (passClock s c e) (coreOf s1 c.toNat).clk)).1 with
    ru := addAll { (coreOf s c.toNat).ru with q := [] } ((hoNow (thOf s c.toNat e.t) e vals).map fun v => (acc, v)) }, ?_, rfl, ?_⟩
  · simp only [beginPass]
    rw [hmoved]
  · show execVectorPassStart c s = _
    unfold execVectorPassStart
    rw [hq]
    dsimp only
    rw [hk]
    dsimp only
    rw [show passStart (coreOf s c.toNat) e = passClock s c e from rfl]
    rw [hru1, hru]
    dsimp only
    rw [hop, hbusy, hfits, hx, ruDrain_of_empty]
    · rfl
    · rw [coreOf_setCore]
      exact addAll_q _ _

end Sys2Proof.Machine
end

section
/-!
Vector passes (O25): which pass writes first and what its write changes of its thread, and what the head of the queue does by its kind.
-/

namespace Sys2Proof.Machine

theorem firstWrite_mem (l : List VEnt) : ∀ f, firstWrite l = some f → f ∈ l := by
  induction l with
  | nil => exact fun _ h => nomatch h
  | cons e l ih =>
    intro f h
    unfold firstWrite at h
    split at h
    · rename_i g hg
      split at h
      · rw [← Option.some.inj h]
        exact List.mem_cons_of_mem _ (ih g hg)
      · rw [← Option.some.inj h]
        exact List.mem_cons_self ..
    · rw [← Option.some.inj h]
      exact List.mem_cons_self ..

/-- R157: the earliest write clock writes first, and of several the first to have started. -/
theorem firstWrite_of_least (pre : List VEnt) (e : VEnt) (post : List VEnt) (hpre : ∀ q ∈ pre, e.wclk < q.wclk)
    (hpost : ∀ q ∈ post, e.wclk ≤ q.wclk) : firstWrite (pre ++ e :: post) = some e := by
  induction pre with
  | nil =>
    rw [List.nil_append, firstWrite]
    cases h : firstWrite post with
    | none => rfl
    | some f => exact if_neg (Nat.not_lt.2 (hpost f (firstWrite_mem post f h)))
  | cons p pre ih =>
    rw [List.cons_append, firstWrite, ih fun q hq => hpre q (List.mem_cons_of_mem _ hq)]
    exact if_pos (hpre p (List.mem_cons_self ..))

theorem getM_putM_ne (x : Thread) (r q : BitVec 4) (v : BitVec 1024) (h : q ≠ r) : getM (putM x r v) q = getM x q := by
  have hne : q.toNat ≠ r.toNat := fun e => h (BitVec.eq_of_toNat_eq e)
  unfold getM putM
  by_cases hr : r = 0#4
  · rw [if_pos hr]
  · rw [if_neg hr, tabGet_tabSet_ne _ _ _ _ _ hne]

/-- What a thread that goes on keeps of its registers, their scoreboard bits and its flags. -/
structure RegsKept (x y : Thread) : Prop where
  s : y.s = x.s
  v : y.v = x.v
  m : y.m = x.m
  sbS : y.sbS = x.sbS
  sbV : y.sbV = x.sbV
  sbM : y.sbM = x.sbM
  nflags : y.nflags = x.nflags

theorem regsKept_rfl (x : Thread) : RegsKept x x := ⟨rfl, rfl, rfl, rfl, rfl, rfl, rfl⟩

theorem regsKept_awakened (x : Thread) : RegsKept x (awakened x) := by
  unfold awakened
  split <;> exact ⟨rfl, rfl, rfl, rfl, rfl, rfl, rfl⟩

/-- A thread that wakes has the registers that it waited with. -/
theorem regsKept_wake (s : State) (c t : Nat) : RegsKept (thOf s c t) (thOf (wake s c) c t) := by
  obtain ⟨_, _, h⟩ := wake_eq s c
  unfold thOf threadOf
  rw [h, coreOf_setCore, tabGet_tabMap _ _ _ _ rfl]
  split
  · exact regsKept_awakened _
  · exact regsKept_rfl _

theorem RegsKept.getS {x y : Thread} (h : RegsKept x y) (r : BitVec 5) : getS y r = Machine.getS x r := by
  unfold Machine.getS
  rw [h.s]

theorem RegsKept.getV {x y : Thread} (h : RegsKept x y) (r : BitVec 5) : getV y r = Machine.getV x r := by
  unfold Machine.getV
  rw [h.v]

theorem RegsKept.getM {x y : Thread} (h : RegsKept x y) (r : BitVec 4) : getM y r = Machine.getM x r := by
  unfold Machine.getM
  rw [h.m]

theorem RegsKept.regBusy {x y : Thread} (h : RegsKept x y) (r : Reg) : regBusy y r = Machine.regBusy x r := by
  unfold Machine.regBusy
  rw [h.sbS, h.sbV, h.sbM]

/-- R81: a cleared scoreboard bit. -/
theorem regBusy_clearBusy_same (x : Thread) (r : Reg) : regBusy (clearBusy x r) r = false := by
  cases r with
  | s r =>
    have hr : r.toNat < 32 := r.isLt
    simp [regBusy, clearBusy, hr]
  | v r =>
    have hr : r.toNat < 32 := r.isLt
    simp [regBusy, clearBusy, hr]
  | m r =>
    have hr : r.toNat < 16 := r.isLt
    simp [regBusy, clearBusy, hr]

/-- R81, R157: a mask written changes no vector and no scalar register. -/
theorem writeVDst_m_keeps (x : Thread) (n : BitVec 4) (v : BitVec 1024) (g : BitVec 5) :
    (writeVDst x (.m n v) g).v = x.v ∧ (writeVDst x (.m n v) g).s = x.s := by
  simp only [writeVDst, clearBusy, putM]
  split <;> exact ⟨rfl, rfl⟩

/-- R81, R157: a scalar register written changes no vector register and no mask. -/
theorem writeVDst_s_keeps (x : Thread) (n : BitVec 5) (v : Word) (g : BitVec 5) :
    (writeVDst x (.s n v) g).v = x.v ∧ (writeVDst x (.s n v) g).m = x.m := by
  simp only [writeVDst, clearBusy, putS]
  split <;> exact ⟨rfl, rfl⟩

theorem getM_writeVDst (x : Thread) (n r : BitVec 4) (v : BitVec 1024) (g : BitVec 5) :
    getM (writeVDst x (.m n v) g) r = getM (putM x n v) r := by
  simp only [writeVDst, clearBusy, getM]

theorem getS_writeVDst (x : Thread) (n r : BitVec 5) (v : Word) (g : BitVec 5) :
    getS (writeVDst x (.s n v) g) r = getS (putS x n v) r := by
  simp only [writeVDst, clearBusy, getS]

/-- R81, R157: the thread of a pass with its result written; an entry without one writes none. -/
def resultWritten (e : VEnt) (x : Thread) : Thread :=
  match e.kind with
  | .reg d => writeVDst x d e.flags
  | _ => x

theorem resultWritten_of_reg {e : VEnt} {d : VDst} (h : e.kind = .reg d) (x : Thread) :
    resultWritten e x = writeVDst x d e.flags := by
  unfold resultWritten
  rw [h]

/-- R157: VECTOR_WRITE of a pass that is first: the thread is that with the result written, or has been woken with it. -/
theorem exec_vectorWrite_first (c : BitVec 8) (s : State) (e : VEnt) (pre post : List VEnt)
    (hrun : (coreOf s c.toNat).vrun = pre ++ e :: post) (hpre : ∀ q ∈ pre, e.wclk < q.wclk) (hpost : ∀ q ∈ post, e.wclk ≤ q.wclk) :
    ∃ s', exec (.vectorWrite c) s = .next s' ∧ (coreOf s' c.toNat).vrun = pre ++ post ∧
      (coreOf s' c.toNat).clk = max (coreOf s c.toNat).clk e.wclk ∧ SameMemory s s' ∧
      ∀ d, e.kind = .reg d → RegsKept (writeVDst (thOf s c.toNat e.t) d e.flags) (thOf s' c.toNat e.t) := by
  have hne : e ∉ pre := fun h => Nat.lt_irrefl _ (hpre e h)
  have herase : (pre ++ e :: post).erase e = pre ++ post := by rw [List.erase_append_right _ hne, List.erase_cons_head]
  generalize hs1 : setCore s c.toNat { coreOf s c.toNat with clk := max (coreOf s c.toNat).clk e.wclk, vrun := pre ++ post } = s1
  have hx : thOf s1 c.toNat e.t = thOf s c.toNat e.t := by
    rw [← hs1]
    unfold thOf
    rw [coreOf_setCore]
    rfl
  generalize hy : resultWritten e (thOf s c.toNat e.t) = y
  have hexec : exec (.vectorWrite c) s = .next (wake (setTh s1 c.toNat e.t y) c.toNat) := by
    show execVectorWrite c s = _
    unfold execVectorWrite
    dsimp only
    rw [hrun, firstWrite_of_least pre e post hpre hpost]
    dsimp only
    rw [herase, hs1, ← hy]
    exact congrArg (fun x => Host.Outcome.next (wake (setTh s1 c.toNat e.t (resultWritten e x)) c.toNat)) hx
  obtain ⟨_, _, hwake⟩ := wake_eq (setTh s1 c.toNat e.t y) c.toNat
  refine ⟨_, hexec, ?_, ?_, ?_, fun d hd => ?_⟩
  · rw [wake_vrun, setTh, coreOf_setCore, ← hs1, coreOf_setCore]
  · rw [hwake, coreOf_setCore, setTh, coreOf_setCore, ← hs1, coreOf_setCore]
  · rw [← hs1]
    exact sameMemory_rfl s
  · have hkept := regsKept_wake (setTh s1 c.toNat e.t y) c.toNat e.t
    rw [thOf_setTh] at hkept
    rw [← resultWritten_of_reg hd, hy]
    exact hkept

theorem vectorWrites : VectorWrites := by
  intro c s e pre post hrun hpre hpost x
  obtain ⟨s', hexec, hvrun, hclk, hmem, hkept⟩ := exec_vectorWrite_first c s e pre post hrun hpre hpost
  refine ⟨s', hexec, hvrun, hclk, hmem, fun n v hk => ?_, fun n v hk => ?_, fun n v hk => ?_⟩
  · have h := hkept _ hk
    refine ⟨?_, ?_, fun r hr => ?_, h.s, h.m, h.nflags⟩
    · exact (h.getV n).trans (getV_putV_same x n v)
    · exact (h.regBusy _).trans (regBusy_clearBusy_same (putV x n v) (.v n))
    · exact (h.getV r).trans (getV_putV_ne x n r v hr)
  · have h := hkept _ hk
    obtain ⟨hv, hs⟩ := writeVDst_m_keeps x n v e.flags
    refine ⟨?_, ?_, fun r hr => ?_, h.v.trans hv, h.s.trans hs⟩
    · exact ((h.getM n).trans (getM_writeVDst x n n v _)).trans (getM_putM_same x n v)
    · exact (h.regBusy _).trans (regBusy_clearBusy_same (putM x n v) (.m n))
    · exact ((h.getM r).trans (getM_writeVDst x n r v _)).trans (getM_putM_ne x n r v hr)
  · have h := hkept _ hk
    obtain ⟨hv, hm⟩ := writeVDst_s_keeps x n v e.flags
    refine ⟨?_, ?_, fun r hr => ?_, h.v.trans hv, h.m.trans hm⟩
    · exact ((h.getS n).trans (getS_writeVDst x n n v _)).trans (getS_putS_same x n v)
    · exact (h.regBusy _).trans (regBusy_clearBusy_same (putS x n v) (.s n))
    · exact ((h.getS r).trans (getS_writeVDst x n r v _)).trans (getS_putS_ne x n r v hr)

/-- R156, R157, R177: VECTOR_PASS_START of a store: memory as its elements are written one after the other. -/
theorem vectorPassStart_store_gives (c : BitVec 8) (s : State) (e : VEnt) (rest : List VEnt) (val : BitVec 8192) (es : List VElem)
    (hq : (coreOf s c.toNat).vq = e :: rest) (hk : e.kind = .store val es) :
    ∃ s' s1, exec (.vectorPassStart c) s = .next s' ∧ (coreOf s' c.toNat).vq = rest ∧
      SameMemory (es.foldl (fun m q => storeElem m (storeValue (thOf s c.toNat e.t) e val) q) s1) s' ∧
      SameMemory (catchUpTo s c.toNat (passClock s c e)) s1 ∧ s1.part = (catchUpTo s c.toNat (passClock s c e)).part := by
  have hmoved := unitsMoved_catchUpTo s c.toNat (passClock s c e)
  have hx := thOf_of_unitsMoved hmoved e.t
  have hexec := exec_vectorPassStart_store c s e rest val es hq hk
  dsimp only at hexec
  rw [hx] at hexec
  generalize catchUpTo s c.toNat (passClock s c e) = m at hexec hmoved ⊢
  refine ⟨_, setCore m c.toNat (beginPass (coreOf m c.toNat) e (passClock s c e)).1, hexec, ?_, ?_, ⟨rfl, rfl⟩, rfl⟩
  · rw [wake_vq, coreOf_of_memOnly (memOnly_storeElems _ _ es), coreOf_setCore, hmoved]
    simp only [beginPass]
    rw [hq, List.tail_cons]
  · exact sameMemory_wake _ _

theorem part_decodeHalves (s : State) (hs : List Half) : (decodeHalves s hs).part = s.part := by
  rw [memOnly_decodeHalves s hs]

theorem vectorPassStarts : VectorPassStarts := by
  intro c s e rest _ hq k x m
  have hmoved : UnitsMoved k (coreOf m c.toNat) := unitsMoved_catchUpTo s c.toNat _
  have hx : thOf m c.toNat e.t = x := thOf_of_unitsMoved hmoved e.t
  refine ⟨fun d hk => passGives_reg c s e rest d hq hk, fun d es hk hnone => ?_, fun d es h second hk hsome => ?_,
    fun val es v hk hv => ?_, fun acc wide vals q hk hru hop hbusy hkind hacc => ?_⟩
  · obtain ⟨hload, -⟩ := exec_vectorPassStart_load c s _ e rest d es hq hk rfl
    have hread := readParts_congr (sameMemory_decodeHalves m (elemHalves es)) (part_decodeHalves m _) []
    have hexec := hload ((poisonedElem_congr (sameMemory_decodeHalves m _) (part_decodeHalves m _) [] es).trans hnone)
    rw [loadInto_loadedElems, hx] at hexec
    simp only [m] at hread
    simp only [hread] at hexec
    exact passGives_of_runPass s _ c e rest _ _ hq (passFinds_decodeHalves (passFinds_catchUpTo s c.toNat _) _) hexec
  · obtain ⟨-, hpoison⟩ := exec_vectorPassStart_load c s _ e rest d es hq hk rfl
    obtain ⟨hwaits, htakes⟩ := hpoison h second
      ((poisonedElem_congr (sameMemory_decodeHalves m _) (part_decodeHalves m _) [] es).trans hsome)
    rw [steepEn_of_memOnly (memOnly_decodeHalves _ _), steepEn_catchUpTo] at hwaits htakes
    refine ⟨fun hen => ⟨_, hwaits hen, ?_, ?_, sameMemory_decodeHalves s _⟩, fun hen hexm hst => ?_⟩
    · rw [coreOf_of_memOnly (memOnly_decodeHalves s _), hq]
    · rw [coreOf_of_memOnly (memOnly_decodeHalves s _)]
    · obtain ⟨hunits, -⟩ := passFinds_decodeHalves (passFinds_catchUpTo s c.toNat (passClock s c e)) (elemHalves es)
      exact passFault_enters hq hunits hst (htakes hen hexm)
  · obtain ⟨s', s1, hexec, hvq, hstored, hmem, hpart⟩ := vectorPassStart_store_gives c s e rest val es hq hk
    rw [show storeValue (thOf s c.toNat e.t) e val = v from hv.symm] at hstored
    refine ⟨s', hexec, hvq, fun z hout hlen => ?_, fun q h hes hh hbad hbits i hi hp => ?_⟩
    · rw [hstored.1, readByte_storeElems_outside v z es s1 fun h hm => ⟨hout h hm, hlen h hm⟩, hmem.1]
    · rw [hstored.1, hes]
      exact readByte_storeElem_inside s1 v q h i hh hbad hbits hi ((isPoisoned_congr hmem hpart _).trans hp)
  · obtain ⟨k', hvq, hk', hexec⟩ := exec_vectorPassStart_ho c s e rest acc wide vals q hq hk hru hop hbusy hkind hacc
    obtain ⟨-, hsum, hother⟩ := addAll_one acc (hoNow x e vals) { k.ru with q := [] }
    refine ⟨_, hexec, ?_, ?_, sameMemory_wake _ _, ?_, fun j hj => ?_⟩
    · rw [wake_vq, coreOf_setCore, ← hvq, hq, List.tail_cons]
    · rw [wake_ru, coreOf_setCore, hk', addAll_q]
    · rw [wake_ru, coreOf_setCore, hk', hsum, ← hkind]
    · rw [wake_ru, coreOf_setCore, hk', hother j hj]

end Sys2Proof.Machine

open Sys2Proof Sys2Proof.Machine

/-- Settles O25: the head of the queue by the kind of its entry, and the first of the passes that have run. -/
theorem vectorPasses : Obligations.VectorPasses := ⟨vectorPassStarts, vectorWrites⟩

end

section
/-!
SUPPORT. Time goes on (O29): what the writes of a core's stream passes do where its loader has nothing to read, and what time brings about
where no pass has a write to make.
-/

namespace Sys2Proof.Machine

/-- R131, R134: with nothing to load, time brings about the writes of the stream passes. -/
theorem catchUpTo_of_no_load (s : State) (c clk : Nat) (hl : (coreOf s c).mx.loadSrc = []) :
    catchUpTo s c clk = streamWrites s c clk := by
  unfold catchUpTo
  rw [catchUpFrom]
  simp [hl]

/-- One pass that ends has one write, and no pass runs. -/
theorem writesBefore_one (e : StreamEng) (n clk a : Nat) (bs : List Byte) (r : SeRun) (hr : e.run = none) (he : e.ending = [r])
    (hw : r.writes = [(clk, a, bs)]) : writesBefore e n = if clk < n then [(clk, a, bs)] else [] := by
  simp only [writesBefore, hr, he, hw, Option.toList_none, List.append_nil, List.map_cons, List.map_nil, List.flatten_cons,
    List.flatten_nil, List.filter_cons, List.filter_nil, decide_eq_true_eq]
  split <;> rfl

theorem streamWrites_none (s : State) (c clk : Nat) (h : writesBefore (coreOf s c).se clk = []) : streamWrites s c clk = s := by
  unfold streamWrites
  dsimp only
  rw [h]

/-- R134, R235: a pass with the writes left that come at a clock or later. -/
def keptWrites (n : Nat) (r : SeRun) : SeRun := { r with writes := r.writes.filter fun w => !(decide (w.1 < n)) }

theorem streamWrites_of_writes (s : State) (c n : Nat) (w : Nat × Nat × List Byte) (ws : List (Nat × Nat × List Byte))
    (h : writesBefore (coreOf s c).se n = w :: ws) :
    streamWrites s c n = setSe ((w :: ws).foldl (fun s w => memStore s w.2.1 w.2.2) s) c { (coreOf s c).se with
      run := (coreOf s c).se.run.map (keptWrites n), ending := (coreOf s c).se.ending.map (keptWrites n) } := by
  unfold streamWrites
  dsimp only
  rw [h]
  rfl

/-- R134, R235: the one write of a pass that ends, once its clock has come. -/
theorem streamWrites_one (s : State) (c n clk a : Nat) (bs : List Byte) (r : SeRun) (hr : (coreOf s c).se.run = none)
    (he : (coreOf s c).se.ending = [r]) (hw : r.writes = [(clk, a, bs)]) (hlt : clk < n) :
    streamWrites s c n = setSe (memStore s a bs) c { (coreOf s c).se with run := none, ending := [{ r with writes := [] }] } := by
  have hb : writesBefore (coreOf s c).se n = [(clk, a, bs)] := by rw [writesBefore_one _ n clk a bs r hr he hw, if_pos hlt]
  have hk : keptWrites n r = { r with writes := [] } := by simp [keptWrites, hw, hlt]
  rw [streamWrites_of_writes s c n _ _ hb, hr, he, List.map_cons, List.map_nil, Option.map_none, hk, List.foldl_cons, List.foldl_nil]

theorem catchUp_of_no_load (s : State) (c : Nat) (hl : (coreOf s c).mx.loadSrc = []) :
    catchUp s c = streamWrites s c (coreOf s c).clk := by
  unfold catchUp
  exact catchUpTo_of_no_load s c _ hl

theorem memWf_catchUp (s : State) (c : Nat) (h : memWf s.mem = true) : memWf (catchUp s c).mem = true := by
  unfold catchUp
  exact memWf_catchUpTo s c _ h

/-- R134, R235: the only write of a core's passes, made once the core's clock is past its own. -/
theorem catchUp_one_write (s : State) (c clk a : Nat) (bs : List Byte) (r : SeRun) (hl : (coreOf s c).mx.loadSrc = [])
    (hr : (coreOf s c).se.run = none) (he : (coreOf s c).se.ending = [r]) (hw : r.writes = [(clk, a, bs)])
    (hlt : clk < (coreOf s c).clk) : catchUp s c =
      setSe (memStore s a bs) c { (coreOf s c).se with run := none, ending := [{ r with writes := [] }] } := by
  rw [catchUp_of_no_load s c hl]
  exact streamWrites_one s c _ clk a bs r hr he hw hlt

theorem catchUp_early_write (s : State) (c clk a : Nat) (bs : List Byte) (r : SeRun) (hl : (coreOf s c).mx.loadSrc = [])
    (hr : (coreOf s c).se.run = none) (he : (coreOf s c).se.ending = [r]) (hw : r.writes = [(clk, a, bs)])
    (hle : (coreOf s c).clk ≤ clk) : catchUp s c = s := by
  refine catchUp_idle s c hl ?_
  rw [writesBefore_one _ _ clk a bs r hr he hw, if_neg (Nat.not_lt.2 hle)]

/-- A stream engine replaced leaves memory alone. -/
theorem setSe_mem (s : State) (c : Nat) (e : StreamEng) : (setSe s c e).mem = s.mem := rfl

theorem unitsGoOn : UnitsGoOn := by
  intro c s k
  obtain ⟨hmem, hother, hcore⟩ := onlyUnits_catchUp s c
  refine ⟨hcore, hother, hmem, fun ⟨hl, hr, he⟩ => catchUp_idle s c hl (writesBefore_idle _ _ hr he), memWf_catchUp s c,
    fun r clk a bs hl hr he hw => ⟨fun hle => catchUp_early_write s c clk a bs r hl hr he hw hle, fun hlt => ?_⟩⟩
  rw [catchUp_one_write s c clk a bs r hl hr he hw hlt, setSe_mem]
  refine ⟨fun z hz => readByte_memStore_beyond s a z bs hz, fun i hi hp => readByte_memStore_at s a i bs hi hp, ?_⟩
  rw [setSe, coreOf_setCore]

end Sys2Proof.Machine
end

section
/-!
SUPPORT. The stream engine's events (O29): firings that enter the queue, passes that start, read their groups, complete and are held.
-/

namespace Sys2Proof.Machine

/-- A value written in a table is the first with its number. -/
theorem tabFind_tabSet_same {α : Type} (t : Tab α) (k : Nat) (v : α) : tabFind (tabSet t k v) (fun n _ => n == k) = some (k, v) := by
  induction t with
  | nil => simp [tabFind, tabSet]
  | cons e t ih =>
    simp only [tabSet]
    split_ifs with hk hlt
    · simp [tabFind]
    · simp [tabFind]
    · unfold tabFind at ih ⊢
      rw [List.find?_cons_of_neg (by simpa using Ne.symm hk)]
      exact ih

theorem tabErase_singleton {α : Type} (k : Nat) (v : α) : tabErase [(k, v)] k = [] := by simp [tabErase]

theorem tabSet_singleton {α : Type} (k : Nat) (v w : α) : tabSet [(k, v)] k w = [(k, w)] := by simp [tabSet]

/-- R403, R408: outside replay an event of the hardware leaves its mark in the logs alone. -/
theorem outcome_eq_of_no_replay (s : State) (ty : Nat) (key : List Nat) (v : Word) (h : s.steep.replay = []) :
    ∃ st, st.replay = [] ∧ outcome s ty key v = (v, { s with steep := st }) := by
  unfold outcome
  rw [h]
  dsimp only [List.find?]
  split
  · exact ⟨{ s.steep with outcome := s.steep.outcome ++ [{ ty := ty, key := key, val := v }] }, h, rfl⟩
  · exact ⟨s.steep, h, rfl⟩

/-- R238, R403: outside replay an entry joins the stream queue; only the logs of full failure protection record it. -/
theorem enterQueue_of_no_replay (s : State) (c code : Nat) (h : s.steep.replay = []) (hlt : code < 2 ^ 64) :
    ∃ st, st.replay = [] ∧ enterQueue s c code = some { s with steep := st } := by
  have hcode : (BitVec.ofNat 64 code).toNat = code := by rw [BitVec.toNat_ofNat, Nat.mod_eq_of_lt hlt]
  obtain ⟨st, hst, hout⟩ := outcome_eq_of_no_replay s 6 [c] (BitVec.ofNat 64 code) h
  refine ⟨st, hst, ?_⟩
  unfold enterQueue
  rw [hout]
  exact if_pos hcode

/-- R45, R237: ARM_FIRING of the only arm. -/
theorem exec_armFiring_one (c : BitVec 8) (s : State) (hreplay : s.steep.replay = []) (i : Nat) (arm : Arm) (d : SDesc) (more : List SDesc)
    (harms : (coreOf s c.toNat).se.arms = [(i, arm)]) (hdue : arm.k < arm.due) (hroom : (coreOf s c.toNat).se.q.length < 4)
    (hprog : arm.prog = d :: more) (hcode : 1 + i * 65536 + arm.k < 2 ^ 64) :
    ∃ s1 e, SameMemory s s1 ∧ exec (.armFiring c) s = .next (wake (setSe s1 c.toNat { (coreOf s c.toNat).se with
          q := (coreOf s c.toNat).se.q ++ [e]
          arms := if d.repeats ≤ arm.k + 1 then [] else [(i, { arm with k := arm.k + 1 })]
          nextId := (coreOf s c.toNat).se.nextId + 1 }) c.toNat) ∧ e.t = arm.t ∧ e.armed = true ∧
        e.prog = arm.prog.map (firedDesc (thOf s c.toNat arm.t) arm.k) ∧ e.so = (if d.csoen then some d.cso else none) ∧
        e.seed = seedOf s (thOf s c.toNat arm.t) ∧ e.handoff = (coreOf s c.toNat).clk ∧ e.id = (coreOf s c.toNat).se.nextId := by
  obtain ⟨st, -, henter⟩ := enterQueue_of_no_replay s c.toNat _ hreplay hcode
  refine ⟨{ s with steep := st }, {
      t := arm.t
      prog := arm.prog.map (firedDesc (thOf s c.toNat arm.t) arm.k)
      ref := d.aref
      wait := 0
      so := if d.csoen then some d.cso else none
      armed := true
      handoff := (coreOf s c.toNat).clk
      seed := seedOf s (thOf s c.toNat arm.t)
      id := (coreOf s c.toNat).se.nextId }, ⟨rfl, rfl⟩, ?_, rfl, rfl, rfl, rfl, rfl, rfl, rfl⟩
  have hfind : [(i, arm)].find? (fun e => decide (e.2.k < e.2.due)) = some (i, arm) := by simp [hdue]
  have hr : seRoom (coreOf s c.toNat).se = true := decide_eq_true hroom
  show execArmFiring c s = _
  unfold execArmFiring
  dsimp only
  rw [harms, hfind]
  dsimp only
  rw [hr, henter]
  dsimp only [Bool.not_true, Bool.false_eq_true, if_false]
  rw [hprog, List.headD_cons, tabErase_singleton, tabSet_singleton]
  simp only [Bool.not_true, Bool.false_eq_true, if_false, decide_eq_true_eq]
  rfl

/-- R134: STREAM_PASS_START of a pass without a ROWRED. -/
theorem exec_streamPassStart_plain (c : BitVec 8) (s : State) (e : SeEnt) (rest : List SeEnt) (hrun : (coreOf s c.toNat).se.run = none)
    (hq : (coreOf s c.toNat).se.q = e :: rest) (hrow : progRowred e.prog = false) :
    ∃ r, r.ent = e ∧ r.pos = 0 ∧ r.desc = 0 ∧ r.clk = startClock (coreOf s c.toNat).se e ∧
      exec (.streamPassStart c) s = .next (wake (setCore s c.toNat { coreOf s c.toNat with
        clk := max (coreOf s c.toNat).clk r.clk, inRd := 0, inWr := 0
        se := { (coreOf s c.toNat).se with run := some r, q := rest } }) c.toNat) := by
  refine ⟨{
      ent := e
      desc := 0
      pos := 0
      clk := startClock (coreOf s c.toNat).se e
      writes := []
      lastRead := startClock (coreOf s c.toNat).se e
      flags := if (e.prog.any fun d => isRowred d && !(rowredOk (coreOf s c.toNat).ru (worldOf (coreOf s c.toNat) e.t) d)) then 8#4
        else 0#4
      susp := false
      lead := 0
      poisoned := false }, rfl, rfl, rfl, rfl, ?_⟩
  show execStreamPassStart c s = _
  unfold execStreamPassStart
  dsimp only
  rw [hrun, hq]
  dsimp only
  rw [hrow, Bool.false_and, if_neg Bool.false_ne_true, Bool.or_false]

/-- R134: a pass starts after the clock of its hand-off. -/
theorem handoff_lt_startClock (e : StreamEng) (q : SeEnt) : q.handoff < startClock e q := by
  unfold startClock
  split <;> omega

end Sys2Proof.Machine
end

section
/-!
SUPPORT. The groups of a stream pass (O29): what a pass without writes to come finds as it reads a group, and what it goes on as.
-/

namespace Sys2Proof.Machine

theorem loadGroup_kept (s : State) (c clk : Nat) :
    (coreOf (loadGroup s c clk) c).se = (coreOf s c).se ∧ SameMemory s (loadGroup s c clk) := by
  unfold loadGroup setMx
  dsimp only
  split
  · exact ⟨rfl, sameMemory_rfl s⟩
  · have hcore := coreOf_of_memOnly
      (memOnly_foldl _ (fun s (e : Nat × Nat) => memOnly_decodeRead s e.1 e.2) (takeSrc 512 (coreOf s c).mx.loadSrc).1 s) c
    have hmem := decodePieces_kept (takeSrc 512 (coreOf s c).mx.loadSrc).1 s
    split
    · rw [coreOf_setCore, hcore]
      exact ⟨rfl, hmem⟩
    · rw [coreOf_setCore, hcore]
      exact ⟨rfl, hmem⟩

/-- R131, R134: where no pass has a write to make, time changes no byte and nothing of the stream engine. -/
theorem catchUpFrom_no_writes (c clk n : Nat) : ∀ s : State, (∀ k, writesBefore (coreOf s c).se k = []) →
    (coreOf (catchUpFrom c clk n s) c).se = (coreOf s c).se ∧ SameMemory s (catchUpFrom c clk n s) := by
  induction n with
  | zero =>
    intro s h
    rw [catchUpFrom, streamWrites_none s c clk (h clk)]
    exact ⟨rfl, sameMemory_rfl s⟩
  | succ n ih =>
    intro s h
    unfold catchUpFrom
    dsimp only
    rw [streamWrites_none s c _ (h _), streamWrites_none s c clk (h clk)]
    split
    · obtain ⟨hse, hmem⟩ := loadGroup_kept s c clk
      obtain ⟨hse', hmem'⟩ := ih (loadGroup s c clk) (by rw [hse]; exact h)
      exact ⟨hse'.trans hse, sameMemory_trans hmem hmem'⟩
    · exact ⟨rfl, sameMemory_rfl s⟩

theorem catchUpTo_no_writes (s : State) (c clk : Nat) (h : ∀ k, writesBefore (coreOf s c).se k = []) :
    (coreOf (catchUpTo s c clk) c).se = (coreOf s c).se ∧ SameMemory s (catchUpTo s c clk) := by
  unfold catchUpTo
  exact catchUpFrom_no_writes c clk 128 s h

/-- A pass that runs without writes to come, and none that ends. -/
theorem writesBefore_run (e : StreamEng) (r : SeRun) (hr : e.run = some r) (hw : r.writes = []) (he : e.ending = []) (k : Nat) :
    writesBefore e k = [] := by
  simp [writesBefore, hr, hw, he]

theorem memOnly_streamDecode (s : State) (c t : Nat) (g : SGeom) (pos n : Nat) : MemOnly s (streamDecode s c t g pos n) := by
  unfold streamDecode
  split
  · exact memOnly_rfl s
  · refine memOnly_foldl _ (fun s i => ?_) _ s
    dsimp only
    split
    · exact memOnly_trans (memOnly_unitDecode s c t _ _) (memOnly_unitDecode _ c t _ _)
    · exact memOnly_unitDecode s c t _ _

theorem sameMemory_foldl {α : Type} (f : State → α → State) (hf : ∀ s a, SameMemory s (f s a)) (l : List α) :
    ∀ s, SameMemory s (l.foldl f s) := by
  induction l with
  | nil => exact sameMemory_rfl
  | cons a l ih => exact fun s => sameMemory_trans (hf s a) (ih _)

theorem sameMemory_streamDecode (s : State) (c t : Nat) (g : SGeom) (pos n : Nat) : SameMemory s (streamDecode s c t g pos n) := by
  unfold streamDecode
  split
  · exact sameMemory_rfl s
  · refine sameMemory_foldl _ (fun s i => ?_) _ s
    dsimp only
    split
    · exact sameMemory_trans (sameMemory_unitDecode s c t _ _) (sameMemory_unitDecode _ c t _ _)
    · exact sameMemory_unitDecode s c t _ _

/-- R252: the words of a group decoded: no byte, no poison and no core changes. -/
theorem groupDecode_kept (s : State) (c t : Nat) (d : SDesc) (pos : Nat) :
    MemOnly s (groupDecode s c t d pos) ∧ SameMemory s (groupDecode s c t d pos) :=
  ⟨memOnly_trans (memOnly_trans (memOnly_streamDecode s c t _ _ _) (memOnly_streamDecode _ c t _ _ _)) (memOnly_streamDecode _ c t _ _ _),
   sameMemory_trans (sameMemory_trans (sameMemory_streamDecode s c t _ _ _) (sameMemory_streamDecode _ c t _ _ _))
    (sameMemory_streamDecode _ c t _ _ _)⟩

/-- R234, R235: the last clock in which a pass reads the group at its position. -/
def groupEnd (r : SeRun) (d : SDesc) : Nat := r.clk + (min 256 (d.n - r.pos) + rateOf d - 1) / rateOf d - 1

/-- R235: a pass with a group read and computed. -/
def runAfter (r : SeRun) (d : SDesc) (g : GroupOut) : SeRun :=
  { r with
    pos := r.pos + 256, clk := groupEnd r d + 1, lastRead := groupEnd r d, flags := r.flags ||| engBits g.fl
    writes := r.writes ++ g.writes.map (fun w => (groupEnd r d + writeDelay d, w.1, w.2)), poisoned := r.poisoned || g.poison }

/-- R235: the stream engine after a group of its pass: the pass goes on, with its next descriptor where this one is through, or ends. -/
def engineAfter (e : StreamEng) (r : SeRun) (d : SDesc) (g : GroupOut) : StreamEng :=
  if r.pos + 256 < d.n then { e with run := some (runAfter r d g) }
  else if r.desc + 1 < r.ent.prog.length then
    { e with run := some { runAfter r d g with desc := r.desc + 1, pos := 0, clk := groupEnd r d + writeDelay d + 1 } }
  else { e with
    run := none, ending := e.ending ++ [{ runAfter r d g with clk := groupEnd r d + writeDelay d }]
    lastRead := some (groupEnd r d), lastWrite := some (groupEnd r d + writeDelay d) }

/-- R235: STREAM_GROUP of a pass that meets no poison and has no write to come. -/
theorem exec_streamGroup_clean (c : BitVec 8) (s : State) (r : SeRun) (d : SDesc) (hrun : (coreOf s c.toNat).se.run = some r)
    (hsusp : r.susp = false) (hd : r.ent.prog[r.desc]? = some d) (hw : r.writes = []) (he : (coreOf s c.toNat).se.ending = [])
    (hclean : (runGroup (catchUpTo s c.toNat r.clk) c.toNat r d).poison = false) :
    ∃ sd k, SameMemory s sd ∧ k.se = engineAfter (coreOf s c.toNat).se r d (runGroup (catchUpTo s c.toNat r.clk) c.toNat r d) ∧
      exec (.streamGroup c) s = .next (setCore sd c.toNat k) := by
  obtain ⟨hse, hmem⟩ := catchUpTo_no_writes s c.toNat r.clk fun k => writesBefore_run _ r hrun hw he k
  have hexec : exec (.streamGroup c) s = execStreamGroup c s := rfl
  unfold execStreamGroup at hexec
  rw [hrun] at hexec
  dsimp only at hexec
  rw [hsusp, if_neg Bool.false_ne_true, hse, hrun] at hexec
  dsimp only at hexec
  rw [hd] at hexec
  dsimp only at hexec
  rw [hclean, Bool.false_and, Bool.false_and, if_neg Bool.false_ne_true, if_neg Bool.false_ne_true] at hexec
  generalize catchUpTo s c.toNat r.clk = m at hclean hse hmem hexec ⊢
  obtain ⟨honly, hsame⟩ := groupDecode_kept m c.toNat r.ent.t d r.pos
  rw [coreOf_of_memOnly honly, hse] at hexec
  refine ⟨_, _, sameMemory_trans hmem hsame, ?_, hexec⟩
  unfold engineAfter runAfter groupEnd
  rw [hclean]

end Sys2Proof.Machine
end

section
/-!
SUPPORT. The end of a stream pass (O29): its signal and its flags, and the boundary at which it is held.
-/

namespace Sys2Proof.Machine

/-- What of a core the completion of waiters and a notification leave alone, as far as its passes go. -/
def PassesKept (s s' : State) (c : Nat) : Prop :=
  (coreOf s' c).clk = (coreOf s c).clk ∧ (coreOf s' c).ru = (coreOf s c).ru ∧
    (coreOf s' c).se.ending = (coreOf s c).se.ending ∧ (coreOf s' c).se.doneAt = (coreOf s c).se.doneAt

theorem passesKept_trans {a b d : State} {c : Nat} (h : PassesKept a b c) (g : PassesKept b d c) : PassesKept a d c := by
  obtain ⟨h1, h2, h3, h4⟩ := h
  obtain ⟨g1, g2, g3, g4⟩ := g
  exact ⟨g1.trans h1, g2.trans h2, g3.trans h3, g4.trans h4⟩

theorem passesKept_of_cores {s s' : State} (c : Nat) (h : s'.cores = s.cores) : PassesKept s s' c := by
  unfold PassesKept coreOf
  rw [h]
  exact ⟨rfl, rfl, rfl, rfl⟩

theorem passesKept_setTh (s : State) (c c' t : Nat) (x : Thread) : PassesKept s (setTh s c' t x) c := by
  unfold PassesKept setTh
  by_cases hc : c = c'
  · rw [hc, coreOf_setCore]
    exact ⟨rfl, rfl, rfl, rfl⟩
  · rw [coreOf_setCore_ne _ _ _ _ hc]
    exact ⟨rfl, rfl, rfl, rfl⟩

theorem passesKept_finishWaiter (s : State) (n c : Nat) (w : Waiter) (code : Word) : PassesKept s (finishWaiter s n w code) c := by
  unfold finishWaiter
  split
  · dsimp only
    split
    · split
      · exact passesKept_trans (passesKept_of_cores c (outcome_cores s 1 _ code)) (passesKept_setTh _ c _ _ _)
      · exact passesKept_of_cores c rfl
    · exact passesKept_of_cores c rfl
  · exact passesKept_of_cores c (emit_cores _ none _ _)

theorem passesKept_finishWaiters (n c : Nat) (code : Word) (l : List WaitEnt) :
    ∀ s, PassesKept s (l.foldl (fun s w => finishWaiter s n w.who code) s) c := by
  induction l with
  | nil => exact fun s => passesKept_of_cores c rfl
  | cons w l ih => exact fun s => passesKept_trans (passesKept_finishWaiter s n c w.who code) (ih _)

theorem passesKept_notifySo (s : State) (n c : Nat) : PassesKept s (notifySo s n) c := by
  have h (α : Type) (p : Core → α) (hp : ∀ k, p (notifyArms (notifySources k n) n (soOf s n).val) = p k) :
      p (coreOf (notifySo s n) c) = p (coreOf s c) :=
    tabGet_tabMap_part p {} s.cores (fun _ k => notifyArms (notifySources k n) n (soOf s n).val) c fun _ k => hp k
  exact ⟨h _ Core.clk fun _ => rfl, h _ Core.ru fun _ => rfl, h _ (fun k => k.se.ending) fun _ => rfl,
    h _ (fun k => k.se.doneAt) fun _ => rfl⟩

/-- R372, R378: an update of a sync object reaches no pass. -/
theorem passesKept_soUpdate (s : State) (n c : Nat) (o : SyncObj) : PassesKept s (soUpdate s n o) c := by
  unfold soUpdate releaseWaiters
  exact passesKept_trans (passesKept_trans (b := setSo (setSo s n _) n _) (passesKept_of_cores c rfl)
    (passesKept_finishWaiters n c 0#64 _ _)) (passesKept_notifySo _ n c)

theorem nflags_wake (s : State) (c t : Nat) : (thOf (wake s c) c t).nflags = (thOf s c t).nflags := (regsKept_wake s c t).nflags

theorem soOf_wake (s : State) (c n : Nat) : soOf (wake s c) n = soOf s n := rfl

theorem soOf_catchUpTo (s : State) (c clk n : Nat) : soOf (catchUpTo s c clk) n = soOf s n := by
  obtain ⟨h, -⟩ := onlyUnits_catchUpFrom c clk 128 s
  unfold catchUpTo
  exact soOf_of_so (by rw [h]) n

/-- The only pass that ends is still there after its core's units have gone on. -/
theorem ending_streamWrites (s : State) (c clk : Nat) (r : SeRun) (he : (coreOf s c).se.ending = [r]) (hw : r.writes = []) :
    (coreOf (streamWrites s c clk) c).se.ending = [r] := by
  unfold streamWrites
  dsimp only
  split
  · exact he
  · rw [setSe, coreOf_setCore]
    dsimp only
    rw [he, List.map_cons, List.map_nil, hw, List.filter_nil, ← hw]

theorem ending_catchUpFrom (c clk n : Nat) (r : SeRun) (hw : r.writes = []) : ∀ s : State, (coreOf s c).se.ending = [r] →
    (coreOf (catchUpFrom c clk n s) c).se.ending = [r] := by
  induction n with
  | zero => exact fun s he => ending_streamWrites s c clk r he hw
  | succ n ih =>
    intro s he
    unfold catchUpFrom
    dsimp only
    split
    · refine ih _ ?_
      rw [(loadGroup_kept _ c clk).1]
      exact ending_streamWrites s c _ r he hw
    · exact ending_streamWrites s c clk r he hw

theorem ending_catchUpTo (s : State) (c clk : Nat) (r : SeRun) (he : (coreOf s c).se.ending = [r]) (hw : r.writes = []) :
    (coreOf (catchUpTo s c clk) c).se.ending = [r] := by
  unfold catchUpTo
  exact ending_catchUpFrom c clk 128 r hw s he

/-- R129, R134: the state with a pass completed: its entry gone, its final write noted, and its flags with its thread. -/
def passGone (s : State) (c : Nat) (r : SeRun) : State :=
  let k := coreOf s c
  let s1 := setCore s c { k with
    clk := max k.clk r.clk
    se := { k.se with ending := k.se.ending.tail, doneAt := tabSet k.se.doneAt r.ent.id r.clk }
    ru := { k.ru with busy := k.ru.busy && !(progRowred r.ent.prog) } }
  setTh s1 c r.ent.t { thOf s1 c r.ent.t with nflags := orEngine (thOf s1 c r.ent.t).nflags .stream r.flags }

/-- R129, R233: STREAM_PASS_COMPLETE of a pass that signals a counter. -/
theorem exec_streamPassComplete_counter (c : BitVec 8) (s : State) (r : SeRun) (n : Nat) (he : (coreOf s c.toNat).se.ending = [r])
    (hso : r.ent.so = some n) (hru : (coreOf s c.toNat).ru.q = []) (hty : (soOf s n).ty = 0#2) :
    exec (.streamPassComplete c) s = .next (wake (soUpdate (passGone (catchUpTo s c.toNat (r.clk + 1)) c.toNat r) n
      { soOf s n with val := (soOf s n).val + 1#64 }) c.toNat) := by
  have hexec : exec (.streamPassComplete c) s = execStreamPassComplete c s := rfl
  unfold execStreamPassComplete at hexec
  rw [he] at hexec
  dsimp only at hexec
  rw [hso] at hexec
  have hmoved := unitsMoved_catchUpTo s c.toNat (r.clk + 1)
  have hsom := soOf_catchUpTo s c.toNat (r.clk + 1) n
  generalize catchUpTo s c.toNat (r.clk + 1) = m at hexec hmoved hsom ⊢
  have hgone : soOf (passGone m c.toNat r) n = soOf s n := (soOf_of_so rfl n).trans hsom
  have hsig : signalSo (passGone m c.toNat r) n 1#64 =
      soUpdate (passGone m c.toNat r) n { soOf s n with val := (soOf s n).val + 1#64 } := by
    rw [signalSo_counter _ n _ (by rw [hgone]; exact hty), hgone]
  have hq : (coreOf (signalSo (passGone m c.toNat r) n 1#64) c.toNat).ru.q = [] := by
    obtain ⟨-, hkept, -⟩ := passesKept_soUpdate (passGone m c.toNat r) n c.toNat { soOf s n with val := (soOf s n).val + 1#64 }
    rw [hsig, hkept, passGone, setTh, coreOf_setCore, coreOf_setCore]
    dsimp only
    rw [hmoved]
    exact hru
  have hdrain := ruDrain_of_empty _ _ hq
  rw [hsig] at hdrain
  refine hexec.trans (congrArg (fun s => Host.Outcome.next (wake s c.toNat)) ?_)
  exact (congrArg (fun s => ruDrain s c.toNat) hsig).trans hdrain

end Sys2Proof.Machine
end

section
/-!
Stream events (O29): what each event of the stream engine leaves.
-/

namespace Sys2Proof.Machine

/-- R129, R134: what the end of a pass leaves of its core and of its thread's flags, once it has signalled its counter. -/
theorem passGone_signalled (s : State) (c : Nat) (r : SeRun) (n : Nat) (o : SyncObj) (h : o.ty ≠ 2#2)
    (he : (coreOf s c).se.ending = [r]) :
    let s' := wake (soUpdate (passGone s c r) n o) c
    (coreOf s' c).se.ending = [] ∧ (soOf s' n).val = o.val ∧
      (thOf s' c r.ent.t).nflags = (thOf s c r.ent.t).nflags ||| (r.flags.zeroExtend 20 <<< 12) ∧
      (coreOf s' c).clk = max (coreOf s c).clk r.clk ∧
      (coreOf s' c).se.doneAt = tabSet (coreOf s c).se.doneAt r.ent.id r.clk ∧ SameMemory s s' := by
  intro s'
  obtain ⟨hclk, -, hending, hdone⟩ := passesKept_soUpdate (passGone s c r) n c o
  obtain ⟨-, hflags⟩ := flagsKept_soUpdate (passGone s c r) n c o
  refine ⟨?_, ?_, ?_, ?_, ?_, ?_⟩
  · rw [wake_se, hending, passGone, setTh, coreOf_setCore, coreOf_setCore]
    dsimp only
    rw [he, List.tail_cons]
  · rw [soOf_wake, soUpdate_val _ n o h]
  · rw [nflags_wake, hflags, passGone, thOf_setTh]
    unfold thOf
    rw [coreOf_setCore]
    rfl
  · rw [wake_clk, hclk, passGone, setTh, coreOf_setCore, coreOf_setCore]
  · rw [wake_se, hdone, passGone, setTh, coreOf_setCore, coreOf_setCore]
  · exact sameMemory_trans (b := passGone s c r) ⟨rfl, rfl⟩ (sameMemory_soUpdate _ n o)

/-- R235: the number of clocks of a group, which is at least one. -/
theorem one_le_groupClocks (d : SDesc) (n : Nat) (h : 0 < n) : 1 ≤ (n + rateOf d - 1) / rateOf d := by
  have hr : 0 < rateOf d := Nat.lt_of_lt_of_le Nat.zero_lt_one (Nat.le_max_left _ _)
  exact (Nat.one_le_div_iff hr).2 (by omega)

/-- R235: the last group of a program of one descriptor: the pass is ending. -/
theorem engineAfter_last (e : StreamEng) (r : SeRun) (d : SDesc) (g : GroupOut) (hprog : r.ent.prog = [d]) (hdesc : r.desc = 0)
    (hpos : d.n ≤ r.pos + 256) : engineAfter e r d g = { e with
      run := none, ending := e.ending ++ [{ runAfter r d g with clk := groupEnd r d + writeDelay d }]
      lastRead := some (groupEnd r d), lastWrite := some (groupEnd r d + writeDelay d) } := by
  unfold engineAfter
  rw [if_neg (Nat.not_lt.2 hpos), if_neg (by rw [hprog, hdesc]; exact Nat.lt_irrefl 1)]

/-- R101, R239, R241: a pass held at its group boundary, with its writes made. -/
def runHeld (k : Core) (r : SeRun) : SeRun :=
  { r with susp := true, writes := [], lead := min 0xFF (r.lastRead - tabGet 0 k.issued r.ent.t) }

/-- R239, R241: STREAM_SUSPEND of a pass with one write to come. -/
theorem exec_streamSuspend_one (c : BitVec 8) (s : State) (r : SeRun) (w : Nat × Nat × List Byte)
    (hrun : (coreOf s c.toNat).se.run = some r) (hsusp : r.susp = false) (hw : r.writes = [w])
    (hdue : stopDue s c.toNat r.ent.t = true) :
    exec (.streamSuspend c) s = .next (setSe (memStore s w.2.1 w.2.2) c.toNat
      { (coreOf s c.toNat).se with run := some (runHeld (coreOf s c.toNat) r) }) := by
  show execStreamSuspend c s = _
  unfold execStreamSuspend
  dsimp only
  rw [hrun]
  dsimp only
  rw [hsusp, hdue, hw, List.foldl_cons, List.foldl_nil, coreOf_of_memOnly (memOnly_memStore s _ _)]
  rfl

theorem streamEvents : StreamEvents := by
  intro c s _ hreplay k
  refine ⟨fun i arm d more harms hdue hroom hprog hcode => ?_, fun e rest hrun hq hrow => ?_,
    fun r d hrun hsusp hd hw he hpos => ?_, fun r d hrun hsusp hprog hdesc hw he hpos hclean => ?_,
    fun r n he hw hso hrow hru hty => ?_, fun r w hrun hsusp hw hdue => ?_⟩
  · obtain ⟨s1, e, hmem, hexec, ht, harmed, heprog, hso, hseed, hhand, hid⟩ :=
      exec_armFiring_one c s hreplay i arm d more harms hdue hroom hprog hcode
    refine ⟨_, e, hexec, ?_, ht, harmed, heprog, hso, hseed, hhand, hid, ?_, sameMemory_trans hmem (sameMemory_rfl s1),
      fun hlast => ?_, fun hmore => ?_⟩
    · rw [wake_se, setSe, coreOf_setCore]
    · rw [wake_se, setSe, coreOf_setCore]
    · rw [wake_se, setSe, coreOf_setCore, if_pos hlast]
    · rw [wake_se, setSe, coreOf_setCore, if_neg (Nat.not_le.2 hmore)]
  · obtain ⟨r, hent, hpos, hdesc, hclk, hexec⟩ := exec_streamPassStart_plain c s e rest hrun hq hrow
    refine ⟨_, r, hexec, ?_, hent, hpos, hdesc, hclk, by rw [hclk]; exact handoff_lt_startClock _ e, ?_, ?_, ?_, ⟨rfl, rfl⟩⟩
    · rw [wake_se, coreOf_setCore]
    · rw [wake_se, coreOf_setCore]
    · rw [wake_clk, coreOf_setCore]
    · rw [wake_ru, coreOf_setCore]
  · intro m hclean
    obtain ⟨sd, k', hmem, hse, hexec⟩ := exec_streamGroup_clean c s r d hrun hsusp hd hw he hclean
    have hmin : min 256 (d.n - r.pos) = 256 := by omega
    have hclocks := one_le_groupClocks d 256 (by decide)
    refine ⟨_, runAfter r d (runGroup m c.toNat r d), hexec, ?_, rfl, rfl, ?_, rfl, ?_, hmem⟩
    · rw [coreOf_setCore, hse, engineAfter, if_pos hpos]
    · simp only [runAfter, groupEnd, hmin]
      omega
    · simp only [runAfter, hw, List.nil_append, Nat.add_sub_cancel]
  · obtain ⟨sd, k', hmem, hse, hexec⟩ := exec_streamGroup_clean c s r d hrun hsusp (by rw [hprog, hdesc]; rfl) hw he hclean
    rw [engineAfter_last _ r d _ hprog hdesc hpos, he, List.nil_append] at hse
    refine ⟨_, { runAfter r d (runGroup (catchUpTo s c.toNat r.clk) c.toNat r d) with clk := groupEnd r d + writeDelay d }, hexec, ?_, ?_,
      ?_, hmem⟩
    · rw [coreOf_setCore, hse]
    · rw [coreOf_setCore, hse]
    · rw [coreOf_setCore, hse]
  · have hmoved := unitsMoved_catchUpTo s c.toNat (r.clk + 1)
    have hx := thOf_of_unitsMoved hmoved r.ent.t
    obtain ⟨hending, hval, hflags, hclk, hdone, hmem⟩ := passGone_signalled _ c.toNat r n
      { soOf s n with val := (soOf s n).val + 1#64 } (by simp [hty]) (ending_catchUpTo s c.toNat (r.clk + 1) r he hw)
    rw [hx] at hflags
    refine ⟨_, exec_streamPassComplete_counter c s r n he hso hru hty, hending, hval, hflags, ?_, ?_, hmem⟩
    · rw [hclk, hmoved]
    · rw [hdone]
      exact tabFind_tabSet_same _ _ _
  · refine ⟨_, runHeld k r, exec_streamSuspend_one c s r w hrun hsusp hw hdue, ?_, rfl, rfl, rfl, rfl, rfl, ?_, fun z hz => ?_,
      fun i hi hp => ?_⟩
    · rw [setSe, coreOf_setCore]
    · unfold thOf setSe
      rw [coreOf_setCore, coreOf_of_memOnly (memOnly_memStore s _ _)]
      rfl
    · rw [setSe_mem]
      exact readByte_memStore_beyond s _ z _ hz
    · rw [setSe_mem]
      exact readByte_memStore_at s _ i _ hi hp

end Sys2Proof.Machine
end

section
/-!
Stream hand-offs (O29): what the translation of a program's ranges leaves, and SPASS, SARM and SDISARM as they complete.
-/

namespace Sys2Proof.Machine

/-- R299, R309: what the translation of addresses for a unit of core c leaves: its segment buffer, the counts of refusals and the
core's clock change, and neither a thread nor the stream engine. -/
def Translated (s u : State) (c : Nat) : Prop :=
  u = { s with cores := u.cores, segbuf := u.segbuf, steep := u.steep } ∧ u.steep.replay = s.steep.replay ∧
    (coreOf u c).th = (coreOf s c).th ∧ (coreOf u c).se = (coreOf s c).se

theorem translated_rfl (s : State) (c : Nat) : Translated s s c := ⟨rfl, rfl, rfl, rfl⟩

theorem translated_trans {a b d : State} {c : Nat} (h : Translated a b c) (g : Translated b d c) : Translated a d c := by
  obtain ⟨h1, h2, h3, h4⟩ := h
  obtain ⟨g1, g2, g3, g4⟩ := g
  exact ⟨by rw [g1, h1], g2.trans h2, g3.trans h3, g4.trans h4⟩

theorem translated_touchBuf (s : State) (c cx n : Nat) (g : Seg) : Translated s (touchBuf s c cx n g) c := ⟨rfl, rfl, rfl, rfl⟩

theorem translated_spend (s : State) (c t n : Nat) : Translated s (setCore s c (spend (coreOf s c) t n)) c := by
  obtain ⟨p, q, w, h⟩ := spend_eq (coreOf s c) t n
  refine ⟨rfl, rfl, ?_, ?_⟩
  · rw [coreOf_setCore, h]
  · rw [coreOf_setCore, h]

theorem translated_countCapRef (s : State) (c : Nat) (w : World) : Translated s (countCapRef s w) c := by
  cases w <;> exact ⟨rfl, rfl, rfl, rfl⟩

theorem translated_touchAt (s : State) (c t : Nat) (need : List Nat) (va n : Nat) : Translated s (touchAt s c t need va n) c := by
  unfold touchAt
  dsimp only
  split
  · exact translated_rfl s c
  · rename_i k g _ _
    have hbuf := translated_touchBuf s c (thOf s c t).cx.toNat k g
    have hmiss : Translated s (if bufHit s c (thOf s c t).cx.toNat k then touchBuf s c (thOf s c t).cx.toNat k g
        else setCore (touchBuf s c (thOf s c t).cx.toNat k g) c
          (spend (coreOf (touchBuf s c (thOf s c t).cx.toNat k g) c) t 10)) c := by
      split
      · exact hbuf
      · exact translated_trans hbuf (translated_spend _ c t 10)
    split
    · exact translated_trans hmiss (translated_countCapRef _ c _)
    · exact hmiss

theorem translated_touchFrom (c t : Nat) (need : List Nat) (f : Nat) : ∀ (va n : Nat) (s : State),
    Translated s (touchFrom c t need f va n s) c := by
  induction f with
  | zero => exact fun _ _ s => translated_rfl s c
  | succ f ih =>
    intro va n s
    unfold touchFrom
    split
    · exact translated_rfl s c
    · exact translated_trans (translated_touchAt s c t need _ _) (ih _ _ _)

/-- R299: the translation of a unit's ranges. -/
theorem translated_unitTouch (c t : Nat) (need : List Nat) (rs : List (Nat × Nat)) : ∀ s : State,
    Translated s (unitTouch s c t need rs) c := by
  induction rs with
  | nil => exact fun s => translated_rfl s c
  | cons r rs ih => exact fun s => translated_trans (translated_touchFrom c t need _ _ _ s) (ih _)

theorem Translated.thOf {s u : State} {c : Nat} (h : Translated s u c) (t : Nat) : thOf u c t = Machine.thOf s c t := by
  obtain ⟨-, -, hth, -⟩ := h
  unfold Machine.thOf threadOf
  rw [hth]

theorem Translated.soOf {s u : State} {c : Nat} (h : Translated s u c) (n : Nat) : soOf u n = Machine.soOf s n := by
  obtain ⟨hrest, -⟩ := h
  exact soOf_of_so (by rw [hrest]) n

theorem Translated.seedOf {s u : State} {c : Nat} (h : Translated s u c) (x : Thread) : seedOf u x = Machine.seedOf s x := by
  obtain ⟨hrest, -⟩ := h
  unfold Machine.seedOf ctxOf
  rw [hrest]

/-- R297, R299: the state in which a program's ranges have been translated. -/
def programTouched (s : State) (c t sa : Nat) (armed : Bool) (ds : List SDesc) : State :=
  unitTouch (unitTouch s c t [rRD] (progRanges s c t sa armed ds).1) c t [rWR] (progRanges s c t sa armed ds).2

theorem translated_programTouched (s : State) (c t sa : Nat) (armed : Bool) (ds : List SDesc) :
    Translated s (programTouched s c t sa armed ds) c :=
  translated_trans (translated_unitTouch c t _ _ s) (translated_unitTouch c t _ _ _)

/-- R297: no address of a program lies in more than one segment. -/
theorem progTouch_single (s : State) (c t : Nat) (x : Thread) (sa : Nat) (armed : Bool) (ds : List SDesc) (go : State → State)
    (h : firstMulti (programTouched s c t sa armed ds) c t
      ((progRanges s c t sa armed ds).1 ++ (progRanges s c t sa armed ds).2) = none) :
    progTouch s c t x sa armed ds go = go (programTouched s c t sa armed ds) := by
  have hgo : multiOr (programTouched s c t sa armed ds) c t x
      ((progRanges s c t sa armed ds).1 ++ (progRanges s c t sa armed ds).2) go = go (programTouched s c t sa armed ds) := by
    unfold multiOr
    rw [h]
  exact hgo

/-- R108, R113, R127, R396: a stream instruction that reaches the engine. -/
theorem seHand_of_ready (c : BitVec 8) (regs : List Reg) (body : Nat → Thread → State → State) (s : State) (t : Nat)
    (hissue : CanIssue s c t 4#18 regs) (hready : SeReady s c t) : seHand c regs false body s = body t (thOf s c.toNat t) s := by
  obtain ⟨hilv, hstore, hforced, -⟩ := hready
  unfold seHand
  rw [issue_of_canIssue c 4#18 regs _ s t hissue]
  simp only [hilv, hstore, hforced, Bool.or_false, Bool.false_eq_true, if_false]

/-- R134: a stream instruction that completes in 2 clocks, with the stream engine as it leaves it. -/
theorem retire_with_engine (u : State) (c : BitVec 8) (t : Nat) (e : StreamEng) :
    ∃ s', retire (setSe u c.toNat e) c.toNat t (thOf u c.toNat t) ((thOf u c.toNat t).pc + 4#18) 2 = catchUp s' c.toNat ∧
      (coreOf s' c.toNat).se = e ∧ PassedBy u s' c t 2 := by
  obtain ⟨s', y, hret, rfl, st, w, hy⟩ := retire_eq (setSe u c.toNat e) c.toNat t (thOf u c.toNat t) ((thOf u c.toNat t).pc + 4#18) 2
  obtain ⟨_, _, _, _, _, _, hcore⟩ := held_core (setSe u c.toNat e) c.toNat t y 2
  refine ⟨_, hret, ?_, ⟨st, w, ?_⟩, ?_, ?_⟩
  · rw [hcore, setSe, coreOf_setCore]
  · rw [thOf_held, hy]
  · rw [held_clk, setSe, coreOf_setCore]
  · rw [held_rest]
    exact ⟨rfl, rfl⟩

/-- R9, R371: the number of an object is the low 13 bits of its operand. -/
theorem field_object (v : Nat) : field v 0 13 = v % 2 ^ 13 := by
  unfold field
  rw [Nat.pow_zero, Nat.div_one]

/-- R238, R403: a hand-off outside replay takes its place in the outcome log, which touches no core, no seed and no byte. -/
theorem enterQueue_handOff (u : State) (c : Nat) (h : u.steep.replay = []) : ∃ v, enterQueue u c 0 = some v ∧
    v.cores = u.cores ∧ (∀ x, seedOf v x = seedOf u x) ∧ SameMemory u v := by
  obtain ⟨st, -, henter⟩ := enterQueue_of_no_replay u c 0 h (by decide)
  exact ⟨_, henter, rfl, fun _ => rfl, rfl, rfl⟩

theorem coreOf_of_cores {s s' : State} (h : s'.cores = s.cores) (c : Nat) : coreOf s' c = coreOf s c := by
  unfold coreOf
  rw [h]

/-- An instruction that completed from a state with the same cores and bytes. -/
theorem passedBy_of_cores {u v s' : State} {c : BitVec 8} {t n : Nat} (hc : v.cores = u.cores) (hm : SameMemory u v)
    (h : PassedBy v s' c t n) : PassedBy u s' c t n := by
  obtain ⟨hth, hclk, hmem⟩ := h
  rw [thOf_of_cores hc] at hth
  rw [coreOf_of_cores hc] at hclk
  exact ⟨hth, hclk, sameMemory_trans hm hmem⟩

/-- R45, R134: what SPASS puts in the queue, handed off at clock n. -/
def handedPass (s : State) (c t : Nat) (b : BitVec 5) (wait : BitVec 7) (ref : Bool) (ds : List SDesc) (n : Nat) : SeEnt where
  t := t
  prog := ds
  ref := ref
  wait := wait.toNat
  so := if b = 0#5 then none else some ((getS (thOf s c t) b).toNat % 2 ^ 13)
  armed := false
  handoff := n
  seed := seedOf s (thOf s c t)
  id := (coreOf s c).se.nextId

/-- R134, R221: SPASS of a program that latches, with a queue entry free. -/
theorem exec_spass_joins (c : BitVec 8) (a b : BitVec 5) (wait : BitVec 7) (ref : Bool) (s : State) (t : Nat) (ds : List SDesc)
    (hissue : CanIssue s c t 4#18 [.s a, .s b]) (hready : SeReady s c t) (hroom : (coreOf s c.toNat).se.q.length < 4)
    (hheld : progHeld s c.toNat t (getS (thOf s c.toNat t) a).toNat = false)
    (hlatch : latchProg s c.toNat t (thOf s c.toNat t) (getS (thOf s c.toNat t) a).toNat false = .ok ds) (u : State)
    (hu : programTouched s c.toNat t (getS (thOf s c.toNat t) a).toNat false ds = u)
    (hsingle : firstMulti u c.toNat t ((progRanges s c.toNat t (getS (thOf s c.toNat t) a).toNat false ds).1 ++
      (progRanges s c.toNat t (getS (thOf s c.toNat t) a).toNat false ds).2) = none) :
    ∃ s', exec (.spass c a b wait ref 0#8) s = .next (catchUp s' c.toNat) ∧
      (coreOf s' c.toNat).se = { (coreOf s c.toNat).se with
        q := (coreOf s c.toNat).se.q ++ [handedPass s c.toNat t b wait ref ds ((coreOf u c.toNat).clk + 2)]
        nextId := (coreOf s c.toNat).se.nextId + 1 } ∧ PassedBy u s' c t 2 := by
  have htouched : Translated s u c.toNat := hu ▸ translated_programTouched s c.toNat t _ false ds
  have ⟨_, hreplay, _, hse⟩ := htouched
  have ⟨_, _, _, hnone⟩ := hready
  obtain ⟨v, henter, hcores, hseed, hmem⟩ := enterQueue_handOff u c.toNat (hreplay.trans hnone)
  have hx : thOf v c.toNat t = thOf s c.toNat t := (thOf_of_cores hcores _ _).trans (htouched.thOf t)
  have hroom' : seRoom (coreOf s c.toNat).se = true := decide_eq_true hroom
  obtain ⟨s', hret, hengine, hpassed⟩ := retire_with_engine v c t { (coreOf s c.toNat).se with
        q := (coreOf s c.toNat).se.q ++ [handedPass s c.toNat t b wait ref ds ((coreOf u c.toNat).clk + 2)]
        nextId := (coreOf s c.toNat).se.nextId + 1 }
  refine ⟨s', ?_, hengine, passedBy_of_cores hcores hmem hpassed⟩
  rw [← hret, hx]
  show execSpass c a b wait ref 0#8 s = _
  unfold execSpass
  rw [show (0#8 != 0#8) = false from rfl, seHand_of_ready c _ _ s t hissue hready]
  dsimp only
  rw [hroom', hheld, hlatch]
  dsimp only
  rw [progTouch_single s c.toNat t _ _ false ds _ (by rw [hu]; exact hsingle), hu, henter]
  dsimp only
  rw [coreOf_of_cores hcores, hse, hseed, htouched.seedOf, field_object]
  rfl

/-- R236: the arm that SARM sets, by the value that its object holds. -/
def armSet (s : State) (c t : Nat) (a b : BitVec 5) (ds : List SDesc) : Arm :=
  let x := thOf s c t
  let so := (getS x b).toNat % 2 ^ 13
  let arm : Arm := { t := t, sa := getS x a, so := so, prog := ds, k := 0, due := 0 }
  { arm with due := armDue arm (soOf s so).val }

/-- R236: SARM of a program that latches, with an arm free and the right to wait on its object. -/
theorem exec_sarm_arms (c : BitVec 8) (a b : BitVec 5) (s : State) (t i : Nat) (ds : List SDesc)
    (hissue : CanIssue s c t 4#18 [.s a, .s b]) (hready : SeReady s c t)
    (hfree : (List.range 16).find? (fun i => !((coreOf s c.toNat).se.arms.any fun e => e.1 == i)) = some i)
    (hheld : progHeld s c.toNat t (getS (thOf s c.toNat t) a).toNat = false)
    (hlatch : latchProg s c.toNat t (thOf s c.toNat t) (getS (thOf s c.toNat t) a).toNat true = .ok ds)
    (hmay : mayWait s (thOf s c.toNat t) ((getS (thOf s c.toNat t) b).toNat % 2 ^ 13) = true) (u : State)
    (hu : programTouched s c.toNat t (getS (thOf s c.toNat t) a).toNat true ds = u)
    (hsingle : firstMulti u c.toNat t ((progRanges s c.toNat t (getS (thOf s c.toNat t) a).toNat true ds).1 ++
      (progRanges s c.toNat t (getS (thOf s c.toNat t) a).toNat true ds).2) = none) :
    ∃ s', exec (.sarm c a b 0#12) s = .next (catchUp s' c.toNat) ∧ (coreOf s' c.toNat).se = { (coreOf s c.toNat).se with
      arms := tabSet (coreOf s c.toNat).se.arms i (armSet s c.toNat t a b ds) } ∧ PassedBy u s' c t 2 := by
  have htouched : Translated s u c.toNat := hu ▸ translated_programTouched s c.toNat t _ true ds
  have ⟨_, _, _, hse⟩ := htouched
  obtain ⟨s', hret, hengine, hpassed⟩ := retire_with_engine u c t { (coreOf s c.toNat).se with
      arms := tabSet (coreOf s c.toNat).se.arms i (armSet s c.toNat t a b ds) }
  refine ⟨s', ?_, hengine, hpassed⟩
  rw [← hret, htouched.thOf]
  show execSarm c a b 0#12 s = _
  unfold execSarm
  rw [show (0#12 != 0#12) = false from rfl, seHand_of_ready c _ _ s t hissue hready]
  dsimp only
  rw [hfree]
  dsimp only
  rw [hheld, hlatch]
  dsimp only
  rw [field_object, hmay, progTouch_single s c.toNat t _ _ true ds _ (by rw [hu]; exact hsingle), hu]
  rw [hse, htouched.soOf]
  rfl

/-- R238: the arms that SDISARM leaves: those but the first of the thread with the program and the object. -/
def armsLeft (arms : Tab Arm) (t : Nat) (sa : Word) (so : Nat) : Tab Arm :=
  match arms.find? fun e => e.2.t == t && e.2.sa == sa && e.2.so == so with
  | some e => tabErase arms e.1
  | none => arms

theorem armsLeft_none (arms : Tab Arm) (t : Nat) (sa : Word) (so : Nat) (h : ∀ e ∈ arms, ¬ (e.2.t = t ∧ e.2.sa = sa ∧ e.2.so = so)) :
    armsLeft arms t sa so = arms := by
  have hfind : (arms.find? fun e => e.2.t == t && e.2.sa == sa && e.2.so == so) = none := by
    rw [List.find?_eq_none]
    intro e he
    have := h e he
    simpa [and_assoc] using this
  unfold armsLeft
  rw [hfind]

theorem armsLeft_one (i t : Nat) (arm : Arm) (sa : Word) (so : Nat) (ht : arm.t = t) (hsa : arm.sa = sa) (hso : arm.so = so) :
    armsLeft [(i, arm)] t sa so = [] := by
  subst ht hsa hso
  have hfind : ([(i, arm)].find? fun e => e.2.t == arm.t && e.2.sa == arm.sa && e.2.so == arm.so) = some (i, arm) := by simp
  unfold armsLeft
  rw [hfind]
  exact tabErase_singleton i arm

/-- R238: SDISARM. -/
theorem exec_sdisarm_frees (c : BitVec 8) (a b : BitVec 5) (s : State) (t : Nat) (hissue : CanIssue s c t 4#18 [.s a, .s b])
    (hready : SeReady s c t) : ∃ s', exec (.sdisarm c a b 0#12) s = .next (wake (catchUp s' c.toNat) c.toNat) ∧
      (coreOf s' c.toNat).se = { (coreOf s c.toNat).se with
        arms := armsLeft (coreOf s c.toNat).se.arms t (getS (thOf s c.toNat t) a) ((getS (thOf s c.toNat t) b).toNat % 2 ^ 13) } ∧
      PassedBy s s' c t 2 := by
  obtain ⟨s', hret, hengine, hpassed⟩ := retire_with_engine s c t { (coreOf s c.toNat).se with
    arms := armsLeft (coreOf s c.toNat).se.arms t (getS (thOf s c.toNat t) a) ((getS (thOf s c.toNat t) b).toNat % 2 ^ 13) }
  refine ⟨s', ?_, hengine, hpassed⟩
  rw [← hret]
  show execSdisarm c a b 0#12 s = _
  unfold execSdisarm
  rw [show (0#12 != 0#12) = false from rfl, seHand_of_ready c _ _ s t hissue hready]
  dsimp only
  rw [field_object]
  rfl

theorem streamHandOffs : StreamHandOffs := by
  intro c a b wait ref s t hissue hready x k sa so touched single
  refine ⟨fun ds hroom hlatch hsingle => ?_, fun ds i hfree hlatch hmay hsingle => ?_, ?_⟩
  · obtain ⟨hheld, hone⟩ := hsingle
    obtain ⟨s', hexec, hse, hpassed⟩ :=
      exec_spass_joins c a b wait ref s t ds hissue hready hroom hheld hlatch (touched false ds) rfl hone
    exact ⟨s', _, hexec, by rw [hse], rfl, rfl, rfl, rfl, rfl, rfl, rfl, by rw [hse], rfl, rfl, hpassed⟩
  · obtain ⟨hheld, hone⟩ := hsingle
    obtain ⟨s', hexec, hse, hpassed⟩ := exec_sarm_arms c a b s t i ds hissue hready hfree hheld hlatch hmay (touched true ds) rfl hone
    refine ⟨s', armSet s c.toNat t a b ds, hexec, ?_, rfl, rfl, rfl, rfl, rfl, hpassed⟩
    rw [hse]
    exact tabFind_tabSet_same _ _ _
  · obtain ⟨s', hexec, hse, ⟨_, _, hth⟩, -, hmem⟩ := exec_sdisarm_frees c a b s t hissue hready
    refine ⟨s', hexec, fun hnone => ?_, fun i arm harms ht hsa hso => ?_, by rw [hth], hmem⟩
    · rw [hse, armsLeft_none _ _ _ _ hnone]
    · rw [hse, harms]
      exact armsLeft_one i t arm _ _ ht hsa hso

end Sys2Proof.Machine

open Sys2Proof Sys2Proof.Machine

/-- Settles O29: the hand-offs, the stream engine's events, and time going on, one by one. -/
theorem streamEngineEvents : Obligations.StreamEngineEvents := ⟨streamHandOffs, streamEvents, unitsGoOn⟩

end

section
/-!
SUPPORT. Scalar instructions (O6 to O12): what an instruction leaves when it completes, when it waits, when it enters an exception and when
it is passed over under mask.
-/

namespace Sys2Proof.Machine

/-- A command that changed a thread alone changed no byte. -/
theorem OnlyThread.sameMemory {s s' : State} {c t : Nat} (h : OnlyThread s s' c t) : SameMemory s s' := by
  obtain ⟨hrest, -⟩ := h
  rw [hrest]
  exact ⟨rfl, rfl⟩

/-- R75, R81: a completed instruction, before the core's loader and stream passes go on. -/
theorem retire_spec (s : State) (c t : Nat) (x : Thread) (pc : BitVec 18) (n : Nat) : ∃ s' st w, retire s c t x pc n = catchUp s' c ∧
    thOf s' c t = { x with pc := pc, icount := x.icount + 1, st := st, wait := w } ∧ OnlyThread s s' c t ∧
    (coreOf s' c).clk = (coreOf s c).clk + n := by
  obtain ⟨s', y, hret, rfl, st, w, rfl⟩ := retire_eq s c t x pc n
  exact ⟨_, st, w, hret, thOf_held .., onlyThread_held .., held_clk ..⟩

/-- R76: a thread that waits, before the core's loader and stream passes go on. -/
theorem goWait_spec (s : State) (c t : Nat) (x : Thread) (w : Wait) (n : Nat) : ∃ s', goWait s c t x w n = catchUp s' c ∧
    thOf s' c t = { x with st := .waiting, wait := w } ∧ OnlyThread s s' c t :=
  ⟨_, rfl, thOf_held .., onlyThread_held ..⟩

/-- R92: exception entry of a running thread with no posted store, before the core's loader and stream passes go on. -/
theorem enter_drained (s : State) (c t : Nat) (x : Thread) (cause : Nat) (addr : Word) (resume off : BitVec 18) (n : Nat)
    (hb : x.sb = []) : ∃ s', enter s c t x cause addr resume off n = catchUp s' c ∧
      EntersAt (coreOf s c) t x (thOf s' c t) cause addr resume off ∧ OnlyThread s s' c t := by
  unfold enter
  rw [hb]
  refine ⟨_, rfl, ?_, onlyThread_held ..⟩
  rw [thOf_held]
  exact entersAt_of_vecDone ..

/-- R95: a masked outcome grows XDROP by one, up to its greatest value. -/
theorem addDrop_one_xdrop (x : Thread) : (addDrop x 1).xdrop.toNat = min (x.xdrop.toNat + 1) 0xFFFFFFFF := by
  rw [addDrop, BitVec.toNat_ofNat]
  omega

/-- R94: thread t of core c, with registers x, has passed over an instruction of `len` bytes: nothing happened but that it was counted. -/
def PassedOver (s s' : State) (c t : Nat) (x : Thread) (len : BitVec 18) : Prop :=
  (∃ st w, thOf s' c t = { addDrop x 1 with pc := x.pc + len, icount := x.icount + 1, st := st, wait := w }) ∧
    worldDropped s' (worldOf (coreOf s c) t) = true ∧ SameMemory s s'

theorem worldDropped_setDropped (s : State) (w : World) : worldDropped (setDropped s w) w = true := by cases w <;> rfl

theorem sameMemory_setDropped (s : State) (w : World) : SameMemory s (setDropped s w) := by cases w <;> exact sameMemory_rfl s

theorem dropIt_spec (s : State) (c t : Nat) (x : Thread) (len : BitVec 18) (n : Nat) :
    ∃ s', dropIt s c t x len n = catchUp s' c ∧ PassedOver s s' c t x len := by
  obtain ⟨s', st, w, hret, hth, honly, -⟩ :=
    retire_spec (setDropped s (worldOf (coreOf s c) t)) c t (addDrop x 1) (x.pc + len) n
  refine ⟨s', hret, ⟨st, w, hth⟩, ?_, sameMemory_trans (sameMemory_setDropped s _) honly.sameMemory⟩
  obtain ⟨hrest, -⟩ := honly
  rw [hrest]
  exact worldDropped_setDropped s _

/-- R94, R113: what ILLOP does: the exception is entered at the instruction, or under mask the instruction is passed over. -/
theorem illop_spec (s : State) (c t : Nat) (x : Thread) (len : BitVec 18) (n : Nat) (hb : x.sb = []) :
    ∃ s', illop s c t x len n = catchUp s' c ∧
      (x.exm = false → EntersAt (coreOf s c) t x (thOf s' c t) 0x0A 0#64 x.pc 0#18 ∧ OnlyThread s s' c t) ∧
      (x.exm = true → PassedOver s s' c t x len) := by
  unfold illop raise
  cases hx : x.exm with
  | false =>
    obtain ⟨s', henter, hat, honly⟩ := enter_drained s c t x cIllop 0#64 x.pc 0#18 n hb
    exact ⟨s', henter, fun _ => ⟨hat, honly⟩, nofun⟩
  | true =>
    obtain ⟨s', hdrop, hpassed⟩ := dropIt_spec s c t x len n
    exact ⟨s', hdrop, nofun, fun _ => hpassed⟩

/-- R106: an operation that begins with a FENCE goes on at once where nothing is to drain. -/
theorem fenced_of_drained (c t : Nat) (s : State) (body : State → State) (h : Drained s c t) :
    fenced c t (thOf s c t) s body = body s := by
  obtain ⟨hsb, hvec⟩ := h
  simp [fenced, hsb, hvec]

/-- R106: while stores wait, it waits too. -/
theorem fenced_of_posted (c t : Nat) (s : State) (body : State → State) (h : (thOf s c t).sb ≠ []) :
    fenced c t (thOf s c t) s body = goWait s c t (thOf s c t) .drain 2 := by
  simp [fenced, h]

end Sys2Proof.Machine
end

section
/-!
SUPPORT. Instruction words, reserved encodings, TRAP and XRET (O6).
-/

namespace Sys2Proof.Machine

/-- R113: every reserved encoding is ILLOP at the instruction. -/
theorem exec_reserved (c : BitVec 8) (d a b : BitVec 5) (s : State) (t : Nat) (h : CanIssue s c t 4#18 [.s d, .s a, .s b]) :
    ∀ i ∈ reservedForms c d a b, exec i s = .next (illop s c.toNat t (thOf s c.toNat t) 4#18 3) := by
  have issues (l : List Reg) (hl : l ⊆ [.s d, .s a, .s b]) (body : Nat → Thread → State → State) :
      issue c 4#18 l body s = body t (thOf s c.toNat t) s := issue_of_canIssue c 4#18 l body s t (canIssue_of_subset h hl)
  have hnone := issues [] (List.nil_subset _)
  have hall := issues [.s d, .s a, .s b] (List.Subset.refl _)
  have hd := issues [.s d] (by simp)
  have ha := issues [.s a] (by simp)
  have hillop {s' : State} (e : s' = illop s c.toNat t (thOf s c.toNat t) 4#18 3) :
      (Host.Outcome.next s' : Out) = .next (illop s c.toNat t (thOf s c.toNat t) 4#18 3) := congrArg _ e
  have hmttr : exec (.mttr c a 0x80#8 0#7) s = .next (illop s c.toNat t (thOf s c.toNat t) 4#18 3) := by
    refine hillop ((ha _).trans ?_)
    cases isS (thOf s c.toNat t) <;> simp [writeTrnS, writeTrnU]
  unfold reservedForms
  simp only [List.forall_mem_cons]
  exact ⟨hillop ((if_neg (by decide)).trans (hnone _)), hillop ((if_pos rfl).trans (hnone _)), hillop (hall _), hillop (hall _),
    hillop (hall _), hillop (hnone _), hillop (hd _), hillop (hd _), hillop (ha _), hmttr, List.forall_mem_nil _⟩

theorem reservedEncodings_hold : ReservedEncodings := by
  intro c d a b s t h hb i hi
  obtain ⟨s', hillop, hat, hover⟩ := illop_spec s c.toNat t (thOf s c.toNat t) 4#18 3 hb
  refine ⟨s', (exec_reserved c d a b s t h i hi).trans (congrArg _ hillop), hat, fun hx => ?_⟩
  obtain ⟨⟨st, w, hth⟩, hdropped, hmem⟩ := hover hx
  rw [hth]
  exact ⟨rfl, rfl, rfl, rfl, addDrop_one_xdrop _, hdropped, hmem⟩

/-- R110, R113: a word that spells no instruction is ILLOP at its fetch. -/
theorem execWord_undecoded (c : BitVec 8) (w lo : BitVec 32) (s : State) (t : Nat) (hdec : decodeInstr c w lo = none)
    (h : CanIssue s c t (BitVec.ofNat 18 (instrBytes w)) []) :
    execWord c w lo s = .next (illop s c.toNat t (thOf s c.toNat t) (BitVec.ofNat 18 (instrBytes w)) 3) := by
  unfold execWord
  rw [hdec]
  exact congrArg Host.Outcome.next (issue_of_canIssue c _ [] _ s t h)

theorem instructionWords_hold : InstructionWords := by
  intro c w lo s
  refine ⟨fun i hi => ?_, fun t hdec h hb => ?_, fun t hrun => ?_⟩
  · unfold execWord
    rw [hi]
  · obtain ⟨s', hillop, hat, hover⟩ := illop_spec s c.toNat t (thOf s c.toNat t) (BitVec.ofNat 18 (instrBytes w)) 3 hb
    refine ⟨s', (execWord_undecoded c w lo s t hdec h).trans (congrArg _ hillop), hat, fun hx => ?_⟩
    obtain ⟨⟨st, w, hth⟩, -, hmem⟩ := hover hx
    rw [hth]
    exact ⟨rfl, rfl, addDrop_one_xdrop _, hmem⟩
  · unfold execFetched
    rw [hrun]

/-- R91: TRAP #n of a thread with nothing to drain. -/
theorem exec_trap (c n : BitVec 8) (s : State) (t : Nat) (h : CanIssue s c t 4#18 []) (hd : Drained s c.toNat t) :
    exec (.trap c n 0#18) s = .next (if (thOf s c.toNat t).exm then dropIt s c.toNat t (thOf s c.toNat t) 4#18 3
      else enter s c.toNat t (thOf s c.toNat t) (cTrap + n.toNat * 2 ^ 22) 0#64 ((thOf s c.toNat t).pc + 4#18) 0x80#18 3) := by
  refine congrArg Host.Outcome.next ?_
  rw [issue_of_canIssue c 4#18 [] _ s t h, if_neg (by decide), fenced_of_drained c.toNat t s _ hd]

/-- What the suspended passes of a thread that returns from an exception may change of it: what they count and what they find due. -/
def UnitsMark (s s' : State) (c t : Nat) : Prop :=
  SameMemory s s' ∧ ∃ d u, thOf s' c t = { thOf s c t with xdrop := d, unitDue := u }

theorem unitsMark_trans {a b d : State} {c t : Nat} (h : UnitsMark a b c t) (g : UnitsMark b d c t) : UnitsMark a d c t := by
  obtain ⟨hm, hd, hu, h⟩ := h
  obtain ⟨gm, gd, gu, g⟩ := g
  exact ⟨sameMemory_trans hm gm, gd, gu, by rw [g, h]⟩

theorem unitsMark_of_th {s s' : State} {c : Nat} (t : Nat) (hm : SameMemory s s') (h : (coreOf s' c).th = (coreOf s c).th) :
    UnitsMark s s' c t := by
  refine ⟨hm, (thOf s c t).xdrop, (thOf s c t).unitDue, ?_⟩
  unfold thOf threadOf
  rw [h]

/-- R94, R218: poison that a unit reads for its thread is counted, or due. -/
theorem unitsMark_unitPoisoned (s : State) (c t : Nat) : UnitsMark s (unitPoisoned s c t) c t := by
  unfold unitPoisoned unitFault
  dsimp only
  split
  · refine ⟨(countMasked_one s c t).1, (addDrop (thOf s c t) 1).xdrop, (thOf s c t).unitDue, ?_⟩
    rw [countOnce, countMasked, if_neg (by decide), thOf_setTh]
    rfl
  · exact ⟨sameMemory_rfl s, (thOf s c t).xdrop, _, thOf_setTh ..⟩

/-- R101, R216: a suspended matrix pass that goes on. -/
theorem unitsMark_resumeMatrix (s : State) (c t clk : Nat) : UnitsMark s (resumeMatrix s c t clk).1 c t := by
  have same : UnitsMark s s c t := unitsMark_of_th t (sameMemory_rfl s) rfl
  unfold resumeMatrix
  dsimp only
  split
  · split
    · rename_i p _ hp
      have ht : p.t = t := by simpa using (Bool.and_eq_true_iff.1 hp).2
      have hmark (b : Bool) : UnitsMark s (markPoison s c p b).2 c t := by
        unfold markPoison
        split
        · exact ht ▸ unitsMark_unitPoisoned s c p.t
        · exact same
      exact unitsMark_trans (hmark _) (unitsMark_of_th t (sameMemory_rfl _) (by simp [setMx]))
    · exact same
  · exact same

/-- R101, R240: a suspended stream pass that goes on. -/
theorem unitsMark_resumeStream (s : State) (c t clk : Nat) : UnitsMark s (resumeStream s c t clk).1 c t := by
  unfold resumeStream
  dsimp only
  split
  · split
    · exact unitsMark_of_th t (sameMemory_rfl s) (by simp [setSe])
    · exact unitsMark_of_th t (sameMemory_rfl s) rfl
  · exact unitsMark_of_th t (sameMemory_rfl s) rfl

/-- R92, R101: the state in which the suspended passes of a thread that returns go on, and the clocks that the return takes. -/
def passesResumed (s : State) (c t : Nat) : State × Nat :=
  let clk := (coreOf s c).clk + 3
  let m := resumeMatrix s c t clk
  let e := resumeStream m.1 c t clk
  (e.1, 3 + (max m.2 e.2 - clk))

theorem unitsMark_passesResumed (s : State) (c t : Nat) : UnitsMark s (passesResumed s c t).1 c t :=
  unitsMark_trans (unitsMark_resumeMatrix s c t _) (unitsMark_resumeStream _ c t _)

/-- R92, R101: XRET at level S. -/
theorem exec_xret_supervisor (c : BitVec 8) (s : State) (t : Nat) (h : CanIssue s c t 4#18 []) (hd : Drained s c.toNat t)
    (hl : (thOf s c.toNat t).lvl = .S) : exec (.xret c) s = .next (place (passesResumed s c.toNat t).1 c.toNat t
      (returned (thOf (passesResumed s c.toNat t).1 c.toNat t)) (passesResumed s c.toNat t).2) := by
  have hs : (!(isS (thOf s c.toNat t))) = false := by rw [isS, hl]; rfl
  refine congrArg Host.Outcome.next ?_
  rw [issue_of_canIssue c 4#18 [] _ s t h, hs, if_neg Bool.false_ne_true, fenced_of_drained c.toNat t s _ hd]
  rfl

/-- R86, R92: XRET at level U is ILLOP. -/
theorem exec_xret_user (c : BitVec 8) (s : State) (t : Nat) (h : CanIssue s c t 4#18 []) (hl : (thOf s c.toNat t).lvl = .U) :
    exec (.xret c) s = .next (illop s c.toNat t (thOf s c.toNat t) 4#18 3) := by
  have hu : (!(isS (thOf s c.toNat t))) = true := by rw [isS, hl]; rfl
  refine congrArg Host.Outcome.next ?_
  rw [issue_of_canIssue c 4#18 [] _ s t h, hu, if_pos rfl]

theorem trapAndReturn_hold : TrapAndReturn := by
  intro c n s t h hd
  obtain ⟨hsb, -⟩ := id hd
  refine ⟨fun hx => ?_, fun hx => ?_, fun hl => ?_, fun hl hx => ?_⟩
  · obtain ⟨s', henter, hat, honly⟩ := enter_drained s c.toNat t (thOf s c.toNat t) (cTrap + n.toNat * 2 ^ 22) 0#64
      ((thOf s c.toNat t).pc + 4#18) 0x80#18 3 hsb
    refine ⟨s', ?_, hat, honly⟩
    rw [exec_trap c n s t h hd, hx, if_neg Bool.false_ne_true, henter]
  · obtain ⟨s', hdrop, ⟨st, w, hth⟩, -⟩ := dropIt_spec s c.toNat t (thOf s c.toNat t) 4#18 3
    refine ⟨s', ?_, ?_⟩
    · rw [exec_trap c n s t h hd, hx, if_pos rfl, hdrop]
    · rw [hth]
      exact ⟨rfl, rfl, addDrop_one_xdrop _⟩
  · obtain ⟨hmem, d, u, hth⟩ := unitsMark_passesResumed s c.toNat t
    refine ⟨_, exec_xret_supervisor c s t h hd hl, ?_⟩
    rw [thOf_held, hth]
    exact ⟨rfl, rfl, rfl, rfl, rfl, sameMemory_trans hmem (onlyThread_held ..).sameMemory⟩
  · obtain ⟨s', hillop, hat, -⟩ := illop_spec s c.toNat t (thOf s c.toNat t) 4#18 3 hsb
    exact ⟨s', (exec_xret_user c s t h hl).trans (congrArg _ hillop), (hat hx).1⟩

end Sys2Proof.Machine

open Sys2Proof Sys2Proof.Machine

/-- Settles O6: instruction words, reserved encodings, TRAP and XRET. -/
theorem trapsAndReserved : Obligations.TrapsAndReserved := ⟨instructionWords_hold, reservedEncodings_hold, trapAndReturn_hold⟩

end

section
/-!
SUPPORT. FENCE, STOP and MCALL (O7).
-/

namespace Sys2Proof.Machine

/-- R102, R402: threads that do not wait are not among those that resume. -/
theorem thOf_resumeParked_of_not_waiting (s : State) (c t : Nat) (h : (thOf s c t).st ≠ .waiting) :
    thOf (resumeParked s) c t = thOf s c t := by
  have hb : ((thOf s c t).st == ThState.waiting) = false := beq_eq_false_iff_ne.2 h
  unfold thOf threadOf coreOf resumeParked at *
  rw [tabGet_tabMap _ _ _ _ rfl, settle_th, tabGet_tabMap _ _ _ _ rfl, hb]
  rfl

/-- R402: a thread that has stopped stays as it is when its recovery is done. -/
theorem thOf_recoveryDone_of_not_waiting (s : State) (c t : Nat) (h : (thOf s c t).st ≠ .waiting) :
    thOf (recoveryDone s c t) c t = thOf s c t := by
  unfold recoveryDone
  dsimp only
  split
  · split
    · exact thOf_resumeParked_of_not_waiting _ c t h
    · rfl
  · rfl

theorem sameMemory_recoveryDone (s : State) (c t : Nat) : SameMemory s (recoveryDone s c t) := by
  unfold recoveryDone
  dsimp only
  split
  · split <;> exact sameMemory_rfl s
  · exact sameMemory_rfl s

/-- R239: with no stream pass to abandon, a stop frees arms alone. -/
theorem seStop_of_no_run (s : State) (c t : Nat) (h : (coreOf s c).se.run = none) : seStop s c t =
    setSe s c { (coreOf s c).se with arms := (coreOf s c).se.arms.filter fun e => e.2.t != t } := by
  unfold seStop
  dsimp only
  rw [h]

theorem mxRelease_eq (k : Core) (t : Nat) : ∃ m, mxRelease k t = { k with mx := m } ∧ m.loadSrc = k.mx.loadSrc := by
  refine ⟨_, rfl, ?_⟩
  cases k.mx.pass with
  | none => dsimp only; split <;> rfl
  | some p => dsimp only; split <;> split <;> rfl

/-- R121, R128, R239: thread t of core c stopped after its STOP, its arms freed and the matrix unit released. -/
def stopped (s : State) (c t : Nat) : State :=
  let s1 := setTh s c t { thOf s c t with pc := (thOf s c t).pc + 4#18, icount := (thOf s c t).icount + 1, st := .stopped }
  seStop (setCore s1 c (mxRelease (coreOf s1 c) t)) c t

theorem stopped_th (s : State) (c t : Nat) :
    (thOf (stopped s c t) c t).st = .stopped ∧ (thOf (stopped s c t) c t).pc = (thOf s c t).pc + 4#18 := by
  unfold stopped
  generalize hy : ({ thOf s c t with pc := _, icount := _, st := _ } : Thread) = y
  dsimp only
  obtain ⟨m, hm, -⟩ := mxRelease_eq (coreOf (setTh s c t y) c) t
  have hth : thOf (setCore (setTh s c t y) c (mxRelease (coreOf (setTh s c t y) c) t)) c t = y := by
    refine Eq.trans ?_ (thOf_setTh s c t y)
    unfold thOf
    rw [coreOf_setCore, hm]
    rfl
  obtain ⟨-, hkept⟩ := seStop_kept (setCore (setTh s c t y) c (mxRelease (coreOf (setTh s c t y) c) t)) c t
  obtain ⟨hst, hpc⟩ := hkept t
  rw [hst, hpc, hth, ← hy]
  exact ⟨rfl, rfl⟩

/-- R121: with nothing to load and no stream pass, neither the stop nor the clocks it takes touch memory. -/
theorem sameMemory_stopped (s : State) (c t : Nat) (x : Thread) (n : Nat) (hl : (coreOf s c).mx.loadSrc = [])
    (hr : (coreOf s c).se.run = none) (he : (coreOf s c).se.ending = []) : SameMemory s (place (stopped s c t) c t x n) := by
  have hstopped : SameMemory s (stopped s c t) ∧ (coreOf (stopped s c t) c).mx.loadSrc = [] ∧
      (coreOf (stopped s c t) c).se.run = none ∧ (coreOf (stopped s c t) c).se.ending = [] := by
    unfold stopped
    generalize ({ thOf s c t with pc := _, icount := _, st := _ } : Thread) = y
    dsimp only
    have hcore : coreOf (setTh s c t y) c = { coreOf s c with th := tabSet (coreOf s c).th t y } := coreOf_setCore ..
    obtain ⟨m, hm, hml⟩ := mxRelease_eq (coreOf (setTh s c t y) c) t
    rw [hcore] at hm hml
    rw [hcore, hm, seStop_of_no_run _ _ _ (by rw [coreOf_setCore]; exact hr), setSe, coreOf_setCore, coreOf_setCore]
    exact ⟨sameMemory_rfl s, hml.trans hl, hr, he⟩
  obtain ⟨hmem, hsl, hsr, hse⟩ := hstopped
  obtain ⟨_, _, _, _, _, _, hheld⟩ := held_core (stopped s c t) c t x n
  unfold place
  rw [catchUp_idle _ _ (by rw [hheld]; exact hsl) (by rw [hheld]; exact writesBefore_idle _ _ hsr hse)]
  exact sameMemory_trans hmem (onlyThread_held ..).sameMemory

/-- R121, R402: STOP of a thread with nothing to drain. -/
theorem exec_stop (c : BitVec 8) (s : State) (t : Nat) (h : CanIssue s c t 4#18 []) (hd : Drained s c.toNat t) :
    exec (.stop c) s = .next (wake (notify (recoveryDone (place (stopped s c.toNat t) c.toNat t
      (thOf (stopped s c.toNat t) c.toNat t) 2) c.toNat t) 2 (c.toNat * 8 + t)) c.toNat) := by
  refine congrArg Host.Outcome.next ?_
  rw [issue_of_canIssue c 4#18 [] _ s t h, fenced_of_drained c.toNat t s _ hd]
  rfl

/-- R106, R121: FENCE of a thread with nothing to drain. -/
theorem exec_fence (c : BitVec 8) (s : State) (t : Nat) (h : CanIssue s c t 4#18 []) (hd : Drained s c.toNat t) :
    exec (.fence c) s = .next (retire s c.toNat t (thOf s c.toNat t) ((thOf s c.toNat t).pc + 4#18) 2) := by
  refine congrArg Host.Outcome.next ?_
  rw [issue_of_canIssue c 4#18 [] _ s t h, fenced_of_drained c.toNat t s _ hd]

/-- R106, R121: FENCE of a thread whose stores wait. -/
theorem exec_fence_posted (c : BitVec 8) (s : State) (t : Nat) (h : CanIssue s c t 4#18 []) (hb : (thOf s c.toNat t).sb ≠ []) :
    exec (.fence c) s = .next (goWait s c.toNat t (thOf s c.toNat t) .drain 2) := by
  refine congrArg Host.Outcome.next ?_
  rw [issue_of_canIssue c 4#18 [] _ s t h, fenced_of_posted c.toNat t s _ hb]

theorem fenceAndStop_hold : FenceAndStop := by
  intro c s t h
  refine ⟨fun hd => ?_, fun hb => ?_, fun hd => ?_⟩
  · obtain ⟨s', st, w, hret, hth, honly, hclk⟩ :=
      retire_spec s c.toNat t (thOf s c.toNat t) ((thOf s c.toNat t).pc + 4#18) 2
    refine ⟨s', by rw [exec_fence c s t h hd, hret], ⟨honly, ?_, ?_, hclk⟩, ?_⟩ <;> rw [hth]
    exact rfl
  · obtain ⟨s', hwait, hth, -⟩ := goWait_spec s c.toNat t (thOf s c.toNat t) .drain 2
    exact ⟨s', by rw [exec_fence_posted c s t h hb, hwait], hth⟩
  · obtain ⟨hst, hpc⟩ := stopped_th s c.toNat t
    generalize hp : place (stopped s c.toNat t) c.toNat t (thOf (stopped s c.toNat t) c.toNat t) 2 = p
    have hpth : thOf p c.toNat t = thOf (stopped s c.toNat t) c.toNat t := by rw [← hp, thOf_place]
    have hrec : thOf (recoveryDone p c.toNat t) c.toNat t = thOf p c.toNat t :=
      thOf_recoveryDone_of_not_waiting p c.toNat t (by rw [hpth, hst]; decide)
    have hwake : thOf (wake (notify (recoveryDone p c.toNat t) 2 (c.toNat * 8 + t)) c.toNat) c.toNat t =
        thOf (recoveryDone p c.toNat t) c.toNat t :=
      thOf_wake_of_not_waiting (notify (recoveryDone p c.toNat t) 2 (c.toNat * 8 + t)) c.toNat t
        (show (thOf (recoveryDone p c.toNat t) c.toNat t).st ≠ _ by rw [hrec, hpth, hst]; decide)
    refine ⟨_, by rw [exec_stop c s t h hd, hp], ?_, ?_, rfl, fun hl hr he => ?_⟩
    · rw [hwake, hrec, hpth, hst]
    · rw [hwake, hrec, hpth, hpc]
    · have hplaced : SameMemory s p := hp ▸ sameMemory_stopped s c.toNat t _ 2 hl hr he
      exact sameMemory_trans hplaced (sameMemory_recoveryDone p c.toNat t)

/-- R86: MCALL #n at level S. -/
theorem exec_mcall_supervisor (c n : BitVec 8) (s : State) (t : Nat) (h : CanIssue s c t 4#18 [.s 1#5]) (hd : Drained s c.toNat t)
    (hl : (thOf s c.toNat t).lvl = .S) :
    exec (.mcall c n 0#18) s = .next (goWait s c.toNat t (thOf s c.toNat t) (.reply (.mcall n)) 2) := by
  have hs : (!(isS (thOf s c.toNat t))) = false := by rw [isS, hl]; rfl
  refine congrArg Host.Outcome.next ?_
  rw [issue_of_canIssue c 4#18 _ _ s t h, if_neg (by decide), hs, if_neg Bool.false_ne_true, fenced_of_drained c.toNat t s _ hd]

/-- R86, R95: MCALL #n at level U. -/
theorem exec_mcall_user (c n : BitVec 8) (s : State) (t : Nat) (h : CanIssue s c t 4#18 [.s 1#5])
    (hl : (thOf s c.toNat t).lvl = .U) (hx : (thOf s c.toNat t).exm = false) : exec (.mcall c n 0#18) s =
      .next (enter s c.toNat t (thOf s c.toNat t) (cIllop + n.toNat * 2 ^ 22) 0#64 (thOf s c.toNat t).pc 0#18 3) := by
  have hu : (!(isS (thOf s c.toNat t))) = true := by rw [isS, hl]; rfl
  refine congrArg Host.Outcome.next ?_
  rw [issue_of_canIssue c 4#18 _ _ s t h, if_neg (by decide), hu, if_pos rfl, raise, hx, if_neg Bool.false_ne_true]

theorem monitorCall_hold : MonitorCall := by
  intro c n s t h hd
  refine ⟨fun hl => ?_, fun hl hx => ?_⟩
  · obtain ⟨s', hwait, hth, honly⟩ := goWait_spec s c.toNat t (thOf s c.toNat t) (.reply (.mcall n)) 2
    exact ⟨s', by rw [exec_mcall_supervisor c n s t h hd hl, hwait], hth, honly⟩
  · obtain ⟨s', henter, hat, -⟩ := enter_drained s c.toNat t (thOf s c.toNat t) (cIllop + n.toNat * 2 ^ 22) 0#64
      (thOf s c.toNat t).pc 0#18 3 hd.1
    exact ⟨s', by rw [exec_mcall_user c n s t h hl hx, henter], hat⟩

end Sys2Proof.Machine

open Sys2Proof Sys2Proof.Machine

/-- Settles O7: FENCE, STOP and MCALL. -/
theorem fenceStopMonitorCall : Obligations.FenceStopMonitorCall := ⟨fenceAndStop_hold, monitorCall_hold⟩

end

section
/-!
SUPPORT. MFTR and MTTR (O8).
-/

namespace Sys2Proof.Machine

theorem putS_eq (x : Thread) (d : BitVec 5) (v : Word) : ∃ l, putS x d v = { x with s := l } := by
  unfold putS
  split
  · exact ⟨x.s, rfl⟩
  · exact ⟨_, rfl⟩

/-- R112: a thread whose scalar registers are those after a write has been written so. -/
theorem wrote_of_regs {x y : Thread} (d : BitVec 5) (v : Word) (h : y.s = (putS x d v).s) : Wrote x y d v := by
  have hget (r : BitVec 5) : getS y r = getS (putS x d v) r := by
    unfold getS
    rw [h]
  refine ⟨by rw [hget, getS_putS_same], fun r hr => by rw [hget, getS_putS_ne x d r v hr]⟩

/-- R122: MFTR of a register that the outcome log does not record. -/
theorem exec_mftr_plain (c : BitVec 8) (d : BitVec 5) (n : BitVec 8) (w : Word) (s : State) (t : Nat)
    (h : CanIssue s c t 4#18 [.s d]) (hn : isTimeTrn n.toNat = false)
    (hw : readTrn s c.toNat t (thOf s c.toNat t) n.toNat = some w) :
    exec (.mftr c d n 0#7) s = .next (retire s c.toNat t (putS (thOf s c.toNat t) d w) ((thOf s c.toNat t).pc + 4#18) 3) := by
  refine congrArg Host.Outcome.next ?_
  rw [issue_of_canIssue c 4#18 _ _ s t h, if_neg (by decide), hw]
  dsimp only
  rw [hn, if_neg Bool.false_ne_true]

/-- R122, R403: MFTR of a register whose reads the outcome log records. -/
theorem exec_mftr_recorded (c : BitVec 8) (d : BitVec 5) (n : BitVec 8) (w : Word) (s : State) (t : Nat)
    (h : CanIssue s c t 4#18 [.s d]) (hn : isTimeTrn n.toNat = true)
    (hw : readTrn s c.toNat t (thOf s c.toNat t) n.toNat = some w) :
    exec (.mftr c d n 0#7) s = .next (retire (outcome s 2 [c.toNat, t, (thOf s c.toNat t).icount] w).2 c.toNat t
      (putS (thOf s c.toNat t) d (outcome s 2 [c.toNat, t, (thOf s c.toNat t).icount] w).1) ((thOf s c.toNat t).pc + 4#18) 3) := by
  refine congrArg Host.Outcome.next ?_
  rw [issue_of_canIssue c 4#18 _ _ s t h, if_neg (by decide), hw]
  dsimp only
  rw [hn, if_pos rfl]

/-- R85, R122: thread t of core c reads thread register n as w into Sd. -/
def ReadsTrn (s : State) (c : BitVec 8) (t : Nat) (d : BitVec 5) (n : BitVec 8) (w : Word) : Prop :=
  ∃ s', exec (.mftr c d n 0#7) s = .next (catchUp s' c.toNat) ∧ Wrote (thOf s c.toNat t) (thOf s' c.toNat t) d w ∧
    (thOf s' c.toNat t).pc = (thOf s c.toNat t).pc + 4#18 ∧ SameMemory s s'

theorem readsTrn_of_retire {s s1 : State} {c : BitVec 8} {t : Nat} {d : BitVec 5} {n : BitVec 8} {w : Word} (hm : SameMemory s s1)
    (hexec : exec (.mftr c d n 0#7) s =
      .next (retire s1 c.toNat t (putS (thOf s c.toNat t) d w) ((thOf s c.toNat t).pc + 4#18) 3)) : ReadsTrn s c t d n w := by
  obtain ⟨s', st, v, hret, hth, honly, -⟩ :=
    retire_spec s1 c.toNat t (putS (thOf s c.toNat t) d w) ((thOf s c.toNat t).pc + 4#18) 3
  refine ⟨s', by rw [hexec, hret], wrote_of_regs d w ?_, ?_, sameMemory_trans hm honly.sameMemory⟩ <;> rw [hth]

theorem readsTrn_plain {s : State} {c : BitVec 8} {t : Nat} {d : BitVec 5} {n : BitVec 8} {w : Word}
    (h : CanIssue s c t 4#18 [.s d]) (hn : isTimeTrn n.toNat = false)
    (hw : readTrn s c.toNat t (thOf s c.toNat t) n.toNat = some w) : ReadsTrn s c t d n w :=
  readsTrn_of_retire (sameMemory_rfl s) (exec_mftr_plain c d n w s t h hn hw)

/-- R403: outside replay a recorded register reads as it stands. -/
theorem readsTrn_recorded {s : State} {c : BitVec 8} {t : Nat} {d : BitVec 5} {n : BitVec 8} {w : Word}
    (h : CanIssue s c t 4#18 [.s d]) (hr : s.steep.replay = []) (hn : isTimeTrn n.toNat = true)
    (hw : readTrn s c.toNat t (thOf s c.toNat t) n.toNat = some w) : ReadsTrn s c t d n w := by
  obtain ⟨hval, -⟩ := outcome_of_no_replay s 2 [c.toNat, t, (thOf s c.toNat t).icount] w hr
  refine readsTrn_of_retire (replyOnly_sameMemory (replyOnly_outcome s 2 [c.toNat, t, (thOf s c.toNat t).icount] w)) ?_
  rw [exec_mftr_recorded c d n w s t h hn hw, hval]

/-- R85, R122: MTTR to thread register n leaves thread t of core c with the registers of y. -/
def WritesTrn (s : State) (c : BitVec 8) (t : Nat) (a : BitVec 5) (n : BitVec 8) (y : Thread) : Prop :=
  ∃ s' st w, exec (.mttr c a n 0#7) s = .next (catchUp s' c.toNat) ∧
    thOf s' c.toNat t = { y with pc := (thOf s c.toNat t).pc + 4#18, icount := (thOf s c.toNat t).icount + 1, st := st, wait := w } ∧
    OnlyThread s s' c.toNat t

/-- R122: a write that the thread's level allows, or that is without effect. -/
theorem writesTrn_of_write {s : State} {c : BitVec 8} {t : Nat} {a : BitVec 5} {n : BitVec 8} {y : Thread}
    (h : CanIssue s c t 4#18 [.s a]) (hi : y.icount = (thOf s c.toNat t).icount)
    (hw : (if isS (thOf s c.toNat t) then writeTrnS (thOf s c.toNat t) n.toNat (getS (thOf s c.toNat t) a)
      else writeTrnU (thOf s c.toNat t) n.toNat (getS (thOf s c.toNat t) a)) = some y) : WritesTrn s c t a n y := by
  have hexec : exec (.mttr c a n 0#7) s = .next (retire s c.toNat t y ((thOf s c.toNat t).pc + 4#18) 3) := by
    refine congrArg Host.Outcome.next ?_
    rw [issue_of_canIssue c 4#18 _ _ s t h, if_neg (by decide), hw]
  obtain ⟨s', st, v, hret, hth, honly, -⟩ := retire_spec s c.toNat t y ((thOf s c.toNat t).pc + 4#18) 3
  exact ⟨s', st, v, by rw [hexec, hret], by rw [hth, hi], honly⟩

/-- R122: a register that both levels write alike. -/
theorem writesTrn_any {s : State} {c : BitVec 8} {t : Nat} {a : BitVec 5} {n : BitVec 8} {y : Thread}
    (h : CanIssue s c t 4#18 [.s a]) (hi : y.icount = (thOf s c.toNat t).icount)
    (hs : writeTrnS (thOf s c.toNat t) n.toNat (getS (thOf s c.toNat t) a) = some y)
    (hu : writeTrnU (thOf s c.toNat t) n.toNat (getS (thOf s c.toNat t) a) = some y) : WritesTrn s c t a n y :=
  writesTrn_of_write h hi (by rw [hs, hu, ite_self])

theorem writesTrn_supervisor {s : State} {c : BitVec 8} {t : Nat} {a : BitVec 5} {n : BitVec 8} {y : Thread}
    (h : CanIssue s c t 4#18 [.s a]) (hi : y.icount = (thOf s c.toNat t).icount) (hl : (thOf s c.toNat t).lvl = .S)
    (hs : writeTrnS (thOf s c.toNat t) n.toNat (getS (thOf s c.toNat t) a) = some y) : WritesTrn s c t a n y :=
  writesTrn_of_write h hi (by rw [isS, hl, if_pos (by decide), hs])

theorem writesTrn_user {s : State} {c : BitVec 8} {t : Nat} {a : BitVec 5} {n : BitVec 8} {y : Thread}
    (h : CanIssue s c t 4#18 [.s a]) (hi : y.icount = (thOf s c.toNat t).icount) (hl : (thOf s c.toNat t).lvl = .U)
    (hu : writeTrnU (thOf s c.toNat t) n.toNat (getS (thOf s c.toNat t) a) = some y) : WritesTrn s c t a n y :=
  writesTrn_of_write h hi (by rw [isS, hl, if_neg (by decide), hu])

end Sys2Proof.Machine

open Sys2Proof Sys2Proof.Machine

/-- Settles O8: MFTR and MTTR. -/
theorem threadRegisterMoves : Obligations.ThreadRegisterMoves := by
  intro c d a s t h
  have hd : CanIssue s c t 4#18 [.s d] := canIssue_of_subset h (by simp)
  have ha : CanIssue s c t 4#18 [.s a] := canIssue_of_subset h (by simp)
  exact ⟨readsTrn_plain hd rfl rfl, readsTrn_plain hd rfl rfl, readsTrn_plain hd rfl rfl, fun hr => readsTrn_recorded hd hr rfl rfl,
    readsTrn_plain hd rfl rfl, readsTrn_plain hd rfl rfl, fun hr => readsTrn_recorded hd hr rfl rfl, writesTrn_any ha rfl rfl rfl,
    writesTrn_any ha rfl rfl rfl, writesTrn_any ha rfl rfl rfl,
    fun hl => ⟨writesTrn_supervisor ha rfl hl rfl, writesTrn_supervisor ha rfl hl rfl⟩,
    fun hl => ⟨writesTrn_user ha rfl hl rfl, writesTrn_user ha rfl hl rfl, writesTrn_user ha rfl hl rfl⟩⟩

end

section
/-!
SUPPORT. Interrupt entry (O32): exception entry of a thread that waits for nothing, and the source that it takes.
-/

namespace Sys2Proof.Machine

/-- R92, R99: exception entry from outside its turn of a thread that waits for nothing and has no posted store. -/
theorem asyncEnter_spec (s : State) (c t cause : Nat) (off : BitVec 18) (hw : (thOf s c t).wait = .none) (hb : (thOf s c t).sb = []) :
    ∃ th ran cur p q w, coreOf (asyncEnter s c t cause off) c =
        { coreOf s c with th := th, clk := (coreOf s c).clk + 4, ran := ran, cur := cur, usedP := p, usedT := q, win := w } ∧
      thOf (asyncEnter s c t cause off) c t = (if vecDone (coreOf s c) t then entered (thOf s c t) cause 0#64 (thOf s c t).pc off
        else { thOf s c t with sb := [], st := .waiting, wait := .entry cause 0#64 (thOf s c t).pc off }) ∧
      SameMemory s (asyncEnter s c t cause off) := by
  have hth : thOf (setTh s c t (thOf s c t)) c t = thOf s c t := thOf_setTh ..
  have hcore : coreOf (setTh s c t (thOf s c t)) c = { coreOf s c with th := tabSet (coreOf s c).th t (thOf s c t) } := coreOf_setCore ..
  obtain ⟨th, ran, cur, p, q, w, henter, hentered⟩ := enterOutside_core (setTh s c t (thOf s c t)) c t cause 0#64 (thOf s c t).pc off
  have houtside : asyncEnter s c t cause off =
      enterOutside (setTh s c t (thOf s c t)) c t cause 0#64 (thOf s c t).pc off := by
    unfold asyncEnter
    rw [abandonWait_of_not_waiting s c t hw]
    dsimp only
    rw [hth]
  rw [houtside]
  rw [hth, hcore] at hentered
  rw [hcore] at henter
  exact ⟨th, ran, cur, p, q, w, henter, hentered, sameMemory_enterOutside (setTh s c t (thOf s c t)) c t cause _ _ _ (by rw [hth, hb])⟩

/-- R98: an offered source is one of the 49. -/
theorem icuOffer_lt {s : State} {k : Core} {t n : Nat} {multi : Bool} (h : icuOffer s k t = some (n, multi)) : n < 49 := by
  unfold icuOffer at h
  dsimp only at h
  split at h
  · exact absurd h nofun
  · rename_i m more hlist
    obtain ⟨rfl, -⟩ := Prod.mk.inj (Option.some.inj h)
    have hmem : m ∈ ((List.range 49).filter (icuEligible s k t)).filter _ := hlist ▸ List.mem_cons_self ..
    exact List.mem_range.1 (List.mem_filter.1 (List.mem_filter.1 hmem).1).1

theorem asyncDue_of_masked (s : State) (c t : Nat) (h : (thOf s c t).exm = true) : asyncDue s c t = false := by
  simp [asyncDue, icuDue, h]

theorem asyncDue_of_stopped (s : State) (c t : Nat) (h : (thOf s c t).st = .stopped) : asyncDue s c t = false := by
  simp [asyncDue, icuDue, h]

theorem asyncDue_of_unitDue (s : State) (c t : Nat) (hu : (thOf s c t).unitDue ≠ 0) (hx : (thOf s c t).exm = false)
    (hst : (thOf s c t).st ≠ .stopped) (hw : (thOf s c t).wait = .none) : asyncDue s c t = true := by
  simp [asyncDue, hu, hx, hst, hw]

theorem asyncDue_of_icuDue (s : State) (c t : Nat) (hd : icuDue s c t = true) (hw : (thOf s c t).wait = .none) :
    asyncDue s c t = true := by
  simp [asyncDue, hd, hw]

/-- R99: a thread that is not due anything enters no exception. -/
theorem exec_interruptEntry_not_due (c : BitVec 8) (t : BitVec 3) (s : State) (h : asyncDue s c.toNat t.toNat = false) :
    exec (.interruptEntry c t) s = .next s :=
  congrArg Host.Outcome.next (if_neg (by simp [h]))

/-- R99, R218: poison that a unit has read comes before an interrupt. -/
theorem exec_interruptEntry_poison (c : BitVec 8) (t : BitVec 3) (s : State) (h : asyncDue s c.toNat t.toNat = true)
    (hb : atEntryBoundary s c.toNat t.toNat = true) (hu : (thOf s c.toNat t.toNat).unitDue ≠ 0) :
    exec (.interruptEntry c t) s = .next (asyncEnter (setTh s c.toNat t.toNat { thOf s c.toNat t.toNat with unitDue := 0 }) c.toNat
      t.toNat (thOf s c.toNat t.toNat).unitDue 0#18) := by
  refine congrArg Host.Outcome.next ?_
  rw [h, hb, Bool.and_self, if_pos rfl, if_pos (by simpa using hu)]

theorem exec_interruptEntry_interrupt (c : BitVec 8) (t : BitVec 3) (s : State) (h : asyncDue s c.toNat t.toNat = true)
    (hb : atEntryBoundary s c.toNat t.toNat = true) (hu : (thOf s c.toNat t.toNat).unitDue = 0) :
    exec (.interruptEntry c t) s = .next (takeInterrupt s c.toNat t.toNat) := by
  refine congrArg Host.Outcome.next ?_
  rw [h, hb, Bool.and_self, if_pos rfl, hu, if_neg (by decide)]

/-- R96 to R99: outside replay a thread takes the source it is offered, whose edge is cleared. -/
theorem takeInterrupt_of_offer (s : State) (c t n : Nat) (multi : Bool) (hr : s.steep.replay = [])
    (ho : icuOffer s (coreOf s c) t = some (n, multi)) : ∃ s1, s1.cores = s.cores ∧ SameMemory s s1 ∧
      takeInterrupt s c t = asyncEnter (setCore s1 c (icuTake (coreOf s c) n multi)) c t (cIntr + n * 2 ^ 16) 0x40#18 := by
  have hn := icuOffer_lt ho
  obtain ⟨hv, hcores⟩ := outcome_of_no_replay s 3 [c, t, (thOf s c t).icount] (BitVec.ofNat 64 n) hr
  have hmem := replyOnly_sameMemory (replyOnly_outcome s 3 [c, t, (thOf s c t).icount] (BitVec.ofNat 64 n))
  have hmod : (BitVec.ofNat 64 n).toNat % 64 = n := by rw [BitVec.toNat_ofNat]; omega
  refine ⟨_, hcores, hmem, ?_⟩
  unfold takeInterrupt
  rw [ho]
  dsimp only [Option.map_some, Option.getD_some]
  rw [hv, hmod, coreOf_of_cores hcores]

theorem interruptEntry_hold : InterruptEntry := by
  intro c t s n multi hr
  refine ⟨fun hu hx hst hat hw hb => ?_, fun hdue hat hw hb hu ho => ?_,
    fun hx => exec_interruptEntry_not_due c t s (asyncDue_of_masked s _ _ hx),
    fun hst => exec_interruptEntry_not_due c t s (asyncDue_of_stopped s _ _ hst)⟩
  · have hth := thOf_setTh s c.toNat t.toNat { thOf s c.toNat t.toNat with unitDue := 0 }
    obtain ⟨th, ran, cur, p, q, w, -, hentered, hmem⟩ := asyncEnter_spec
      (setTh s c.toNat t.toNat { thOf s c.toNat t.toNat with unitDue := 0 }) c.toNat t.toNat (thOf s c.toNat t.toNat).unitDue 0#18
      (by rw [hth]; exact hw) (by rw [hth]; exact hb)
    rw [hth] at hentered
    refine ⟨_, exec_interruptEntry_poison c t s (asyncDue_of_unitDue s _ _ hu hx hst hw) hat hu, ?_, ?_, hmem⟩
    · rw [hentered]
      refine entersAt_congr (k := coreOf (setTh s c.toNat t.toNat _) c.toNat) ?_ ?_
        (entersAt_of_kept _ t.toNat ⟨rfl, rfl, rfl, rfl, rfl, rfl, rfl, rfl, rfl⟩ _ _ _ _) <;> rw [setTh, coreOf_setCore]
    · rw [hentered]
      split <;> rfl
  · obtain ⟨s1, hcores, hmem1, htake⟩ := takeInterrupt_of_offer s c.toNat t.toNat n multi hr ho
    have hcore := coreOf_setCore s1 c.toNat (icuTake (coreOf s c.toNat) n multi)
    have hth : thOf (setCore s1 c.toNat (icuTake (coreOf s c.toNat) n multi)) c.toNat t.toNat = thOf s c.toNat t.toNat := by
      unfold thOf
      rw [hcore]
      rfl
    obtain ⟨th, ran, cur, p, q, w, hcore', hentered, hmem⟩ := asyncEnter_spec
      (setCore s1 c.toNat (icuTake (coreOf s c.toNat) n multi)) c.toNat t.toNat (cIntr + n * 2 ^ 16) 0x40#18
      (by rw [hth]; exact hw) (by rw [hth]; exact hb)
    rw [hth, hcore] at hentered
    rw [hcore] at hcore'
    refine ⟨_, by rw [exec_interruptEntry_interrupt c t s (asyncDue_of_icuDue s _ _ hdue hw) hat hu, htake], ?_, icuOffer_lt ho, ?_,
      fun hm => ?_, sameMemory_trans hmem1 hmem⟩
    · rw [hentered]
      exact entersAt_congr (k := icuTake (coreOf s c.toNat) n multi) rfl rfl (entersAt_of_vecDone ..)
    · rw [hcore']
      rfl
    · rw [hcore', hm]
      rfl

end Sys2Proof.Machine
end

section
/-!
SUPPORT. Interrupt sources (O32): what makes them pending and what clears them.
-/

namespace Sys2Proof.Machine

theorem getLsbD_maskBits (p : Nat → Bool) (i : Nat) (hi : i < 64) : (maskBits p).getLsbD i = p i := by
  have hfold (l : List Nat) : ∀ m : BitVec 64, (l.foldl (fun m j => if p j then m ||| (1#64 <<< j) else m) m).getLsbD i =
      (m.getLsbD i || (decide (i ∈ l) && p i)) := by
    induction l with
    | nil => simp
    | cons j l ih =>
      intro m
      rw [List.foldl_cons, ih]
      by_cases hj : j = i
      · subst hj
        cases p j <;> simp [hi]
      · have hbit : (1#64 <<< j).getLsbD i = false := by
          simp [hi]
          omega
        have hmem : (i ∈ j :: l) ↔ i ∈ l := by simp [Ne.symm hj]
        cases p j <;> simp [hbit, hmem]
  unfold maskBits
  rw [hfold]
  simp [hi]

/-- R97: who may change a source. -/
theorem srcMay_iff (k : Core) (v : Viewer) (i : Nat) : srcMay k v i = true ↔ v.mon = true ∨ (v.lvlS = true ∧
    v.world = (if (tabGet 0#30 k.icuSrc i).getLsbD 8 then World.T else World.P)) := by
  unfold srcMay
  rw [Bool.or_eq_true, Bool.and_eq_true, beq_iff_eq, eq_comm (a := v.world)]

/-- R96: ICU_SWI sets the sources 0 to 7 that the writer may change. -/
theorem icuSwi_pending (s : State) (c : Nat) (v : Viewer) (w : Word) (i : Nat) (hi : i < 64) :
    (coreOf (icuSwi s c v w) c).icuPend.getLsbD i =
      ((coreOf s c).icuPend.getLsbD i || (w.getLsbD i && decide (i < 8) && srcMay (coreOf s c) v i)) := by
  unfold icuSwi
  rw [coreOf_setCore]
  simp [getLsbD_maskBits _ i hi, Bool.and_assoc]

/-- R97: ICU_PEND clears the sources that it names and the writer may change. -/
theorem icuPendClear_pending (s : State) (c : Nat) (v : Viewer) (w : Word) (i : Nat) (hi : i < 64) :
    (coreOf (icuPendClear s c v w) c).icuPend.getLsbD i =
      ((coreOf s c).icuPend.getLsbD i && !(w.getLsbD i && srcMay (coreOf s c) v i)) := by
  unfold icuPendClear
  rw [coreOf_setCore]
  rw [BitVec.getLsbD_and, BitVec.getLsbD_not, decide_eq_true hi, Bool.true_and, BitVec.getLsbD_and, getLsbD_maskBits _ i hi]

/-- R96: a monitor message. -/
theorem getLsbD_setSource (p : BitVec 64) (n i : Nat) (hi : i < 64) : (p ||| (1#64 <<< n)).getLsbD i = (p.getLsbD i || i == n) := by
  rw [BitVec.getLsbD_or, BitVec.getLsbD_shiftLeft, BitVec.getLsbD_one]
  congr 1
  rw [Bool.eq_iff_iff]
  simp [hi]
  omega

/-- R96: a thread's timer is pending once TIME has reached it. -/
theorem icuPending_timer (s : State) (k : Core) (t : Nat) (ht : t < 8) (h0 : tabGet 0#64 k.icuTmr t ≠ 0#64)
    (hle : (tabGet 0#64 k.icuTmr t).toNat ≤ s.time) : icuPending s k (32 + t) = true := by
  have hn : 32 + t - 32 = t := by omega
  have h1 : 32 + t < 49 := by omega
  have h2 : 32 + t < 40 := by omega
  simp [icuPending, icuLevel, hn, h1, h2, h0, hle]

/-- R96, R484: the extension link's line held low. -/
theorem icuPending_extInt (s : State) (k : Core) (h : s.board.ext.intN = false) : icuPending s k 48 = true := by
  simp [icuPending, icuLevel, h]

theorem interruptSources_hold : InterruptSources := by
  intro c who v now k3 t low s
  have hk3 := k3.isLt
  refine ⟨⟨_, rfl, icuSwi_pending s c.toNat _ v, ?_, sameMemory_rfl s⟩, ⟨_, rfl, icuPendClear_pending s c.toNat _ v, ?_, sameMemory_rfl s⟩,
    srcMay_iff _ _, ⟨_, rfl, fun i hi => ?_, sameMemory_rfl s⟩, ⟨_, rfl, rfl, fun h0 hle => icuPending_timer _ _ _ t.isLt h0 hle⟩,
    ⟨_, rfl, rfl, fun hlow => icuPending_extInt _ _ (by rw [hlow]; rfl)⟩⟩
  · rw [icuSwi, coreOf_setCore]
  · rw [icuPendClear, coreOf_setCore]
  · rw [coreOf_setCore]
    exact getLsbD_setSource _ _ i hi

end Sys2Proof.Machine

open Sys2Proof Sys2Proof.Machine

/-- Settles O32: interrupt entry and interrupt sources. -/
theorem interrupts : Obligations.Interrupts := ⟨interruptEntry_hold, interruptSources_hold⟩

end

section
/-!
SUPPORT. STORE_DRAIN (O10): a thread that is to enter an exception, with stores still posted.
-/

namespace Sys2Proof.Machine

/-- A thread that waits to enter an exception, with two bytes still posted to scratchpad 0. -/
def entryWithStores : Thread where
  st := .waiting
  wait := .entry cIllop 0#64 0#18 0#18
  sb := [{ pa := spadBase 0, bytes := [1#8] }, { pa := spadBase 0 + 1, bytes := [2#8] }]

/-- A device with such a thread as core 0's thread 0, and no vector instruction in flight. -/
def entryWithStoresState : State where
  cores := [(0, { th := [(0, entryWithStores)] })]

/-- The stores that a command leaves in the buffer of core 0's thread 0. -/
def storesAfter (o : Out) : Option (List SBuf) :=
  match o with
  | .next s => some (thOf s 0 0).sb
  | _ => none

/-- R92: once the oldest store has drained, the thread enters its exception, which leaves no posted store. -/
theorem storeDrain_entryWithStores : storesAfter (exec (.storeDrain 0#8 0#3) entryWithStoresState) = some [] := by decide +kernel

end Sys2Proof.Machine

open Sys2Proof Sys2Proof.Machine

/-- Refutes O10: its clause on STORE_DRAIN has the younger stores stay. A thread that waits to enter an exception wakes when a store of its
drains, and its entry empties the store buffer. The model drains the buffer before such a wait, but the statement speaks of every state. -/
theorem not_storesAndDrain : ¬ Obligations.StoresAndDrain := by
  rintro ⟨-, hdrain⟩
  obtain ⟨s', hexec, hsb, -⟩ := hdrain 0#8 0#3 { pa := spadBase 0, bytes := [1#8] } [{ pa := spadBase 0 + 1, bytes := [2#8] }]
    entryWithStoresState rfl rfl (by decide +kernel)
  have hafter : (thOf s' 0 0).sb = [] := Option.some.inj ((congrArg storesAfter hexec).symm.trans storeDrain_entryWithStores)
  exact absurd (hsb.symm.trans hafter) nofun

end

section
/-!
SUPPORT. Checked accesses (O9, O11, O12): what the checks of an access leave of the state, and what they tell of parts that pass.
-/

namespace Sys2Proof.Machine

/-- R297, R299, R309: what the checks of an access may change: segment buffers, the counts of multiple matches and those of refusals. -/
def ChecksOnly (s s1 : State) : Prop :=
  s1 = { s with ctxs := s1.ctxs, segbuf := s1.segbuf, steep := { s.steep with wcntP := s1.steep.wcntP, wcntT := s1.steep.wcntT } }

theorem checksOnly_rfl (s : State) : ChecksOnly s s := rfl

theorem checksOnly_trans {a b d : State} (h : ChecksOnly a b) (g : ChecksOnly b d) : ChecksOnly a d := by
  unfold ChecksOnly at *
  rw [g, h]

theorem checksOnly_countCapRef (s : State) (w : World) : ChecksOnly s (countCapRef s w) := by cases w <;> rfl

theorem checksOnly_translate (s : State) (eng cx va : Nat) (need : List Nat) (l : Bool) :
    ChecksOnly s (translate s eng cx va need l).2 := by
  unfold translate
  split
  · exact checksOnly_rfl s
  · dsimp only
    split_ifs <;> rfl

/-- R298: an address that does not translate raises SEGF. -/
theorem translate_bad {s s1 : State} {eng cx va code : Nat} {need : List Nat} {l absent multi miss : Bool}
    (h : translate s eng cx va need l = (.bad code absent multi miss, s1)) : code = cSegf := by
  unfold translate at h
  split at h
  · exact ((Trans.bad.inj (Prod.mk.inj h).1).1).symm
  · have hfst := congrArg Prod.fst h
    simp only [apply_ite Prod.fst] at hfst
    split_ifs at hfst <;> exact (Trans.bad.inj hfst).1.symm

/-- R298: what the check of one part gives: the part keeps its place and length, and is marked bad where it meets a fault. -/
theorem checkPart_spec (s : State) (eng cx : Nat) (w : World) (l : Bool) (need : List Nat) (hint : BitVec 4) (kind : AccKindOf)
    (word8 : Bool) (va len : Nat) :
    let r := checkPart s eng cx w l need hint kind word8 va len
    ChecksOnly s r.2 ∧ r.1.half.len = len ∧ r.1.half.bad = (r.1.code != 0) := by
  have htrans := checksOnly_translate s eng cx va need l
  unfold checkPart
  split
  · rename_i code absent multi miss s1 h
    rw [h] at htrans
    exact ⟨htrans, rfl, by rw [translate_bad h]; rfl⟩
  · rename_i pa sg g multi miss s1 h
    rw [h] at htrans
    refine ⟨?_, rfl, rfl⟩
    dsimp only
    split
    · exact htrans
    · exact checksOnly_trans htrans (checksOnly_countCapRef s1 w)

/-- R298: what the checks of the parts of an access give. -/
theorem checkParts_spec (eng cx : Nat) (w : World) (l : Bool) (need : List Nat) (hint : BitVec 4) (kind : AccKindOf) (word8 : Bool)
    (ps : List (Nat × Nat)) : ∀ s : State,
    let r := checkParts s eng cx w l need hint kind word8 ps
    ChecksOnly s r.2 ∧ (r.1.map fun q => q.half.len) = ps.map (·.2) ∧ ∀ q ∈ r.1, q.half.bad = (q.code != 0) := by
  induction ps with
  | nil => exact fun s => ⟨checksOnly_rfl s, rfl, nofun⟩
  | cons p ps ih =>
    intro s
    obtain ⟨va, len⟩ := p
    obtain ⟨h1, hlen, hbad⟩ := checkPart_spec s eng cx w l need hint kind word8 va len
    obtain ⟨h2, hlens, hbads⟩ := ih (checkPart s eng cx w l need hint kind word8 va len).2
    refine ⟨checksOnly_trans h1 h2, congrArg₂ List.cons hlen hlens, fun q hq => ?_⟩
    rcases List.mem_cons.1 hq with rfl | hq
    · exact hbad
    · exact hbads q hq

theorem ChecksOnly.sameMemory {s s1 : State} (h : ChecksOnly s s1) : SameMemory s s1 := by rw [h]; exact ⟨rfl, rfl⟩

theorem ChecksOnly.cores {s s1 : State} (h : ChecksOnly s s1) : s1.cores = s.cores := by rw [h]

theorem ChecksOnly.part {s s1 : State} (h : ChecksOnly s s1) : s1.part = s.part := by rw [h]

theorem ChecksOnly.fab {s s1 : State} (h : ChecksOnly s s1) : s1.fab = s.fab := by rw [h]

theorem ChecksOnly.replay {s s1 : State} (h : ChecksOnly s s1) : s1.steep.replay = s.steep.replay := by rw [h]

/-- R289: which scratchpad a part lies in is told by the part and the device's number. -/
theorem inOwnSpad_congr {s s1 : State} (hp : s1.part = s.part) (hf : s1.fab = s.fab) (c : Nat) (h : Half) :
    inOwnSpad s1 c h = inOwnSpad s c h := by
  unfold inOwnSpad isRemote
  rw [hp, hf]

section
variable {rs : List Checked}

/-- R94, R297: parts that pass raise no fault, and none of them is bad. -/
theorem firstFault_of_passes (h : Passes rs) : ∀ second, firstFault rs second = none := by
  induction rs with
  | nil => exact fun _ => rfl
  | cons q rs ih =>
    intro second
    obtain ⟨⟨hcode, hmulti⟩, hrest⟩ := List.forall_mem_cons.1 h
    simp [firstFault, hcode, hmulti, ih hrest]

theorem dropCount_of_passes (h : Passes rs) : dropCount rs = 0 := by
  unfold dropCount
  rw [List.filter_eq_nil_iff.2 fun q hq => by simp [(h q hq).1], List.length_nil]

/-- None of the parts is bad. -/
def NoneBad (hs : List Half) : Prop := ∀ h ∈ hs, h.bad = false

theorem noneBad_of_passes (h : Passes rs) (hb : ∀ q ∈ rs, q.half.bad = (q.code != 0)) : NoneBad (rs.map (·.half)) := by
  intro x hx
  obtain ⟨q, hq, rfl⟩ := List.mem_map.1 hx
  rw [hb q hq, (h q hq).1]
  rfl

theorem filter_good {hs : List Half} (h : NoneBad hs) : (hs.filter fun h => !h.bad) = hs :=
  List.filter_eq_self.2 fun x hx => by rw [h x hx]; rfl

theorem all_own {s s1 : State} {c : Nat} (h : AllOwn s c rs) (hp : s1.part = s.part) (hf : s1.fab = s.fab) :
    ((rs.map (·.half)).all (inOwnSpad s1 c)) = true := by
  rw [List.all_eq_true]
  intro x hx
  obtain ⟨q, hq, rfl⟩ := List.mem_map.1 hx
  rw [inOwnSpad_congr hp hf, h q hq]

theorem not_all_own {s s1 : State} {c : Nat} (h : ¬ AllOwn s c rs) (hp : s1.part = s.part) (hf : s1.fab = s.fab) :
    ((rs.map (·.half)).all (inOwnSpad s1 c)) = false := by
  rw [← Bool.not_eq_true, List.all_eq_true]
  intro hall
  exact h fun q hq => by rw [← inOwnSpad_congr hp hf]; exact hall _ (List.mem_map_of_mem hq)

end

/-- R104: the parts of an access cover its bytes, and none is empty. -/
theorem splitAccess_lens (ea size : Nat) (h : 0 < size) :
    ((splitAccess ea size).map (·.2)).sum = size ∧ ∀ p ∈ splitAccess ea size, 0 < p.2 := by
  unfold splitAccess
  split
  · exact ⟨by simp, by simpa using h⟩
  · rename_i hm
    have hdiv := Nat.div_add_mod' ea size
    have hlt := Nat.mod_lt ea h
    have hb : (ea / size + 1) * size = ea / size * size + size := by rw [Nat.add_mul, Nat.one_mul]
    dsimp only
    generalize (ea / size + 1) * size = b at hb
    generalize ea / size * size = k at *
    constructor
    · simp only [List.map_cons, List.map_nil, List.sum_cons, List.sum_nil]
      omega
    · intro p hp
      simp only [List.mem_cons, List.not_mem_nil, or_false] at hp
      rcases hp with rfl | rfl <;> dsimp only <;> omega

end Sys2Proof.Machine
end

section
/-!
SUPPORT. Reads that meet no poison (O9, O12): the bytes of memory as the thread sees them, and the value that they stand for.
-/

namespace Sys2Proof.Machine

/-- R103: no word that a read of n bytes takes from memory is poisoned. -/
theorem readPoison_byte {s : State} {sb : List SBuf} {a n : Nat} (h : readPoison s sb a n = false) (i : Nat) (hi : i < n) :
    readPoison s sb (a + i) 1 = false := by
  unfold readPoison at *
  rw [List.any_eq_false] at *
  intro j hj
  have hj0 : j = 0 := by simpa using hj
  subst hj0
  exact h i (List.mem_range.2 hi)

theorem length_readMerged (s : State) (sb : List SBuf) (a n : Nat) : (readMerged s sb a n).length = n := by
  unfold readMerged
  rw [List.length_map, List.length_range]

/-- A read whose first poisoned part is none meets no poison. -/
theorem readPoison_of_poisonedPart {s : State} {sb : List SBuf} {hs : List Half} (h : poisonedPart s sb hs = none) (hb : NoneBad hs) :
    ∀ x ∈ hs, readPoison s sb (paLocal x.pa) x.len = false := by
  intro x hx
  obtain ⟨i, hi, hget⟩ := List.mem_iff_getElem.1 hx
  have hfind := List.find?_eq_none.1 (Option.map_eq_none_iff.1 h) (x, i) (List.mem_zipIdx_iff_getElem?.2 (by rw [List.getElem?_eq_getElem hi, hget]))
  simpa [hb x hx] using hfind

/-- R103, R104: the bytes that parts without poison give. -/
theorem readParts_clean {s : State} {sb : List SBuf} {hs : List Half} (hb : NoneBad hs)
    (hp : ∀ h ∈ hs, readPoison s sb (paLocal h.pa) h.len = false) :
    readParts s sb hs = (hs.map fun h => readMerged s sb (paLocal h.pa) h.len).flatten := by
  unfold readParts
  refine congrArg List.flatten (List.map_congr_left fun h hh => ?_)
  rw [hb h hh, if_neg Bool.false_ne_true]
  refine List.ext_getElem (by simp) fun i hi hi' => ?_
  have hlt : i < h.len := by simpa [length_readMerged] using hi'
  simp [readPoison_byte (hp h hh) i hlt]

theorem length_partsSeen (s : State) (sb : List SBuf) (rs : List Checked) :
    (partsSeen s sb rs).length = (rs.map fun q => q.half.len).sum := by
  unfold partsSeen
  rw [List.length_flatten, List.map_map]
  exact congrArg List.sum (List.map_congr_left fun q _ => length_readMerged ..)

/-- R103, R252: decoding words changes no byte that a read without poison gives. -/
theorem readParts_of_passes {s u : State} {sb : List SBuf} {rs : List Checked} (hb : NoneBad (rs.map (·.half)))
    (hp : poisonedPart s sb (rs.map (·.half)) = none) (hm : SameMemory s u) (hpart : u.part = s.part) :
    readParts u sb (rs.map (·.half)) = partsSeen s sb rs := by
  rw [readParts_congr hm hpart, readParts_clean hb (readPoison_of_poisonedPart hp hb), List.map_map]
  rfl

theorem poisonedPart_congr {s s' : State} (h : SameMemory s s') (hp : s'.part = s.part) (sb : List SBuf) (hs : List Half) :
    poisonedPart s' sb hs = poisonedPart s sb hs := by
  unfold poisonedPart
  simp only [readPoison_congr h hp]

theorem leNat_lt (bs : List Byte) : leNat bs < 256 ^ bs.length := by
  induction bs with
  | nil => exact Nat.one_pos
  | cons b bs ih =>
    have := b.isLt
    rw [leNat, List.length_cons, Nat.pow_succ]
    omega

/-- R32: the two's-complement number of w bits that a number below 2^w stands for. -/
theorem sint_of_lt (w v : Nat) (hw : 0 < w) (hv : v < 2 ^ w) : sint w v = if 2 * v < 2 ^ w then (v : Int) else (v : Int) - 2 ^ w := by
  obtain ⟨k, rfl⟩ : ∃ k, w = k + 1 := ⟨w - 1, by omega⟩
  have hpow : 2 ^ (k + 1) = 2 * 2 ^ k := by rw [Nat.pow_succ, Nat.mul_comm]
  unfold sint
  dsimp only
  rw [Nat.mod_eq_of_lt hv, Nat.add_sub_cancel]
  unfold bitAt
  by_cases h : 2 * v < 2 ^ (k + 1)
  · rw [Nat.div_eq_of_lt (by omega), if_pos h]
    rfl
  · rw [Nat.div_eq_of_lt_le (by omega) (show v < (1 + 1) * 2 ^ k by omega), if_neg h]
    rfl

/-- R118: the value of a load from its bytes. -/
theorem extendLoad_eq (size : Nat) (u : Bool) (bs : List Byte) (hl : bs.length = size) (h : 0 < size) :
    extendLoad size u bs = loadValue u bs := by
  have hpow : 256 ^ size = 2 ^ (8 * size) := by rw [Nat.pow_mul]
  have hlt := leNat_lt bs
  rw [hl, hpow] at hlt
  unfold extendLoad loadValue sext
  rw [sint_of_lt _ _ (by omega) hlt, hl, hpow]
  rw [show (256 : Int) ^ size = 2 ^ (8 * size) by rw [pow_mul]; norm_num]

end Sys2Proof.Machine
end

section
/-!
SUPPORT. Loads (O9).
-/

namespace Sys2Proof.Machine

/-- R117: the immediate of a long form. -/
theorem imm44_eq (hi : BitVec 12) (lo : BitVec 32) :
    imm44 hi lo = BitVec.ofInt 64 ((BitVec.ofNat 44 (hi.toNat * 2 ^ 32 + lo.toNat)).toInt) := by
  have happ : (hi ++ lo : BitVec 44) = BitVec.ofNat 44 (hi.toNat * 2 ^ 32 + lo.toNat) := by
    have hhi := hi.isLt
    have hlo := lo.isLt
    refine BitVec.eq_of_toNat_eq ?_
    rw [BitVec.toNat_append, ← Nat.shiftLeft_add_eq_or_of_lt hlo, Nat.shiftLeft_eq, BitVec.toNat_ofNat]
    omega
  rw [imm44, ← happ]
  rfl

/-- R118: the offset of a load or a store. -/
theorem offset_eq (off9 : BitVec 9) (n : Nat) :
    (off9.signExtend 64 * BitVec.ofNat 64 (2 ^ n) : Word) = BitVec.ofInt 64 (off9.toInt * 2 ^ n) := by
  rw [BitVec.ofInt_mul]
  refine congrArg₂ _ rfl ?_
  rw [← BitVec.ofInt_natCast]
  push_cast
  rfl

/-- R117, R118: what each load form issues. -/
theorem exec_loadForms (c : BitVec 8) (d a : BitVec 5) (sz : BitVec 2) (u : Bool) (hint : BitVec 4) (off9 : BitVec 9) (hi : BitVec 12)
    (lo : BitVec 32) (s : State) : ∀ f ∈ loadForms c d a sz u hint off9 hi lo, 0 < f.size ∧ ∃ extra, f.clocks = 4 + extra ∧
      exec f.instr s = .next (loadInstr c d a f.len extra f.size f.unsigned f.hint f.off s) := by
  unfold loadForms
  simp only [List.forall_mem_cons]
  refine ⟨⟨Nat.two_pow_pos _, 0, rfl, ?_⟩, ⟨by decide, 1, rfl, ?_⟩, List.forall_mem_nil _⟩
  · rw [← offset_eq]
    rfl
  · rw [← imm44_eq]
    rfl

theorem MemOnly.part {s s' : State} (h : MemOnly s s') : s'.part = s.part := by rw [h]

theorem MemOnly.cores {s s' : State} (h : MemOnly s s') : s'.cores = s.cores := by rw [h]

theorem MemOnly.fab {s s' : State} (h : MemOnly s s') : s'.fab = s.fab := by rw [h]

/-- R159: an access of a thread with no vector memory instruction before it. -/
theorem afterVec_of_none {c t : Nat} {s : State} (x : Thread) (body : State → State) (h : vecMemPending (coreOf s c) t = false) :
    afterVec c t x s body = body s := by
  unfold afterVec
  rw [h, if_neg Bool.false_ne_true]

/-- A part beyond the scratchpad leaves while a place among the core's accesses and its TC0 requests is free. -/
theorem sendBlock_none {s : State} {c : Nat} (hs : List Half) (ho : outstanding (coreOf s c) < 64) (ht : tc0Of s c < 4) :
    sendBlock s c hs 1 = none := by
  unfold sendBlock
  rw [if_neg (by simp; omega), if_neg (by simp; omega)]

theorem tc0Of_congr {s s1 : State} (h : s1.fab = s.fab) (c : Nat) : tc0Of s1 c = tc0Of s c := by
  unfold tc0Of
  rw [h]

/-- R298: what the checks of an access give where its parts pass. -/
theorem accessOf_spec {s s1 : State} {c t : Nat} {need : List Nat} {hint : BitVec 4} {kind : AccKindOf} {size ea : Nat}
    {rs : List Checked} (h : accessOf s c t need hint kind size ea = (rs, s1)) (hp : Passes rs) :
    ChecksOnly s s1 ∧ (rs.map fun q => q.half.len) = (splitAccess ea size).map (·.2) ∧ NoneBad (rs.map (·.half)) := by
  obtain ⟨hchecks, hlens, hbads⟩ := checkParts_spec c (thOf s c t).cx.toNat (worldOf (coreOf s c) t) (isS (thOf s c t)) need hint kind
    (size == 8 && ea % 8 == 0) (splitAccess ea size) s
  unfold accessOf at h
  rw [h] at hchecks hlens hbads
  exact ⟨hchecks, hlens, noneBad_of_passes hp hbads⟩

section
variable {s s1 : State} {c : BitVec 8} {t : Nat} {d a : BitVec 5} {len : BitVec 18} {extra size : Nat} {u : Bool} {hint : BitVec 4}
  {off : Word} {rs : List Checked}

/-- R104, R118: a load whose parts pass and lie in the own scratchpad without poison. -/
theorem loadInstr_own (h : CanIssue s c t len [.s d, .s a]) (hv : vecMemPending (coreOf s c.toNat) t = false)
    (hacc : accessOf s c.toNat t [rRD] hint .read size (getS (thOf s c.toNat t) a + off).toNat = (rs, s1)) (hpass : Passes rs)
    (hgood : NoneBad (rs.map (·.half))) (hown : (rs.map (·.half)).all (inOwnSpad s1 c.toNat) = true)
    (hclean : poisonedPart (decodeHalves s1 (rs.map (·.half))) (thOf s c.toNat t).sb (rs.map (·.half)) = none) :
    loadInstr c d a len extra size u hint off s = retire (decodeHalves s1 (rs.map (·.half))) c.toNat t (putS (thOf s c.toNat t) d
      (extendLoad size u (readParts (decodeHalves s1 (rs.map (·.half))) (thOf s c.toNat t).sb (rs.map (·.half)))))
      ((thOf s c.toNat t).pc + len) (4 + (missClocks rs + extra)) := by
  unfold accessOf at hacc
  unfold loadInstr
  rw [issue_of_canIssue c len _ _ s t h, afterVec_of_none _ _ hv]
  simp only [hacc, firstFault_of_passes hpass, filter_good hgood, hown, dropCount_of_passes hpass, countDrops, hclean, ite_self, if_true]

/-- R76, R102, R118: a load whose parts pass, not all of them in the own scratchpad. -/
theorem loadInstr_beyond (h : CanIssue s c t len [.s d, .s a]) (hv : vecMemPending (coreOf s c.toNat) t = false)
    (hacc : accessOf s c.toNat t [rRD] hint .read size (getS (thOf s c.toNat t) a + off).toNat = (rs, s1)) (hpass : Passes rs)
    (hgood : NoneBad (rs.map (·.half))) (hown : (rs.map (·.half)).all (inOwnSpad s1 c.toNat) = false)
    (hsend : sendBlock s1 c.toNat (rs.map (·.half)) 1 = none) :
    loadInstr c d a len extra size u hint off s =
      goWait (submitReads s1 c.toNat t (worldOf (coreOf s c.toNat) t) (isS (thOf s c.toNat t)) 0 (rs.map (·.half))) c.toNat t
        (markBusy (thOf s c.toNat t) (.s d)) (.reply (.load d size u (rs.map (·.half)) len.toNat)) (2 + (missClocks rs + extra)) := by
  unfold accessOf at hacc
  unfold loadInstr
  rw [issue_of_canIssue c len _ _ s t h, afterVec_of_none _ _ hv]
  simp only [hacc, firstFault_of_passes hpass, filter_good hgood, hown, hsend, ite_self, Bool.false_eq_true, if_false]

end

theorem sameMemory_ite {p : Prop} [Decidable p] {s a b : State} (ha : SameMemory s a) (hb : SameMemory s b) :
    SameMemory s (if p then a else b) := by
  split
  · exact ha
  · exact hb

theorem sameMemory_logMsg (s : State) (op : Nat) (p : Packet) : SameMemory s (logMsg s op p) := by
  unfold logMsg
  dsimp only
  split <;> exact sameMemory_rfl s

/-- R344, R404: a packet that leaves, with what the fabric keeps of it, touches no byte of this device. -/
theorem sameMemory_sent (s : State) (f : Fabric) (op : Nat) (p : Packet) :
    SameMemory s (emit (logMsg { s with fab := f } op p) none op p) :=
  sameMemory_trans (sameMemory_logMsg { s with fab := f } op p) (replyOnly_sameMemory (replyOnly_emit _ none op p))

/-- R359: requests that leave touch no byte of this device. -/
theorem sameMemory_submit (s : State) (agent op : Nat) (h : ReqHead) (owner : ReqOwner) : SameMemory s (submit s agent op h owner) := by
  unfold submit
  dsimp only
  generalize reqPacket s agent (tabGet 0 s.fab.seqs agent) h = p
  exact sameMemory_ite (sameMemory_ite ⟨rfl, rfl⟩ ⟨rfl, rfl⟩) (sameMemory_ite ⟨rfl, rfl⟩ (sameMemory_sent s _ op p))

theorem sameMemory_submitReads (c t : Nat) (w : World) (l : Bool) (hs : List Half) : ∀ (i : Nat) (s : State),
    SameMemory s (submitReads s c t w l i hs) := by
  induction hs with
  | nil => exact fun _ s => sameMemory_rfl s
  | cons h hs ih =>
    intro i s
    rw [submitReads]
    refine sameMemory_trans ?_ (ih _ _)
    split
    · exact sameMemory_submit ..
    · exact sameMemory_rfl s

/-- R81: the scoreboard bit of a register that has just been marked. -/
theorem regBusy_markBusy_s (x : Thread) (d : BitVec 5) : regBusy (markBusy x (.s d)) (.s d) = (d != 0#5) := by
  unfold regBusy markBusy
  by_cases hd : d = 0#5
  · simp [hd]
  · simp [hd, d.isLt]

@[simp] theorem markBusy_pc (x : Thread) (r : Reg) : (markBusy x r).pc = x.pc := by
  cases r with
  | s d => simp only [markBusy]; split <;> rfl
  | v d | m d => rfl

@[simp] theorem markBusy_s (x : Thread) (r : Reg) : (markBusy x r).s = x.s := by
  cases r with
  | s d => simp only [markBusy]; split <;> rfl
  | v d | m d => rfl

section
variable {s s1 : State} {c : BitVec 8} {t : Nat} {d a : BitVec 5} {len : BitVec 18} {extra size : Nat} {u : Bool} {hint : BitVec 4}
  {off : Word} {rs : List Checked}

/-- R75, R104, R118: a load from the own scratchpad completes. -/
theorem loadInstr_completes (h : CanIssue s c t len [.s d, .s a]) (hv : vecMemPending (coreOf s c.toNat) t = false) (hsize : 0 < size)
    (hacc : accessOf s c.toNat t [rRD] hint .read size (getS (thOf s c.toNat t) a + off).toNat = (rs, s1)) (hpass : Passes rs)
    (hown : AllOwn s c.toNat rs) (hclean : poisonedPart s (thOf s c.toNat t).sb (rs.map (·.half)) = none) :
    ∃ s', loadInstr c d a len extra size u hint off s = catchUp s' c.toNat ∧
      Wrote (thOf s c.toNat t) (thOf s' c.toNat t) d (loadValue u (partsSeen s (thOf s c.toNat t).sb rs)) ∧
      (thOf s' c.toNat t).pc = (thOf s c.toNat t).pc + len ∧ ThreadKept (thOf s c.toNat t) (thOf s' c.toNat t) ∧ SameMemory s s' ∧
      (coreOf s' c.toNat).clk = (coreOf s c.toNat).clk + (4 + (missClocks rs + extra)) := by
  obtain ⟨hchecks, hlens, hgood⟩ := accessOf_spec hacc hpass
  have hmem := sameMemory_trans hchecks.sameMemory (sameMemory_decodeHalves s1 (rs.map (·.half)))
  have hdecode := memOnly_decodeHalves s1 (rs.map (·.half))
  have hpart := hdecode.part.trans hchecks.part
  have hvalue : extendLoad size u (readParts (decodeHalves s1 (rs.map (·.half))) (thOf s c.toNat t).sb (rs.map (·.half))) =
      loadValue u (partsSeen s (thOf s c.toNat t).sb rs) := by
    rw [readParts_of_passes hgood hclean hmem hpart]
    refine extendLoad_eq size u _ ?_ hsize
    rw [length_partsSeen, hlens]
    exact (splitAccess_lens _ _ hsize).1
  have hload := loadInstr_own (extra := extra) (u := u) h hv hacc hpass hgood (all_own hown hchecks.part hchecks.fab)
    (by rw [poisonedPart_congr hmem hpart]; exact hclean)
  rw [hvalue] at hload
  obtain ⟨s', st, w, hret, hth, honly, hclk⟩ := retire_spec (decodeHalves s1 (rs.map (·.half))) c.toNat t
    (putS (thOf s c.toNat t) d (loadValue u (partsSeen s (thOf s c.toNat t).sb rs))) ((thOf s c.toNat t).pc + len)
    (4 + (missClocks rs + extra))
  obtain ⟨l, hput⟩ := putS_eq (thOf s c.toNat t) d (loadValue u (partsSeen s (thOf s c.toNat t).sb rs))
  refine ⟨s', hload.trans hret, wrote_of_regs d _ (by rw [hth]), by rw [hth], ?_, sameMemory_trans hmem honly.sameMemory, ?_⟩
  · rw [hth, hput]
    rfl
  · rw [hclk, coreOf_of_cores (hdecode.cores.trans hchecks.cores)]

/-- R76, R81, R118: a load from beyond the own scratchpad waits for its reply. -/
theorem loadInstr_waits (h : CanIssue s c t len [.s d, .s a]) (hv : vecMemPending (coreOf s c.toNat) t = false)
    (hacc : accessOf s c.toNat t [rRD] hint .read size (getS (thOf s c.toNat t) a + off).toNat = (rs, s1)) (hpass : Passes rs)
    (hown : ¬ AllOwn s c.toNat rs) (hroom : outstanding (coreOf s c.toNat) < 64) (htc0 : tc0Of s c.toNat < 4) :
    ∃ s', loadInstr c d a len extra size u hint off s = catchUp s' c.toNat ∧
      thOf s' c.toNat t = { markBusy (thOf s c.toNat t) (.s d) with
        st := .waiting, wait := .reply (.load d size u (rs.map (·.half)) len.toNat) } ∧ SameMemory s s' := by
  obtain ⟨hchecks, -, hgood⟩ := accessOf_spec hacc hpass
  have hsend : sendBlock s1 c.toNat (rs.map (·.half)) 1 = none :=
    sendBlock_none _ (by rw [coreOf_of_cores hchecks.cores]; exact hroom) (by rw [tc0Of_congr hchecks.fab]; exact htc0)
  have hload := loadInstr_beyond (extra := extra) (u := u) h hv hacc hpass hgood (not_all_own hown hchecks.part hchecks.fab) hsend
  obtain ⟨s', hwait, hth, honly⟩ := goWait_spec (submitReads s1 c.toNat t (worldOf (coreOf s c.toNat) t) (isS (thOf s c.toNat t)) 0
    (rs.map (·.half))) c.toNat t (markBusy (thOf s c.toNat t) (.s d)) (.reply (.load d size u (rs.map (·.half)) len.toNat))
    (2 + (missClocks rs + extra))
  exact ⟨s', hload.trans hwait, hth, sameMemory_trans hchecks.sameMemory
    (sameMemory_trans (sameMemory_submitReads c.toNat t _ _ _ 0 s1) honly.sameMemory)⟩

end

end Sys2Proof.Machine

open Sys2Proof Sys2Proof.Machine

/-- Settles O9: loads from the own scratchpad complete, and others wait for their reply. -/
theorem loads : Obligations.Loads := by
  intro c d a sz u hint off9 hi lo s t f hf h hv x rs hpass
  obtain ⟨hsize, extra, hclocks, hexec⟩ := exec_loadForms c d a sz u hint off9 hi lo s f hf
  refine ⟨fun hown hclean => ?_, fun hown hroom htc0 => ?_⟩
  · obtain ⟨s', hload, hwrote, hpc, hkept, hmem, hclk⟩ :=
      loadInstr_completes (extra := extra) (u := f.unsigned) h hv hsize rfl hpass hown hclean
    exact ⟨s', hexec.trans (congrArg _ hload), hwrote, hpc, hkept, hmem, by omega⟩
  · obtain ⟨s', hload, hth, hmem⟩ := loadInstr_waits (extra := extra) (u := f.unsigned) h hv rfl hpass hown hroom htc0
    refine ⟨s', rs.map (·.half), hexec.trans (congrArg _ hload), ?_⟩
    rw [hth]
    exact ⟨rfl, rfl, regBusy_markBusy_s x d, markBusy_pc x _, markBusy_s x _, hmem⟩

end

section
/-!
SUPPORT. Atomics (O11): the new value by operation, and what an atomic does to the bytes at its address.
-/

namespace Sys2Proof.Machine

theorem leNat_natLe (n : Nat) : ∀ v, leNat (natLe n v) = v % 256 ^ n := by
  induction n with
  | zero => exact fun v => (Nat.mod_one v).symm
  | succ n ih =>
    intro v
    rw [natLe, leNat, ih, BitVec.toNat_ofNat]
    show v % 256 + 256 * (v / 256 % 256 ^ n) = v % 256 ^ (n + 1)
    rw [Nat.pow_succ', Nat.mod_mul]

theorem pow_byte (n : Nat) : 256 ^ n = 2 ^ (8 * n) := (Nat.pow_mul 2 8 n).symm

theorem length_readList (m : List Host.Cell) (n : Nat) : ∀ a, (readList m a n).length = n := by
  induction n with
  | zero => exact fun _ => rfl
  | succ n ih => exact fun a => congrArg Nat.succ (ih (a + 1))

theorem loadBytes_congr {s s' : State} (h : SameMemory s s') (a n : Nat) : loadBytes s' a n = loadBytes s a n := by
  unfold loadBytes
  rw [h.1]

theorem leNat_loadBytes_lt (s : State) (a n : Nat) : leNat (loadBytes s a n) < 2 ^ (8 * n) := by
  have h := leNat_lt (loadBytes s a n)
  rw [loadBytes, length_readList] at h
  rw [Nat.pow_mul]
  exact h

/-- R119: an atomic leaves a value of its own width. -/
theorem atomNew_lt (op : AtomOp) {bits old b : Nat} (prior : Nat) (ho : old < 2 ^ bits) (hb : b < 2 ^ bits) :
    atomNew op bits old b prior < 2 ^ bits := by
  cases op with
  | aadd => exact Nat.mod_lt _ (Nat.two_pow_pos bits)
  | aand => exact Nat.and_lt_two_pow _ hb
  | aor => exact Nat.or_lt_two_pow ho hb
  | axor => exact Nat.xor_lt_two_pow ho hb
  | aswap => exact hb
  | acas | amin | amax | aminu | amaxu => simp only [atomNew]; split <;> assumption

/-- R32: numbers of w bits that stand for the same signed number are the same. -/
theorem sint_injective {w a b : Nat} (hw : 0 < w) (ha : a < 2 ^ w) (hb : b < 2 ^ w) (h : sint w a = sint w b) : a = b := by
  rw [sint_of_lt w a hw ha, sint_of_lt w b hw hb] at h
  have : ((2 ^ w : Nat) : Int) = 2 ^ w := by push_cast; rfl
  split_ifs at h <;> omega

/-- R119: the instruction of each operation, and the value that the operation leaves. -/
theorem exec_atomicOps (c : BitVec 8) (d a b : BitVec 5) (size : BitVec 2) (s : State) : ∀ e ∈ atomicOps c d a b size, ∃ op,
    exec e.1 s = .next (atomInstr op c d a b size 0#5 s) ∧
      ∀ bits o v p, 0 < bits → o < 2 ^ bits → v < 2 ^ bits → e.2 bits o v p = atomNew op bits o v p := by
  unfold atomicOps
  simp only [List.forall_mem_cons]
  refine ⟨⟨.aadd, rfl, fun _ _ _ _ _ _ _ => rfl⟩, ⟨.aand, rfl, fun _ _ _ _ _ _ _ => rfl⟩, ⟨.aor, rfl, fun _ _ _ _ _ _ _ => rfl⟩,
    ⟨.axor, rfl, fun _ _ _ _ _ _ _ => rfl⟩, ⟨.aswap, rfl, fun _ _ _ _ _ _ _ => rfl⟩, ⟨.acas, rfl, fun _ _ _ _ _ _ _ => rfl⟩,
    ⟨.amin, rfl, fun bits o v _ _ _ _ => ?_⟩, ⟨.amax, rfl, fun bits o v _ hw ho hv => ?_⟩, ⟨.aminu, rfl, fun _ o v _ _ _ _ => ?_⟩,
    ⟨.amaxu, rfl, fun _ o v _ _ _ _ => ?_⟩, List.forall_mem_nil _⟩ <;> dsimp only [atomNew]
  · split_ifs <;> omega
  · split_ifs with h1 h2 h2
    · rfl
    · exact sint_injective hw hv ho (by omega)
    · omega
    · rfl
  · split_ifs <;> omega
  · split_ifs <;> omega

theorem toNat_loadBytes (s : State) (a n : Nat) (hn : n ≤ 8) :
    (BitVec.ofNat 64 (leNat (loadBytes s a n))).toNat = leNat (loadBytes s a n) := by
  have hle : 2 ^ (8 * n) ≤ 2 ^ 64 := Nat.pow_le_pow_right (by decide) (by omega)
  rw [BitVec.toNat_ofNat]
  exact Nat.mod_eq_of_lt (Nat.lt_of_lt_of_le (leNat_loadBytes_lt s a n) hle)

/-- R119, R403: an atomic outside replay gives the old value, and stores the new one. -/
theorem doAtom_eq (u : State) (op : AtomOp) (n a : Nat) (b prior : Word) (hn : n ≤ 8) (hr : u.steep.replay = []) :
    ∃ u1, ReplyOnly u u1 ∧ u1.cores = u.cores ∧ doAtom u op n a b prior = (BitVec.ofNat 64 (leNat (loadBytes u a n)),
      memStore u1 a (natLe n (atomNew op (8 * n) (leNat (loadBytes u a n)) (b.toNat % 2 ^ (8 * n)) (prior.toNat % 2 ^ (8 * n))))) := by
  obtain ⟨hval, hcores⟩ := outcome_of_no_replay u 4 [a / 8] (BitVec.ofNat 64 (leNat (loadBytes u a n))) hr
  refine ⟨_, replyOnly_outcome u 4 [a / 8] (BitVec.ofNat 64 (leNat (loadBytes u a n))), hcores, ?_⟩
  unfold doAtom
  dsimp only
  rw [hval, toNat_loadBytes u a n hn, Nat.mod_eq_of_lt (leNat_loadBytes_lt u a n)]

/-- R119, R403: outside replay an atomic on bytes without poison gives the old value and leaves the new one, and touches no other byte. -/
theorem doAtom_spec (u : State) (op : AtomOp) (n a : Nat) (b prior : Word) (hn : n ≤ 8) (hr : u.steep.replay = [])
    (hw : memWf u.mem = true) (hp : anyPoison u a n = false) : ∃ u', doAtom u op n a b prior =
      (BitVec.ofNat 64 (leNat (loadBytes u a n)), u') ∧ u'.cores = u.cores ∧
      leNat (loadBytes u' a n) =
        atomNew op (8 * n) (leNat (loadBytes u a n)) (b.toNat % 2 ^ (8 * n)) (prior.toNat % 2 ^ (8 * n)) ∧
      ∀ z, z < a ∨ a + n ≤ z → readByte u'.mem z = readByte u.mem z := by
  obtain ⟨u1, hreply, hcores, heq⟩ := doAtom_eq u op n a b prior hn hr
  have hmem := replyOnly_sameMemory hreply
  have hpart : u1.part = u.part := by rw [hreply]
  have hnew := atomNew_lt op (prior.toNat % 2 ^ (8 * n)) (leNat_loadBytes_lt u a n) (Nat.mod_lt b.toNat (Nat.two_pow_pos (8 * n)))
  generalize atomNew op (8 * n) (leNat (loadBytes u a n)) (b.toNat % 2 ^ (8 * n)) (prior.toNat % 2 ^ (8 * n)) = new at *
  have hlen := length_natLe n new
  have hback := loadBytes_memStore u1 a (natLe n new) (by rw [hmem.1]; exact hw) (by rw [hlen, anyPoison_congr hmem hpart]; exact hp)
  rw [hlen] at hback
  refine ⟨_, heq, (memOnly_memStore u1 a _).cores.trans hcores, ?_, fun z hz => ?_⟩
  · rw [hback, leNat_natLe, Nat.mod_eq_of_lt]
    rw [Nat.pow_mul] at hnew
    exact hnew
  · rw [readByte_memStore_beyond u1 a z _ (by rw [hlen]; exact hz), hmem.1]

@[simp] theorem countAt_steep (s : State) (a lo : Nat) : (countAt s a lo).steep = s.steep := by
  unfold countAt countMem
  split
  · split <;> rfl
  · rfl

/-- R252: a decode counts and logs what it meets, and leaves the failure hiding's state. -/
@[simp] theorem decodeWord_steep (s : State) (a : Nat) : (decodeWord s a).steep = s.steep := by
  unfold decodeWord
  have h : (if s.flaws.contains a then countAt { s with flaws := s.flaws.filter (· != a) } a 0 else s).steep = s.steep := by
    split
    · exact countAt_steep ..
    · rfl
  dsimp only
  split
  · exact (countAt_steep _ a 16).trans h
  · exact h

theorem foldl_steep {α : Type} (f : State → α → State) (hf : ∀ s a, (f s a).steep = s.steep) (l : List α) :
    ∀ s, (l.foldl f s).steep = s.steep := by
  induction l with
  | nil => exact fun _ => rfl
  | cons a l ih => exact fun s => (ih (f s a)).trans (hf s a)

@[simp] theorem decodeHalves_steep (s : State) (hs : List Half) : (decodeHalves s hs).steep = s.steep := by
  refine foldl_steep _ (fun s h => ?_) hs s
  split
  · rfl
  · exact foldl_steep _ decodeWord_steep _ s

section
variable {s s1 : State} {c : BitVec 8} {t : Nat} {op : AtomOp} {d a b : BitVec 5} {size : BitVec 2} {q : Checked}

/-- R105, R119: an atomic whose part passes and lies in the own scratchpad without poison. -/
theorem atomInstr_own (h : CanIssue s c t 4#18 [.s d, .s a, .s b]) (hv : vecMemPending (coreOf s c.toNat) t = false)
    (hsize : 2 ≤ size.toNat) (halign : (getS (thOf s c.toNat t) a).toNat % 2 ^ size.toNat = 0)
    (hchk : checkPart s c.toNat (thOf s c.toNat t).cx.toNat (worldOf (coreOf s c.toNat) t) (isS (thOf s c.toNat t)) [rAT] 0#4 .atomic
      (2 ^ size.toNat == 8) (getS (thOf s c.toNat t) a).toNat (2 ^ size.toNat) = (q, s1))
    (hcode : q.code = 0) (hmulti : q.multi = false) (hown : inOwnSpad s1 c.toNat q.half = true)
    (hclean : anyPoison (decodeHalves s1 [q.half]) (paLocal q.half.pa) (2 ^ size.toNat) = false) {old : Word} {u' : State}
    (hatom : doAtom (decodeHalves s1 [q.half]) op (2 ^ size.toNat) (paLocal q.half.pa) (getS (thOf s c.toNat t) b)
      (getS (thOf s c.toNat t) d) = (old, u')) : atomInstr op c d a b size 0#5 s =
      retire u' c.toNat t (putS (thOf s c.toNat t) d old) ((thOf s c.toNat t).pc + 4#18) (6 + missClocks [q]) := by
  have hlegal : (decide (size.toNat < 2) || (0#5 != 0#5)) = false := by simp; omega
  unfold atomInstr
  rw [issue_of_canIssue c 4#18 _ _ s t h, hlegal, if_neg Bool.false_ne_true, afterVec_of_none _ _ hv]
  extract_lets n ea w none'
  rw [if_neg (by rw [show ea % n = 0 from halign]; decide), show checkPart s c.toNat _ w _ _ _ _ _ ea n = _ from hchk]
  show ite _ _ (ite _ _ (ite _ _ _)) = _
  rw [hcode, hmulti, Bool.false_and, if_neg Bool.false_ne_true, if_neg (by decide), if_pos hown]
  extract_lets s2
  rw [show anyPoison s2 _ n = false from hclean, if_neg Bool.false_ne_true, show doAtom s2 _ _ _ _ _ = _ from hatom]

/-- R105, R119: an atomic in the own scratchpad completes with the old value, and leaves the new one. -/
theorem atomInstr_completes (h : CanIssue s c t 4#18 [.s d, .s a, .s b]) (hv : vecMemPending (coreOf s c.toNat) t = false)
    (hsize : 2 ≤ size.toNat) (halign : (getS (thOf s c.toNat t) a).toNat % 2 ^ size.toNat = 0) (hw : Memory.wf s = true)
    (hr : s.steep.replay = [])
    (hchk : checkPart s c.toNat (thOf s c.toNat t).cx.toNat (worldOf (coreOf s c.toNat) t) (isS (thOf s c.toNat t)) [rAT] 0#4 .atomic
      (2 ^ size.toNat == 8) (getS (thOf s c.toNat t) a).toNat (2 ^ size.toNat) = (q, s1))
    (hcode : q.code = 0) (hmulti : q.multi = false) (hown : inOwnSpad s c.toNat q.half = true)
    (hclean : anyPoison s (paLocal q.half.pa) (2 ^ size.toNat) = false) :
    let n := 2 ^ size.toNat
    let pa := paLocal q.half.pa
    let old := leNat (loadBytes s pa n)
    ∃ s', atomInstr op c d a b size 0#5 s = catchUp s' c.toNat ∧
      Wrote (thOf s c.toNat t) (thOf s' c.toNat t) d (BitVec.ofNat 64 old) ∧ (thOf s' c.toNat t).pc = (thOf s c.toNat t).pc + 4#18 ∧
      leNat (loadBytes s' pa n) = atomNew op (8 * n) old ((getS (thOf s c.toNat t) b).toNat % 2 ^ (8 * n))
        ((getS (thOf s c.toNat t) d).toNat % 2 ^ (8 * n)) ∧
      ∀ z, z < pa ∨ pa + n ≤ z → readByte s'.mem z = readByte s.mem z := by
  intro n pa old
  obtain ⟨hchecks, -, -⟩ := checkPart_spec s c.toNat (thOf s c.toNat t).cx.toNat (worldOf (coreOf s c.toNat) t)
    (isS (thOf s c.toNat t)) [rAT] 0#4 .atomic (2 ^ size.toNat == 8) (getS (thOf s c.toNat t) a).toNat (2 ^ size.toNat)
  rw [hchk] at hchecks
  have hmem := sameMemory_trans hchecks.sameMemory (sameMemory_decodeHalves s1 [q.half])
  have hpart := (memOnly_decodeHalves s1 [q.half]).part.trans hchecks.part
  have hpoison : anyPoison (decodeHalves s1 [q.half]) pa n = false := (anyPoison_congr hmem hpart pa n).trans hclean
  obtain ⟨u', hatom, -, hnew, hrest⟩ := doAtom_spec (decodeHalves s1 [q.half]) op n pa (getS (thOf s c.toNat t) b)
    (getS (thOf s c.toNat t) d) (Nat.pow_le_pow_right (by decide) (show size.toNat ≤ 3 by omega))
    (by rw [decodeHalves_steep, hchecks.replay, hr]) (by rw [hmem.1]; exact hw) hpoison
  rw [loadBytes_congr hmem] at hatom hnew
  obtain ⟨s', st, w, hret, hth, honly, -⟩ := retire_spec u' c.toNat t (putS (thOf s c.toNat t) d (BitVec.ofNat 64 old))
    ((thOf s c.toNat t).pc + 4#18) (6 + missClocks [q])
  refine ⟨s', ?_, wrote_of_regs d _ (by rw [hth]), by rw [hth], ?_, fun z hz => ?_⟩
  · exact (atomInstr_own h hv hsize halign hchk hcode hmulti ((inOwnSpad_congr hchecks.part hchecks.fab _ _).trans hown) hpoison
      hatom).trans hret
  · rw [loadBytes_congr honly.sameMemory]
    exact hnew
  · rw [honly.sameMemory.1, hrest z hz, hmem.1]

/-- R105: a misaligned atomic raises ALIGNF. -/
theorem atomInstr_misaligned (h : CanIssue s c t 4#18 [.s d, .s a, .s b]) (hv : vecMemPending (coreOf s c.toNat) t = false)
    (hsize : 2 ≤ size.toNat) (halign : (getS (thOf s c.toNat t) a).toNat % 2 ^ size.toNat ≠ 0) (hx : (thOf s c.toNat t).exm = false) :
    atomInstr op c d a b size 0#5 s = enter s c.toNat t (thOf s c.toNat t) cAlignf (BitVec.ofNat 64 (getS (thOf s c.toNat t) a).toNat)
      (thOf s c.toNat t).pc 0#18 6 := by
  have hlegal : (decide (size.toNat < 2) || (0#5 != 0#5)) = false := by simp; omega
  unfold atomInstr
  rw [issue_of_canIssue c 4#18 _ _ s t h, hlegal, if_neg Bool.false_ne_true, afterVec_of_none _ _ hv]
  simp [halign, raise, hx]

end

end Sys2Proof.Machine

open Sys2Proof Sys2Proof.Machine

/-- Settles O11: the ten atomics. -/
theorem atomics : Obligations.Atomics := by
  intro c d a b size s t hw hsize h hv hr x n ea q pa old e he
  have hn : n ≤ 8 := Nat.pow_le_pow_right (by decide) (show size.toNat ≤ 3 by omega)
  obtain ⟨op, hexec, hnew⟩ := exec_atomicOps c d a b size s e he
  refine ⟨fun halign hcode hmulti hown hclean => ?_, fun halign hx hb => ?_⟩
  · obtain ⟨s', hatom, hwrote, hpc, hold, hrest⟩ :=
      atomInstr_completes (op := op) (q := q) h hv hsize halign hw hr rfl hcode hmulti hown hclean
    refine ⟨s', hexec.trans (congrArg _ hatom), hwrote, hpc, ?_, hrest⟩
    rw [show leNat (loadBytes s' pa n) = _ from hold, pow_byte]
    exact (hnew _ _ _ _ (Nat.mul_pos (by decide) (Nat.two_pow_pos _)) (leNat_loadBytes_lt s pa n) (Nat.mod_lt _ (Nat.two_pow_pos _))).symm
  · obtain ⟨s', henter, hat, honly⟩ := enter_drained s c.toNat t x cAlignf (BitVec.ofNat 64 ea) x.pc 0#18 6 hb
    exact ⟨s', by rw [hexec, atomInstr_misaligned h hv hsize halign hx, henter], hat, honly.sameMemory⟩

end

section
/-!
SUPPORT. Stores into the own scratchpad (O12): the bytes of memory and their poison alone tell what a store leaves of memory.
-/

namespace Sys2Proof.Machine

/-- Two states whose memories, poison, partition and device numbers agree. -/
def SameStore (s s1 : State) : Prop := SameMemory s s1 ∧ s1.part = s.part ∧ s1.fab = s.fab

theorem ChecksOnly.sameStore {s s1 : State} (h : ChecksOnly s s1) : SameStore s s1 := ⟨h.sameMemory, h.part, h.fab⟩

/-- R252, R278: the poison after a store, in terms of the poison before. -/
theorem memStore_poison (s : State) (a : Nat) (bs : List Byte) :
    (memStore s a bs).poison = s.poison.filter fun p => !(coversWord s.part a bs.length p) := by
  have store (s1 : State) (hpart : s1.part = s.part) (hp : s1.poison = s.poison) :
      (storeBytes s1 a bs).poison = s.poison.filter fun p => !(coversWord s.part a bs.length p) := by
    unfold storeBytes
    dsimp only
    rw [hp, hpart]
  unfold memStore
  split
  · exact store _ (memOnly_undoLines s a _).part (undoLines_poison s a _)
  · exact store _ (memOnly_decodeMerge s a _).part (decodeMerge_poison s a _)

theorem SameStore.memStore {s s1 : State} (h : SameStore s s1) (a : Nat) (bs : List Byte) :
    SameStore (memStore s a bs) (memStore s1 a bs) := by
  obtain ⟨hm, hp, hf⟩ := h
  have hs := memOnly_memStore s a bs
  have hs1 := memOnly_memStore s1 a bs
  refine ⟨⟨?_, ?_⟩, hs1.part.trans (hp.trans hs.part.symm), hs1.fab.trans (hf.trans hs.fab.symm)⟩
  · simp only [memStore_mem, isPoisoned_congr hm hp, hm.1, hp]
  · rw [memStore_poison, memStore_poison, hm.2, hp]

theorem SameStore.applyStores (sb : List SBuf) : ∀ {s s1 : State}, SameStore s s1 → SameStore (applyStores s sb) (applyStores s1 sb) := by
  induction sb with
  | nil => exact fun h => h
  | cons e sb ih => exact fun h => ih (h.memStore e.pa e.bytes)

/-- R106: which buffered stores an access drains, and what they leave of memory, is told by memory and the store buffer. -/
theorem SameStore.drainOver (hs : List Half) : ∀ {s s1 : State} (sb : List SBuf), SameStore s s1 →
    SameStore (drainOver s sb hs).1 (drainOver s1 sb hs).1 ∧ (drainOver s1 sb hs).2 = (drainOver s sb hs).2 := by
  unfold Machine.drainOver
  induction hs with
  | nil => exact fun _ h => ⟨h, rfl⟩
  | cons x hs ih =>
    intro s s1 sb h
    have hremote : isRemote s1 x.pa = isRemote s x.pa := by
      unfold isRemote
      rw [h.2.2]
    rw [List.foldl_cons, List.foldl_cons, hremote]
    split
    · exact ih sb h
    · exact ih _ (h.applyStores _)

theorem memOnly_drainOver (hs : List Half) : ∀ (s : State) (sb : List SBuf), MemOnly s (drainOver s sb hs).1 := by
  unfold drainOver
  induction hs with
  | nil => exact fun s _ => memOnly_rfl s
  | cons x hs ih =>
    intro s sb
    rw [List.foldl_cons]
    split
    · exact ih s sb
    · exact memOnly_trans (memOnly_applyStores s _) (ih _ _)

/-- R102: the parts of a store put into memory in order. -/
def storeAll (s : State) (l : List (Half × List Byte)) : State :=
  l.foldl (fun s p => if p.1.bad then s else memStore s (paLocal p.1.pa) p.2) s

theorem memOnly_storeAll (s : State) (l : List (Half × List Byte)) : MemOnly s (storeAll s l) := by
  refine memOnly_foldl _ (fun s p => ?_) l s
  split
  · exact memOnly_rfl s
  · exact memOnly_memStore s _ _

/-- R76, R102: a store whose parts all lie in the own scratchpad posts nothing. -/
theorem postStore_own (c : Nat) (sb : List SBuf) (l : List (Half × List Byte)) : ∀ s : State,
    (∀ p ∈ l, p.1.bad = false ∧ inOwnSpad s c p.1 = true) → postStore s c sb l = (storeAll s l, sb) := by
  induction l with
  | nil => exact fun _ _ => rfl
  | cons p l ih =>
    intro s h
    obtain ⟨x, bs⟩ := p
    obtain ⟨⟨hbad, hown⟩, hrest⟩ := List.forall_mem_cons.1 h
    have hm := memOnly_memStore s (paLocal x.pa) bs
    rw [postStore, hbad, if_neg Bool.false_ne_true, if_pos hown,
      ih _ fun q hq => ⟨(hrest q hq).1, (inOwnSpad_congr hm.part hm.fab c q.1).trans (hrest q hq).2⟩, storeAll, storeAll, List.foldl_cons,
      hbad, if_neg Bool.false_ne_true]

end Sys2Proof.Machine
end

section
/-!
SUPPORT. RSSPILL and RSFILL (O12): the parts of return-stack entries, and what the instructions do at level S with their parts in the own
scratchpad.
-/

namespace Sys2Proof.Machine

/-- R89, R104: no part of return-stack entries is empty. -/
theorem entryParts_lens (va n : Nat) : ∀ p ∈ entryParts va n, 0 < p.2 := by
  intro p hp
  obtain ⟨ps, hps, hmem⟩ := List.mem_flatten.1 hp
  obtain ⟨i, -, rfl⟩ := List.mem_map.1 hps
  exact (splitAccess_lens _ 8 (by decide)).2 p hmem

/-- R89: one entry at an aligned address is one part. -/
theorem entryParts_one {va : Nat} (hva : va < 2 ^ 64) (ha : va % 8 = 0) : entryParts va 1 = [(va, 8)] := by
  have hmod : (va + 8 * 0) % 2 ^ 64 = va := Nat.mod_eq_of_lt hva
  have hsplit : splitAccess va 8 = [(va, 8)] := by
    unfold splitAccess
    rw [if_pos]
    simp [ha]
  show ([splitAccess ((va + 8 * 0) % 2 ^ 64) 8] : List _).flatten = _
  rw [hmod, hsplit]
  rfl

theorem length_wordsOf (n : Nat) : ∀ bs, (wordsOf n bs).length = n := by
  induction n with
  | zero => exact fun _ => rfl
  | succ n ih => exact fun bs => congrArg Nat.succ (ih (bs.drop 8))

@[simp] theorem length_entriesOf (n : Nat) (bs : List Byte) : (entriesOf n bs).length = n := by
  rw [entriesOf, List.length_map, length_wordsOf]

/-- R89: the bytes of the oldest entry alone. -/
theorem entryBytes_oldest_one {rs : List (BitVec 18)} (h : 1 ≤ rs.length) :
    entryBytes (oldest rs 1) = natLe 8 ((rs.getLast?).getD 0#18).toNat := by
  obtain ⟨v, l, rfl⟩ : ∃ v l, rs = l ++ [v] := ⟨_, _, (List.dropLast_append_getLast (by rintro rfl; simp at h)).symm⟩
  simp [entryBytes, oldest]

theorem putS_s {x y : Thread} (h : y.s = x.s) (d : BitVec 5) (v : Word) : (putS y d v).s = (putS x d v).s := by
  unfold putS
  split
  · exact h
  · exact congrArg (tabSet · d.toNat v) h

theorem spilled_s (x : Thread) (sb : List SBuf) (b : BitVec 5) (n : Nat) :
    (spilled { x with sb := sb } b n).s = (putS x b (BitVec.ofNat 64 n)).s := by
  refine putS_s ?_ b _
  rfl

section
variable {s s1 : State} {c : BitVec 8} {t : Nat} {a b : BitVec 5} {rs : List Checked} {n : Nat}

/-- R89: RSSPILL at level S whose parts pass and lie in the own scratchpad. -/
theorem exec_rsspill_own (h : CanIssue s c t 4#18 [.s a, .s b]) (hv : vecMemPending (coreOf s c.toNat) t = false)
    (hl : (thOf s c.toNat t).lvl = .S) (hn : min (min (getS (thOf s c.toNat t) b).toNat 256) (thOf s c.toNat t).rs.length = n)
    (hchk : checkParts s c.toNat (thOf s c.toNat t).cx.toNat (worldOf (coreOf s c.toNat) t) true [rWR] 0#4 .write
      ((getS (thOf s c.toNat t) a).toNat % 8 == 0) (entryParts (getS (thOf s c.toNat t) a).toNat n) = (rs, s1))
    (hpass : Passes rs) (hgood : NoneBad (rs.map (·.half))) (hown : (rs.map (·.half)).all (inOwnSpad s1 c.toNat) = true) :
    exec (.rsspill c a b) s = .next (retire (postStore (drainOver s1 (thOf s c.toNat t).sb (rs.map (·.half))).1 c.toNat []
        (partBytes (rs.map (·.half)) (entryBytes (oldest (thOf s c.toNat t).rs n)))).1 c.toNat t
      (spilled { thOf s c.toNat t with sb := (drainOver s1 (thOf s c.toNat t).sb (rs.map (·.half))).2 } b n)
      ((thOf s c.toNat t).pc + 4#18) (3 + n + missClocks rs)) := by
  have hs : (!(isS (thOf s c.toNat t))) = false := by rw [isS, hl]; rfl
  refine congrArg Host.Outcome.next ?_
  rw [issue_of_canIssue c 4#18 _ _ s t h, hs, if_neg Bool.false_ne_true, afterVec_of_none _ _ hv]
  simp only [hn, hchk, firstFault_of_passes hpass, filter_good hgood, hown, dropCount_of_passes hpass, countDrops, ite_self, if_true]

/-- R89: RSFILL at level S whose parts pass and lie in the own scratchpad without poison. -/
theorem exec_rsfill_own (h : CanIssue s c t 4#18 [.s a, .s b]) (hv : vecMemPending (coreOf s c.toNat) t = false)
    (hl : (thOf s c.toNat t).lvl = .S) (hn : min (min (getS (thOf s c.toNat t) b).toNat 256) (512 - (thOf s c.toNat t).rs.length) = n)
    (hchk : checkParts s c.toNat (thOf s c.toNat t).cx.toNat (worldOf (coreOf s c.toNat) t) true [rRD] 0#4 .read
      ((getS (thOf s c.toNat t) a).toNat % 8 == 0) (entryParts (getS (thOf s c.toNat t) a).toNat n) = (rs, s1))
    (hpass : Passes rs) (hgood : NoneBad (rs.map (·.half))) (hown : (rs.map (·.half)).all (inOwnSpad s1 c.toNat) = true)
    (hclean : poisonedPart (decodeHalves s1 (rs.map (·.half))) (thOf s c.toNat t).sb (rs.map (·.half)) = none) :
    exec (.rsfill c a b) s = .next (retire (decodeHalves s1 (rs.map (·.half))) c.toNat t
      (filled (thOf s c.toNat t) b (entriesOf n (readParts (decodeHalves s1 (rs.map (·.half))) (thOf s c.toNat t).sb (rs.map (·.half)))))
      ((thOf s c.toNat t).pc + 4#18) (3 + n + missClocks rs)) := by
  have hs : (!(isS (thOf s c.toNat t))) = false := by rw [isS, hl]; rfl
  refine congrArg Host.Outcome.next ?_
  rw [issue_of_canIssue c 4#18 _ _ s t h, hs, if_neg Bool.false_ne_true, afterVec_of_none _ _ hv]
  simp only [hn, hchk, firstFault_of_passes hpass, filter_good hgood, hown, dropCount_of_passes hpass, countDrops, hclean, ite_self,
    if_true]

/-- R89: what RSSPILL leaves of memory: bytes outside the parts are those after the drain, and the bytes of one aligned entry are its own. -/
theorem storeAll_entries {d d1 : State} {va : Nat} {l : List (BitVec 18)} (hsame : SameStore d d1)
    (hlens : (rs.map fun q => q.half.len) = (entryParts va n).map (·.2)) (hgood : NoneBad (rs.map (·.half))) :
    (∀ z, OutsideParts rs z →
      readByte (storeAll d1 (partBytes (rs.map (·.half)) (entryBytes (oldest l n)))).mem z = readByte d.mem z) ∧
    (n = 1 → 1 ≤ l.length → va < 2 ^ 64 → va % 8 = 0 → ∀ q ∈ rs, ∀ i, i < 8 → isPoisoned d (paLocal q.half.pa + i) = false →
      readByte (storeAll d1 (partBytes (rs.map (·.half)) (entryBytes (oldest l n)))).mem (paLocal q.half.pa + i) =
        BitVec.ofNat 8 (((l.getLast?).getD 0#18).toNat / 256 ^ i)) := by
  constructor
  · intro z hz
    have hout : OutsideHalves (rs.map (·.half)) z := by
      intro x hx
      obtain ⟨q, hq, rfl⟩ := List.mem_map.1 hx
      obtain ⟨p, hp, hlen⟩ := List.mem_map.1 (hlens ▸ List.mem_map_of_mem (f := fun q : Checked => q.half.len) hq)
      exact ⟨hz q hq, hlen ▸ entryParts_lens va n p hp⟩
    rw [storeAll, readByte_storeParts_outside _ z hout _ _ (partBytes_mem _ _), hsame.1.1]
  · rintro rfl hdepth hva ha q hq i hi hp
    rw [entryParts_one hva ha] at hlens
    obtain ⟨q', rfl⟩ : ∃ q', rs = [q'] := List.length_eq_one_iff.1 (by simpa using congrArg List.length hlens)
    obtain rfl := List.mem_singleton.1 hq
    have hlen : q.half.len = 8 := by simpa using hlens
    have hbad := hgood q.half (List.mem_map_of_mem hq)
    rw [entryBytes_oldest_one hdepth]
    show readByte (if q.half.bad then d1 else memStore d1 (paLocal q.half.pa) (List.take q.half.len _)).mem _ = _
    have hbytes := length_natLe 8 ((l.getLast?).getD 0#18).toNat
    rw [hbad, if_neg Bool.false_ne_true, hlen, List.take_of_length_le (by omega),
      readByte_memStore_at _ _ i _ (by omega) (by rw [isPoisoned_congr hsame.1 hsame.2.1]; exact hp), getD_natLe 8 _ i hi]

/-- R89: RSSPILL at level S with its parts in the own scratchpad. -/
theorem rsspill_completes (h : CanIssue s c t 4#18 [.s a, .s b]) (hv : vecMemPending (coreOf s c.toNat) t = false)
    (hl : (thOf s c.toNat t).lvl = .S) (hn : min (min (getS (thOf s c.toNat t) b).toNat 256) (thOf s c.toNat t).rs.length = n)
    (hchk : checkParts s c.toNat (thOf s c.toNat t).cx.toNat (worldOf (coreOf s c.toNat) t) true [rWR] 0#4 .write
      ((getS (thOf s c.toNat t) a).toNat % 8 == 0) (entryParts (getS (thOf s c.toNat t) a).toNat n) = (rs, s1))
    (hpass : Passes rs) (hown : AllOwn s c.toNat rs) {d : State × List SBuf}
    (hd : drainOver s (thOf s c.toNat t).sb (rs.map (·.half)) = d) :
    let x := thOf s c.toNat t
    ∃ s', exec (.rsspill c a b) s = .next (catchUp s' c.toNat) ∧
      (thOf s' c.toNat t).rs = x.rs.take (x.rs.length - n) ∧ (thOf s' c.toNat t).pc = x.pc + 4#18 ∧
      Wrote x (thOf s' c.toNat t) b (BitVec.ofNat 64 n) ∧
      (coreOf s' c.toNat).clk = (coreOf s c.toNat).clk + 3 + n + missClocks rs ∧
      (thOf s' c.toNat t).sb = d.2 ∧ (∀ z, OutsideParts rs z → readByte s'.mem z = readByte d.1.mem z) ∧
      (n = 1 → (getS x a).toNat % 8 = 0 → ∀ q ∈ rs, ∀ i, i < 8 → isPoisoned d.1 (paLocal q.half.pa + i) = false →
        readByte s'.mem (paLocal q.half.pa + i) = BitVec.ofNat 8 (((x.rs.getLast?).getD 0#18).toNat / 256 ^ i)) := by
  intro x
  subst hd
  obtain ⟨hchecks, hlens, hbads⟩ := checkParts_spec c.toNat x.cx.toNat (worldOf (coreOf s c.toNat) t) true [rWR] 0#4 .write
    ((getS x a).toNat % 8 == 0) (entryParts (getS x a).toNat n) s
  rw [hchk] at hchecks hlens hbads
  have hgood := noneBad_of_passes hpass hbads
  obtain ⟨hsame, hsb⟩ := hchecks.sameStore.drainOver (rs.map (·.half)) x.sb
  have hdrain := memOnly_drainOver (rs.map (·.half)) s1 x.sb
  have hallOwn := all_own hown hchecks.part hchecks.fab
  have hpost := postStore_own c.toNat [] (partBytes (rs.map (·.half)) (entryBytes (oldest x.rs n)))
    (drainOver s1 x.sb (rs.map (·.half))).1 fun p hp => by
      obtain ⟨hmem, -⟩ := partBytes_mem _ _ p hp
      exact ⟨hgood p.1 hmem, (inOwnSpad_congr hdrain.part hdrain.fab _ _).trans (List.all_eq_true.1 hallOwn p.1 hmem)⟩
  have hexec := exec_rsspill_own h hv hl hn hchk hpass hgood hallOwn
  rw [hpost, hsb] at hexec
  have hstored := memOnly_storeAll (drainOver s1 x.sb (rs.map (·.half))).1 (partBytes (rs.map (·.half)) (entryBytes (oldest x.rs n)))
  obtain ⟨hout, hone⟩ := storeAll_entries (va := (getS x a).toNat) (l := x.rs) hsame hlens hgood
  obtain ⟨s', st, w, hret, hth, honly, hclk⟩ := retire_spec
    (storeAll (drainOver s1 x.sb (rs.map (·.half))).1 (partBytes (rs.map (·.half)) (entryBytes (oldest x.rs n)))) c.toNat t
    (spilled { x with sb := (drainOver s x.sb (rs.map (·.half))).2 } b n) (x.pc + 4#18) (3 + n + missClocks rs)
  obtain ⟨regs, hput⟩ := putS_eq { x with sb := (drainOver s x.sb (rs.map (·.half))).2, rs := x.rs.take (x.rs.length - n) } b (BitVec.ofNat 64 n)
  refine ⟨s', hexec.trans (congrArg _ hret), ?_, by rw [hth], wrote_of_regs b _ ?_, ?_, ?_, fun z hz => ?_, fun h1 ha q hq i hi hp => ?_⟩
  · rw [hth, spilled, hput]
  · rw [hth]
    exact spilled_s x _ b n
  · rw [hclk, coreOf_of_cores ((hstored.cores.trans hdrain.cores).trans hchecks.cores)]
    omega
  · rw [hth, spilled, hput]
  · rw [honly.sameMemory.1, hout z hz]
  · rw [honly.sameMemory.1, hone h1 (show 1 ≤ (thOf s c.toNat t).rs.length by omega) (BitVec.isLt _) ha q hq i hi hp]

/-- R89: RSFILL at level S with its parts in the own scratchpad and no poison in them. -/
theorem rsfill_completes (h : CanIssue s c t 4#18 [.s a, .s b]) (hv : vecMemPending (coreOf s c.toNat) t = false)
    (hl : (thOf s c.toNat t).lvl = .S) (hn : min (min (getS (thOf s c.toNat t) b).toNat 256) (512 - (thOf s c.toNat t).rs.length) = n)
    (hchk : checkParts s c.toNat (thOf s c.toNat t).cx.toNat (worldOf (coreOf s c.toNat) t) true [rRD] 0#4 .read
      ((getS (thOf s c.toNat t) a).toNat % 8 == 0) (entryParts (getS (thOf s c.toNat t) a).toNat n) = (rs, s1))
    (hpass : Passes rs) (hown : AllOwn s c.toNat rs) (hclean : poisonedPart s (thOf s c.toNat t).sb (rs.map (·.half)) = none) :
    let x := thOf s c.toNat t
    ∃ s', exec (.rsfill c a b) s = .next (catchUp s' c.toNat) ∧
      (thOf s' c.toNat t).rs = x.rs ++ entriesOf n (partsSeen s x.sb rs) ∧ (thOf s' c.toNat t).pc = x.pc + 4#18 ∧
      Wrote x (thOf s' c.toNat t) b (BitVec.ofNat 64 n) ∧
      (coreOf s' c.toNat).clk = (coreOf s c.toNat).clk + 3 + n + missClocks rs ∧ SameMemory s s' := by
  intro x
  obtain ⟨hchecks, -, hbads⟩ := checkParts_spec c.toNat x.cx.toNat (worldOf (coreOf s c.toNat) t) true [rRD] 0#4 .read
    ((getS x a).toNat % 8 == 0) (entryParts (getS x a).toNat n) s
  rw [hchk] at hchecks hbads
  have hgood := noneBad_of_passes hpass hbads
  have hdecode := memOnly_decodeHalves s1 (rs.map (·.half))
  have hmem := sameMemory_trans hchecks.sameMemory (sameMemory_decodeHalves s1 (rs.map (·.half)))
  have hpart := hdecode.part.trans hchecks.part
  have hexec := exec_rsfill_own h hv hl hn hchk hpass hgood (all_own hown hchecks.part hchecks.fab)
    ((poisonedPart_congr hmem hpart _ _).trans hclean)
  rw [readParts_of_passes hgood hclean hmem hpart] at hexec
  obtain ⟨s', st, w, hret, hth, honly, hclk⟩ := retire_spec (decodeHalves s1 (rs.map (·.half))) c.toNat t
    (filled x b (entriesOf n (partsSeen s x.sb rs))) (x.pc + 4#18) (3 + n + missClocks rs)
  obtain ⟨regs, hput⟩ := putS_eq { x with rs := x.rs ++ entriesOf n (partsSeen s x.sb rs) } b (BitVec.ofNat 64 n)
  rw [filled, length_entriesOf] at hth
  refine ⟨s', hexec.trans (congrArg _ hret), ?_, by rw [hth], wrote_of_regs b _ ?_, ?_, sameMemory_trans hmem honly.sameMemory⟩
  · rw [hth, hput]
  · rw [hth]
    refine putS_s ?_ b _
    rfl
  · rw [hclk, coreOf_of_cores (hdecode.cores.trans hchecks.cores)]
    omega

/-- R86, R89: RSSPILL and RSFILL at level U. -/
theorem exec_returnStack_user (h : CanIssue s c t 4#18 [.s a, .s b]) (hl : (thOf s c.toNat t).lvl = .U) :
    exec (.rsspill c a b) s = .next (illop s c.toNat t (thOf s c.toNat t) 4#18 3) ∧
      exec (.rsfill c a b) s = .next (illop s c.toNat t (thOf s c.toNat t) 4#18 3) := by
  have hu : (!(isS (thOf s c.toNat t))) = true := by rw [isS, hl]; rfl
  constructor <;> refine congrArg Host.Outcome.next ?_ <;> rw [issue_of_canIssue c 4#18 _ _ s t h, hu, if_pos rfl]

end

end Sys2Proof.Machine

open Sys2Proof Sys2Proof.Machine

/-- Settles O12: RSSPILL and RSFILL. -/
theorem returnStackMoves : Obligations.ReturnStackMoves := by
  intro c a b s t _ h hv x va n m w out inn
  refine ⟨?_, fun hl hpass hown hclean => ?_, fun hl hx hb => ?_⟩
  · intro d hl hpass hown
    exact rsspill_completes (rs := out) (n := n) (d := d) h hv hl rfl Prod.mk.eta.symm hpass hown rfl
  · exact rsfill_completes (rs := inn) (n := m) h hv hl rfl Prod.mk.eta.symm hpass hown hclean
  · obtain ⟨hspill, hfill⟩ := exec_returnStack_user h hl
    obtain ⟨s', hill, henters, -⟩ := illop_spec s c.toNat t x 4#18 3 hb
    obtain ⟨hat, -⟩ := henters hx
    exact ⟨s', s', hspill.trans (congrArg _ hill), hfill.trans (congrArg _ hill), hat, hat⟩

end

section
/-!
SUPPORT. Turns of threads (O31): the thread that a core selects when its running thread gives way.
-/

namespace Sys2Proof.Machine

/-- R77: the running thread comes last in the order of selection. -/
theorem searchOrder_eq (k : Core) (h : k.cur < 8) :
    searchOrder k = ((List.range 7).map fun i => (k.cur + 1 + i) % 8) ++ [k.cur] := by
  have hlast : (k.cur + 1 + 7) % 8 = k.cur := by omega
  unfold searchOrder
  rw [List.range_succ, List.map_append, List.map_singleton, hlast]

/-- R77: every other thread comes before the running one, and they alone do. -/
theorem mem_others (k : Core) (t : Nat) (hc : k.cur < 8) :
    t ∈ ((List.range 7).map fun i => (k.cur + 1 + i) % 8) ↔ t < 8 ∧ t ≠ k.cur := by
  rw [List.mem_map]
  constructor
  · rintro ⟨i, hi, rfl⟩
    have := List.mem_range.1 hi
    omega
  · rintro ⟨ht, hne⟩
    exact ⟨(t + 7 - k.cur) % 8, List.mem_range.2 (by omega), by omega⟩

/-- R79: a world without a share has no priority. -/
theorem wantsShare_of_zero (k : Core) (w : World) (hp : k.pShare = 0#8) (ht : k.tShare = 0#8) : wantsShare k w = false := by
  unfold wantsShare
  cases w
  · simp [hp]
  · simp [ht]

/-- R77, R78: with no shares, another ready thread is selected before the running one. -/
theorem nextThread_other (k : Core) (hc : k.cur < 8) (hp : k.pShare = 0#8) (ht : k.tShare = 0#8)
    (h : ∃ t, t < 8 ∧ t ≠ k.cur ∧ isReady k t = true) :
    ∃ t, nextThread k = some t ∧ t < 8 ∧ t ≠ k.cur ∧ isReady k t = true := by
  have hnext : nextThread k = (searchOrder k).find? (isReady k) := by
    unfold nextThread
    rw [wantsShare_of_zero k .P hp ht, wantsShare_of_zero k .T hp ht]
    rfl
  obtain ⟨t, ht8, hne, hready⟩ := h
  obtain ⟨u, hfind⟩ := Option.isSome_iff_exists.1 (List.find?_isSome.2 ⟨t, (mem_others k t hc).2 ⟨ht8, hne⟩, hready⟩)
  obtain ⟨hu8, hune⟩ := (mem_others k u hc).1 (List.mem_of_find?_eq_some hfind)
  exact ⟨u, by rw [hnext, searchOrder_eq k hc, List.find?_append, hfind]; rfl, hu8, hune, List.find?_some hfind⟩

theorem sameMemory_setCore (s : State) (c : Nat) (k : Core) : SameMemory s (setCore s c k) := ⟨rfl, rfl⟩

/-- R78: a thread whose time slice is over gives way in one clock. -/
theorem timesliceSwitch_over (c : BitVec 8) (s : State) : let k := coreOf s c.toNat
    k.ilv = false → isReady k k.cur = true → 1024 ≤ k.ran → (∃ t, t < 8 ∧ t ≠ k.cur ∧ isReady k t = true) → k.cur < 8 →
    k.pShare = 0#8 → k.tShare = 0#8 → ∃ s' t, exec (.timesliceSwitch c) s = .next s' ∧ t < 8 ∧ t ≠ k.cur ∧ isReady k t = true ∧
      (coreOf s' c.toNat).cur = t ∧ (coreOf s' c.toNat).ran = 0 ∧ (coreOf s' c.toNat).clk = k.clk + 1 ∧
      (coreOf s' c.toNat).th = k.th ∧ SameMemory s s' := by
  intro k hilv hready hran hother hcur hp ht
  have hany : ((List.range 8).any fun t => t != k.cur && isReady k t) = true := by
    obtain ⟨t, ht8, hne, hr⟩ := hother
    exact List.any_eq_true.2 ⟨t, List.mem_range.2 ht8, by rw [hr, bne_iff_ne.2 hne]; rfl⟩
  have hexec : exec (.timesliceSwitch c) s = .next (setCore s c.toNat (switchThread (spend k k.cur 1))) := by
    refine congrArg Host.Outcome.next (if_pos ?_)
    show (!k.ilv && isReady k k.cur && decide (1024 ≤ k.ran) && _) = true
    rw [hilv, hready, decide_eq_true hran, hany]
    rfl
  obtain ⟨p, q, w, hspend⟩ := spend_eq k k.cur 1
  obtain ⟨t, hnext, ht8, hne, hr⟩ := nextThread_other (spend k k.cur 1) (by rw [hspend]; exact hcur) (by rw [hspend]; exact hp)
    (by rw [hspend]; exact ht) (by rw [hspend]; exact hother)
  rw [hspend] at hne hr
  refine ⟨_, t, hexec, ht8, hne, hr, ?_, ?_, ?_, ?_, sameMemory_setCore ..⟩ <;> rw [coreOf_setCore, switchThread, hnext, hspend]

theorem threadTurns_hold : ThreadTurns := by
  intro c s k
  refine ⟨timesliceSwitch_over c s, fun h => ?_, ⟨_, rfl, sameMemory_setCore .., fun h => ?_, fun h => ?_⟩, fun hilv hready => ?_,
    fun hready => ?_⟩
  · refine congrArg Host.Outcome.next (if_neg ?_)
    show ¬ (!k.ilv && isReady k k.cur && decide (1024 ≤ k.ran) && _) = true
    rw [decide_eq_false (by omega), Bool.and_false, Bool.false_and]
    exact Bool.false_ne_true
  · rw [coreOf_setCore]
    exact if_pos h
  · rw [coreOf_setCore]
    exact if_neg h
  · have hturn : (k.ilv && !(isReady k k.cur)) = true := by rw [hilv, hready]; rfl
    exact ⟨_, congrArg Host.Outcome.next (if_pos hturn), coreOf_setCore .., sameMemory_setCore ..⟩
  · have hturn : ¬ (k.ilv && !(isReady k k.cur)) = true := by rw [hready, Bool.not_true, Bool.and_false]; exact Bool.false_ne_true
    exact congrArg Host.Outcome.next (if_neg hturn)

end Sys2Proof.Machine
end

section
/-!
SUPPORT. Replies to waiting threads (O31): the clock and the inbound buffers that a reply may move, and the thread as it completes.
-/

namespace Sys2Proof.Machine

/-- R80, R250: what a reply moves before its thread completes: clocks of cores and their inbound buffers. -/
def ArrivalOnly (s s1 : State) : Prop :=
  s1 = { s with cores := s1.cores } ∧
    ∀ i, coreOf s1 i = { coreOf s i with clk := (coreOf s1 i).clk, inRd := (coreOf s1 i).inRd, inWr := (coreOf s1 i).inWr }

/-- R250: what room of inbound buffers depends on is as before. -/
def PortsKept (s s1 : State) : Prop :=
  ∀ i, (coreOf s1 i).se = (coreOf s i).se ∧ (coreOf s1 i).inRd = (coreOf s i).inRd ∧ (coreOf s1 i).inWr = (coreOf s i).inWr

theorem arrivalOnly_rfl (s : State) : ArrivalOnly s s := ⟨rfl, fun _ => rfl⟩

theorem arrivalOnly_trans {a b d : State} (h : ArrivalOnly a b) (g : ArrivalOnly b d) : ArrivalOnly a d := by
  refine ⟨?_, fun i => ?_⟩
  · rw [g.1, h.1]
  · rw [g.2 i, h.2 i]

theorem arrivalOnly_setCore (s : State) (c clk rd wr : Nat) :
    ArrivalOnly s (setCore s c { coreOf s c with clk := clk, inRd := rd, inWr := wr }) := by
  refine ⟨rfl, fun i => ?_⟩
  by_cases hi : i = c
  · rw [hi, coreOf_setCore]
  · rw [coreOf_setCore_ne s c i _ hi]

section
variable {s s1 : State}

theorem ArrivalOnly.sameMemory (h : ArrivalOnly s s1) : SameMemory s s1 := by rw [h.1]; exact ⟨rfl, rfl⟩

theorem ArrivalOnly.part (h : ArrivalOnly s s1) : s1.part = s.part := by rw [h.1]

theorem ArrivalOnly.fab (h : ArrivalOnly s s1) : s1.fab = s.fab := by rw [h.1]

theorem ArrivalOnly.steep (h : ArrivalOnly s s1) : s1.steep = s.steep := by rw [h.1]

theorem ArrivalOnly.thOf (h : ArrivalOnly s s1) (c t : Nat) : thOf s1 c t = thOf s c t := by
  unfold Machine.thOf threadOf
  rw [h.2 c]

/-- R250: traffic for a scratchpad waits in the core's inbound buffer where its ports are taken. (The definition is unfolded as a constant,
away from its arguments: the kernel would otherwise evaluate the region of an address that is not known.) -/
theorem inboundAt_spad {la c : Nat} (wr : Bool) (n : Nat) (hreg : regionOf s.part la = .spad c) : inboundAt s la wr n =
    if !(portsTaken (coreOf s c) wr) then some s
    else if 4096 < (if wr then (coreOf s c).inWr else (coreOf s c).inRd) + n then none
    else some (setCore s c (if wr then { coreOf s c with inWr := (if wr then (coreOf s c).inWr else (coreOf s c).inRd) + n }
      else { coreOf s c with inRd := (if wr then (coreOf s c).inWr else (coreOf s c).inRd) + n })) := by
  have hdef : inboundAt = inboundAt := rfl
  conv at hdef => rhs; delta inboundAt
  rw [hdef]
  beta_reduce
  clear hdef
  generalize regionOf s.part la = g at hreg ⊢
  subst hreg
  rfl

theorem inboundAt_else {la : Nat} (wr : Bool) (n : Nat) (hreg : ∀ c, regionOf s.part la ≠ .spad c) : inboundAt s la wr n = some s := by
  have hdef : inboundAt = inboundAt := rfl
  conv at hdef => rhs; delta inboundAt
  rw [hdef]
  beta_reduce
  clear hdef
  generalize regionOf s.part la = g at hreg ⊢
  cases g with
  | spad c => exact absurd rfl (hreg c)
  | hbm | imem _ | so _ | csr | void => rfl

/-- R250: an inbound access moves a buffer alone. -/
theorem arrivalOnly_inboundAt {la n : Nat} {wr : Bool} (h : inboundAt s la wr n = some s1) : ArrivalOnly s s1 := by
  by_cases hreg : ∃ c, regionOf s.part la = .spad c
  · obtain ⟨c, hreg⟩ := hreg
    rw [inboundAt_spad wr n hreg] at h
    split at h
    · exact Option.some.inj h ▸ arrivalOnly_rfl s
    · generalize (if wr then (coreOf s c).inWr else (coreOf s c).inRd) + n = b at h
      cases Nat.decLt 4096 b with
      | isTrue hfull => exact absurd ((if_pos hfull).symm.trans h) nofun
      | isFalse hroom =>
        rw [← Option.some.inj ((if_neg hroom).symm.trans h)]
        cases wr <;> exact arrivalOnly_setCore s c _ _ _
  · rw [inboundAt_else wr n (not_exists.1 hreg)] at h
    exact Option.some.inj h ▸ arrivalOnly_rfl s

theorem inboundAt_isSome_congr (h : ArrivalOnly s s1) (hk : PortsKept s s1) (la n : Nat) (wr : Bool) :
    (inboundAt s1 la wr n).isSome = (inboundAt s la wr n).isSome := by
  by_cases hreg : ∃ c, regionOf s.part la = .spad c
  · obtain ⟨c, hreg⟩ := hreg
    obtain ⟨hse, hrd, hwr⟩ := hk c
    have hports : portsTaken (coreOf s1 c) wr = portsTaken (coreOf s c) wr := by
      unfold portsTaken
      rw [hse]
    rw [inboundAt_spad wr n hreg, inboundAt_spad wr n (h.part ▸ hreg), hports, hrd, hwr]
    split
    · rfl
    · generalize (if wr then (coreOf s c).inWr else (coreOf s c).inRd) = b
      split <;> rfl
  · rw [inboundAt_else wr n (not_exists.1 hreg), inboundAt_else wr n (h.part ▸ not_exists.1 hreg)]
    rfl

/-- R250: an access of one part is inbound as its part is. -/
theorem inboundParts_one (s : State) (c : Nat) (wr : Bool) (h : Half) : inboundParts s (some c) wr [h] =
    if !h.bad && !(isRemote s h.pa) && !(inOwnSpad s c h) then inboundAt s (paLocal h.pa) wr h.len else some s := by
  unfold inboundParts
  rw [List.filter_cons, Option.any_some, List.filter_nil]
  split
  · rw [List.foldl_cons, List.foldl_nil, Option.bind_some]
  · rw [List.foldl_nil]

/-- R80, R250: a reply with one part has room for it after the clock has moved as it has before. -/
theorem inboundParts_arrives {c : Nat} {wr : Bool} {h : Half} (ha : ArrivalOnly s s1) (hk : PortsKept s s1)
    (hroom : (inboundParts s (some c) wr [h]).isSome = true) :
    ∃ u, inboundParts s1 (some c) wr [h] = some u ∧ ArrivalOnly s u := by
  have hremote : isRemote s1 h.pa = isRemote s h.pa := by
    unfold isRemote
    rw [ha.fab]
  rw [inboundParts_one] at hroom ⊢
  rw [hremote, inOwnSpad_congr ha.part ha.fab]
  cases hin : !h.bad && !(isRemote s h.pa) && !(inOwnSpad s c h) with
  | true =>
    rw [hin, if_pos rfl, ← inboundAt_isSome_congr ha hk] at hroom
    obtain ⟨u, hu⟩ := Option.isSome_iff_exists.1 hroom
    exact ⟨u, (if_pos rfl).trans hu, arrivalOnly_trans ha (arrivalOnly_inboundAt hu)⟩
  | false => exact ⟨s1, if_neg Bool.false_ne_true, ha⟩

/-- R408: no repeated request is answered where there is none. -/
theorem answerReplay_of_none (h : ∀ o ∈ s.fab.outst, o.sent.2.replay = false) : answerReplay s = s := by
  unfold answerReplay
  rw [List.filter_eq_nil_iff.2 fun o ho => by rw [h o ho, Bool.and_false]; exact Bool.false_ne_true]
  rfl

end

/-- R76: what a reply does whose parts have all come and for which the inbound buffers have room; `x` is the thread that waits. -/
def replyTo (s : State) (c t : Nat) (x : Thread) : Req → Out
  | .load d size u hs len => .next (replyLoad s c t d size u hs len)
  | .store bytes hs len => .next (replyStore s c t bytes hs len)
  | .atom op d size b h => .next (replyAtom s c t op d size b h)
  | .spill b n hs => .next (replySpill s c t b n hs)
  | .fill b n hs => .next (replyFill s c t b n hs)
  | .rsync _ d _ h => .next (replyRsync s c t d h)
  | .synced d v => .next (replyDone s c t (clearBusy (putS x d v) (.s d)) 4)
  | .vec e => .next (replyVec s c t e)
  | .mcall n => if ownService n then .next s else .next (replyDone s c t (putS x 1#5 (BitVec.allOnes 64)) 4)
  | .syncWait _ _ => .next s
  | .ext _ _ _ => .next s

/-- R80: ACCESS_REPLY where no request is repeated: the clock may move, then the waiting thread's request is replied to. -/
theorem exec_accessReply (c : BitVec 8) (t : BitVec 3) (atc : Word) (s : State) (hout : ∀ o ∈ s.fab.outst, o.sent.2.replay = false) :
    ∃ s1, ArrivalOnly s s1 ∧ PortsKept s s1 ∧ ∀ r u, (thOf s c.toNat t.toNat).wait = .reply r → partsBack s (waitParts r) = true →
      inboundParts s1 (some c.toNat) (!(reqReads r)) (waitParts r) = some u →
      exec (.accessReply c t atc) s = replyTo u c.toNat t.toNat (thOf s c.toNat t.toNat) r := by
  have harrived : ∃ s1, (if (running s c.toNat).isNone then
        setCore s c.toNat { coreOf s c.toNat with clk := max (coreOf s c.toNat).clk atc.toNat } else s) = s1 ∧
      ArrivalOnly s s1 ∧ PortsKept s s1 := by
    split
    · refine ⟨_, rfl, arrivalOnly_setCore s c.toNat _ _ _, fun i => ?_⟩
      by_cases hi : i = c.toNat
      · rw [hi, coreOf_setCore]
        exact ⟨rfl, rfl, rfl⟩
      · rw [coreOf_setCore_ne s _ i _ hi]
        exact ⟨rfl, rfl, rfl⟩
    · exact ⟨s, rfl, arrivalOnly_rfl s, fun _ => ⟨rfl, rfl, rfl⟩⟩
  obtain ⟨s1, hs1, ha, hk⟩ := harrived
  refine ⟨s1, ha, hk, fun r u hwait hback hroom => ?_⟩
  have hback1 : partsBack s1 (waitParts r) = true := by
    unfold partsBack isRemote
    rw [ha.fab]
    exact hback
  show execAccessReply c t atc s = _
  unfold execAccessReply
  dsimp only
  rw [hs1, answerReplay_of_none (by rw [ha.fab]; exact hout), ha.thOf, hwait]
  dsimp only
  rw [hback1, hroom, Bool.not_true, if_neg Bool.false_ne_true]
  cases r <;> rfl

/-- R76: the thread whose waiting instruction completes. -/
theorem replyDone_spec (s : State) (c t : Nat) (x : Thread) (len : Nat) : SameMemory s (replyDone s c t x len) ∧
    thOf (replyDone s c t x len) c t =
      { x with pc := x.pc + BitVec.ofNat 18 len, icount := x.icount + 1, st := .ready, wait := .none } := by
  have hth : thOf (finishWait s c t x (x.pc + BitVec.ofNat 18 len)) c t =
      { x with pc := x.pc + BitVec.ofNat 18 len, icount := x.icount + 1, st := .ready, wait := .none } := by
    unfold finishWait putTh thOf threadOf
    rw [coreOf_setCore, settle_th]
    exact tabGet_tabSet_same ..
  refine ⟨⟨rfl, rfl⟩, ?_⟩
  unfold replyDone
  rw [thOf_wake_of_not_waiting _ c t (by rw [hth]; exact nofun), hth]

/-- R76, R81: the thread after a reply that gives register d the value v, of an instruction of n bytes. -/
def Resumed (x y : Thread) (d : BitVec 5) (v : Word) (n : BitVec 18) : Prop :=
  Wrote x y d v ∧ regBusy y (.s d) = false ∧ y.st = .ready ∧ y.pc = x.pc + n

/-- R76, R81: a reply's value reaches its register. -/
theorem replyDone_resumed (s : State) (c t : Nat) (x : Thread) (d : BitVec 5) (v : Word) (n : Nat) :
    Resumed x (thOf (replyDone s c t (clearBusy (putS x d v) (.s d)) n) c t) d v (BitVec.ofNat 18 n) := by
  obtain ⟨-, hth⟩ := replyDone_spec s c t (clearBusy (putS x d v) (.s d)) n
  rw [hth]
  refine ⟨wrote_of_regs d v (clearBusy_s _ _), regBusy_clearBusy_same (putS x d v) (.s d), rfl, ?_⟩
  show (clearBusy (putS x d v) (.s d)).pc + _ = _
  rw [clearBusy_pc, putS_pc]

end Sys2Proof.Machine
end

section
/-!
SUPPORT. What replies give (O31): a load's bytes and an atomic's old value, of local memory without poison.
-/

namespace Sys2Proof.Machine

section
variable {s u : State} {h : Half}

theorem memPart_good (hm : memPart s h = true) : h.bad = false ∧ isRemote s h.pa = false := by
  unfold memPart at hm
  rw [Bool.and_eq_true, Bool.and_eq_true] at hm
  simpa using hm.1

/-- R9, R371: memory holds no register. (Unfolded as `inboundAt` is, and for the same reason.) -/
theorem regRead_of_memPart (v : Viewer) (hm : memPart s h = true) : regRead s v (paLocal h.pa) = none := by
  unfold memPart at hm
  rw [Bool.and_eq_true] at hm
  have hdef : regRead = regRead := rfl
  conv at hdef => rhs; delta regRead
  rw [hdef]
  beta_reduce
  clear hdef
  generalize regionOf s.part (paLocal h.pa) = g at hm ⊢
  cases g with
  | csr | so _ => exact absurd hm.2 Bool.false_ne_true
  | hbm | spad _ | imem _ | void => rfl

/-- R359: a local part needs no response. -/
theorem partsBack_of_memPart (hm : memPart s h = true) : partsBack s [h] = true := by
  unfold partsBack
  rw [List.all_cons, (memPart_good hm).2, Bool.not_false, Bool.or_true, Bool.true_or, Bool.true_or, List.all_nil, Bool.and_true]

theorem memPart_congr (hp : u.part = s.part) (hf : u.fab = s.fab) (x : Half) : memPart u x = memPart s x := by
  unfold memPart isRemote
  rw [hp, hf]

theorem firstBad_congr (hsame : SameStore s u) (sb : List SBuf) (r : Req) : firstBad u sb r = firstBad s sb r := by
  obtain ⟨hm, hp, hf⟩ := hsame
  unfold firstBad partCause
  simp only [memPart_congr hp hf, readPoison_congr hm hp]

/-- R104, R179: a load's part that meets no fault reads no poison. -/
theorem readPoison_of_firstBad {sb : List SBuf} {d : BitVec 5} {size n : Nat} {un : Bool} (hm : memPart s h = true)
    (hb : firstBad s sb (.load d size un [h] n) = none) : readPoison s sb (paLocal h.pa) h.len = false := by
  have hcause : partCause s sb true h = 0 := by
    have hnone := List.find?_eq_none.1 hb (partCause s sb true h, h.va, false) (List.mem_cons_self ..)
    simpa using hnone
  unfold partCause at hcause
  rw [(memPart_good hm).1, if_neg Bool.false_ne_true, hm, Bool.true_and, Bool.true_and] at hcause
  cases hp : readPoison s sb (paLocal h.pa) h.len with
  | false => rfl
  | true =>
    rw [hp, if_pos rfl] at hcause
    split at hcause
    · next herr => exact absurd hcause (bne_iff_ne.1 herr)
    · exact absurd hcause (by decide)

/-- R32, R118: eight bytes as a signed number and as an unsigned one are the same word. -/
theorem sext_word (v : Nat) (hv : v < 2 ^ 64) : sext 64 v = BitVec.ofNat 64 v := by
  unfold sext
  rw [sint_of_lt 64 v (by decide) hv]
  refine BitVec.eq_of_toNat_eq ?_
  rw [BitVec.toNat_ofInt, BitVec.toNat_ofNat]
  split_ifs <;> omega

theorem extendLoad_word (size : Nat) (un : Bool) (bs : List Byte) (hl : bs.length = size) (h : size = 8 ∨ un = true) :
    extendLoad size un bs = BitVec.ofNat 64 (leNat bs) := by
  unfold extendLoad
  split
  · rfl
  · rename_i hun
    obtain rfl := h.resolve_right hun
    have hlt := leNat_lt bs
    rw [hl] at hlt
    exact sext_word _ hlt

theorem countBad_good (s : State) (c t : Nat) (x : Thread) (hb : h.bad = false) : countBad s c t x [h] = (x, s) := by
  unfold countBad countDrops
  rw [List.filter_cons, hb, if_neg Bool.false_ne_true]
  exact if_pos rfl

/-- R76, R118: a load of local memory without poison gives the bytes that the thread sees. -/
theorem replyLoad_eq {c t size n : Nat} {d : BitVec 5} {un : Bool} (hsame : SameStore s u) (hth : thOf u c t = thOf s c t)
    (hm : memPart s h = true) (hb : firstBad s (thOf s c t).sb (.load d size un [h] n) = none) (hlen : h.len = size)
    (hsize : size = 8 ∨ un = true) : ∃ u', SameMemory s u' ∧ replyLoad u c t d size un [h] n =
      replyDone u' c t (clearBusy (putS (thOf s c t) d
        (BitVec.ofNat 64 (leNat (readMerged s (thOf s c t).sb (paLocal h.pa) size)))) (.s d)) n := by
  have hdecode := memOnly_decodeHalves u ((waitParts (.load d size un [h] n)).filter (memPart u))
  have hmem := sameMemory_trans hsame.1 (sameMemory_decodeHalves u ((waitParts (.load d size un [h] n)).filter (memPart u)))
  generalize hu' : decodeHalves u ((waitParts (.load d size un [h] n)).filter (memPart u)) = u' at hdecode hmem
  have hsame' : SameStore s u' := ⟨hmem, hdecode.part.trans hsame.2.1, hdecode.fab.trans hsame.2.2⟩
  have hm' : memPart u' h = true := (memPart_congr hsame'.2.1 hsame'.2.2 h).trans hm
  obtain ⟨hbad, hlocal⟩ := memPart_good hm'
  have hread (v : Viewer) : partsRead u' v (thOf s c t).sb [h] = readMerged s (thOf s c t).sb (paLocal h.pa) size := by
    have hnoneBad : NoneBad [h] := by simpa [NoneBad] using hbad
    have hclean : ∀ x ∈ [h], readPoison s (thOf s c t).sb (paLocal x.pa) x.len = false := by
      simpa using readPoison_of_firstBad hm hb
    unfold partsRead
    rw [List.map_singleton, partRead, hbad, if_neg Bool.false_ne_true, hlocal, if_neg Bool.false_ne_true, regRead_of_memPart v hm']
    show [readParts u' (thOf s c t).sb [h]].flatten = _
    rw [readParts_congr hmem hsame'.2.1, readParts_clean hnoneBad hclean]
    simp [hlen]
  refine ⟨u', hmem, ?_⟩
  unfold replyLoad readReply
  dsimp only
  rw [hth, hu', firstBad_congr hsame', hb]
  dsimp only
  rw [countBad_good _ _ _ _ hbad]
  dsimp only
  rw [hread, extendLoad_word size un _ (length_readMerged ..) hsize]

/-- R76, R119: an atomic of 8 bytes on local memory without poison gives the old value and leaves the new one. -/
theorem replyAtom_eq {c t : Nat} {op : AtomOp} {d : BitVec 5} {b : Word} (hsame : SameStore s u) (hth : thOf u c t = thOf s c t)
    (hw : memWf s.mem = true) (hr : u.steep.replay = []) (hm : memPart s h = true) (hp : anyPoison s (paLocal h.pa) 8 = false) :
    ∃ u', replyAtom u c t op d 8 b h = replyDone u' c t (clearBusy (putS (thOf s c t) d
        (BitVec.ofNat 64 (leNat (loadBytes s (paLocal h.pa) 8)))) (.s d)) 4 ∧
      leNat (loadBytes u' (paLocal h.pa) 8) =
        atomNew op 64 (leNat (loadBytes s (paLocal h.pa) 8)) b.toNat (getS (thOf s c t) d).toNat ∧
      ∀ z, z < paLocal h.pa ∨ paLocal h.pa + 8 ≤ z → readByte u'.mem z = readByte s.mem z := by
  obtain ⟨hbad, hlocal⟩ := memPart_good ((memPart_congr hsame.2.1 hsame.2.2 h).trans hm)
  have hmem := sameMemory_trans hsame.1 (sameMemory_decodeHalves u [h])
  have hpart := (memOnly_decodeHalves u [h]).part.trans hsame.2.1
  have hpoison := (anyPoison_congr hmem hpart (paLocal h.pa) 8).trans hp
  obtain ⟨u', hatom, -, hnew, hrest⟩ := doAtom_spec (decodeHalves u [h]) op 8 (paLocal h.pa) b (getS (thOf s c t) d) (by decide)
    (by rw [decodeHalves_steep, hr]) (by rw [hmem.1]; exact hw) hpoison
  rw [loadBytes_congr hmem] at hatom hnew
  refine ⟨u', ?_, ?_, fun z hz => by rw [hrest z hz, hmem.1]⟩
  · unfold replyAtom
    rw [hth]
    extract_lets x done
    rw [hbad, if_neg Bool.false_ne_true, hlocal, if_neg Bool.false_ne_true]
    rw [hpoison, if_neg Bool.false_ne_true, hatom]
  · rw [hnew, Nat.mod_eq_of_lt b.isLt, Nat.mod_eq_of_lt (getS (thOf s c t) d).isLt]

end

theorem accessReplies_hold : AccessReplies := by
  intro c t atc s hw hout hreplay x resumed
  obtain ⟨s1, ha, hk, hexec⟩ := exec_accessReply c t atc s hout
  refine ⟨fun d size un h n hwait hm _ hb hroom hlen hsize => ?_, fun op d b h hwait hm hp hroom => ?_, fun d v hwait => ?_,
    fun n hwait h20 h21 h22 h30 => ?_, fun d so hwait => ?_⟩
  · obtain ⟨u, hu, harr⟩ := inboundParts_arrives ha hk hroom
    obtain ⟨u', hmem, hreply⟩ := replyLoad_eq ⟨harr.sameMemory, harr.part, harr.fab⟩ (harr.thOf _ _) hm hb hlen hsize
    refine ⟨_, (hexec _ u hwait (partsBack_of_memPart hm) hu).trans (congrArg _ hreply), replyDone_resumed u' _ _ x d _ n,
      sameMemory_trans hmem (replyDone_spec ..).1⟩
  · obtain ⟨u, hu, harr⟩ := inboundParts_arrives ha hk hroom
    obtain ⟨u', hreply, hnew, hrest⟩ := replyAtom_eq (op := op) (d := d) (b := b) ⟨harr.sameMemory, harr.part, harr.fab⟩
      (harr.thOf c.toNat t.toNat) hw (by rw [harr.steep]; exact hreplay) hm hp
    refine ⟨_, (hexec _ u hwait (partsBack_of_memPart hm) hu).trans (congrArg _ hreply), replyDone_resumed u' _ _ x d _ 4, ?_,
      fun z hz => ?_⟩
    · rw [loadBytes_congr (replyDone_spec ..).1]
      exact hnew
    · rw [(replyDone_spec ..).1.1]
      exact hrest z hz
  · exact ⟨_, hexec _ s1 hwait rfl rfl, replyDone_resumed s1 _ _ x d v 4, sameMemory_trans ha.sameMemory (replyDone_spec ..).1⟩
  · have hown : ¬ ownService n = true := by simp [ownService, h20, h21, h22, h30]
    obtain ⟨hmem, hth⟩ := replyDone_spec s1 c.toNat t.toNat (putS x 1#5 (BitVec.allOnes 64)) 4
    refine ⟨_, (hexec _ s1 hwait rfl rfl).trans (if_neg hown), ?_, ?_, wrote_of_regs 1#5 _ ?_, sameMemory_trans ha.sameMemory hmem⟩
    · rw [hth]
    · rw [hth, ← putS_pc x 1#5 (BitVec.allOnes 64)]
    · rw [hth]
  · exact ⟨s1, hexec _ s1 hwait rfl rfl, ha.thOf ..⟩

end Sys2Proof.Machine

open Sys2Proof Sys2Proof.Machine

/-- Settles O31: replies to waiting threads, and the turns of threads. -/
theorem repliesAndTurns : Obligations.RepliesAndTurns := ⟨accessReplies_hold, threadTurns_hold⟩

end

section
/-!
SUPPORT. Scalar arithmetic (O3, O4): a scalar instruction as it completes, and the values that the ALU, the multiplier and the divider give.
-/

namespace Sys2Proof.Machine

/-- R75, R112: a completed instruction that writes one scalar register. -/
theorem retire_wrote (s : State) (c : BitVec 8) (t : Nat) (d : BitVec 5) (v : Word) (pc : BitVec 18) (n : Nat) :
    ∃ s', retire s c.toNat t (putS (thOf s c.toNat t) d v) pc n = catchUp s' c.toNat ∧
      Wrote (thOf s c.toNat t) (thOf s' c.toNat t) d v ∧ ScalarDone s s' c t pc n := by
  obtain ⟨s', st, w, hret, hth, honly, hclk⟩ := retire_spec s c.toNat t (putS (thOf s c.toNat t) d v) pc n
  refine ⟨s', hret, wrote_of_regs d v (by rw [hth]), honly, ?_, by rw [hth], hclk⟩
  obtain ⟨l, hl⟩ := putS_eq (thOf s c.toNat t) d v
  rw [hth, hl]
  rfl

/-- R75: a completed instruction that writes no register. -/
theorem retire_moved (s : State) (c : BitVec 8) (t : Nat) (pc : BitVec 18) (n : Nat) :
    ∃ s', retire s c.toNat t (thOf s c.toNat t) pc n = catchUp s' c.toNat ∧
      (thOf s' c.toNat t).s = (thOf s c.toNat t).s ∧ ScalarDone s s' c t pc n := by
  obtain ⟨s', st, w, hret, hth, honly, hclk⟩ := retire_spec s c.toNat t (thOf s c.toNat t) pc n
  exact ⟨s', hret, by rw [hth], honly, by rw [hth]; rfl, by rw [hth], hclk⟩

/-- R75, R115: an instruction on two registers completes. -/
theorem aluRR_completes {c : BitVec 8} {d a b : BitVec 5} {s : State} {t : Nat} (h : CanIssue s c t 4#18 [.s d, .s a, .s b])
    (n : Nat) (f : Word → Word → Word) : ∃ s', aluRR c d a b n f s = catchUp s' c.toNat ∧
      Wrote (thOf s c.toNat t) (thOf s' c.toNat t) d (f (getS (thOf s c.toNat t) a) (getS (thOf s c.toNat t) b)) ∧
      ScalarDone s s' c t ((thOf s c.toNat t).pc + 4#18) n := by
  rw [aluRR, issue_of_canIssue _ _ _ _ _ _ h]
  exact retire_wrote ..

/-- R75, R115: an instruction on one register and a value of its word completes. -/
theorem aluRI_completes {c : BitVec 8} {d a : BitVec 5} {len : BitVec 18} {s : State} {t : Nat} (h : CanIssue s c t len [.s d, .s a])
    (n : Nat) (f : Word → Word) : ∃ s', aluRI c d a len n f s = catchUp s' c.toNat ∧
      Wrote (thOf s c.toNat t) (thOf s' c.toNat t) d (f (getS (thOf s c.toNat t) a)) ∧
      ScalarDone s s' c t ((thOf s c.toNat t).pc + len) n := by
  rw [aluRI, issue_of_canIssue _ _ _ _ _ _ h]
  exact retire_wrote ..

/-- R115: the comparisons and the selections by order, signed and unsigned. -/
theorem flagWord_slt (x y : Word) : flagWord (x.slt y) = if x.toInt < y.toInt then 1#64 else 0#64 := by
  simp [flagWord, BitVec.slt_iff_toInt_lt]

theorem flagWord_ult (x y : Word) : flagWord (x.ult y) = if x.toNat < y.toNat then 1#64 else 0#64 := by
  simp [flagWord, BitVec.ult_iff_lt, BitVec.lt_def]

/-- R115: a selection by `<` is that by `≤`, where it makes no difference between equal values. -/
theorem ite_slt {x y u v : Word} (h : x = y → u = v) : (if x.slt y then u else v) = if x.toInt ≤ y.toInt then u else v := by
  by_cases hxy : x = y
  · rw [h hxy, ite_self, ite_self]
  · have hne : x.toInt ≠ y.toInt := fun e => hxy (BitVec.eq_of_toInt_eq e)
    simp [BitVec.slt_iff_toInt_lt, lt_iff_le_and_ne, hne]

theorem ite_ult {x y u v : Word} (h : x = y → u = v) : (if x.ult y then u else v) = if x.toNat ≤ y.toNat then u else v := by
  by_cases hxy : x = y
  · rw [h hxy, ite_self, ite_self]
  · have hne : x.toNat ≠ y.toNat := fun e => hxy (BitVec.eq_of_toNat_eq e)
    simp [BitVec.ult_iff_lt, BitVec.lt_def, lt_iff_le_and_ne, hne]

theorem bitAt_toNat (x : Word) (i : Nat) : bitAt x.toNat i = x.getLsbD i := by
  rw [bitAt, BitVec.getLsbD, Nat.testBit_eq_decide_div_mod_eq]
  rfl

/-- R115: the count of leading zeros, from bit n down. -/
theorem clzAuxRec_eq_clzFrom (x : Word) (n : Nat) (hn : n < 64) :
    BitVec.clzAuxRec x n = BitVec.ofNat 64 (63 - n + clzFrom x.toNat (n + 1)) := by
  induction n with
  | zero =>
    rw [BitVec.clzAuxRec_zero, clzFrom, bitAt_toNat]
    split <;> rfl
  | succ n ih =>
    rw [BitVec.clzAuxRec_succ, clzFrom, bitAt_toNat, ih (by omega)]
    split
    · rfl
    · exact congrArg _ (by omega)

theorem clz_eq_clzFrom (x : Word) : x.clz = BitVec.ofNat 64 (clzFrom x.toNat 64) := by
  rw [BitVec.clz, clzAuxRec_eq_clzFrom x 63 (by omega)]
  exact congrArg _ (Nat.zero_add _)

/-- R115: the count of trailing zeros, from bit 63 − n up. -/
theorem clzAuxRec_reverse_eq_ctzFrom (x : Word) (n : Nat) (hn : n < 64) :
    BitVec.clzAuxRec x.reverse n = BitVec.ofNat 64 (63 - n + ctzFrom x.toNat (n + 1) (63 - n)) := by
  have hbit (i : Nat) (hi : i < 64) : x.reverse.getLsbD i = x.getLsbD (63 - i) := by
    rw [BitVec.getLsbD_reverse, BitVec.getMsbD]
    simp [hi]
  induction n with
  | zero =>
    rw [BitVec.clzAuxRec_zero, ctzFrom, bitAt_toNat, hbit 0 hn]
    split <;> rfl
  | succ n ih =>
    rw [BitVec.clzAuxRec_succ, ctzFrom, bitAt_toNat, ih (by omega), hbit _ hn]
    split
    · rfl
    · rw [show 63 - (n + 1) + 1 = 63 - n by omega]
      exact congrArg _ (by omega)

theorem ctz_eq_ctzFrom (x : Word) : x.ctz = BitVec.ofNat 64 (ctzFrom x.toNat 64 0) := by
  rw [BitVec.ctz, BitVec.clz, clzAuxRec_reverse_eq_ctzFrom x 63 (by omega)]
  exact congrArg _ (Nat.zero_add _)

/-- R115: the count of ones among the low n bits. -/
theorem cpopNatRec_eq_popFrom (x : Word) (n : Nat) : ∀ acc, x.cpopNatRec n acc = acc + popFrom x.toNat n := by
  induction n with
  | zero => exact fun _ => rfl
  | succ n ih =>
    intro acc
    rw [BitVec.cpopNatRec_succ, ih, popFrom, bitAt_toNat, ← Nat.add_assoc]
    cases x.getLsbD n <;> rfl

theorem cpop_eq_popFrom (x : Word) : x.cpop = BitVec.ofNat 64 (popFrom x.toNat 64) := by
  rw [BitVec.cpop, cpopNatRec_eq_popFrom]
  exact congrArg _ (Nat.zero_add _)

theorem truncate_eq_extractLsb' (x : Word) {n : Nat} (h : n ≤ 64) : (x.truncate n : BitVec n) = x.extractLsb' 0 n :=
  BitVec.setWidth_eq_extractLsb' h

/-- R116: the high half of the signed product. -/
theorem mulh_eq (x y : Word) :
    BitVec.ofInt 64 (x.toInt * y.toInt / 2 ^ 64) = (x.signExtend 128 * y.signExtend 128).extractLsb' 64 64 := by
  have hprod : x.signExtend 128 * y.signExtend 128 = BitVec.ofInt 128 (x.toInt * y.toInt) := (BitVec.ofInt_mul ..).symm
  rw [hprod]
  generalize x.toInt * y.toInt = p
  refine BitVec.eq_of_toNat_eq ?_
  rw [BitVec.extractLsb'_toNat, BitVec.toNat_ofInt, BitVec.toNat_ofInt, Nat.shiftRight_eq_div_pow]
  omega

/-- R116: the high half of the unsigned product. -/
theorem mulhu_eq (x y : Word) :
    BitVec.ofNat 64 (x.toNat * y.toNat / 2 ^ 64) = (x.zeroExtend 128 * y.zeroExtend 128).extractLsb' 64 64 := by
  have hlt : x.toNat * y.toNat < 2 ^ 128 := Nat.mul_lt_mul'' (c := 2 ^ 64) (d := 2 ^ 64) x.isLt y.isLt
  refine BitVec.eq_of_toNat_eq ?_
  rw [BitVec.extractLsb'_toNat, BitVec.toNat_mul, BitVec.toNat_setWidth_of_le (by decide), BitVec.toNat_setWidth_of_le (by decide),
    Nat.mod_eq_of_lt hlt, Nat.shiftRight_eq_div_pow, BitVec.toNat_ofNat]

/-- R116: the signed quotient; −2^63 by −1 gives −2^63. -/
theorem divS_eq (x y : Word) : divS x y = if y = 0#64 then BitVec.allOnes 64 else BitVec.ofInt 64 (x.toInt.tdiv y.toInt) := by
  refine ite_congr rfl (fun _ => rfl) fun _ => BitVec.eq_of_toInt_eq ?_
  rw [BitVec.toInt_sdiv, BitVec.toInt_ofInt]

theorem divU_eq (x y : Word) : divU x y = if y = 0#64 then BitVec.allOnes 64 else BitVec.ofNat 64 (x.toNat / y.toNat) := by
  refine ite_congr rfl (fun _ => rfl) fun _ => ?_
  rw [← BitVec.toNat_udiv, BitVec.ofNat_toNat, BitVec.setWidth_eq]

theorem remS_eq (x y : Word) : remS x y = if y = 0#64 then x else BitVec.ofInt 64 (x.toInt.tmod y.toInt) := by
  refine ite_congr rfl (fun _ => rfl) fun _ => ?_
  rw [← BitVec.toInt_srem, BitVec.ofInt_toInt]

theorem remU_eq (x y : Word) : remU x y = if y = 0#64 then x else BitVec.ofNat 64 (x.toNat % y.toNat) := by
  refine ite_congr rfl (fun _ => rfl) fun _ => ?_
  rw [← BitVec.toNat_umod, BitVec.ofNat_toNat, BitVec.setWidth_eq]

/-- R75: the bit length of a magnitude. -/
theorem bitLen_eq {m p : Nat} (hlt : m < 2 ^ p) (hle : p = 0 ∨ 2 ^ (p - 1) ≤ m) : bitLen m = p := by
  unfold bitLen
  rcases hle with rfl | hle
  · rw [if_pos (by omega)]
  · have hm : m ≠ 0 := by
      have := Nat.two_pow_pos (p - 1)
      omega
    have hp : p ≠ 0 := by
      rintro rfl
      omega
    rw [if_neg hm, (Nat.log2_eq_iff hm).2 ⟨hle, by rwa [Nat.sub_add_cancel (by omega)]⟩]
    omega

theorem divClocks_eq {m n p q : Nat} (hp : m < 2 ^ p ∧ (p = 0 ∨ 2 ^ (p - 1) ≤ m)) (hq : n < 2 ^ q ∧ (q = 0 ∨ 2 ^ (q - 1) ≤ n)) :
    divClocks m n = 8 + (min 64 (p + 1 - q) + 1) / 2 := by
  rw [divClocks, bitLen_eq hp.1 hp.2, bitLen_eq hq.1 hq.2]

/-- R75: the clocks n of a multiplication or a division of x by y. -/
def MulDivClocks (c : BitVec 8) (d a b : BitVec 5) (i : Instr) (x y : Word) (n : Nat) : Prop :=
  let long (m p : Nat) : Prop := m < 2 ^ p ∧ (p = 0 ∨ 2 ^ (p - 1) ≤ m)
  (i = .mul c d a b → n = 8) ∧ (i = .mulh c d a b → n = 10) ∧ ∀ p q,
    (i = .div c d a b ∨ i = .rem c d a b → long x.toInt.natAbs p → long y.toInt.natAbs q → n = 8 + (min 64 (p + 1 - q) + 1) / 2) ∧
    (i = .divu c d a b ∨ i = .remu c d a b → long x.toNat p → long y.toNat q → n = 8 + (min 64 (p + 1 - q) + 1) / 2)

/-- R75, R116: what each multiplication and division computes, and in how many clocks. -/
theorem exec_scalarMulDiv (c : BitVec 8) (d a b : BitVec 5) (s : State) : ∀ e ∈ scalarMulDiv c d a b, ∃ clocks : Word → Word → Nat,
    exec e.1 s = .next (issue c 4#18 [.s d, .s a, .s b] (fun t x s => retire s c.toNat t (putS x d (e.2 (getS x a) (getS x b)))
      (x.pc + 4#18) (clocks (getS x a) (getS x b))) s) ∧ ∀ x y, MulDivClocks c d a b e.1 x y (clocks x y) := by
  intro e he
  simp only [scalarMulDiv, ← mulh_eq, ← mulhu_eq, ← divS_eq, ← divU_eq, ← remS_eq, ← remU_eq, List.mem_cons, List.not_mem_nil,
    or_false] at he
  rcases he with rfl | rfl | rfl | rfl | rfl | rfl | rfl
  · exact ⟨fun _ _ => 8, rfl, fun x y => ⟨fun _ => rfl, nofun, fun p q => ⟨nofun, nofun⟩⟩⟩
  · exact ⟨fun _ _ => 10, rfl, fun x y => ⟨nofun, fun _ => rfl, fun p q => ⟨nofun, nofun⟩⟩⟩
  · exact ⟨fun _ _ => 10, rfl, fun x y => ⟨nofun, nofun, fun p q => ⟨nofun, nofun⟩⟩⟩
  · exact ⟨fun x y => divClocks x.toInt.natAbs y.toInt.natAbs, rfl, fun x y => ⟨nofun, nofun, fun p q => ⟨fun _ => divClocks_eq, nofun⟩⟩⟩
  · exact ⟨fun x y => divClocks x.toNat y.toNat, rfl, fun x y => ⟨nofun, nofun, fun p q => ⟨nofun, fun _ => divClocks_eq⟩⟩⟩
  · exact ⟨fun x y => divClocks x.toInt.natAbs y.toInt.natAbs, rfl, fun x y => ⟨nofun, nofun, fun p q => ⟨fun _ => divClocks_eq, nofun⟩⟩⟩
  · exact ⟨fun x y => divClocks x.toNat y.toNat, rfl, fun x y => ⟨nofun, nofun, fun p q => ⟨nofun, fun _ => divClocks_eq⟩⟩⟩

/-- R115: what each register form computes. -/
theorem exec_scalarRR (c : BitVec 8) (d a b : BitVec 5) (s : State) :
    ∀ e ∈ scalarRR c d a b, exec e.1 s = .next (aluRR c d a b 3 e.2 s) := by
  have alu {f g : Word → Word → Word} (h : ∀ x y, f x y = g x y) : aluRR c d a b 3 f s = aluRR c d a b 3 g s := by
    rw [funext₂ h]
  simp only [scalarRR, List.forall_mem_cons, List.not_mem_nil, IsEmpty.forall_iff, implies_true, and_true]
  exact ⟨rfl, rfl, rfl, rfl, rfl, rfl, rfl, rfl, rfl, congrArg _ (alu flagWord_slt), congrArg _ (alu flagWord_ult),
    congrArg _ (alu fun _ _ => ite_slt id), congrArg _ (alu fun _ _ => ite_slt Eq.symm), congrArg _ (alu fun _ _ => ite_ult id),
    congrArg _ (alu fun _ _ => ite_ult Eq.symm)⟩

/-- R115: what each form on one register computes. -/
theorem exec_scalarUnary (c : BitVec 8) (d a b : BitVec 5) (s : State) :
    ∀ e ∈ scalarUnary c d a b, exec e.1 s = .next (aluRI c d a 4#18 3 e.2 s) := by
  simp only [scalarUnary, List.forall_mem_cons, List.not_mem_nil, IsEmpty.forall_iff, implies_true, and_true, clz_eq_clzFrom,
    ctz_eq_ctzFrom, cpop_eq_popFrom, ← truncate_eq_extractLsb' _ (show 8 ≤ 64 by decide),
    ← truncate_eq_extractLsb' _ (show 16 ≤ 64 by decide), ← truncate_eq_extractLsb' _ (show 32 ≤ 64 by decide)]
  exact ⟨rfl, rfl, rfl, rfl, rfl, rfl⟩

/-- R115: what each immediate form computes. -/
theorem exec_scalarImm (c : BitVec 8) (d a : BitVec 5) (imm : BitVec 16) (s : State) :
    ∀ e ∈ scalarImm c d a imm, exec e.1 s = .next (aluRI c d a 4#18 3 e.2 s) := by
  simp only [scalarImm, List.forall_mem_cons, List.not_mem_nil, IsEmpty.forall_iff, implies_true, and_true, ← flagWord_slt,
    ← flagWord_ult]
  exact ⟨rfl, rfl, rfl, rfl, rfl, rfl⟩

/-- R117: LIH.L joins the low 44 bits of a register and 20 bits of its word. -/
theorem lihL_eq (x : Word) (lo : BitVec 32) : (x.truncate 44).zeroExtend 64 + ((lo.truncate 20).zeroExtend 64 <<< 44) =
    BitVec.ofNat 64 (x.toNat % 2 ^ 44 + lo.toNat % 2 ^ 20 * 2 ^ 44) := by
  refine BitVec.eq_of_toNat_eq ?_
  simp only [BitVec.toNat_add, BitVec.toNat_shiftLeft, BitVec.truncate_eq_setWidth, BitVec.toNat_setWidth, BitVec.toNat_ofNat,
    Nat.shiftLeft_eq]
  omega

/-- R117: what each long-immediate form computes. -/
theorem exec_scalarLong (c : BitVec 8) (d a : BitVec 5) (hi : BitVec 12) (lo : BitVec 32) (s : State) :
    ∀ e ∈ scalarLong c d a hi lo, exec e.1 s = .next (aluRI c d a 8#18 4 e.2 s) := by
  simp only [scalarLong, List.forall_mem_cons, List.not_mem_nil, IsEmpty.forall_iff, implies_true, and_true, ← imm44_eq, ← lihL_eq]
  exact ⟨rfl, rfl, rfl, rfl, rfl⟩

/-- R115: the kinds of SHI, by IMM16[7:6]. -/
theorem shiBy_eq (imm : BitVec 16) (x : Word) (h : imm.toNat < 256) : shiBy imm x =
    if imm.toNat < 64 then x <<< (imm.toNat % 64) else if imm.toNat < 128 then x >>> (imm.toNat % 64)
      else if imm.toNat < 192 then x.sshiftRight (imm.toNat % 64) else x.rotateRight (imm.toNat % 64) := by
  unfold shiBy
  dsimp only
  split_ifs with h0 h1 h2
  · rw [show imm.toNat / 64 % 4 = 0 by omega]
    rfl
  · rw [show imm.toNat / 64 % 4 = 1 by omega]
    rfl
  · rw [show imm.toNat / 64 % 4 = 2 by omega]
    rfl
  · rw [show imm.toNat / 64 % 4 = 3 by omega]
    rfl

/-- R115: SHI without reserved bits is an immediate form. -/
theorem exec_shi (c : BitVec 8) (d a : BitVec 5) (imm : BitVec 16) (s : State) (h : imm.toNat < 256) :
    exec (.shi c d a imm) s = .next (aluRI c d a 4#18 3 (shiBy imm) s) :=
  congrArg _ (if_pos (Nat.div_eq_of_lt h))

/-- R113: a one in SHI's reserved bits raises ILLOP. -/
theorem exec_shi_reserved (c : BitVec 8) (d a : BitVec 5) (imm : BitVec 16) (s : State) (t : Nat) (h : 256 ≤ imm.toNat)
    (hi : CanIssue s c t 4#18 []) : exec (.shi c d a imm) s = .next (illop s c.toNat t (thOf s c.toNat t) 4#18 3) := by
  refine congrArg _ ((if_neg ?_).trans (issue_of_canIssue _ _ _ _ _ _ hi))
  exact (Nat.div_pos h (by decide)).ne'

/-- R92: exception entry of a running thread, its posted stores drained first. -/
theorem enter_entersAt (s : State) (c t : Nat) (x : Thread) (cause : Nat) (addr : Word) (resume off : BitVec 18) (n : Nat) :
    ∃ s', enter s c t x cause addr resume off n = catchUp s' c ∧ EntersAt (coreOf s c) t x (thOf s' c t) cause addr resume off :=
  ⟨_, rfl, by rw [thOf_held]; exact entersAt_of_vecDone ..⟩

theorem scalarRegisterForms : ScalarRegisterForms := by
  intro c d a b s t h e he
  obtain ⟨s', hs, hgives⟩ := aluRR_completes h 3 e.2
  exact ⟨s', (exec_scalarRR c d a b s e he).trans (congrArg _ hs), hgives⟩

theorem scalarUnaryForms : ScalarUnaryForms := by
  intro c d a b s t h e he
  obtain ⟨s', hs, hgives⟩ := aluRI_completes h 3 e.2
  exact ⟨s', (exec_scalarUnary c d a b s e he).trans (congrArg _ hs), hgives⟩

theorem scalarLongForms : ScalarLongForms := by
  intro c d a hi lo s t h e he
  obtain ⟨s', hs, hgives⟩ := aluRI_completes h 4 e.2
  exact ⟨s', (exec_scalarLong c d a hi lo s e he).trans (congrArg _ hs), hgives⟩

theorem scalarImmediateForms : ScalarImmediateForms := by
  intro c d a imm s t h
  refine ⟨fun e he => ?_, fun himm => ?_, fun himm hx => ?_⟩
  · obtain ⟨s', hs, hgives⟩ := aluRI_completes h 3 e.2
    exact ⟨s', (exec_scalarImm c d a imm s e he).trans (congrArg _ hs), hgives⟩
  · obtain ⟨s', hs, hgives⟩ := aluRI_completes h 3 (shiBy imm)
    rw [shiBy_eq imm _ himm] at hgives
    exact ⟨s', (exec_shi c d a imm s himm).trans (congrArg _ hs), hgives⟩
  · obtain ⟨s', hs, henters⟩ := enter_entersAt s c.toNat t (thOf s c.toNat t) cIllop 0#64 (thOf s c.toNat t).pc 0#18 3
    have hillop : illop s c.toNat t (thOf s c.toNat t) 4#18 3 = catchUp s' c.toNat := by
      rw [illop, raise, hx, if_neg Bool.false_ne_true, hs]
    exact ⟨s', (exec_shi_reserved c d a imm s t himm (canIssue_of_subset h (List.nil_subset _))).trans (congrArg _ hillop), henters⟩

end Sys2Proof.Machine

open Sys2Proof Sys2Proof.Machine

/-- Settles O3: each instruction computes and takes the clocks as `exec_scalarMulDiv` says, and completes as `retire_wrote` says. -/
theorem scalarMulDiv : Obligations.ScalarMulDiv := by
  intro c d a b s t h e he
  obtain ⟨clocks, hexec, hclocks⟩ := exec_scalarMulDiv c d a b s e he
  rw [hexec, issue_of_canIssue _ _ _ _ _ _ h]
  obtain ⟨s', hret, hwrote, hdone⟩ := retire_wrote s c t d (e.2 (getS (thOf s c.toNat t) a) (getS (thOf s c.toNat t) b))
    ((thOf s c.toNat t).pc + 4#18) (clocks (getS (thOf s c.toNat t) a) (getS (thOf s c.toNat t) b))
  exact ⟨s', _, congrArg _ hret, hwrote, hdone, hclocks _ _⟩

/-- Settles O4: each form computes what its `exec_scalar…` lemma says and completes as `retire_wrote` says. -/
theorem scalarArithmetic : Obligations.ScalarArithmetic :=
  ⟨scalarRegisterForms, scalarUnaryForms, scalarImmediateForms, scalarLongForms⟩

end

section
/-!
SUPPORT. Control flow (O5): targets of transfers, branches, calls and returns, and fetches from outside a world's part.
-/

namespace Sys2Proof.Machine

/-- R120: the target of a transfer by the offset that a word of 18 bits stands for. -/
theorem relTarget_ofInt (pc : BitVec 18) (off : Int) :
    relTarget pc (BitVec.ofInt 18 off) = BitVec.ofInt 18 (pc.toNat + 4 * off) := by
  rw [relTarget, BitVec.ofInt_add, BitVec.ofInt_natCast, BitVec.ofNat_toNat, BitVec.setWidth_eq, Int.mul_comm, BitVec.ofInt_mul]
  rfl

/-- R120: a target modulo 2^18 takes the low 18 bits of its offset. -/
theorem truncate_eq_ofInt (off : BitVec 26) : (off.truncate 18 : BitVec 18) = BitVec.ofInt 18 off.toInt := by
  refine BitVec.eq_of_toNat_eq ?_
  rw [BitVec.truncate_eq_setWidth, BitVec.toNat_setWidth, BitVec.toNat_ofInt, BitVec.toInt_eq_toNat_cond]
  split <;> omega

theorem getLsbD_targetMask : ∀ i, i < 18 → (0x3FFFC#18).getLsbD i = decide (2 ≤ i) := by decide

/-- R121: bits 1 and 0 of an offset cleared. -/
theorem and_targetMask (w : BitVec 18) : w &&& 0x3FFFC#18 = (w >>> 2) <<< 2 := by
  refine BitVec.eq_of_getLsbD_eq fun i hi => ?_
  rw [BitVec.getLsbD_and, getLsbD_targetMask i hi, BitVec.getLsbD_shiftLeft, BitVec.getLsbD_ushiftRight]
  by_cases h : 2 ≤ i
  · simp [hi, h, Nat.add_sub_cancel' h, Nat.not_lt.2 h]
  · simp [h, Nat.lt_of_not_le h]

/-- R121: a register's target. -/
theorem regTarget_eq (v : Word) : regTarget v = BitVec.ofNat 18 (v.toNat % 2 ^ 18 / 4 * 4) := by
  refine BitVec.eq_of_toNat_eq ?_
  rw [regTarget, and_targetMask, BitVec.toNat_shiftLeft, BitVec.toNat_ushiftRight, BitVec.truncate_eq_setWidth, BitVec.toNat_setWidth,
    BitVec.toNat_ofNat, Nat.shiftLeft_eq, Nat.shiftRight_eq_div_pow]

/-- R120: what each branch tests. -/
theorem exec_scalarBranch (c : BitVec 8) (a b : BitVec 5) (off : BitVec 16) (s : State) : ∀ e ∈ scalarBranch c a b off,
    ∃ p : Word → Word → Bool, exec e.1 s = .next (branch c a b off p s) ∧ ∀ x y, p x y = true ↔ e.2 x y := by
  simp only [scalarBranch, List.forall_mem_cons, List.not_mem_nil, IsEmpty.forall_iff, implies_true, and_true]
  exact ⟨⟨_, rfl, fun _ _ => beq_iff_eq⟩, ⟨_, rfl, fun _ _ => bne_iff_ne⟩, ⟨_, rfl, fun _ _ => BitVec.slt_iff_toInt_lt⟩,
    ⟨_, rfl, fun _ _ => by simp [BitVec.slt]⟩, ⟨_, rfl, fun _ _ => by simp [BitVec.ult]⟩,
    ⟨_, rfl, fun _ _ => by simp [BitVec.ult]⟩⟩

theorem branches : Branches := by
  intro c a b off s t h e he
  obtain ⟨p, hexec, hp⟩ := exec_scalarBranch c a b off s e he
  rw [hexec, branch, issue_of_canIssue _ _ _ _ _ _ h, ← hp]
  rw [show off.signExtend 18 = BitVec.ofInt 18 off.toInt from rfl, relTarget_ofInt]
  obtain ⟨s', hret, hregs, hdone⟩ := retire_moved s c t
    (if p (getS (thOf s c.toNat t) a) (getS (thOf s c.toNat t) b) then BitVec.ofInt 18 ((thOf s c.toNat t).pc.toNat + 4 * off.toInt)
      else (thOf s c.toNat t).pc + 4#18) 3
  refine ⟨s', congrArg _ hret, hregs, fun hb => ?_, fun hb => ?_⟩
  · rwa [if_pos hb] at hdone
  · rwa [if_neg hb] at hdone

/-- R88, R120, R121: thread t has gone on to `pc` with the return stack `rs`. -/
def GoesTo (s : State) (c : BitVec 8) (t : Nat) (i : Instr) (rs : List (BitVec 18)) (pc : BitVec 18) : Prop :=
  ∃ s' st w, exec i s = .next (catchUp s' c.toNat) ∧
    thOf s' c.toNat t = { thOf s c.toNat t with rs := rs, pc := pc, icount := (thOf s c.toNat t).icount + 1, st := st, wait := w } ∧
    OnlyThread s s' c.toNat t ∧ (coreOf s' c.toNat).clk = (coreOf s c.toNat).clk + 3

theorem goesTo_of_retire {s : State} {c : BitVec 8} {t : Nat} {i : Instr} {rs : List (BitVec 18)} {pc : BitVec 18}
    (h : exec i s = .next (retire s c.toNat t { thOf s c.toNat t with rs := rs } pc 3)) : GoesTo s c t i rs pc := by
  obtain ⟨s', st, w, hret, hth, honly, hclk⟩ := retire_spec s c.toNat t { thOf s c.toNat t with rs := rs } pc 3
  exact ⟨s', st, w, h.trans (congrArg _ hret), hth, honly, hclk⟩

/-- R88: thread t has entered the exception of an instruction that left its return stack. -/
def FaultsWith (s : State) (c : BitVec 8) (t : Nat) (i : Instr) (cause : Nat) : Prop :=
  ∃ s', exec i s = .next (catchUp s' c.toNat) ∧
    EntersAt (coreOf s c.toNat) t (thOf s c.toNat t) (thOf s' c.toNat t) cause 0#64 (thOf s c.toNat t).pc 0#18 ∧ OnlyThread s s' c.toNat t

theorem faultsWith_of_raise {s : State} {c : BitVec 8} {t : Nat} {i : Instr} {cause : Nat} {onMask : State}
    (h : exec i s = .next (raise s c.toNat t (thOf s c.toNat t) cause 0#64 3 onMask)) (hx : (thOf s c.toNat t).exm = false)
    (hb : (thOf s c.toNat t).sb = []) : FaultsWith s c t i cause := by
  obtain ⟨s', henter, hat, honly⟩ := enter_drained s c.toNat t (thOf s c.toNat t) cause 0#64 (thOf s c.toNat t).pc 0#18 3 hb
  rw [raise, hx, if_neg Bool.false_ne_true, henter] at h
  exact ⟨s', h, hat, honly⟩

theorem rsLimit_eq (l : Level) : rsLimit l = if l = .U then 496 else 512 := by cases l <;> rfl

section

variable {c : BitVec 8} {s : State} {t : Nat}

/-- R88: a call below the level's limit. -/
theorem goesTo_of_call {i : Instr} {pc : BitVec 18} (h : exec i s = .next (call c.toNat t (thOf s c.toNat t) pc s))
    (hroom : (thOf s c.toNat t).rs.length < rsLimit (thOf s c.toNat t).lvl) :
    GoesTo s c t i (((thOf s c.toNat t).pc + 4#18) :: (thOf s c.toNat t).rs) pc := by
  rw [call, if_pos hroom] at h
  exact goesTo_of_retire h

/-- R88, R94: a call at the level's limit. -/
theorem faultsWith_of_call {i : Instr} {pc : BitVec 18} (h : exec i s = .next (call c.toNat t (thOf s c.toNat t) pc s))
    (hfull : rsLimit (thOf s c.toNat t).lvl ≤ (thOf s c.toNat t).rs.length) (hx : (thOf s c.toNat t).exm = false)
    (hb : (thOf s c.toNat t).sb = []) : FaultsWith s c t i cRsovf := by
  rw [call, if_neg (Nat.not_lt.2 hfull)] at h
  exact faultsWith_of_raise h hx hb

/-- R120, R121: what the jumps and calls do once issued. -/
theorem exec_jumps (off : BitVec 26) (a : BitVec 5) (h : CanIssue s c t 4#18 [.s a]) :
    let x := thOf s c.toNat t
    let rel : BitVec 18 := BitVec.ofInt 18 (x.pc.toNat + 4 * off.toInt)
    let reg : BitVec 18 := BitVec.ofNat 18 ((getS x a).toNat % 2 ^ 18 / 4 * 4)
    exec (.jmp c off) s = .next (retire s c.toNat t x rel 3) ∧ exec (.jmpr c a) s = .next (retire s c.toNat t x reg 3) ∧
      exec (.call c off) s = .next (call c.toNat t x rel s) ∧ exec (.callr c a) s = .next (call c.toNat t x reg s) := by
  dsimp only
  have hn := canIssue_of_subset h (List.nil_subset _)
  rw [← relTarget_ofInt, ← truncate_eq_ofInt, ← regTarget_eq]
  exact ⟨congrArg _ (issue_of_canIssue _ _ _ _ _ _ hn), congrArg _ (issue_of_canIssue _ _ _ _ _ _ h),
    congrArg _ (issue_of_canIssue _ _ _ _ _ _ hn), congrArg _ (issue_of_canIssue _ _ _ _ _ _ h)⟩

/-- R88, R94: what a return does once issued. -/
theorem exec_ret (h : CanIssue s c t 4#18 []) :
    (∀ top rest, (thOf s c.toNat t).rs = top :: rest →
      exec (.ret c) s = .next (retire s c.toNat t { thOf s c.toNat t with rs := rest } top 3)) ∧
    ((thOf s c.toNat t).rs = [] → exec (.ret c) s =
      .next (raise s c.toNat t (thOf s c.toNat t) cRsunf 0#64 3 (dropIt s c.toNat t (thOf s c.toNat t) 4#18 3))) := by
  refine ⟨fun top rest hrs => ?_, fun hrs => ?_⟩
  · refine congrArg _ ((issue_of_canIssue _ _ _ _ _ _ h).trans ?_)
    rw [hrs]
  · refine congrArg _ ((issue_of_canIssue _ _ _ _ _ _ h).trans ?_)
    rw [hrs]

end

theorem jumpsCallsReturns : JumpsCallsReturns := by
  intro c off a s t h
  obtain ⟨hjmp, hjmpr, hcall, hcallr⟩ := exec_jumps off a h
  obtain ⟨hret, hempty⟩ := exec_ret (canIssue_of_subset h (List.nil_subset _))
  intro x rel reg goes
  rw [← rsLimit_eq x.lvl]
  refine ⟨goesTo_of_retire hjmp, goesTo_of_retire hjmpr, fun hroom => ⟨goesTo_of_call hcall hroom, goesTo_of_call hcallr hroom⟩,
    fun top rest hrs => goesTo_of_retire (hret top rest hrs), fun hfull hx hb => ?_, fun hrs hx hb => ?_⟩
  · simp only [List.forall_mem_cons, List.not_mem_nil, IsEmpty.forall_iff, implies_true, and_true]
    exact ⟨faultsWith_of_call hcall hfull hx hb, faultsWith_of_call hcallr hfull hx hb⟩
  · exact faultsWith_of_raise (hempty hrs) hx hb

/-- R87: an instruction whose fetch lies outside the world's part. -/
theorem issue_of_outside (c : BitVec 8) (len : BitVec 18) (regs : List Reg) (body : Nat → Thread → State → State) (s : State) (t : Nat)
    (hrun : running s c.toNat = some t) (hv : vecMayFault (coreOf s c.toNat) t = false)
    (hout : inPart (coreOf s c.toNat) (worldOf (coreOf s c.toNat) t) (thOf s c.toNat t).pc = false) :
    issue c len regs body s = fetchFault s c.toNat t (thOf s c.toNat t) (thOf s c.toNat t).pc := by
  unfold thOf at hout
  unfold issue thOf
  simp [hrun, hv, hout]

/-- R87, R94: what a fetch from outside the part does. -/
theorem fetchFault_spec (s : State) (c t : Nat) (off : BitVec 18) : let x := thOf s c t
    ∃ s', fetchFault s c t x off = catchUp s' c ∧
      (x.exm = false → EntersAt (coreOf s c) t x (thOf s' c t) 0x01 (off.zeroExtend 64) x.pc 0#18) ∧
      (x.exm = true → (thOf s' c t).st = .stopped ∧ (thOf s' c t).pc = x.pc ∧ (thOf s' c t).s = x.s ∧
        (thOf s' c t).xdrop.toNat = min (x.xdrop.toNat + 1) 0xFFFFFFFF ∧
        s'.memsys.errlog = (1, c * 8 + t) :: s.memsys.errlog ∧ SameMemory s s') := by
  dsimp only
  unfold fetchFault raise
  cases hx : (thOf s c t).exm with
  | false =>
    obtain ⟨s', henter, hat⟩ := enter_entersAt s c t (thOf s c t) cSegf (off.zeroExtend 64) (thOf s c t).pc 0#18 0
    exact ⟨s', henter, fun _ => hat, nofun⟩
  | true =>
    refine ⟨_, rfl, nofun, fun _ => ?_⟩
    rw [thOf_held]
    refine ⟨rfl, rfl, rfl, addDrop_one_xdrop _, ?_, ?_⟩
    · cases worldOf (coreOf s c) t <;> rfl
    · cases worldOf (coreOf s c) t <;> exact ⟨rfl, rfl⟩

theorem fetchOutsidePart : FetchOutsidePart := by
  intro c n d a b o16 o26 s t hrun hv hout x i hi
  have hissues : ∀ i ∈ [Instr.add c d a b, .addi c d a o16, .beq c a b o16, .jmp c o26, .ret c, .fence c, .trap c n 0#18],
      ∃ len regs body, exec i s = .next (issue c len regs body s) := by
    simp only [List.forall_mem_cons, List.not_mem_nil, IsEmpty.forall_iff, implies_true, and_true]
    exact ⟨⟨_, _, _, rfl⟩, ⟨_, _, _, rfl⟩, ⟨_, _, _, rfl⟩, ⟨_, _, _, rfl⟩, ⟨_, _, _, rfl⟩, ⟨_, _, _, rfl⟩, ⟨_, _, _, rfl⟩⟩
  obtain ⟨len, regs, body, hexec⟩ := hissues i hi
  obtain ⟨s', hfault, hunmasked, hmasked⟩ := fetchFault_spec s c.toNat t x.pc
  refine ⟨s', ?_, fun hx _ => hunmasked hx, hmasked⟩
  rw [hexec, issue_of_outside c len regs body s t hrun hv hout, hfault]

end Sys2Proof.Machine

open Sys2Proof Sys2Proof.Machine

/-- Settles O5: branches, jumps, calls and returns by what they leave as they complete, fetches from outside by `fetchFault_spec`. -/
theorem controlFlow : Obligations.ControlFlow := ⟨branches, jumpsCallsReturns, fetchOutsidePart⟩

end

section
/-!
SUPPORT. The extension block (O33): requests that wait in the port, replies in time and late ones, and timeouts.
-/

namespace Sys2Proof.Machine

/-- R481: over a link that is not UP no request leaves the port. -/
theorem extPump_of_not_up (e : ExtLink) (rq : ExtReq) (he : e.st ≠ .up) (w : List ExtReq) :
    (extPump { e with waiting := w ++ [rq], outst := e.outst ++ [rq] }) = { e with waiting := w ++ [rq], outst := e.outst ++ [rq] } := by
  have hst : (e.st == .up) = false := beq_eq_false_iff_ne.2 he
  unfold extPump
  cases w <;> simp [extPumpList, hst]

/-- R76: a waiting instruction completes outside its thread's turn. -/
theorem thOf_wake_finishWait (s : State) (c t : Nat) (x : Thread) (pc : BitVec 18) :
    thOf (wake (finishWait s c t x pc) c) c t = { x with pc := pc, icount := x.icount + 1, st := .ready, wait := .none } := by
  have hth : thOf (finishWait s c t x pc) c t = { x with pc := pc, icount := x.icount + 1, st := .ready, wait := .none } := by
    unfold finishWait putTh thOf threadOf
    rw [coreOf_setCore, settle_th]
    exact tabGet_tabSet_same ..
  rw [thOf_wake_of_not_waiting _ c t (by rw [hth]; exact nofun), hth]

/-- R137: the request of an extension instruction that nothing holds up. -/
def extRequest (c : BitVec 8) (maj2 : BitVec 2) (a b : BitVec 5) (xfunc : BitVec 11) (s : State) (t : Nat) : ExtReq :=
  { func := (maj2 ++ xfunc : BitVec 13), opa := getS (thOf s c.toNat t) a, opb := getS (thOf s c.toNat t) b, core := c,
    thread := BitVec.ofNat 3 t, world := worldOf (coreOf s c.toNat) t, seq := (thOf s c.toNat t).extSeq,
    replay := extResend s c.toNat t (thOf s c.toNat t) }

/-- R137, R138: an extension instruction whose request goes into the port of a link that is not UP. -/
theorem exec_extension_request {c : BitVec 8} {maj2 : BitVec 2} {d a b : BitVec 5} {xfunc : BitVec 11} {s : State} {t : Nat}
    (hreplay : s.steep.replay = []) (h : CanIssue s c t 4#18 [.s d, .s a, .s b]) (hdev : s.boot.devEn.getLsbD 14 = true)
    (hen : extEnabled (coreOf s c.toNat) (worldOf (coreOf s c.toNat) t) = true) (hport : (thOf s c.toNat t).xlPort = [])
    (hroom : outstanding (coreOf s c.toNat) < 64) (hlink : s.board.ext.st ≠ .up) :
    exec (.extensionInstruction c maj2 d a b xfunc) s = .next (goWait
      { setExt s { s.board.ext with
          waiting := s.board.ext.waiting ++ [extRequest c maj2 a b xfunc s t]
          outst := s.board.ext.outst ++ [extRequest c maj2 a b xfunc s t] } with
        steep := { s.steep with extAgain := s.steep.extAgain.filter fun n => n != c.toNat * 8 + t } } c.toNat t
      (markBusy { thOf s c.toNat t with extSeq := (thOf s c.toNat t).extSeq + 1#8 } (.s d))
      (.reply (.ext d (thOf s c.toNat t).extSeq (s.time + 1000 * extTmo (coreOf s c.toNat) (worldOf (coreOf s c.toNat) t)))) 2) := by
  refine congrArg _ ((issue_of_canIssue _ _ _ _ _ _ h).trans ?_)
  have hlogged : extLogged s c.toNat t (thOf s c.toNat t).extSeq = none := by
    unfold extLogged
    rw [hreplay]
    rfl
  dsimp only
  rw [hdev, hen, hport, hlogged, if_neg (by decide), if_neg (by decide)]
  dsimp only
  rw [if_neg (by simpa using hroom), extPump_of_not_up _ _ hlink]
  rfl

/-- R138: an extension instruction with EXT_EN or the core's enable clear. -/
theorem exec_extension_disabled {c : BitVec 8} {maj2 : BitVec 2} {d a b : BitVec 5} {xfunc : BitVec 11} {s : State} {t : Nat}
    (h : CanIssue s c t 4#18 [.s d, .s a, .s b])
    (hoff : s.boot.devEn.getLsbD 14 = false ∨ extEnabled (coreOf s c.toNat) (worldOf (coreOf s c.toNat) t) = false) :
    exec (.extensionInstruction c maj2 d a b xfunc) s = .next (illop s c.toNat t (thOf s c.toNat t) 4#18 2) := by
  refine congrArg _ ((issue_of_canIssue _ _ _ _ _ _ h).trans (if_pos ?_))
  rcases hoff with hoff | hoff <;> rw [hoff]
  · rfl
  · exact Bool.or_true _

/-- R140: what the move of a late reply leaves of a thread. -/
theorem moveLate_eq (x : Thread) : ∃ q v b l, moveLate x = { x with xlSeq := q, xlateV := v, xlValid := b, xlPort := l } := by
  unfold moveLate
  split
  · split <;> exact ⟨_, _, _, _, rfl⟩
  · exact ⟨_, _, _, _, rfl⟩

/-- R140: while VALID is 1 no late reply moves. -/
theorem moveLate_of_valid {x : Thread} (h : x.xlValid = true) : moveLate x = x := by
  unfold moveLate
  split
  · exact if_pos h
  · rfl

/-- R140: while VALID is 0 the oldest late reply moves. -/
theorem moveLate_of_invalid {x : Thread} {q : BitVec 8} {v : Word} {more : List (BitVec 8 × Word)} (hp : x.xlPort = (q, v) :: more)
    (h : x.xlValid = false) : moveLate x = { x with xlSeq := q, xlateV := v, xlValid := true, xlPort := more } := by
  unfold moveLate
  rw [hp]
  exact if_neg (ne_true_of_eq_false h)

/-- R140: clearing VALID lets the oldest late reply in. -/
theorem clearXlate_of_port {x : Thread} {q : BitVec 8} {v : Word} {more : List (BitVec 8 × Word)} (hp : x.xlPort = (q, v) :: more) :
    clearXlate x = { x with xlSeq := q, xlateV := v, xlValid := true, xlPort := more } :=
  moveLate_of_invalid (x := { x with xlValid := false }) hp rfl

theorem markBusy_extSeq (x : Thread) (r : Reg) : (markBusy x r).extSeq = x.extSeq := by
  unfold markBusy
  split
  · split <;> rfl
  · rfl
  · rfl

theorem clearBusy_extLate (x : Thread) (r : Reg) : (clearBusy x r).extLate = x.extLate := by cases r <;> rfl

theorem putS_extLate (x : Thread) (d : BitVec 5) (v : Word) : (putS x d v).extLate = x.extLate := by unfold putS; split <;> rfl

/-- R94, R139: a timeout with exceptions masked: the instruction completes with zero, and its late reply is awaited. -/
theorem extTimeout_masked {s : State} {c t : Nat} {d : BitVec 5} {q : BitVec 8} (hx : (thOf s c t).exm = true) :
    (thOf (extTimeout s c t d q) c t).st = .ready ∧ Wrote (thOf s c t) (thOf (extTimeout s c t d q) c t) d 0#64 ∧
      (thOf (extTimeout s c t d q) c t).extLate = (thOf s c t).extLate ++ [q] ∧ SameMemory s (extTimeout s c t d q) := by
  unfold extTimeout
  dsimp only
  rw [if_pos hx, thOf_wake_finishWait]
  have hmem := replyOnly_sameMemory (replyOnly_outcome s 7 [c, t, q.toNat, 1] (b2w (thOf s c t).exm))
  refine ⟨rfl, wrote_of_regs d _ ?_, ?_, sameMemory_trans hmem ?_⟩
  · show (clearBusy _ _).s = _
    rw [clearBusy_s]
    unfold putS
    split <;> rfl
  · show (clearBusy _ _).extLate = _
    rw [clearBusy_extLate, putS_extLate]
    rfl
  · exact sameMemory_setDropped ..

/-- R99: an extension instruction's wait given up. -/
theorem abandonWait_ext {s : State} {c t dl : Nat} {d : BitVec 5} {q : BitVec 8} (hw : (thOf s c t).wait = .reply (.ext d q dl)) :
    ∃ y, EntryKept (thOf s c t) y ∧ abandonWait s c t = setTh (orphan s c t) c t y := by
  refine ⟨{ clearBusy (thOf s c t) (.s d) with wait := .none }, entryKept_clearBusy .., ?_⟩
  unfold abandonWait
  dsimp only
  rw [hw]
  rfl

/-- R92, R99: the exception of an extension instruction's wait given up. -/
theorem asyncEnter_ext {s : State} {c t cause dl : Nat} {d : BitVec 5} {q : BitVec 8} {off : BitVec 18}
    (hw : (thOf s c t).wait = .reply (.ext d q dl)) :
    EntersAt (coreOf s c) t (thOf s c t) (thOf (wake (asyncEnter s c t cause off) c) c t) cause 0#64 (thOf s c t).pc off := by
  obtain ⟨y, hk, habandon⟩ := abandonWait_ext hw
  have hcore : coreOf (setTh (orphan s c t) c t y) c = { coreOf s c with th := tabSet (coreOf s c).th t y } := coreOf_setCore ..
  obtain ⟨-, -, -, -, -, -, -, hpc, -⟩ := id hk
  unfold asyncEnter
  dsimp only
  rw [habandon, thOf_wake_enterOutside]
  obtain ⟨_, _, _, _, _, _, -, hth⟩ := enterOutside_core (setTh (orphan s c t) c t y) c t cause 0#64
    (thOf (setTh (orphan s c t) c t y) c t).pc off
  rw [hth, thOf_setTh, hpc, hcore]
  exact entersAt_of_kept (coreOf s c) t hk cause 0#64 (thOf s c t).pc off

/-- R94, R139: a timeout with exceptions enabled: EXTTO at the instruction. -/
theorem extTimeout_unmasked {s : State} {c t dl : Nat} {d : BitVec 5} {q : BitVec 8} (hreplay : s.steep.replay = [])
    (hw : (thOf s c t).wait = .reply (.ext d q dl)) (hx : (thOf s c t).exm = false) :
    EntersAt (coreOf s c) t (thOf s c t) (thOf (extTimeout s c t d q) c t) 0x07 0#64 (thOf s c t).pc 0#18 := by
  obtain ⟨st, -, ho⟩ := outcome_eq_of_no_replay s 7 [c, t, q.toNat, 1] (b2w (thOf s c t).exm) hreplay
  unfold extTimeout
  dsimp only
  rw [ho, if_neg (ne_true_of_eq_false hx)]
  dsimp only
  generalize hy : ({ thOf s c t with extLate := (thOf s c t).extLate ++ [q] } : Thread) = y
  generalize hs1 : setTh { s with steep := st } c t y = s1
  have hth : thOf s1 c t = y := by rw [← hs1, thOf_setTh]
  have hcore : coreOf s1 c = { coreOf s c with th := tabSet (coreOf s c).th t y } := by
    rw [← hs1, setTh, coreOf_setCore]
    rfl
  have hat := asyncEnter_ext (s := s1) (cause := cExtto) (off := 0#18) (by rw [hth, ← hy]; exact hw)
  rw [hth, hcore] at hat
  subst hy
  exact hat

/-- R137, R140: a reply whose request has timed out. -/
theorem lateReply_eq {s : State} {c t : Nat} {seq : BitVec 8} (v : Word) (h : seq ∈ (thOf s c t).extLate) : ∃ e,
    lateReply s c t seq v = setTh (setExt s e) c t (moveLate { thOf s c t with
      extLate := (thOf s c t).extLate.erase seq, xlPort := (thOf s c t).xlPort ++ [(seq, v)] }) :=
  ⟨_, if_pos (List.contains_iff_mem.2 h)⟩

theorem thOf_lateReply {s : State} {c t : Nat} {seq : BitVec 8} (v : Word) (h : seq ∈ (thOf s c t).extLate) :
    thOf (lateReply s c t seq v) c t = moveLate { thOf s c t with
      extLate := (thOf s c t).extLate.erase seq, xlPort := (thOf s c t).xlPort ++ [(seq, v)] } := by
  obtain ⟨e, he⟩ := lateReply_eq v h
  rw [he, thOf_setTh]

theorem sameMemory_lateReply {s : State} {c t : Nat} {seq : BitVec 8} {v : Word} (h : seq ∈ (thOf s c t).extLate) :
    SameMemory s (lateReply s c t seq v) := by
  obtain ⟨e, he⟩ := lateReply_eq v h
  rw [he]
  exact sameMemory_rfl s

/-- R140: what software reads of its late replies. -/
def XlateKept (x y : Thread) : Prop := y.xlSeq = x.xlSeq ∧ y.xlateV = x.xlateV ∧ y.xlValid = x.xlValid ∧ y.xlPort = x.xlPort

/-- A thread that wakes has the late replies that it waited with. -/
theorem xlateKept_wake (s : State) (c t : Nat) : XlateKept (thOf s c t) (thOf (wake s c) c t) := by
  obtain ⟨_, _, h⟩ := wake_eq s c
  unfold thOf threadOf
  rw [h, coreOf_setCore, tabGet_tabMap _ _ _ _ rfl]
  split
  · unfold awakened
    split <;> exact ⟨rfl, rfl, rfl, rfl⟩
  · exact ⟨rfl, rfl, rfl, rfl⟩

section

variable {c : BitVec 8} {r : BitVec 3} {s : State} {q : BitVec 5} {seq : BitVec 8} {dl : Nat}

/-- R137, R139: the reply that comes in time. -/
theorem exec_extReply_inTime (v : Word) (hreplay : s.steep.replay = [])
    (hw : (thOf s c.toNat r.toNat).wait = .reply (.ext q seq dl)) (hdl : s.time ≤ dl) :
    ∃ s', exec (.extReply c r seq v) s = .next s' ∧ SameMemory s s' ∧ thOf s' c.toNat r.toNat =
      { clearBusy (putS (thOf s c.toNat r.toNat) q v) (.s q) with
        pc := (thOf s c.toNat r.toNat).pc + 4#18, icount := (clearBusy (putS (thOf s c.toNat r.toNat) q v) (.s q)).icount + 1,
        st := .ready, wait := .none } := by
  generalize he : setExt s { s.board.ext with
    outst := s.board.ext.outst.filter fun m => !(extMatches c.toNat r.toNat seq m) } = s1
  obtain ⟨st, -, ho⟩ := outcome_eq_of_no_replay s1 7 [c.toNat, r.toNat, seq.toNat] v (by rw [← he]; exact hreplay)
  have hexec : exec (.extReply c r seq v) s = .next (wake (finishWait { s1 with steep := st } c.toNat r.toNat
      (clearBusy (putS (thOf s c.toNat r.toNat) q v) (.s q)) ((thOf s c.toNat r.toNat).pc + 4#18)) c.toNat) := by
    show execExtReply c r seq v s = _
    unfold execExtReply
    dsimp only
    rw [hw]
    dsimp only
    rw [if_neg (by simp), if_neg (Nat.not_lt.2 hdl), he, ho]
  refine ⟨_, hexec, ?_, thOf_wake_finishWait ..⟩
  rw [← he]
  exact sameMemory_rfl s

/-- R139, R140: the reply that comes past the deadline, with exceptions masked. -/
theorem exec_extReply_late (v : Word) (hw : (thOf s c.toNat r.toNat).wait = .reply (.ext q seq dl))
    (hdl : dl < s.time) : exec (.extReply c r seq v) s =
      .next (lateReply (extTimeout s c.toNat r.toNat q seq) c.toNat r.toNat seq v) := by
  show execExtReply c r seq v s = _
  unfold execExtReply
  dsimp only
  rw [hw]
  dsimp only
  rw [if_neg (by simp), if_pos hdl]

/-- R139: TIME reaches the deadline. -/
theorem exec_extto (now : Word) (hw : (thOf s c.toNat r.toNat).wait = .reply (.ext q seq dl)) (hdl : dl ≤ max s.time now.toNat) :
    exec (.extto c r now) s = .next (extTimeout { s with time := max s.time now.toNat } c.toNat r.toNat q seq) := by
  show execExtto c r now s = _
  unfold execExtto
  extract_lets s0
  have hw0 : (thOf s0 c.toNat r.toNat).wait = .reply (.ext q seq dl) := hw
  rw [hw0]
  exact congrArg _ (if_pos hdl)

end

end Sys2Proof.Machine

open Sys2Proof Sys2Proof.Machine

/-- Settles O33: requests and refusals at issue, replies in time, timeouts with exceptions masked and enabled, and the moves of late
replies, each by its lemma above. -/
theorem extensionBlock : Obligations.ExtensionBlock := by
  intro c maj2 d a b xfunc s t hreplay
  refine ⟨fun hissue => ?_, fun r v now seq q dl => ?_⟩
  · intro x k w
    refine ⟨fun hdev hen hport hroom hlink => ?_, fun hoff hx hb => ?_⟩
    · obtain ⟨s', hwait, hth, hrest, -⟩ := goWait_spec _ c.toNat t _ _ 2
      refine ⟨s', extRequest c maj2 a b xfunc s t, (exec_extension_request hreplay hissue hdev hen hport hroom hlink).trans
        (congrArg _ hwait), ?_⟩
      rw [hth, hrest]
      refine ⟨rfl, rfl, rfl, rfl, rfl, rfl, BitVec.toNat_ofNat .., rfl, rfl, fun hagain => ?_, rfl, rfl, ?_, sameMemory_rfl s⟩
      · unfold extRequest extResend
        rw [hagain]
        rfl
      · exact markBusy_extSeq ..
    · obtain ⟨s', hill, hat, -⟩ := illop_spec s c.toNat t x 4#18 2 hb
      exact ⟨s', (exec_extension_disabled hissue hoff).trans (congrArg _ hill), (hat hx).1⟩
  · intro x
    refine ⟨fun hw hdl => ?_, fun hw hx hdl => ?_, fun hw hx hdl => ?_, fun hw hx _ hdl => ?_, fun hlate hport => ?_, ?_⟩
    · obtain ⟨s', hexec, hmem, hth⟩ := exec_extReply_inTime v hreplay hw hdl
      refine ⟨s', hexec, ?_, wrote_of_regs q v ?_, ?_, hmem⟩
      all_goals rw [hth]
      exact clearBusy_s ..
    · obtain ⟨hst, hwrote, hlate, hmem⟩ := extTimeout_masked (d := q) (q := seq) hx
      have hmem' : seq ∈ (thOf (extTimeout s c.toNat r.toNat q seq) c.toNat r.toNat).extLate := by
        rw [hlate]
        exact List.mem_append_right _ (List.mem_singleton_self _)
      refine ⟨_, exec_extReply_late v hw hdl, ?_⟩
      rw [thOf_lateReply v hmem']
      obtain ⟨_, _, _, _, hmove⟩ := moveLate_eq { thOf (extTimeout s c.toNat r.toNat q seq) c.toNat r.toNat with
        extLate := (thOf (extTimeout s c.toNat r.toNat q seq) c.toNat r.toNat).extLate.erase seq,
        xlPort := (thOf (extTimeout s c.toNat r.toNat q seq) c.toNat r.toNat).xlPort ++ [(seq, v)] }
      rw [hmove]
      exact ⟨hst, hwrote, sameMemory_trans hmem (sameMemory_lateReply hmem')⟩
    · exact ⟨_, exec_extto now hw hdl, extTimeout_masked (s := { s with time := max s.time now.toNat }) hx⟩
    · exact ⟨_, exec_extto now hw hdl, extTimeout_unmasked (s := { s with time := max s.time now.toNat }) hreplay hw hx⟩
    · refine ⟨_, rfl, ?_⟩
      rw [thOf_lateReply v hlate, hport]
      refine ⟨fun hvalid => ?_, fun hvalid => ?_⟩
      · rw [moveLate_of_invalid (q := seq) (v := v) (more := [])]
        exacts [⟨rfl, rfl, rfl, rfl⟩, rfl, hvalid]
      · rw [moveLate_of_valid]
        exacts [⟨rfl, rfl⟩, hvalid]
    · have hregs := regsKept_wake (setTh s c.toNat r.toNat (clearXlate x)) c.toNat r.toNat
      obtain ⟨hseq, hval, hvalid, hport⟩ := xlateKept_wake (setTh s c.toNat r.toNat (clearXlate x)) c.toNat r.toNat
      rw [thOf_setTh] at hregs hseq hval hvalid hport
      refine ⟨_, rfl, ?_, sameMemory_rfl s, fun hnone => ?_, fun q v more hmore => ?_⟩
      · obtain ⟨_, _, _, _, hmove⟩ := moveLate_eq { x with xlValid := false }
        exact hregs.s.trans (by rw [clearXlate, hmove])
      · refine hvalid.trans ?_
        rw [clearXlate, moveLate, hnone]
      · have hclear := clearXlate_of_port hmore
        exact ⟨hvalid.trans (congrArg Thread.xlValid hclear), hseq.trans (congrArg Thread.xlSeq hclear),
          hval.trans (congrArg Thread.xlateV hclear), hport.trans (congrArg Thread.xlPort hclear)⟩

end

section
/-!
SUPPORT. STEEP (O14): a thread that reaches a steep point with a declaration latched.
-/

namespace Sys2Proof.Machine

theorem mem_tabSet {α : Type} (l : Tab α) (k : Nat) (v : α) : (k, v) ∈ tabSet l k v := by
  induction l with
  | nil => exact List.mem_singleton_self _
  | cons e l ih =>
    unfold tabSet
    split_ifs
    · exact List.mem_cons_self
    · exact List.mem_cons_self
    · exact List.mem_cons_of_mem _ ih

/-- R395: a thread whose declaration is latched parks after the STEEP, or waits at it for its core's units. -/
theorem parkOr_spec (s : State) (c t : Nat) (x : Thread) : ∃ s', parkOr s c t x = catchUp s' c ∧ OnlyThread s s' c t ∧
    (unitsEmpty (coreOf s c) = true →
      thOf s' c t = { x with pc := x.pc + 4#18, icount := x.icount + 1, st := .waiting, wait := .parked }) ∧
    (unitsEmpty (coreOf s c) = false → thOf s' c t = { x with st := .waiting, wait := .unit }) := by
  unfold parkOr
  cases hu : unitsEmpty (coreOf s c) with
  | true => exact ⟨_, rfl, onlyThread_held .., fun _ => thOf_held .., nofun⟩
  | false => exact ⟨_, rfl, onlyThread_held .., nofun, fun _ => thOf_held ..⟩

section

variable {c : BitVec 8} {d a : BitVec 5} {imm : BitVec 16} {s : State} {t : Nat}

/-- R124: a STEEP that names a destination. -/
theorem exec_steep_reserved (h : CanIssue s c t 4#18 [.s a]) (hd : d ≠ 0#5) :
    exec (.steep c d a imm) s = .next (illop s c.toNat t (thOf s c.toNat t) 4#18 2) :=
  congrArg _ ((issue_of_canIssue _ _ _ _ _ _ h).trans (if_pos (bne_iff_ne.2 hd)))

/-- R124: a STEEP that names none. -/
theorem exec_steep (h : CanIssue s c t 4#18 [.s a]) : exec (.steep c 0#5 a imm) s =
    .next (if (coreOf s c.toNat).ilv || !s.steep.pending then
        retire s c.toNat t (thOf s c.toNat t) ((thOf s c.toNat t).pc + 4#18) 2
      else if s.steep.decls.any fun e => e.1 == c.toNat * 8 + t then parkOr s c.toNat t (thOf s c.toNat t)
      else match readDecl s c.toNat t (getS (thOf s c.toNat t) a).toNat with
        | .error (cause, va) => raise s c.toNat t (thOf s c.toNat t) cause (BitVec.ofNat 64 va) 2
            (dropIt s c.toNat t (thOf s c.toNat t) 4#18 2)
        | .ok none => illop s c.toNat t (thOf s c.toNat t) 4#18 2
        | .ok (some dc) =>
          if decide (512 * 1024 < declBytes (coreOf s c.toNat) (dc :: latched s c.toNat)) then
            illop s c.toNat t (thOf s c.toNat t) 4#18 2
          else parkOr (latchDecl s (c.toNat * 8 + t) imm.toNat dc) c.toNat t (thOf s c.toNat t)) :=
  congrArg _ (issue_of_canIssue _ _ _ _ _ _ h)

end

end Sys2Proof.Machine

open Sys2Proof Sys2Proof.Machine

/-- Settles O14: each case of a STEEP as `exec_steep` gives it, and a thread that parks or waits by `parkOr_spec`. -/
theorem steepPoint : Obligations.SteepPoint := by
  intro c d a imm s t h x parked
  refine ⟨?_, fun hd hx hb => ?_, ?_, ?_⟩
  · rintro rfl hidle
    obtain ⟨s', hret, hs, hdone⟩ := retire_moved s c t (x.pc + 4#18) 2
    refine ⟨s', ?_, hs, fun _ => hdone⟩
    rw [exec_steep h, if_pos ?_, hret]
    rcases hidle with hidle | hidle <;> simp [hidle]
  · obtain ⟨s', hill, hat, -⟩ := illop_spec s c.toNat t x 4#18 2 hb
    exact ⟨s', (exec_steep_reserved h hd).trans (congrArg _ hill), (hat hx).1⟩
  · rintro rfl hilv hpending ⟨dc, hdc⟩ hunits
    obtain ⟨s', hpark, honly, hparked, -⟩ := parkOr_spec s c.toNat t x
    have hlatched : (s.steep.decls.any fun e => e.1 == c.toNat * 8 + t) = true := List.any_eq_true.2 ⟨_, hdc, beq_self_eq_true _⟩
    refine ⟨s', ?_, hparked hunits, honly⟩
    rw [exec_steep h, if_neg (by simp [hilv, hpending]), if_pos hlatched, hpark]
  · rintro dc rfl hilv hpending hnone hread hfits
    obtain ⟨s', hpark, honly, hth⟩ := parkOr_spec (latchDecl s (c.toNat * 8 + t) imm.toNat dc) c.toNat t x
    have hlatched : ¬ (s.steep.decls.any fun e => e.1 == c.toNat * 8 + t) = true := by
      simpa using fun dc hdc => hnone (_, dc) hdc rfl
    obtain ⟨hrest, -⟩ := id honly
    refine ⟨s', ?_, ?_, ?_, honly.sameMemory, hth⟩
    · rw [exec_steep h, if_neg (by simp [hilv, hpending]), if_neg hlatched, hread]
      exact congrArg _ ((if_neg (by simpa using hfits)).trans hpark)
    · rw [hrest]
      exact mem_tabSet ..
    · rw [hrest]
      rfl

end

section
/-!
SUPPORT. Operations on sync objects (O13): what an update leaves of the logs of replay, what a barrier's arrival leaves in its object,
and how an operation of a thread on an object of this device is answered.
-/

namespace Sys2Proof.Machine

/-- R403, R408: outside replay no outcome is recorded yet to be replayed. -/
def ReplayKept (s s' : State) : Prop := s.steep.replay = [] → s'.steep.replay = []

theorem replayKept_rfl (s : State) : ReplayKept s s := id

theorem replayKept_trans {a b d : State} (h : ReplayKept a b) (g : ReplayKept b d) : ReplayKept a d := g ∘ h

theorem replayKept_outcome (s : State) (ty : Nat) (key : List Nat) (v : Word) : ReplayKept s (outcome s ty key v).2 := by
  intro h
  obtain ⟨st, hst, ho⟩ := outcome_eq_of_no_replay s ty key v h
  rw [ho]
  exact hst

theorem replayKept_emit (s : State) (inn : Option Nat) (op : Nat) (p : Packet) : ReplayKept s (emit s inn op p) := by
  have hcount : ReplayKept s (countMultiRoute s p) := by
    unfold countMultiRoute
    split <;> exact replayKept_rfl s
  unfold emit
  dsimp only
  split <;> exact hcount

theorem replayKept_finishWaiter (s : State) (n : Nat) (w : Waiter) (code : Word) : ReplayKept s (finishWaiter s n w code) := by
  unfold finishWaiter
  split
  · dsimp only
    split
    · split
      · exact replayKept_outcome s 1 _ code
      · exact replayKept_rfl s
    · exact replayKept_rfl s
  · intro h
    exact replayKept_emit _ none _ _ h

theorem replayKept_finishWaiters (n : Nat) (code : Word) (l : List WaitEnt) :
    ∀ s, ReplayKept s (l.foldl (fun s w => finishWaiter s n w.who code) s) := by
  induction l with
  | nil => exact replayKept_rfl
  | cons w l ih => exact fun s => replayKept_trans (replayKept_finishWaiter s n w.who code) (ih _)

theorem replayKept_soUpdate (s : State) (n : Nat) (o : SyncObj) : ReplayKept s (soUpdate s n o) :=
  replayKept_finishWaiters n 0#64 _ (setSo (setSo s n _) n _)

/-- R373, R377, R380: the result that an operation of thread t on object n of this device has at once, and the state. -/
def syncDone (s : State) (op : SyncOp) (n c t : Nat) (v : Word) : Option Word × State :=
  match op with
  | .signal => (some (doSignal s n v).1, (doSignal s n v).2)
  | .fetchadd => (some (doFetchadd s n v).1, (doFetchadd s n v).2)
  | .waits => doWaits s n (.thread c t) v
  | .barrier => doBarrier s n (.thread c t) v

/-- What an operation on a sync object leaves of memory and of the logs of replay. -/
def SyncKept (s s' : State) : Prop := SameMemory s s' ∧ ReplayKept s s'

theorem syncKept_rfl (s : State) : SyncKept s s := ⟨sameMemory_rfl s, replayKept_rfl s⟩

theorem syncKept_soUpdate (s : State) (n : Nat) (o : SyncObj) : SyncKept s (soUpdate s n o) :=
  ⟨sameMemory_soUpdate s n o, replayKept_soUpdate s n o⟩

theorem syncKept_doSignal (s : State) (n : Nat) (v : Word) : SyncKept s (doSignal s n v).2 := by
  unfold doSignal
  split
  · exact syncKept_soUpdate ..
  · exact syncKept_rfl s

theorem syncKept_doFetchadd (s : State) (n : Nat) (v : Word) : SyncKept s (doFetchadd s n v).2 := by
  unfold doFetchadd
  split
  · exact syncKept_soUpdate ..
  · exact syncKept_rfl s

theorem syncKept_doWaits (s : State) (n : Nat) (w : Waiter) (v : Word) : SyncKept s (doWaits s n w v).2 := by
  unfold doWaits
  dsimp only
  repeat' split
  all_goals exact syncKept_rfl s

theorem syncKept_doBarrier (s : State) (n : Nat) (w : Waiter) (v : Word) : SyncKept s (doBarrier s n w v).2 := by
  unfold doBarrier
  extract_lets o gen again counted
  split
  · exact syncKept_rfl s
  · split
    · split <;> exact syncKept_rfl s
    · split
      · split <;> exact syncKept_soUpdate ..
      · split <;> exact syncKept_soUpdate ..

theorem syncKept_syncDone (s : State) (op : SyncOp) (n c t : Nat) (v : Word) : SyncKept s (syncDone s op n c t v).2 := by
  cases op with
  | signal => exact syncKept_doSignal ..
  | fetchadd => exact syncKept_doFetchadd ..
  | waits => exact syncKept_doWaits ..
  | barrier => exact syncKept_doBarrier ..

/-- R403: outside replay an operation has the result of the object; only the logs of full failure protection record it. -/
theorem localSync_of_no_replay (s : State) (op : SyncOp) (n c t : Nat) (x : Thread) (v : Word) (h : s.steep.replay = []) :
    ∃ st, localSync s op n c t x v = ((syncDone s op n c t v).1, { (syncDone s op n c t v).2 with steep := st }) := by
  have hkept := (syncKept_syncDone s op n c t v).2 h
  have hnone : replayedSync s c t x = none := by
    unfold replayedSync
    rw [h]
    rfl
  unfold localSync
  extract_lets fin
  have hfin : ∀ r : Option Word × State, r.2.steep.replay = [] → ∃ st, fin r = (r.1, { r.2 with steep := st }) := by
    rintro ⟨_ | w, s1⟩ h1
    · exact ⟨s1.steep, rfl⟩
    · obtain ⟨st, -, ho⟩ := outcome_eq_of_no_replay s1 1 [c, t, x.icount] w h1
      exact ⟨st, by simp only [fin, ho]⟩
  rw [hnone]
  cases op <;> exact hfin _ hkept

/-- R76, R373: what a thread waits for after an operation on object k: its result, on its way, or the object. -/
def syncReply (d : BitVec 5) (k : Nat) : Option Word → Req
  | some v => .synced d v
  | none => .syncWait d k

section

variable {s s1 : State} {c : BitVec 8} {d a b : BitVec 5} {t k : Nat} {op : SyncOp} {r : Checked}

/-- R123, R298: an operation that passes its checks is the object's own. -/
theorem syncInstr_local (hissue : CanIssue s c t 4#18 [.s d, .s a, .s b]) (hdrained : Drained s c.toNat t)
    (hchk : checkPart s c.toNat (thOf s c.toNat t).cx.toNat (worldOf (coreOf s c.toNat) t) (isS (thOf s c.toNat t)) (syncNeed op) 0#4
      .read true (getS (thOf s c.toNat t) a).toNat 1 = (r, s1)) (hcode : r.code = 0) (hmulti : r.multi = false)
    (hlocal : isRemote s1 r.half.pa = false) (hregion : regionOf s1.part (paLocal r.half.pa) = .so k)
    (hsend : sendBlock s1 c.toNat [r.half] 1 = none) : syncInstr op c d a b s =
      goWait (localSync s1 op k c.toNat t (thOf s c.toNat t) (getS (thOf s c.toNat t) b)).2 c.toNat t
        (markBusy (thOf s c.toNat t) (.s d)) (.reply (syncReply d k
          (localSync s1 op k c.toNat t (thOf s c.toNat t) (getS (thOf s c.toNat t) b)).1)) (2 + missClocks [r]) := by
  unfold syncInstr
  rw [issue_of_canIssue _ _ _ _ _ _ hissue, fenced_of_drained _ _ _ _ hdrained]
  extract_lets va w
  have hchecked : checkPart s c.toNat (thOf s c.toNat t).cx.toNat w (isS (thOf s c.toNat t)) (syncNeed op) 0#4 .read true va 1 =
    (r, s1) := hchk
  rw [hchecked]
  dsimp (zeta := false) only
  extract_lets code n
  have hpasses : code = 0 := by simp only [code, hcode, hlocal, hregion]; rfl
  rw [hmulti, hpasses, hsend, hlocal, hregion, Bool.false_and, if_neg Bool.false_ne_true, if_neg (by decide)]
  dsimp (zeta := false) only
  rw [if_neg Bool.false_ne_true]
  obtain ⟨q, s2⟩ := localSync s1 op k c.toNat t (thOf s c.toNat t) (getS (thOf s c.toNat t) b)
  cases q <;> rfl

/-- R123, R373: an operation that reaches an object of this device: its checks changed what checks change, and its thread waits for what
the object gives. -/
theorem syncInstr_reaches (hissue : CanIssue s c t 4#18 [.s d, .s a, .s b]) (hdrained : Drained s c.toNat t)
    (hreplay : s.steep.replay = []) (hreach : ReachesObject s c t op a k) (htc : tc0Of s c.toNat < 4) :
    ∃ s1, ChecksOnly s s1 ∧ ∀ r s2, syncDone s1 op k c.toNat t (getS (thOf s c.toNat t) b) = (r, s2) →
      ∃ s', syncInstr op c d a b s = catchUp s' c.toNat ∧ s'.so = s2.so ∧ SameMemory s s' ∧ thOf s' c.toNat t =
        { markBusy (thOf s c.toNat t) (.s d) with st := .waiting, wait := .reply (syncReply d k r) } := by
  obtain ⟨hcode, hmulti, hlocal, hregion, hroom⟩ := hreach
  obtain ⟨hchecks, -⟩ := checkPart_spec s c.toNat (thOf s c.toNat t).cx.toNat (worldOf (coreOf s c.toNat) t) (isS (thOf s c.toNat t))
    (syncNeed op) 0#4 .read true (getS (thOf s c.toNat t) a).toNat 1
  generalize hchk : checkPart s c.toNat (thOf s c.toNat t).cx.toNat (worldOf (coreOf s c.toNat) t) (isS (thOf s c.toNat t))
    (syncNeed op) 0#4 .read true (getS (thOf s c.toNat t) a).toNat 1 = q at hcode hmulti hlocal hregion hchecks
  obtain ⟨r, s1⟩ := q
  refine ⟨s1, hchecks, fun res s2 hres => ?_⟩
  obtain ⟨st, hdone⟩ := localSync_of_no_replay s1 op k c.toNat t (thOf s c.toNat t) (getS (thOf s c.toNat t) b)
    (hchecks.replay.trans hreplay)
  have hkept := (syncKept_syncDone s1 op k c.toNat t (getS (thOf s c.toNat t) b)).1
  rw [hres] at hdone hkept
  have hlocal1 : isRemote s1 r.half.pa = false := by
    unfold isRemote at hlocal ⊢
    rwa [hchecks.fab]
  have hroom1 : outstanding (coreOf s1 c.toNat) < 64 := by
    unfold coreOf at hroom ⊢
    rwa [hchecks.cores]
  have hsend : sendBlock s1 c.toNat [r.half] 1 = none := sendBlock_none _ hroom1 (by rwa [tc0Of_congr hchecks.fab])
  obtain ⟨s', hwait, hth, hrest, -⟩ := goWait_spec { s2 with steep := st } c.toNat t (markBusy (thOf s c.toNat t) (.s d))
    (.reply (syncReply d k res)) (2 + missClocks [r])
  refine ⟨s', ?_, by rw [hrest], by rw [hrest]; exact sameMemory_trans hchecks.sameMemory hkept, hth⟩
  rw [syncInstr_local hissue hdrained hchk hcode hmulti hlocal1 (by rw [hchecks.part]; exact hregion) hsend, hdone]
  exact hwait

/-- R76: the result of an operation is on its way. -/
theorem syncAnswered_of_reply {s s' : State} {v : Word} (hmem : SameMemory s s') (h : thOf s' c.toNat t =
    { markBusy (thOf s c.toNat t) (.s d) with st := .waiting, wait := .reply (syncReply d k (some v)) }) :
    SyncAnswered s s' c t d v := by
  unfold SyncAnswered
  rw [h]
  exact ⟨rfl, rfl, regBusy_markBusy_s .., markBusy_s .., hmem⟩

end

theorem ChecksOnly.so {s s1 : State} (h : ChecksOnly s s1) : s1.so = s.so := by rw [h]

theorem ChecksOnly.time {s s1 : State} (h : ChecksOnly s s1) : s1.time = s.time := by rw [h]

theorem field_low (v : Word) : field v.toNat 0 32 = v.toNat % 2 ^ 32 := by simp [field]

theorem field_high (v : Word) : field v.toNat 32 32 = v.toNat / 2 ^ 32 := by
  have := v.isLt
  unfold field
  omega

/-- R373: the value of a queue-head object of a given HEAD. -/
theorem soQueue_eq (tail head : Nat) (h : head < 2 ^ 32) : soQueue tail head = BitVec.ofNat 64 (tail % 2 ^ 32 + head * 2 ^ 32) := by
  rw [soQueue, Nat.mod_eq_of_lt h]

/-- R372: the types of objects. -/
theorem objectType_cases (ty : BitVec 2) (h : ty ≠ 2#2) : ty = 0#2 ∨ ty = 1#2 ∨ ty = 3#2 := by
  revert ty
  decide

theorem soHead_lt (v : Word) : soHead v < 2 ^ 32 := Nat.mod_lt _ (Nat.two_pow_pos _)

/-- R373: SIGNAL on an object that is no barrier. -/
theorem soSignal_eq (o : SyncObj) (v : Word) (h : o.ty ≠ 2#2) : soSignal o v = some (signalled o.ty o.val v) := by
  unfold soSignal signalled
  rcases objectType_cases _ h with hty | hty | hty
  all_goals rw [hty]
  · rfl
  · rfl
  · show some (soQueue _ _) = _
    rw [soQueue_eq _ _ (soHead_lt _), soHead, field_high, soTail, field_low, field_low]
    rfl

/-- R373: FETCHADD on a queue-head object gives an entry's number where enough entries are there. -/
theorem soFetchadd_queue (o : SyncObj) (v : Word) (h : o.ty = 3#2) : soFetchadd o v =
    if v.toNat % 2 ^ 32 ≤ (o.val.toNat % 2 ^ 32 + 2 ^ 32 - o.val.toNat / 2 ^ 32) % 2 ^ 32 then
      ((fetched 3#2 o.val v).1, some (fetched 3#2 o.val v).2)
    else (BitVec.allOnes 64, none) := by
  have hqueue : soQueue (soTail o.val) (soHead o.val + field v.toNat 0 32) = BitVec.ofNat 64
      (o.val.toNat % 2 ^ 32 + (o.val.toNat / 2 ^ 32 + v.toNat % 2 ^ 32) % 2 ^ 32 * 2 ^ 32) := by
    rw [soQueue, soTail, soHead, field_low, field_low, field_high, Nat.mod_mod]
  have hfill : soFill o.val = (o.val.toNat % 2 ^ 32 + 2 ^ 32 - o.val.toNat / 2 ^ 32) % 2 ^ 32 := by
    rw [soFill, soTail, soHead, field_low, field_high]
  have hdef : soFetchadd o v = if field v.toNat 0 32 ≤ soFill o.val then
      (BitVec.ofNat 64 (soHead o.val), some (soQueue (soTail o.val) (soHead o.val + field v.toNat 0 32)))
      else (BitVec.allOnes 64, none) := by
    unfold soFetchadd
    rw [h]
    rfl
  rw [hdef, hqueue, hfill, soHead, field_low, field_high]
  refine if_ctx_congr Iff.rfl (fun henough => ?_) fun _ => rfl
  rw [show fetched 3#2 o.val v = _ from if_pos henough]

/-- R373: FETCHADD on an object that is no barrier. -/
theorem soFetchadd_eq (o : SyncObj) (v : Word) (h : o.ty ≠ 2#2) : (soFetchadd o v).1 = (fetched o.ty o.val v).1 ∧
    ((soFetchadd o v).2 = some (fetched o.ty o.val v).2 ∨ (soFetchadd o v).2 = none ∧ (fetched o.ty o.val v).2 = o.val) := by
  rcases objectType_cases _ h with hty | hty | hty
  · unfold soFetchadd
    rw [hty]
    exact ⟨rfl, .inl rfl⟩
  · unfold soFetchadd
    rw [hty]
    exact ⟨rfl, .inl rfl⟩
  · rw [soFetchadd_queue o v hty, hty]
    split
    · exact ⟨rfl, .inl rfl⟩
    · next hfew =>
      rw [show fetched 3#2 o.val v = _ from if_neg hfew]
      exact ⟨rfl, .inr ⟨rfl, rfl⟩⟩

/-- R373: SIGNAL on an object that is no barrier updates it. -/
theorem doSignal_eq (s : State) (n : Nat) (v : Word) (h : (soOf s n).ty ≠ 2#2) : ∃ s2, doSignal s n v = (0#64, s2) ∧
    (soOf s2 n).val = signalled (soOf s n).ty (soOf s n).val v ∧ (soOf s2 n).tgt = (soOf s n).tgt := by
  rw [doSignal, soSignal_eq _ v h]
  exact ⟨_, rfl, soUpdate_val _ _ _ h, soUpdate_tgt _ _ _ h⟩

/-- R373: SIGNAL on a barrier object is refused. -/
theorem doSignal_barrier (s : State) (n : Nat) (v : Word) (h : (soOf s n).ty = 2#2) : doSignal s n v = (3#64, s) := by
  rw [doSignal, soSignal, h]
  rfl

/-- R373: FETCHADD on an object that is no barrier. -/
theorem doFetchadd_eq (s : State) (n : Nat) (v : Word) (h : (soOf s n).ty ≠ 2#2) :
    ∃ s2, doFetchadd s n v = ((fetched (soOf s n).ty (soOf s n).val v).1, s2) ∧
      (soOf s2 n).val = (fetched (soOf s n).ty (soOf s n).val v).2 := by
  obtain ⟨hres, hnew⟩ := soFetchadd_eq (soOf s n) v h
  unfold doFetchadd
  rw [← hres]
  generalize soFetchadd (soOf s n) v = q at hnew ⊢
  obtain ⟨r, w⟩ := q
  rcases hnew with hnew | ⟨hnew, hsame⟩
  · obtain rfl := hnew
    exact ⟨_, rfl, soUpdate_val _ _ _ h⟩
  · obtain rfl := hnew
    exact ⟨s, rfl, hsame.symm⟩

theorem signalAndFetchadd : SignalAndFetchadd := by
  intro c d a b s t k hissue hdrained hreplay v o
  refine ⟨fun hreach htc hty => ?_, fun hreach htc hty => ?_, fun hreach htc hty => ?_⟩
  all_goals
    obtain ⟨s1, hchecks, hdone⟩ := syncInstr_reaches hissue hdrained hreplay hreach htc
    have ho : soOf s1 k = o := soOf_of_so hchecks.so k
    rw [← ho] at hty
  · rw [← ho]
    obtain ⟨s2, hsignal, hval, htgt⟩ := doSignal_eq s1 k v hty
    obtain ⟨s', hexec, hso, hmem, hth⟩ := hdone (some 0#64) s2 (by rw [syncDone, hsignal])
    exact ⟨s', congrArg _ hexec, by rw [soOf_of_so hso, hval], by rw [soOf_of_so hso, htgt], syncAnswered_of_reply hmem hth⟩
  · obtain ⟨s', hexec, hso, hmem, hth⟩ := hdone (some 3#64) s1 (by rw [syncDone, doSignal_barrier s1 k _ hty])
    exact ⟨s', congrArg _ hexec, hso.trans hchecks.so, syncAnswered_of_reply hmem hth⟩
  · rw [← ho]
    obtain ⟨s2, hfetch, hval⟩ := doFetchadd_eq s1 k v hty
    obtain ⟨s', hexec, hso, hmem, hth⟩ := hdone (some _) s2 (by rw [syncDone, hfetch])
    exact ⟨s', congrArg _ hexec, by rw [soOf_of_so hso, hval], syncAnswered_of_reply hmem hth⟩

/-- R373: the condition of a WAITS on an object that is no barrier. -/
theorem soCond_iff (o : SyncObj) (h : o.ty ≠ 2#2) : soCond o = true ↔
    (o.ty = 0#2 ∧ o.tgt.toNat ≤ o.val.toNat) ∨ (o.ty = 1#2 ∧ o.val &&& o.tgt ≠ 0#64) ∨
      (o.ty = 3#2 ∧ o.tgt.toNat % 2 ^ 32 ≤ (o.val.toNat % 2 ^ 32 + 2 ^ 32 - o.val.toNat / 2 ^ 32) % 2 ^ 32) := by
  unfold soCond
  rcases objectType_cases _ h with hty | hty | hty
  all_goals rw [hty]
  · simp
  · simp
  · simp [soFill, soTail, soHead, field_low, field_high]

/-- R377: WAITS on an object that is no barrier. -/
theorem doWaits_eq (s : State) (n : Nat) (w : Waiter) (v : Word) (h : (soOf s n).ty ≠ 2#2) : doWaits s n w v =
    if soCond (soOf s n) then (some 0#64, s)
    else if v = 0#64 then (some 1#64, s)
    else (none, addWaiter s n ⟨w, none, false, if v = BitVec.allOnes 64 then none else some (s.time + v.toNat)⟩) := by
  unfold doWaits deadlineOf
  dsimp only
  rw [if_neg h]
  refine if_ctx_congr Iff.rfl (fun _ => rfl) fun _ => ?_
  split_ifs <;> rfl

theorem waitsOnObject : WaitsOnObject := by
  intro c d a b s t k hissue hdrained hreplay hreach htc v o holds dl entry hty
  obtain ⟨s1, hchecks, hdone⟩ := syncInstr_reaches hissue hdrained hreplay hreach htc
  have ho : soOf s1 k = o := soOf_of_so hchecks.so k
  have hcond : soCond (soOf s1 k) = true ↔ holds := by rw [ho]; exact soCond_iff o hty
  have hwaits := doWaits_eq s1 k (.thread c.toNat t) v (by rwa [ho])
  rw [hchecks.time] at hwaits
  rcases hres : doWaits s1 k (.thread c.toNat t) v with ⟨r, s2⟩
  rw [hres] at hwaits
  obtain ⟨s', hexec, hso, hmem, hth⟩ := hdone r s2 hres
  refine ⟨s', congrArg _ hexec, fun hh => ?_, fun hh hv => ?_, fun hh hv => ?_⟩
  · rw [if_pos (hcond.2 hh)] at hwaits
    obtain ⟨rfl, rfl⟩ := Prod.mk.inj hwaits
    exact ⟨hso.trans hchecks.so, syncAnswered_of_reply hmem hth⟩
  · rw [if_neg (mt hcond.1 hh), if_pos hv] at hwaits
    obtain ⟨rfl, rfl⟩ := Prod.mk.inj hwaits
    exact ⟨hso.trans hchecks.so, syncAnswered_of_reply hmem hth⟩
  · rw [if_neg (mt hcond.1 hh), if_neg hv] at hwaits
    obtain ⟨rfl, rfl⟩ := Prod.mk.inj hwaits
    have hobj : soOf s' k = { o with waiters := o.waiters ++ [entry] } := by
      rw [soOf_of_so hso, ← ho]
      exact soOf_setSo ..
    rw [hobj, hth]
    exact ⟨rfl, rfl, rfl, rfl, hmem⟩

/-- R372, R378: the value of an object after an update: a generation may have ended. -/
theorem soUpdate_val_eval (s : State) (n : Nat) (o : SyncObj) :
    (soOf (soUpdate s n o) n).val = (evalBarrier (evalBarrier o)).val := by
  unfold soUpdate
  rw [soOf_notifySo, soOf_releaseWaiters, soOf_setSo]

theorem soBarrier_toNat (count gen : Nat) (pend : Bool) :
    (soBarrier count gen pend).toNat = count % 2 ^ 32 + gen % 2 ^ 31 * 2 ^ 32 + b2n pend * 2 ^ 63 := by
  have hpend : b2n pend ≤ 1 := by cases pend <;> decide
  rw [soBarrier, BitVec.toNat_ofNat]
  omega

theorem soCount_soBarrier (count gen : Nat) (pend : Bool) : soCount (soBarrier count gen pend) = count % 2 ^ 32 := by
  rw [soCount, field_low, soBarrier_toNat]
  omega

theorem soGen_soBarrier (count gen : Nat) (pend : Bool) : soGen (soBarrier count gen pend) = gen % 2 ^ 31 := by
  rw [soGen, field, soBarrier_toNat]
  omega

/-- R380: below PARTS arrivals no generation ends. -/
theorem evalBarrier_of_below (o : SyncObj) (h : soCount o.val < o.parts.toNat) : evalBarrier o = o := by
  unfold evalBarrier
  rw [if_neg (by simp; omega)]

/-- R380: with PARTS arrivals the generation of a local barrier ends. -/
theorem evalBarrier_of_full (o : SyncObj) (ht : o.ty = 2#2) (hg : o.grp = false) (h : o.parts.toNat ≤ soCount o.val) :
    evalBarrier o = nextGen o := by
  unfold evalBarrier
  rw [if_pos (by simp [ht, h]), hg]
  rfl

/-- R380: a BARRIER on an object that is none. -/
theorem doBarrier_of_not_barrier (s : State) (n : Nat) (w : Waiter) (v : Word) (h : (soOf s n).ty ≠ 2#2) :
    doBarrier s n w v = (some 3#64, s) := if_pos (bne_iff_ne.2 h)

/-- R380: the value of a barrier object with one more arrival. -/
def countedOne (v : Word) : Word := soBarrier (soCount v + 1) (soGen v) (soPend v)

/-- R380: a barrier object with another value and other waiters. -/
def withArrival (o : SyncObj) (v : Word) (ws : List WaitEnt) : SyncObj := { o with val := v, waiters := ws }

section

variable (o : SyncObj) (v : Word) (ws : List WaitEnt)

@[simp] theorem withArrival_val : (withArrival o v ws).val = v := rfl
@[simp] theorem withArrival_ty : (withArrival o v ws).ty = o.ty := rfl
@[simp] theorem withArrival_grp : (withArrival o v ws).grp = o.grp := rfl
@[simp] theorem withArrival_parts : (withArrival o v ws).parts = o.parts := rfl

theorem nextGen_parts : (nextGen o).parts = o.parts := by
  unfold nextGen
  rfl

/-- R380: below PARTS an arrival leaves its count. -/
theorem soUpdate_val_of_below (s : State) (n : Nat) (h : soCount v < o.parts.toNat) :
    (soOf (soUpdate s n (withArrival o v ws)) n).val = v := by
  have hsame : evalBarrier (withArrival o v ws) = withArrival o v ws := evalBarrier_of_below _ h
  rw [soUpdate_val_eval, hsame, hsame, withArrival_val]

/-- R380: with the last arrival at a local barrier, of which none is held for the next generation, the next generation begins. -/
theorem soUpdate_val_of_full (s : State) (n : Nat) (ht : o.ty = 2#2) (hg : o.grp = false) (he : o.early = [])
    (hp : 0 < o.parts.toNat) (h : o.parts.toNat ≤ soCount v) :
    (soOf (soUpdate s n (withArrival o v ws)) n).val = soBarrier 0 (soGen v + 1) false := by
  have hended : evalBarrier (withArrival o v ws) = nextGen (withArrival o v ws) := evalBarrier_of_full _ ht hg h
  have hnext : (nextGen (withArrival o v ws)).val = soBarrier 0 (soGen v + 1) false := by
    rw [← List.length_nil (α := WaitEnt), ← he]
    rfl
  have hsame : evalBarrier (nextGen (withArrival o v ws)) = nextGen (withArrival o v ws) := by
    refine evalBarrier_of_below _ ?_
    rw [hnext, soCount_soBarrier, nextGen_parts, withArrival_parts]
    exact hp
  rw [soUpdate_val_eval, hended, hsame, hnext]

end

/-- R380: the first arrival of a thread in a generation, with time to wait. -/
theorem doBarrier_first (s : State) (n : Nat) (w : Waiter) (v : Word) (h : (soOf s n).ty = 2#2) (hp : parkedAt s n w = none)
    (hv : v ≠ 0#64) : ∃ ent, doBarrier s n w v =
      if (decide ((soOf s n).parts.toNat ≤ soCount (countedOne (soOf s n).val)) && !(soOf s n).grp) = true then
        (some 0#64, soUpdate s n (withArrival (soOf s n) (countedOne (soOf s n).val) (soOf s n).waiters))
      else (none, soUpdate s n (withArrival (soOf s n) (countedOne (soOf s n).val) ((soOf s n).waiters ++ [ent]))) := by
  unfold doBarrier deadlineOf
  extract_lets o gen again
  have hfirst : again = false := by
    show (match parkedAt s n w with | some p => p.gen == gen | none => false) = false
    rw [hp]
  refine ⟨⟨w, some gen, true, if v = BitVec.allOnes 64 then none else some (s.time + v.toNat)⟩, ?_⟩
  rw [hfirst, if_neg (by rw [h]; decide), if_neg Bool.false_ne_true, if_neg hv]
  by_cases hnever : v = BitVec.allOnes 64
  · rw [if_pos hnever, if_pos hnever]
    rfl
  · rw [if_neg hnever, if_neg hnever]
    rfl

theorem barrierArrival : BarrierArrival := by
  intro c d a b s t k hissue hdrained hreplay hreach htc v o n g hparked hearly hn
  obtain ⟨s1, hchecks, hdone⟩ := syncInstr_reaches hissue hdrained hreplay hreach htc
  have ho : soOf s1 k = o := soOf_of_so hchecks.so k
  have hcount : soCount (countedOne o.val) = n + 1 := by
    rw [countedOne, soCount_soBarrier, soCount, field_low]
    exact Nat.mod_eq_of_lt (by omega)
  have hgen : soGen (countedOne o.val) = g := by
    rw [countedOne, soGen_soBarrier]
    exact Nat.mod_mod _ _
  rcases hres : doBarrier s1 k (.thread c.toNat t) v with ⟨r, s2⟩
  obtain ⟨s', hexec, hso, hmem, hth⟩ := hdone r s2 hres
  have hfirst (hty : o.ty = 2#2) (hv : v ≠ 0#64) := doBarrier_first s1 k (.thread c.toNat t) v (by rwa [ho]) (by
    unfold parkedAt at hparked ⊢
    rwa [ho]) hv
  rw [ho, hres] at hfirst
  generalize countedOne o.val = counted at hcount hgen hfirst
  refine ⟨s', congrArg _ hexec, fun hty => ?_, fun hty hbelow hv => ?_, fun hty hlocal hfull hparts hv => ?_⟩
  · rw [doBarrier_of_not_barrier _ _ _ _ (by rwa [ho])] at hres
    obtain ⟨rfl, rfl⟩ := Prod.mk.inj hres
    exact ⟨hso.trans hchecks.so, syncAnswered_of_reply hmem hth⟩
  · obtain ⟨ent, hwait⟩ := hfirst hty hv
    rw [hcount, if_neg (by simp; omega)] at hwait
    obtain ⟨rfl, rfl⟩ := Prod.mk.inj hwait
    have hval : (soOf s' k).val = counted := by
      rw [soOf_of_so hso, soUpdate_val_of_below _ _ _ _ _ (by rwa [hcount])]
    rw [hval, ← field_low, hth]
    exact ⟨hcount, hgen, rfl, rfl, hmem⟩
  · obtain ⟨ent, hlast⟩ := hfirst hty hv
    rw [hcount, if_pos (by simp [hlocal, hfull])] at hlast
    obtain ⟨rfl, rfl⟩ := Prod.mk.inj hlast
    have hval : (soOf s' k).val = soBarrier 0 (g + 1) false := by
      rw [soOf_of_so hso, soUpdate_val_of_full _ _ _ _ _ hty hlocal hearly hparts (by rwa [hcount]), hgen]
    rw [hval, ← field_low]
    exact ⟨soCount_soBarrier .., soGen_soBarrier .., syncAnswered_of_reply hmem hth⟩

end Sys2Proof.Machine

open Sys2Proof Sys2Proof.Machine

/-- Settles O13: each operation gives what its object does (`syncDone`), and its thread waits for that (`syncInstr_reaches`). -/
theorem syncOperations : Obligations.SyncOperations := ⟨signalAndFetchadd, waitsOnObject, barrierArrival⟩

end

section
/-!
SUPPORT. Effects of the matrix queue (O27): what each kind of entry does to the unit at its clock, and what the flags that passes give
leave of a thread.
-/

namespace Sys2Proof.Machine

/-- R129, R132, R196, R203: the unit, its queue without the head, after the head's effect at clock e. -/
def headDone (m : Matrix) (ent : MxEnt) (e : Nat) : Matrix :=
  match ent.kind with
  | .mpass sa n _ _ => startPass m ent sa n e
  | .mswap => swapBanks { m with lastEnd := some e } e
  | .mzero => { m with lastEnd := some e, acc := [], ident := opIdent (cOp m.cfg) }
  | .mcfg cfg => applyCfg { m with lastEnd := some e } cfg
  | .mrel => { m with lastEnd := some e, owner := if m.owner = some ent.t then none else m.owner }
  | .mrd d tfmt sat rm =>
    let f := (fmtOfCode tfmt.toNat).getD .fp64
    { m with
      lastEnd := some e
      rdptr := (m.rdptr + mrdRows f) % formCap (cForm m.cfg)
      read := some { due := e + 4, t := ent.t, d := d, val := (mrdValue m f ent.seed rm sat).1,
                     flags := engBits (mrdValue m f ent.seed rm sat).2 } }

/-- R129: the head's effect on the state that the loader and the stream passes leave. -/
theorem takeEffect_eq (s : State) (c : Nat) (ent : MxEnt) (rest : List MxEnt) (e : Nat) : takeEffect s c ent rest e =
    setCore (catchUpTo s c e) c { coreOf (catchUpTo s c e) c with
      clk := max (coreOf (catchUpTo s c e) c).clk e
      mx := headDone { landRows (coreOf (catchUpTo s c e) c).mx e with q := rest } ent e } := by
  unfold takeEffect headDone
  cases ent.kind <;> rfl

theorem startPass_q (m : Matrix) (ent : MxEnt) (sa : Word) (n e : Nat) : (startPass m ent sa n e).q = m.q := by
  unfold startPass
  dsimp only
  split <;> rfl

theorem applyCfg_q (m : Matrix) (k : MxCfg) : (applyCfg m k).q = m.q := by
  unfold applyCfg
  dsimp only
  split <;> rfl

theorem headDone_q (m : Matrix) (ent : MxEnt) (e : Nat) : (headDone m ent e).q = m.q := by
  unfold headDone
  cases ent.kind with
  | mpass => exact startPass_q ..
  | mcfg => exact applyCfg_q ..
  | mswap | mzero | mrel | mrd => rfl

/-- R129: an entry takes effect after its hand-off. -/
theorem effectClock_gt {k : Core} {ent : MxEnt} {e : Nat} (h : effectClock k ent = some e) : ent.handoff < e := by
  unfold effectClock at h
  dsimp only at h
  repeat' split at h
  all_goals simp only [Option.some.injEq, reduceCtorEq] at h <;> omega

/-- R52: what the flags that passes give leave of a thread. -/
def FlagsOnly (x y : Thread) : Prop := y = { x with nflags := y.nflags }

theorem flagsOnly_giveFlags (s : State) (c t : Nat) (e : MxEnd) : FlagsOnly (thOf s c t) (thOf (giveFlags s c e) c t) := by
  unfold giveFlags
  split
  · exact rfl
  · by_cases h : t = e.t
    · rw [h, thOf_setTh]
      exact rfl
    · rw [thOf_setTh_ne _ _ _ _ _ h]
      exact rfl

theorem flagsOnly_giveAllFlags (c t : Nat) (l : List MxEnd) :
    ∀ s, FlagsOnly (thOf s c t) (thOf (l.foldl (fun s e => giveFlags s c e) s) c t) := by
  induction l with
  | nil => exact fun s => rfl
  | cons e l ih =>
    intro s
    have hfirst := flagsOnly_giveFlags s c t e
    have hrest := ih (giveFlags s c e)
    unfold FlagsOnly at *
    rw [List.foldl_cons, hrest, hfirst]

theorem flagsOnly_mxFlush (s : State) (c t : Nat) : FlagsOnly (thOf s c t) (thOf (mxFlush s c) c t) := by
  unfold mxFlush
  dsimp only
  split
  · have hgiven (m : Matrix) (l : List MxEnd) :
        FlagsOnly (thOf s c t) (thOf (l.foldl (fun s e => giveFlags s c e) (setMx s c m)) c t) := by
      rw [← thOf_setMx s c t m]
      exact flagsOnly_giveAllFlags c t l (setMx s c m)
    exact hgiven ..
  · exact rfl

/-- R203: what a read-out gives is told by the configuration in force, the next row and the entries. -/
theorem mrdValue_congr {m m' : Matrix} (hc : m'.cfg = m.cfg) (hp : m'.rdptr = m.rdptr) (ha : m'.acc = m.acc)
    (hi : m'.ident = m.ident) (f : Fmt) (seed : Word) (rm : Rm) (sat : Bool) :
    mrdValue m' f seed rm sat = mrdValue m f seed rm sat := by
  unfold mrdValue entryAt
  rw [hc, hp, ha, hi]

/-- The unit with its queue's head taken and its loads gone on. -/
def BeforeEffect (m m1 : Matrix) (rest : List MxEnt) : Prop :=
  m1 = { m with loadEnd := m1.loadEnd, loadSrc := m1.loadSrc, loadPoison := m1.loadPoison, bankA := m1.bankA, bankB := m1.bankB, q := rest }

/-- R129: MATRIX_EFFECT on the head of the queue of a unit that has no rows under way. -/
theorem exec_matrixEffect_head {c : BitVec 8} {s : State} {ent : MxEnt} {rest : List MxEnt} {e : Nat}
    (hread : (coreOf s c.toNat).mx.read = none) (hq : (coreOf s c.toNat).mx.q = ent :: rest) (hpass : (coreOf s c.toNat).mx.pass = none)
    (hrows : (coreOf s c.toNat).mx.rows = []) (hclear : (coreOf s c.toNat).mx.clearing = false)
    (hdrains : ∀ d ∈ (coreOf s c.toNat).mx.drains, e ≤ d.due) (he : effectClock (coreOf s c.toNat) ent = some e) :
    ∃ s' m1 l, exec (.matrixEffect c) s = .next s' ∧ BeforeEffect (coreOf s c.toNat).mx m1 rest ∧
      (coreOf s' c.toNat).mx = { headDone m1 ent e with ends := l } ∧ (coreOf s' c.toNat).clk = max (coreOf s c.toNat).clk e ∧
      SameMemory (catchUpTo s c.toNat e) s' ∧ ∀ t, (thOf s' c.toNat t).v = (thOf s c.toNat t).v ∧
        (thOf s' c.toNat t).sbV = (thOf s c.toNat t).sbV := by
  have hmoved := unitsMoved_catchUpTo s c.toNat e
  have htake := takeEffect_eq s c.toNat ent rest e
  have hth := thOf_of_unitsMoved hmoved
  generalize hs1 : catchUpTo s c.toNat e = s1 at hmoved htake hth
  obtain ⟨hrows1, -⟩ := unitsMoved_mx hmoved
  rw [landRows_of_no_rows _ _ (hrows1.trans hrows)] at htake
  have hclk : (coreOf s1 c.toNat).clk = (coreOf s c.toNat).clk := by rw [hmoved]
  obtain ⟨hmem, l, th, hcore⟩ := mxFlush_spec (takeEffect s c.toNat ent rest e) c.toNat
  have hexec : exec (.matrixEffect c) s = .next (wake (mxFlush (takeEffect s c.toNat ent rest e) c.toNat) c.toNat) := by
    show execMatrixEffect c s = _
    have hhead : headEffect (coreOf s c.toNat) = some e := by
      unfold headEffect
      rw [hq, hpass, hclear]
      exact he
    have hnone : ((coreOf s c.toNat).mx.drains.any fun d => decide (d.due < e)) = false := by simpa using hdrains
    unfold execMatrixEffect
    dsimp only
    rw [hread, hq, hhead]
    dsimp only
    rw [hnone, if_neg Bool.false_ne_true]
  refine ⟨_, { (coreOf s1 c.toNat).mx with q := rest }, l, hexec, ?_, ?_, ?_, ?_, fun t => ?_⟩
  · unfold BeforeEffect
    rw [hmoved]
  · rw [wake_mx, hcore, htake, coreOf_setCore]
  · rw [wake_clk, hcore, htake, coreOf_setCore, hclk]
  · rw [htake] at hmem ⊢
    exact sameMemory_trans hmem (sameMemory_wake _ _)
  · have hflags := flagsOnly_mxFlush (takeEffect s c.toNat ent rest e) c.toNat t
    have hkept := regsKept_wake (mxFlush (takeEffect s c.toNat ent rest e) c.toNat) c.toNat t
    have hth1 : thOf (takeEffect s c.toNat ent rest e) c.toNat t = thOf s c.toNat t := by
      rw [htake, ← hth]
      unfold thOf
      rw [coreOf_setCore]
      rfl
    rw [hth1] at hflags
    exact ⟨hkept.v.trans (by rw [hflags]), hkept.sbV.trans (by rw [hflags])⟩

theorem headDone_mswap {m : Matrix} {ent : MxEnt} {e : Nat} (h : ent.kind = .mswap) :
    headDone m ent e = swapBanks { m with lastEnd := some e } e := by
  rw [headDone, h]

theorem headDone_mzero {m : Matrix} {ent : MxEnt} {e : Nat} (h : ent.kind = .mzero) :
    headDone m ent e = { m with lastEnd := some e, acc := [], ident := opIdent (cOp m.cfg) } := by
  rw [headDone, h]

theorem headDone_mcfg {m : Matrix} {ent : MxEnt} {e : Nat} {cfg : MxCfg} (h : ent.kind = .mcfg cfg) :
    headDone m ent e = applyCfg { m with lastEnd := some e } cfg := by
  rw [headDone, h]

theorem headDone_mrel {m : Matrix} {ent : MxEnt} {e : Nat} (h : ent.kind = .mrel) :
    headDone m ent e = { m with lastEnd := some e, owner := if m.owner = some ent.t then none else m.owner } := by
  rw [headDone, h]

theorem headDone_mpass {m : Matrix} {ent : MxEnt} {e n : Nat} {sa : Word} {r d : Bool} (h : ent.kind = .mpass sa n r d) :
    headDone m ent e = startPass m ent sa n e := by
  rw [headDone, h]

theorem headDone_mrd {m : Matrix} {ent : MxEnt} {e : Nat} {d : BitVec 5} {f : BitVec 4} {sat : Bool} {r : Rm}
    (h : ent.kind = .mrd d f sat r) : (headDone m ent e).read =
      let v := mrdValue m ((fmtOfCode f.toNat).getD .fp64) ent.seed r sat
      some { due := e + 4, t := ent.t, d := d, val := v.1, flags := engBits v.2 } := by
  rw [headDone, h]

/-- R186: an entry that no row has reached holds the identity in force. -/
theorem entryAt_of_cleared {m : Matrix} (h : m.acc = []) (i n : Nat) : entryAt m i n = m.ident := by
  unfold entryAt
  rw [h]
  rfl

/-- R189: an MCFG that keeps format and order keeps the entries. -/
theorem applyCfg_same {m : Matrix} {k : MxCfg} (hf : cForm k = cForm m.cfg) (ho : cOrd k = cOrd m.cfg) : (applyCfg m k).acc = m.acc := by
  unfold applyCfg
  rw [hf, ho, if_neg (by simp)]

/-- R186, R189: an MCFG of another format clears them. -/
theorem applyCfg_other {m : Matrix} {k : MxCfg} (hf : cForm k ≠ cForm m.cfg) :
    (applyCfg m k).acc = [] ∧ (applyCfg m k).ident = opIdent (cOp k) := by
  unfold applyCfg
  rw [if_pos (by simp [hf])]
  exact ⟨rfl, rfl⟩

theorem applyCfg_cfg (m : Matrix) (k : MxCfg) : (applyCfg m k).cfg = k := by
  unfold applyCfg
  dsimp only
  split <;> rfl

/-- R192: an MPASS with rows begins a pass. -/
theorem startPass_pass (m : Matrix) (ent : MxEnt) (sa : Word) (n e : Nat) (hn : 0 < n) :
    ∃ p, (startPass m ent sa n e).pass = some p ∧ p.t = ent.t ∧ p.rows = n ∧ p.sa = sa ∧ p.start = e ∧ p.next = 0 ∧ p.cfg = m.cfg ∧
      p.susp = false := by
  unfold startPass
  dsimp only
  rw [if_neg hn.ne']
  exact ⟨_, rfl, rfl, rfl, rfl, rfl, rfl, rfl, rfl⟩

/-- R81, R132, R203: MATRIX_EFFECT while a read-out is to be written. -/
theorem exec_matrixEffect_read {c : BitVec 8} {s : State} {r : MxRead} (h : (coreOf s c.toNat).mx.read = some r) :
    exec (.matrixEffect c) s = .next (wake (writeRead s c.toNat r) c.toNat) := by
  show execMatrixEffect c s = _
  unfold execMatrixEffect
  dsimp only
  rw [h]

/-- R81, R203: what the write of a read-out leaves of its core. -/
theorem coreOf_writeRead (s : State) (c : Nat) (r : MxRead) : coreOf (writeRead s c r) c = { coreOf s c with
    th := (coreOf (writeRead s c r) c).th, clk := max (coreOf s c).clk r.due, mx := { (coreOf s c).mx with read := none } } := by
  unfold writeRead setTh
  dsimp only
  rw [coreOf_setCore, coreOf_setCore]

/-- R81, R203: what the write of a read-out leaves of its thread. -/
theorem thOf_writeRead (s : State) (c : Nat) (r : MxRead) : thOf (writeRead s c r) c r.t =
    { clearBusy (putV (thOf s c r.t) r.d r.val) (.v r.d) with nflags := orEngine (thOf s c r.t).nflags .matrix r.flags } := by
  have hth (k : Nat) (m : Matrix) : thOf (setCore s c { coreOf s c with clk := k, mx := m }) c r.t = thOf s c r.t := by
    unfold thOf
    rw [coreOf_setCore]
    rfl
  unfold writeRead
  dsimp only
  rw [thOf_setTh, hth]

end Sys2Proof.Machine

open Sys2Proof Sys2Proof.Machine

/-- Settles O27: an effect by `exec_matrixEffect_head` and what its entry's kind does (`headDone`), a read-out's write by `thOf_writeRead`. -/
theorem matrixEffects : Obligations.MatrixEffects := by
  refine ⟨?_, ?_⟩
  · intro c s ent rest e k hread hq hpass hrows hclear hdrains he
    obtain ⟨s', m1, l, hexec, hbefore, hmx, hclk, hmem, hregs⟩ := exec_matrixEffect_head hread hq hpass hrows hclear hdrains he
    unfold BeforeEffect at hbefore
    refine ⟨s', hexec, ?_, hclk, hmem, effectClock_gt he, fun hk => ?_, fun hk i n => ?_, fun cfg hk => ⟨?_, fun hf ho => ?_, fun hf i n => ?_⟩,
      fun hk ho => ?_, fun sa n r d hk hn => ?_, fun d f sat r hk => ?_⟩
    · rw [hmx]
      show (headDone m1 ent e).q = rest
      rw [headDone_q, hbefore]
    · rw [hmx, headDone_mswap hk, hbefore]
      exact ⟨rfl, rfl⟩
    · rw [entryAt_of_cleared (by rw [hmx, headDone_mzero hk]), hmx, headDone_mzero hk, hbefore]
    · rw [hmx, headDone_mcfg hk]
      exact applyCfg_cfg ..
    · rw [hmx, headDone_mcfg hk]
      refine (applyCfg_same ?_ ?_).trans ?_
      all_goals rw [hbefore]
      · exact hf
      · exact ho
    · obtain ⟨hacc, hident⟩ := applyCfg_other (m := { m1 with lastEnd := some e }) (k := cfg) (by rw [hbefore]; exact hf)
      rw [entryAt_of_cleared (by rw [hmx, headDone_mcfg hk]; exact hacc), hmx, headDone_mcfg hk]
      exact hident
    · rw [hmx, headDone_mrel hk]
      refine if_pos ?_
      rw [hbefore]
      exact ho
    · obtain ⟨p, hp, ht, hrowsN, hsa, hstart, hnext, hcfg, hsusp⟩ := startPass_pass m1 ent sa n e hn
      refine ⟨p, ?_, ht, hrowsN, hsa, hstart, hnext, hcfg.trans ?_, hsusp⟩
      · rw [hmx, headDone_mpass hk]
        exact hp
      · rw [hbefore]
    · intro v
      refine ⟨?_, hregs ent.t⟩
      have hv : mrdValue m1 ((fmtOfCode f.toNat).getD .fp64) ent.seed r sat = v := by
        refine mrdValue_congr ?_ ?_ ?_ ?_ _ _ _ _ <;> rw [hbefore]
      rw [hmx, ← hv]
      exact headDone_mrd hk
  · intro c s r hread
    have hkept := regsKept_wake (writeRead s c.toNat r) c.toNat r.t
    have hth := thOf_writeRead s c.toNat r
    have hcore := coreOf_writeRead s c.toNat r
    refine ⟨_, exec_matrixEffect_read hread, ?_, ?_, sameMemory_wake .., ?_, ?_, fun d hd => ?_, ?_⟩
    · rw [wake_mx, hcore]
    · rw [wake_clk, hcore]
    · rw [hkept.getV, hth]
      exact (getV_putV_same ..)
    · rw [hkept.regBusy, hth]
      exact regBusy_clearBusy_same (putV _ _ _) (.v r.d)
    · rw [hkept.getV, hth]
      exact getV_putV_ne _ _ _ _ hd
    · rw [hkept.nflags, hth]
      rfl

end

section
/-!
SUPPORT. Hand-offs to the matrix unit (O26): the unit as a thread acquires it, an instruction that joins the queue, and the exposure of
one that comes too soon.
-/

namespace Sys2Proof.Machine

/-- R128: the unit as thread t acquires it in its own world. -/
def Acquired (m n : Matrix) (t : Nat) : Prop :=
  n = { m with owner := some t, passHanded := n.passHanded } ∧ (m.owner = some t → n.passHanded = m.passHanded) ∧
    (m.owner ≠ some t → n.passHanded = false)

theorem acquired_mxAcquire {m : Matrix} {t : Nat} {w : World} (h : m.owner = some t ∨ m.owner = none ∧ m.world = some w) :
    Acquired m (mxAcquire m t w) t := by
  unfold mxAcquire
  by_cases ho : m.owner = some t
  · rw [if_pos ho]
    refine ⟨?_, fun _ => rfl, fun hne => absurd ho hne⟩
    rw [← ho]
  · obtain ⟨-, hw⟩ := h.resolve_left ho
    rw [if_neg ho]
    dsimp only
    rw [hw]
    dsimp only
    rw [if_pos rfl]
    refine ⟨?_, fun hown => absurd hown ho, fun _ => rfl⟩
    rw [hw]

/-- R108, R113, R127, R128: every matrix instruction that issues reaches the unit, as its thread acquires it. -/
theorem mxHand_of_ready {c : BitVec 8} {s : State} {t : Nat} (hready : MxReady s c t) :
    ∃ m, Acquired (coreOf s c.toNat).mx m t ∧ mxRoom m = true ∧ m.clearing = false ∧ ∀ regs, CanIssue s c t 4#18 regs →
      ∀ body, mxHand c regs false body s = body t (thOf s c.toNat t) m s := by
  obtain ⟨hilv, hsusp, hcols, hstore, hforced, howner, hrel, hroom, hclear⟩ := hready
  have hacq := acquired_mxAcquire howner
  obtain ⟨hm, -⟩ := id hacq
  refine ⟨_, hacq, by rw [hm]; exact decide_eq_true hroom, by rw [hm]; exact hclear, fun regs hissue body => ?_⟩
  have hnone : ((coreOf s c.toNat).mx.q.any fun e => e.t == t && e.kind == .mrel) = false := by simpa using hrel
  unfold mxHand
  rw [issue_of_canIssue _ _ _ _ _ _ hissue]
  dsimp only
  rw [hilv, hsusp, hcols, hstore, hforced, hnone]
  rw [if_neg (by decide), if_neg (by decide), if_neg (by decide)]
  refine if_neg ?_
  rcases howner with howner | ⟨howner, -⟩ <;> simp [howner]

/-- R129: an entry is an MPASS. -/
def isMpass (kind : MxKind) : Bool := match kind with | .mpass _ _ _ _ => true | _ => false

/-- R129, R132: the entry of an instruction that thread t hands off to the unit m. -/
def mxEntry (u : State) (c t : Nat) (m : Matrix) (kind : MxKind) (wait : Nat) : MxEnt where
  t := t
  kind := kind
  wait := if isMpass kind || m.passHanded then wait else 0
  handoff := (coreOf u c).clk + 2
  seed := seedOf u (thOf u c t)
  dyn := (thOf u c t).rm.toNat
  spass := latestSpass (coreOf u c)
  pred := none

/-- A command of one thread leaves the matrix unit. -/
theorem mx_of_onlyThread {s s' : State} {c t : Nat} (h : OnlyThread s s' c t) : (coreOf s' c).mx = (coreOf s c).mx := by
  obtain ⟨-, -, -, _, _, _, _, _, _, _, _, hcore⟩ := h
  rw [hcore]

/-- R129, R136: an instruction joins the queue. -/
theorem mxPush_queued {u : State} {c : BitVec 8} {t : Nat} {m : Matrix} (hq : m.q = (coreOf u c.toNat).mx.q) (hroom : mxRoom m = true)
    (howner : m.owner = some t) (hhanded : (coreOf u c.toNat).mx.owner = some t → m.passHanded = (coreOf u c.toNat).mx.passHanded)
    (kind : MxKind) (wait : Nat) (mark : List Reg) :
    ∃ s' q p, mxPush u c.toNat t (thOf u c.toNat t) m kind wait mark = catchUp s' c.toNat ∧ MxQueued u s' c t kind wait mark ∧
      (coreOf s' c.toNat).mx = { m with q := q, passHanded := p } := by
  have hfree : ¬ decide (4 ≤ m.q.length + b2n m.pass.isSome) = true := by
    unfold mxRoom at hroom
    simpa using hroom
  unfold mxPush
  dsimp only
  rw [if_neg hfree]
  obtain ⟨s', st, w, hret, hth, honly, hclk⟩ := retire_spec (setMx u c.toNat { m with
    q := m.q ++ [mxEntry u c.toNat t m kind wait], passHanded := m.passHanded || isMpass kind }) c.toNat t
    (mark.foldl markBusy (thOf u c.toNat t)) ((thOf u c.toNat t).pc + 4#18) 2
  have hmx := mx_of_onlyThread honly
  rw [coreOf_setMx] at hmx hclk
  rw [foldl_markBusy_icount] at hth
  refine ⟨s', _, _, hret, ⟨⟨mxEntry u c.toNat t m kind wait, ?_, rfl, rfl, rfl, fun hown hhand => ?_⟩, ?_, hclk, ?_, st, w, hth⟩, hmx⟩
  · rw [hmx, ← hq]
  · exact if_pos (by rw [hhanded hown, hhand, Bool.or_true])
  · rw [hmx]
    exact howner
  · exact sameMemory_trans (sameMemory_setCore ..) honly.sameMemory

/-- R299: the translation of addresses leaves the matrix unit. -/
theorem mx_touchAt (s : State) (c t : Nat) (need : List Nat) (va n : Nat) :
    (coreOf (touchAt s c t need va n) c).mx = (coreOf s c).mx := by
  have hcap (s : State) (w : World) : (coreOf (countCapRef s w) c).mx = (coreOf s c).mx := by cases w <;> rfl
  unfold touchAt
  dsimp only
  split
  · rfl
  · rename_i k g _ _
    have hmiss : (coreOf (if bufHit s c (thOf s c t).cx.toNat k then touchBuf s c (thOf s c t).cx.toNat k g
        else setCore (touchBuf s c (thOf s c t).cx.toNat k g) c
          (spend (coreOf (touchBuf s c (thOf s c t).cx.toNat k g) c) t 10)) c).mx = (coreOf s c).mx := by
      split
      · rfl
      · obtain ⟨p, q, w, h⟩ := spend_eq (coreOf (touchBuf s c (thOf s c t).cx.toNat k g) c) t 10
        rw [coreOf_setCore, h]
        rfl
    split
    · exact (hcap _ _).trans hmiss
    · exact hmiss

theorem mx_touchFrom (c t : Nat) (need : List Nat) (f : Nat) : ∀ (va n : Nat) (s : State),
    (coreOf (touchFrom c t need f va n s) c).mx = (coreOf s c).mx := by
  induction f with
  | zero => exact fun _ _ s => rfl
  | succ f ih =>
    intro va n s
    unfold touchFrom
    split
    · rfl
    · exact (ih _ _ _).trans (mx_touchAt s c t need _ _)

theorem mx_unitTouch (c t : Nat) (need : List Nat) (rs : List (Nat × Nat)) : ∀ s : State,
    (coreOf (unitTouch s c t need rs) c).mx = (coreOf s c).mx := by
  induction rs with
  | nil => exact fun s => rfl
  | cons r rs ih => exact fun s => (ih _).trans (mx_touchFrom c t need _ _ _ s)

theorem Translated.sameMemory {s u : State} {c : Nat} (h : Translated s u c) : SameMemory s u := by
  obtain ⟨hrest, -⟩ := h
  rw [hrest]
  exact sameMemory_rfl s

/-- R297: operands that no two segments translate. -/
theorem multiOr_none {s : State} {c t : Nat} (x : Thread) {rs : List (Nat × Nat)} (go : State → State) (h : firstMulti s c t rs = none) :
    multiOr s c t x rs go = go s := by
  unfold multiOr
  rw [h]

/-- R132: a distance that is kept exposes nothing. -/
theorem waitShort_of_far {m n : Matrix} {t least wait : Nat} (h : Acquired m n t) (kind : Nat)
    (hfar : m.owner = some t → m.passHanded = true → least ≤ wait) : waitShort n kind least wait = [] := by
  obtain ⟨-, hsame, hfresh⟩ := h
  unfold waitShort
  refine if_neg ?_
  by_cases ho : m.owner = some t
  · rw [hsame ho]
    simpa using hfar ho
  · rw [hfresh ho]
    exact Bool.false_ne_true

/-- R131: the bank that a load begins to fill. -/
theorem beginLoad_spec (m : Matrix) (t : Nat) (fmt : BitVec 4) (sp : Bool) (src : List (Nat × Nat)) (handoff clocks : Nat) :
    let n := beginLoad m t fmt sp src handoff clocks
    n.loading = some (!m.hact) ∧ n.loadEnd = handoff + clocks ∧ n.loadSrc = src ∧ bankFmt (bankOf n (!m.hact)) = some fmt ∧
      bankSp (bankOf n (!m.hact)) = sp ∧ bankOf n m.hact = bankOf m m.hact := by
  unfold beginLoad
  cases m.hact <;> exact ⟨rfl, rfl, rfl, rfl, rfl, rfl⟩

/-- R204: whether the next pass drains. -/
theorem kstep_drains (k : MxCfg) (count : Nat) : (kstep k count).2 = decide (cKsteps k ≠ 0 ∧ count + 1 = cKsteps k) := by
  unfold kstep
  by_cases h0 : cKsteps k = 0
  · simp [h0]
  · by_cases h1 : count + 1 = cKsteps k
    · simp [h0, h1]
    · simp [h0, h1]

section

variable {c : BitVec 8} {s : State} {t : Nat} {m : Matrix} {a b vd : BitVec 5} {wait : BitVec 7}

/-- R131, R194, R195: MLOAD at hand-off. -/
theorem mload_handOff {fmt : BitVec 4} {sp24 : Bool} {cls : MClass}
    (hhand : ∀ body, mxHand c [.s a, .s b] false body s = body t (thOf s c.toNat t) m s) (hclear : m.clearing = false)
    (hcls : classOfFmt fmt.toNat = some cls) (hsp : sp24 = true → cls ≠ .s ∧ cls ≠ .d) (hload : m.loading = none)
    (hswap : ∀ e ∈ m.q, e.kind ≠ .mswap) :
    let rs := mloadRanges cls sp24 (getS (thOf s c.toNat t) a).toNat (getS (thOf s c.toNat t) b).toNat
    let u := unitTouch s c.toNat t [rRD] rs
    (∀ r ∈ rs, r.1 % 64 = 0) → firstRangeFail u c.toNat t [rRD] rs = none → firstMulti u c.toNat t rs = none →
      exec (.mload c a b fmt sp24 0#11) s = .next (retire (setMx u c.toNat (beginLoad m t fmt sp24 (loadPieces u c.toNat t rs)
        ((coreOf u c.toNat).clk + 2) (loadClocks cls sp24))) c.toNat t (thOf s c.toNat t) ((thOf s c.toNat t).pc + 4#18) 2) := by
  intro rs u halign hfits hsingle
  refine congrArg Host.Outcome.next ((hhand _).trans ?_)
  have hnoswap : (m.q.any fun e => e.kind == .mswap) = false := by simpa using hswap
  have hfind : (rs.find? fun r => r.1 % 64 != 0) = none := by simpa using halign
  have hplain : ¬ (sp24 && (cls == .s || cls == .d)) = true := by simpa using hsp
  rw [hcls]
  dsimp only
  rw [if_neg hplain, hclear, if_neg Bool.false_ne_true, hload, hnoswap, if_neg (by decide)]
  show (match rs.find? fun r => r.1 % 64 != 0 with | some r => _ | none => _) = _
  rw [hfind]
  dsimp only
  rw [hfits]
  exact multiOr_none _ _ hsingle

/-- R184, R191: MPASS at hand-off. -/
theorem mpass_handOff {sref : Bool} (hhand : ∀ body, mxHand c [.s a, .s b] false body s = body t (thOf s c.toNat t) m s)
    (hroom : mxRoom m = true) :
    let sa := (getS (thOf s c.toNat t) a).toNat
    let n := (getS (thOf s c.toNat t) b).toNat % 2 ^ 24
    let ins := mpassSpan m.hcfg (handSp m) sa n :: mpassSide m.hcfg (handSp m) n
    let u := unitTouch s c.toNat t [rRD] ins
    let outs := if (kstep m.hcfg m.hkcount).2 then drainRanges u c.toNat t m.hcfg n else []
    let v := unitTouch u c.toNat t [rWR] outs
    mpassBad m n = false → sa % 64 = 0 → mpassFails u c.toNat t m.hcfg (handSp m) sa n = none →
      firstRangeFail v c.toNat t [rWR] outs = none → firstMulti v c.toNat t (ins ++ outs) = none →
      exec (.mpass c a b wait sref 0#8) s = .next (mxPush v c.toNat t (thOf s c.toNat t)
        { m with hkcount := (kstep m.hcfg m.hkcount).1 }
        (.mpass (getS (thOf s c.toNat t) a) n sref (kstep m.hcfg m.hkcount).2) wait.toNat []) := by
  intro sa n ins u outs v hbad halign hread hwrite hsingle
  refine congrArg Host.Outcome.next ((hhand _).trans ?_)
  have hn : field (getS (thOf s c.toNat t) b).toNat 0 24 = n := by simp [field, n]
  dsimp only
  rw [hn, hbad, if_neg Bool.false_ne_true, if_neg (by simpa using halign), hroom, if_neg (by decide)]
  show (match mpassFails u c.toNat t m.hcfg (handSp m) sa n with
    | some e => mxFault u c.toNat t (thOf s c.toNat t) e sa
    | none => if (firstRangeFail v c.toNat t [rWR] outs).isSome then mxFault v c.toNat t (thOf s c.toNat t) cSegf sa
      else multiOr v c.toNat t (thOf s c.toNat t) (ins ++ outs) _) = _
  rw [hread]
  dsimp only
  rw [hwrite, if_neg (by decide)]
  exact multiOr_none _ _ hsingle

/-- R132, R195: MSWAP at hand-off, no load under way. -/
theorem mswap_handOff (hhand : ∀ body, mxHand c [] false body s = body t (thOf s c.toNat t) m s) (hroom : mxRoom m = true)
    (hload : m.loading = none) : exec (.mswap c wait 0#10) s = .next (exposeOr s c.toNat t (thOf s c.toNat t)
      (worseExposure (waitShort m 1 64 wait.toNat))
      fun x s => mxPush s c.toNat t x { m with hact := !m.hact } .mswap wait.toNat []) := by
  refine congrArg Host.Outcome.next ((hhand _).trans ?_)
  dsimp only
  rw [hroom, if_neg (by decide), hload, if_neg (by simp), List.append_nil]

/-- R132, R188: MZERO at hand-off. -/
theorem mzero_handOff (hhand : ∀ body, mxHand c [] false body s = body t (thOf s c.toNat t) m s) (hroom : mxRoom m = true) :
    exec (.mzero c wait 0#10) s = .next (exposeOr s c.toNat t (thOf s c.toNat t) (worseExposure (waitShort m 4 72 wait.toNat))
      fun x s => mxPush s c.toNat t x m .mzero wait.toNat []) := by
  refine congrArg Host.Outcome.next ((hhand _).trans ?_)
  rw [hroom, if_neg (by decide)]

/-- R132, R203: MRD at hand-off. -/
theorem mrd_handOff {tfmt : BitVec 4} {sat : Bool} {rm : BitVec 3}
    (hhand : ∀ body, mxHand c [.v vd] false body s = body t (thOf s c.toNat t) m s) (hroom : mxRoom m = true)
    (hok : readOutOk (cForm m.hcfg) (cOrd m.hcfg) tfmt.toNat = true) : exec (.mrd c vd tfmt sat rm wait 0#6) s =
      .next (exposeOr s c.toNat t (thOf s c.toNat t) (worseExposure (waitShort m 3 72 wait.toNat)) fun x s =>
        mxPush s c.toNat t x m (.mrd vd tfmt sat (resolveRm rm.toNat x.rm.toNat)) wait.toNat [.v vd]) := by
  refine congrArg Host.Outcome.next ((hhand _).trans ?_)
  rw [hok, hroom, if_neg (by decide), if_neg (by decide)]

/-- R189, R190: MCFG at hand-off. -/
theorem mcfg_handOff (hhand : ∀ body, mxHand c [.s a] false body s = body t (thOf s c.toNat t) m s) (hroom : mxRoom m = true) :
    let sa := (getS (thOf s c.toNat t) a).toNat
    let u := unitTouch s c.toNat t [rRD] [(sa, 88)]
    let cfg := cfgOfWords fun i => (wordsOf 11 (unitRead u c.toNat t sa 88)).getD i 0#64
    sa % 8 = 0 → spadFail u c.toNat t [rRD] sa 88 = none → firstMulti u c.toNat t [(sa, 88)] = none →
      unitPoison u c.toNat t sa 88 = false → cfgBad cfg = false →
      exec (.mcfg c a 0#7 0#10) s = .next (mxPush u c.toNat t (thOf s c.toNat t)
        { m with hcfg := cfg, hkcount := if cKsteps cfg = cKsteps m.hcfg then m.hkcount else 0 } (.mcfg cfg) 0 []) := by
  intro sa u cfg halign hread hsingle hclean hgood
  refine congrArg Host.Outcome.next ((hhand _).trans ?_)
  dsimp only
  rw [if_neg (by simpa using halign), hroom, if_neg (by decide)]
  show (match spadFail u c.toNat t [rRD] sa 88 with
    | some va => _
    | none => _) = _
  rw [hread]
  dsimp only
  rw [multiOr_none _ _ hsingle, hclean, if_neg Bool.false_ne_true]
  exact if_neg (ne_true_of_eq_false hgood)

/-- R132: a hand-off far enough behind every MPASS. -/
theorem exposeOr_far {n : Matrix} {kind least : Nat} (x : Thread) (go : Thread → State → State) (hacq : Acquired n m t)
    (hfar : n.owner = some t → n.passHanded = true → least ≤ wait.toNat) :
    exposeOr s c.toNat t x (worseExposure (waitShort m kind least wait.toNat)) go = go x s := by
  rw [waitShort_of_far hacq kind hfar]
  rfl

/-- R132, R133: a hand-off too soon behind an MPASS. -/
theorem exposeOr_near {n : Matrix} {kind least : Nat} (go : Thread → State → State) (hacq : Acquired n m t) (ho : n.owner = some t)
    (hh : n.passHanded = true) (hx : (thOf s c.toNat t).exm = false) (hb : (thOf s c.toNat t).sb = []) (hnear : wait.toNat < least)
    (hk : kind < 8) (hl : least < 256) : ∃ s',
      exposeOr s c.toNat t (thOf s c.toNat t) (worseExposure (waitShort m kind least wait.toNat)) go = catchUp s' c.toNat ∧
      EntersAt (coreOf s c.toNat) t (thOf s c.toNat t) (thOf s' c.toNat t) 0x06 0#64 (thOf s c.toNat t).pc 0#18 ∧
      (thOf s' c.toNat t).xexpKind.toNat = kind ∧ (thOf s' c.toNat t).xexpShort.toNat = least - wait.toNat ∧
      (coreOf s' c.toNat).mx = (coreOf s c.toNat).mx := by
  obtain ⟨-, hsame, -⟩ := hacq
  have hshort : waitShort m kind least wait.toNat = [(kind, least - wait.toNat)] :=
    if_pos (by rw [hsame ho, hh]; exact decide_eq_true hnear)
  generalize hy : ({ thOf s c.toNat t with
    xexpKind := BitVec.ofNat 3 kind, xexpShort := BitVec.ofNat 8 (min (least - wait.toNat) 0xFF) } : Thread) = y
  have hexp : exposeOr s c.toNat t (thOf s c.toNat t) (worseExposure (waitShort m kind least wait.toNat)) go =
      enter s c.toNat t y cExpose 0#64 (thOf s c.toNat t).pc 0#18 2 := by
    rw [hshort, ← hy]
    exact if_neg (ne_true_of_eq_false hx)
  have hkept : EntryKept (thOf s c.toNat t) y := by
    rw [← hy]
    exact ⟨rfl, rfl, rfl, rfl, rfl, rfl, rfl, rfl, rfl⟩
  obtain ⟨hkind, hlack⟩ : y.xexpKind.toNat = kind ∧ y.xexpShort.toNat = least - wait.toNat := by
    rw [← hy]
    simp only [BitVec.toNat_ofNat]
    omega
  have hstores : applyStores s y.sb = s := by
    rw [← hy]
    show applyStores s (thOf s c.toNat t).sb = s
    rw [hb]
    rfl
  rw [hexp]
  unfold enter
  rw [hstores]
  refine ⟨_, rfl, ?_, ?_, ?_, ?_⟩
  · rw [thOf_held]
    exact entersAt_of_kept _ t hkept cExpose 0#64 (thOf s c.toNat t).pc 0#18
  · rw [thOf_held]
    split <;> exact hkind
  · rw [thOf_held]
    split <;> exact hlack
  · exact mx_of_onlyThread (onlyThread_held ..)

/-- R131: an MLOAD that completes. -/
theorem retire_load {u : State} {n : Matrix} (htr : Translated s u c.toNat) (x : Thread) (pc : BitVec 18) :
    ∃ s', retire (setMx u c.toNat n) c.toNat t x pc 2 = catchUp s' c.toNat ∧ (coreOf s' c.toNat).mx = n ∧
      (thOf s' c.toNat t).pc = pc ∧ SameMemory s s' := by
  obtain ⟨s', st, w, hret, hth, honly, -⟩ := retire_spec (setMx u c.toNat n) c.toNat t x pc 2
  have hmx := mx_of_onlyThread honly
  rw [coreOf_setMx] at hmx
  exact ⟨s', hret, hmx, by rw [hth], sameMemory_trans htr.sameMemory (sameMemory_trans (sameMemory_setCore ..) honly.sameMemory)⟩

/-- R129, R136: an instruction whose operands have been translated joins the queue of the unit that its thread has acquired; what the
hand-off changed of the unit beside the queue stays. -/
theorem mxPush_acquired {u : State} {n : Matrix} (htr : Translated s u c.toNat) (hmx : (coreOf u c.toNat).mx = (coreOf s c.toNat).mx)
    (hacq : Acquired (coreOf s c.toNat).mx m t) (hroom : mxRoom m = true) (hq : n.q = m.q) (hp : n.pass = m.pass)
    (ho : n.owner = m.owner) (hh : n.passHanded = m.passHanded) (kind : MxKind) (wait : Nat) (mark : List Reg) :
    ∃ s' q p, mxPush u c.toNat t (thOf s c.toNat t) n kind wait mark = catchUp s' c.toNat ∧ MxQueued u s' c t kind wait mark ∧
      (coreOf s' c.toNat).mx = { n with q := q, passHanded := p } := by
  obtain ⟨hm, hsame, -⟩ := hacq
  have hmq : m.q = (coreOf s c.toNat).mx.q := by rw [hm]
  have hmo : m.owner = some t := by rw [hm]
  have hroom' : mxRoom n = true := by
    unfold mxRoom at *
    rw [hq, hp]
    exact hroom
  rw [← htr.thOf t]
  exact mxPush_queued (by rw [hq, hmq, hmx]) hroom' (by rw [ho, hmo]) (by rw [hh, hmx]; exact hsame) kind wait mark

end

theorem matrixHandOffs : MatrixHandOffs := by
  intro c vd a b fmt tfmt sp24 sref sat rm wait s t hissue hready x k sa sb n far
  obtain ⟨m, hacq, hroom, hclear, hhand⟩ := mxHand_of_ready hready
  obtain ⟨hm, -⟩ := id hacq
  have hhcfg : m.hcfg = k.mx.hcfg := by rw [hm]
  have hcount : m.hkcount = k.mx.hkcount := by rw [hm]
  have hload : m.loading = k.mx.loading := by rw [hm]
  have hact : m.hact = k.mx.hact := by rw [hm]
  have hq : m.q = k.mx.q := by rw [hm]
  have hsp : handSp m = handSp k.mx := by rw [hm]; rfl
  have hbank (i : Bool) : bankOf m i = bankOf k.mx i := by rw [hm]; rfl
  have hnone := hhand [] (canIssue_of_subset hissue (List.nil_subset _))
  have hab := hhand [.s a, .s b] (canIssue_of_subset hissue (by simp))
  have ha := hhand [.s a] (canIssue_of_subset hissue (by simp))
  have hvd := hhand [.v vd] (canIssue_of_subset hissue (by simp))
  have hself := translated_rfl s c.toNat
  refine ⟨?_, ?_, ?_, ?_, ?_, ?_, ?_⟩
  · intro cls hcls hplain hfree hswap rs u halign hfits hsingle
    obtain ⟨s', hret, hmx, hpc, hmem⟩ := retire_load (t := t) (translated_unitTouch c.toNat t [rRD] rs s)
      (n := beginLoad m t fmt sp24 (loadPieces u c.toNat t rs) ((coreOf u c.toNat).clk + 2) (loadClocks cls sp24)) x (x.pc + 4#18)
    obtain ⟨hbegun, hend, hsrc, hfmt, hsparse, hkept⟩ := beginLoad_spec m t fmt sp24 (loadPieces u c.toNat t rs) ((coreOf u c.toNat).clk + 2)
      (loadClocks cls sp24)
    refine ⟨s', (mload_handOff hab hclear hcls hplain (hload.trans hfree) (by rwa [hq]) halign hfits hsingle).trans (congrArg _ hret), ?_⟩
    rw [hact] at hbegun hfmt hsparse hkept
    rw [hmx]
    exact ⟨hbegun, hend, hsrc, hfmt, hsparse, hkept.trans (hbank _), hpc, hmem⟩
  · intro ins drains u outs v hbad halign hread hwrite hsingle
    have htr := translated_trans (translated_unitTouch c.toNat t [rRD] ins s) (translated_unitTouch c.toNat t [rWR] outs u)
    obtain ⟨s', q, p, hpush, hqueued, -⟩ := mxPush_acquired
      (n := { m with hcfg := k.mx.hcfg, hkcount := (kstep k.mx.hcfg k.mx.hkcount).1 }) htr
      ((mx_unitTouch ..).trans (mx_unitTouch ..)) hacq hroom rfl rfl rfl rfl (.mpass (getS x a) n sref drains) wait.toNat []
    have hhandOff := mpass_handOff (wait := wait) (sref := sref) hab hroom
    rw [hhcfg, hsp, hcount, kstep_drains] at hhandOff
    have hbad' : mpassBad m n = false := by rw [hm]; exact hbad
    obtain ⟨-, -, -, hmem, -⟩ := id hqueued
    exact ⟨s', (hhandOff hbad' halign hread hwrite hsingle).trans (congrArg _ hpush), hqueued,
      sameMemory_trans htr.sameMemory hmem⟩
  · intro hfar hfree
    obtain ⟨s', q, p, hpush, hqueued, hmx⟩ := mxPush_acquired (n := { m with hact := !m.hact }) hself rfl hacq hroom rfl rfl rfl rfl
      .mswap wait.toNat []
    refine ⟨s', ?_, hqueued, ?_⟩
    · rw [mswap_handOff hnone hroom (hload.trans hfree), exposeOr_far _ _ hacq hfar]
      exact congrArg _ hpush
    · rw [hmx, hact]
  · intro hfar
    obtain ⟨s', q, p, hpush, hqueued, -⟩ := mxPush_acquired (n := m) hself rfl hacq hroom rfl rfl rfl rfl .mzero wait.toNat []
    refine ⟨s', ?_, hqueued⟩
    rw [mzero_handOff hnone hroom, exposeOr_far _ _ hacq hfar]
    exact congrArg _ hpush
  · intro u cfg halign hread hsingle hclean hgood
    obtain ⟨s', q, p, hpush, hqueued, hmx⟩ := mxPush_acquired
      (n := { m with hcfg := cfg, hkcount := if cKsteps cfg = cKsteps m.hcfg then m.hkcount else 0 })
      (translated_unitTouch c.toNat t [rRD] [(sa, 88)] s) (mx_unitTouch ..) hacq hroom rfl rfl rfl rfl (.mcfg cfg) 0 []
    exact ⟨s', (mcfg_handOff ha hroom halign hread hsingle hclean hgood).trans (congrArg _ hpush), hqueued, by rw [hmx]⟩
  · obtain ⟨s', q, p, hpush, hqueued, -⟩ := mxPush_acquired (n := m) hself rfl hacq hroom rfl rfl rfl rfl .mrel 0 []
    exact ⟨s', congrArg Host.Outcome.next ((hnone _).trans hpush), hqueued⟩
  · intro hok hfar
    obtain ⟨s', q, p, hpush, hqueued, -⟩ := mxPush_acquired (n := m) hself rfl hacq hroom rfl rfl rfl rfl
      (.mrd vd tfmt sat (resolveRm rm.toNat x.rm.toNat)) wait.toNat [.v vd]
    refine ⟨s', _, ?_, hqueued⟩
    rw [mrd_handOff hvd hroom (by rwa [hhcfg]), exposeOr_far _ _ hacq hfar]
    exact congrArg _ hpush

theorem exposedHandOffs : ExposedHandOffs := by
  intro c vd tfmt sat rm wait s t hissue hready x k exposed howner hhanded hfree hx hb
  obtain ⟨m, hacq, hroom, hclear, hhand⟩ := mxHand_of_ready hready
  obtain ⟨hm, -⟩ := id hacq
  have hhcfg : m.hcfg = k.mx.hcfg := by rw [hm]
  have hload : m.loading = none := by rw [hm]; exact hfree
  have hnone := hhand [] (canIssue_of_subset hissue (List.nil_subset _))
  have near {i : Instr} {kind least : Nat} {go : Thread → State → State} (hnear : wait.toNat < least) (hk : kind < 8) (hl : least < 256)
      (hexec : exec i s = .next (exposeOr s c.toNat t x (worseExposure (waitShort m kind least wait.toNat)) go)) :
      exposed i kind least := by
    obtain ⟨s', hexp, hspec⟩ := exposeOr_near go hacq howner hhanded hx hb hnear hk hl
    exact ⟨s', hexec.trans (congrArg _ hexp), hspec⟩
  exact ⟨fun h => near h (by decide) (by decide) (mswap_handOff hnone hroom hload),
    fun h => near h (by decide) (by decide) (mzero_handOff hnone hroom),
    fun h hok => near h (by decide) (by decide) (mrd_handOff (hhand _ hissue) hroom (by rwa [hhcfg]))⟩

end Sys2Proof.Machine

open Sys2Proof Sys2Proof.Machine

/-- Settles O26: each instruction that reaches the unit by its `…_handOff` lemma, queued by `mxPush_acquired` or exposed by
`exposeOr_near`. -/
theorem matrixInstructions : Obligations.MatrixInstructions := ⟨matrixHandOffs, exposedHandOffs⟩

end

section
/-!
SUPPORT. Passes of vector instructions on registers (O20 to O23): what any such instruction gives at the head of the queue, from what its
body computes of its thread's registers.
-/

namespace Sys2Proof.Machine

/-- R53: where every condition would pass without a trap, each does. -/
theorem noTrap_of_all {e : VEnt} (h : NoTrap e 31#5) (g : BitVec 5) : NoTrap e g := by
  rcases h with h | h
  · have hte : e.te = 0#5 := by rwa [show (31#5 : BitVec 5) = BitVec.allOnes 5 from rfl, BitVec.allOnes_and] at h
    exact .inl (by rw [hte, BitVec.and_zero])
  · exact .inr h

theorem noTrap_none (e : VEnt) : NoTrap e 0#5 := .inl BitVec.zero_and

/-- R50: elements without a flag give none. -/
theorem allFlags_none {α : Type} (l : List α) : allFlags (l.map fun _ => noFlags) = noFlags := by
  unfold allFlags
  induction l with
  | nil => rfl
  | cons a l ih => exact ih

/-- R45, R150, R157: the pass of an instruction on registers gives what its body computes from the thread's registers with what the
hand-off latched. Of the state a body reads the seed alone, and that is latched too. -/
theorem passGives_of_body {s : State} {c : BitVec 8} {e : VEnt} {rest : List VEnt} {i : Instr} {b : VBody} {dst : List Reg} {d : VDst}
    {g : FFlags} (hhead : AtHead s c e rest i dst) (hbody : vecBody i = some b)
    (hrun : ∀ s', seedOf s' (asLatched e (thOf s c.toNat e.t)) = e.seed → b.run (asLatched e (thOf s c.toNat e.t)) s' = some (d, g))
    (hn : NoTrap e (vecBits g)) : PassGives s c e rest d (vecBits g) := by
  have hx : thOf (catchUpTo s c.toNat (passClock s c e)) c.toNat e.t = thOf s c.toNat e.t :=
    thOf_of_unitsMoved (unitsMoved_catchUpTo s c.toNat _) e.t
  have ⟨_, hinstr, _⟩ := hhead
  refine passGives_of_vecGives hhead ?_ hn
  rw [vecGives_eq hinstr hbody, hx, hrun _ (by rw [← hx]; exact seedOf_latched _ _ _)]
  rfl

/-- R153: what the active elements hold is told by their low bits. -/
theorem elemsBy_congr {old new : BitVec 8192} {w n : Nat} {m : BitVec 1024} {f g : Nat → Nat} (h : ElemsBy old new w n m f)
    (hfg : ∀ i, f i % 2 ^ w = g i % 2 ^ w) : ElemsBy old new w n m g := fun i hi => by rw [h i hi, hfg i]

theorem fmtBits_pos (f : Fmt) : 0 < fmtBits f := by cases f <;> decide

end Sys2Proof.Machine
end

section
/-!
SUPPORT. Vector integer arithmetic (O20): each operation of the vector unit on patterns is the one on two's-complement words.
-/

namespace Sys2Proof.Machine

/-- R165: an operation on patterns of width w, of which the low w bits count, is an operation on words of width w. -/
def IsWordOp (op : Nat → Nat → Nat → Nat) (f : (w : Nat) → BitVec w → BitVec w → BitVec w) : Prop :=
  ∀ w, 0 < w → ∀ x y : BitVec w, op w x.toNat y.toNat % 2 ^ w = (f w x y).toNat

theorem toNat_mod_width {w : Nat} (x : BitVec w) : x.toNat % 2 ^ w = x.toNat := Nat.mod_eq_of_lt x.isLt

/-- R32: the number that a pattern stands for is the word's. -/
theorem sint_toNat {w : Nat} (hw : 0 < w) (x : BitVec w) : sint w x.toNat = x.toInt := by
  rw [sint_of_lt w _ hw x.isLt, BitVec.toInt_eq_toNat_cond]
  push_cast
  rfl

/-- R32: a number wrapped is the word of it. -/
theorem wrapInt_eq (w : Nat) (v : Int) : wrapInt w v = (BitVec.ofInt w v).toNat := by
  rw [BitVec.toNat_ofInt, wrapInt]
  push_cast
  rfl

theorem isWordOp_add : IsWordOp (fun _ a b => a + b) fun _ x y => x + y := fun _ _ x y => (BitVec.toNat_add x y).symm

theorem isWordOp_sub : IsWordOp (fun w a b => a + 2 ^ w - b) fun _ x y => x - y := by
  intro w _ x y
  have := y.isLt
  rw [BitVec.toNat_sub]
  beta_reduce
  congr 1
  omega

theorem isWordOp_mul : IsWordOp (fun _ a b => a * b) fun _ x y => x * y := fun _ _ x y => (BitVec.toNat_mul x y).symm

/-- R165: the upper w bits of a product of 2w bits. -/
theorem extractHigh_ofInt (w : Nat) (p : Int) : (BitVec.ofInt (2 * w) p).extractLsb' w w = BitVec.ofInt w (p / 2 ^ w) := by
  have hpos : (0 : Int) < 2 ^ w := Int.pow_pos (by decide)
  have hsplit : ((2 ^ (2 * w) : Nat) : Int) = 2 ^ w * 2 ^ w := by rw [Nat.two_mul, Nat.pow_add]; push_cast; rfl
  have hhigh : p % (2 ^ w * 2 ^ w) / 2 ^ w = p / 2 ^ w + 2 ^ w * -(p / (2 ^ w * 2 ^ w)) := by
    rw [Int.emod_def, Int.mul_assoc, Int.sub_eq_add_neg, ← Int.mul_neg, Int.add_mul_ediv_left _ _ hpos.ne', Int.mul_neg]
  have hnonneg : 0 ≤ p % (2 ^ w * 2 ^ w) := Int.emod_nonneg _ (Int.mul_pos hpos hpos).ne'
  apply BitVec.eq_of_toNat_eq
  rw [BitVec.extractLsb'_toNat, BitVec.toNat_ofInt, BitVec.toNat_ofInt, Nat.shiftRight_eq_div_pow, hsplit]
  apply Int.ofNat.inj
  simp only [Int.ofNat_eq_natCast]
  push_cast
  rw [Int.toNat_of_nonneg hnonneg, Int.toNat_of_nonneg (Int.emod_nonneg _ hpos.ne'), hhigh, Int.add_mul_emod_self_left]

theorem isWordOp_mulh : IsWordOp (fun w a b => wrapInt w (sint w a * sint w b / 2 ^ w)) fun w x y =>
    (x.signExtend (2 * w) * y.signExtend (2 * w)).extractLsb' w w := by
  intro w hw x y
  beta_reduce
  rw [sint_toNat hw, sint_toNat hw, wrapInt_eq, toNat_mod_width, BitVec.signExtend, BitVec.signExtend, ← BitVec.ofInt_mul,
    extractHigh_ofInt]

theorem isWordOp_mulhu : IsWordOp (fun w a b => a * b / 2 ^ w) fun w x y =>
    (x.zeroExtend (2 * w) * y.zeroExtend (2 * w)).extractLsb' w w := by
  intro w _ x y
  have hprod : x.toNat * y.toNat < 2 ^ (2 * w) := by
    rw [Nat.two_mul, Nat.pow_add]
    exact Nat.mul_lt_mul'' x.isLt y.isLt
  rw [BitVec.extractLsb'_toNat, BitVec.toNat_mul, BitVec.toNat_setWidth, BitVec.toNat_setWidth, ← Nat.mul_mod, Nat.mod_eq_of_lt hprod,
    Nat.shiftRight_eq_div_pow]

theorem isWordOp_and : IsWordOp (fun _ a b => a &&& b) fun _ x y => x &&& y := fun _ _ x y => toNat_mod_width (x &&& y)

theorem isWordOp_or : IsWordOp (fun _ a b => a ||| b) fun _ x y => x ||| y := fun _ _ x y => toNat_mod_width (x ||| y)

theorem isWordOp_xor : IsWordOp (fun _ a b => a ^^^ b) fun _ x y => x ^^^ y := fun _ _ x y => toNat_mod_width (x ^^^ y)

theorem isWordOp_shl : IsWordOp (fun w a b => a * 2 ^ (b % w)) fun w x y => x <<< (y.toNat % w) := by
  intro w _ x y
  rw [BitVec.toNat_shiftLeft, Nat.shiftLeft_eq]

theorem isWordOp_shr : IsWordOp (fun w a b => a / 2 ^ (b % w)) fun w x y => x >>> (y.toNat % w) := by
  intro w _ x y
  rw [← toNat_mod_width (x >>> (y.toNat % w)), BitVec.toNat_ushiftRight, Nat.shiftRight_eq_div_pow]

theorem isWordOp_sra : IsWordOp (fun w a b => wrapInt w (sint w a / 2 ^ (b % w))) fun w x y => x.sshiftRight (y.toNat % w) := by
  intro w hw x y
  beta_reduce
  rw [sint_toNat hw, wrapInt_eq, toNat_mod_width, BitVec.sshiftRight, Int.shiftRight_eq_div_pow]
  push_cast
  rfl

/-- R165: an operation whose result is the pattern of a word as it stands, as minimum and maximum choose one of two. -/
theorem isWordOp_of_toNat {op : Nat → Nat → Nat → Nat} {f : (w : Nat) → BitVec w → BitVec w → BitVec w}
    (h : ∀ w, 0 < w → ∀ x y : BitVec w, op w x.toNat y.toNat = (f w x y).toNat) : IsWordOp op f := fun w hw x y => by
  rw [h w hw x y, toNat_mod_width]

theorem isWordOp_imin : IsWordOp (fun w a b => if sint w b < sint w a then b else a) fun _ x y => if x.toInt ≤ y.toInt then x else y := by
  refine isWordOp_of_toNat fun w hw x y => ?_
  rw [sint_toNat hw, sint_toNat hw, apply_ite BitVec.toNat]
  rcases Int.lt_or_le y.toInt x.toInt with h | h
  · rw [if_pos h, if_neg (Int.not_le.2 h)]
  · rw [if_neg (Int.not_lt.2 h), if_pos h]

theorem isWordOp_imax : IsWordOp (fun w a b => if sint w a < sint w b then b else a) fun _ x y => if x.toInt ≤ y.toInt then y else x := by
  refine isWordOp_of_toNat fun w hw x y => ?_
  rw [sint_toNat hw, sint_toNat hw, apply_ite BitVec.toNat]
  rcases Int.lt_trichotomy x.toInt y.toInt with h | h | h
  · rw [if_pos h, if_pos (Int.le_of_lt h)]
  · rw [BitVec.eq_of_toInt_eq h, ite_self, ite_self]
  · rw [if_neg (Int.lt_asymm h), if_neg (Int.not_le.2 h)]

theorem isWordOp_iminu : IsWordOp (fun _ a b => min a b) fun _ x y => if x.toNat ≤ y.toNat then x else y :=
  isWordOp_of_toNat fun _ _ x y => (apply_ite BitVec.toNat _ x y).symm

theorem isWordOp_imaxu : IsWordOp (fun _ a b => max a b) fun _ x y => if x.toNat ≤ y.toNat then y else x :=
  isWordOp_of_toNat fun _ _ x y => (apply_ite BitVec.toNat _ y x).symm

/-- R165: what VINT does. -/
theorem exec_vintForms (c : BitVec 8) (vd va vb : BitVec 5) (rm : BitVec 3) (mk : BitVec 4) (sf : Bool) :
    ∀ f ∈ vintForms c vd va vb rm mk sf, (∃ op, IsWordOp op f.2 ∧ vecBody f.1 = some (vint op vd va vb mk sf)) ∧
      ∀ s, exec f.1 s = .next (vecOp f.1 c s) := by
  simp only [vintForms, List.forall_mem_cons]
  exact ⟨⟨⟨_, isWordOp_add, rfl⟩, fun _ => rfl⟩, ⟨⟨_, isWordOp_sub, rfl⟩, fun _ => rfl⟩, ⟨⟨_, isWordOp_mul, rfl⟩, fun _ => rfl⟩,
    ⟨⟨_, isWordOp_mulh, rfl⟩, fun _ => rfl⟩, ⟨⟨_, isWordOp_mulhu, rfl⟩, fun _ => rfl⟩, ⟨⟨_, isWordOp_and, rfl⟩, fun _ => rfl⟩,
    ⟨⟨_, isWordOp_or, rfl⟩, fun _ => rfl⟩, ⟨⟨_, isWordOp_xor, rfl⟩, fun _ => rfl⟩, ⟨⟨_, isWordOp_shl, rfl⟩, fun _ => rfl⟩,
    ⟨⟨_, isWordOp_shr, rfl⟩, fun _ => rfl⟩, ⟨⟨_, isWordOp_sra, rfl⟩, fun _ => rfl⟩, ⟨⟨_, isWordOp_imin, rfl⟩, fun _ => rfl⟩,
    ⟨⟨_, isWordOp_imax, rfl⟩, fun _ => rfl⟩, ⟨⟨_, isWordOp_iminu, rfl⟩, fun _ => rfl⟩, ⟨⟨_, isWordOp_imaxu, rfl⟩, fun _ => rfl⟩,
    fun f hf => absurd hf List.not_mem_nil⟩

/-- R165: the second operand of an integer form: the low bits of Sb, or an element of Vb. -/
theorem vint_operand_toNat (x : Thread) (vb : BitVec 5) (sf : Bool) (w i : Nat) :
    (if sf then BitVec.ofNat w (getS x vb).toNat else BitVec.ofNat w (elemAt (getV x vb) w i)).toNat =
      if sf then (getS x vb).toNat % 2 ^ w else elemAt (getV x vb) w i := by
  cases sf with
  | false => exact Nat.mod_eq_of_lt (elemAt_lt _ w i)
  | true => exact BitVec.toNat_ofNat ..

/-- R153, R165: what an integer form computes in an integer format. -/
theorem vint_run (op : Nat → Nat → Nat → Nat) (vd va vb : BitVec 5) (mk : BitVec 4) (sf : Bool) (x : Thread) (s : State)
    (hf : intFormat (vfmtOf x) = true) : (vint op vd va vb mk sf).run x s =
      let w := fmtBits (vfmtOf x)
      some (.v vd (buildV (getV x vd) w fun i => if activeAt (getM x mk) x.vl i then some (op w (elemAt (getV x va) w i)
        (if sf then (getS x vb).toNat % 2 ^ w else elemAt (getV x vb) w i) % 2 ^ w) else none), noFlags) := by
  simp only [vint, vecResult, hf, Bool.not_true, Bool.false_eq_true, if_false, allFlags_none]

theorem vectorIntegerForms : VectorIntegerForms := by
  intro c vd va vb rm mk sf f hf s
  obtain ⟨⟨op, hop, hbody⟩, hexec⟩ := exec_vintForms c vd va vb rm mk sf f hf
  refine ⟨fun t hissue hroom hfmt => ?_, fun e rest hhead hfmt => ?_⟩
  · exact joinsQueue_of_vecOp s c t f.1 _ (hexec s) hbody hissue hroom (by rw [vint_run _ _ _ _ _ _ _ _ hfmt]; rfl)
  · intro x w
    refine ⟨_, passGives_of_body hhead hbody (fun s' _ => vint_run op vd va vb mk sf _ s' hfmt) (noTrap_none e), ?_⟩
    refine elemsBy_congr (elemsBy_buildV _ _ _ _ _) fun i => ?_
    have hword := hop w (fmtBits_pos _) (BitVec.ofNat w (elemAt (getV x va) w i))
      (if sf then BitVec.ofNat w (getS x vb).toNat else BitVec.ofNat w (elemAt (getV x vb) w i))
    rw [vint_operand_toNat, BitVec.toNat_ofNat, Nat.mod_eq_of_lt (elemAt_lt ..)] at hword
    exact congrArg (· % 2 ^ w) hword

end Sys2Proof.Machine
end

section
/-!
SUPPORT. Vector comparisons (O20): the bits of a mask built element by element, and the relation that each comparison writes into them.
-/

namespace Sys2Proof.Machine

/-- R154: a bit of a mask built bit by bit. -/
theorem getLsbD_buildM (f : Nat → Bool) (i : Nat) (hi : i < 1024) : (buildM f).getLsbD i = f i := by
  have hbit := field_packElems 1 ((List.range 1024).map fun i => b2n (f i)) i (by simpa using hi)
  rw [List.getD_eq_getElem?_getD, List.getElem?_map, List.getElem?_range hi, field, Nat.one_mul, Nat.pow_one] at hbit
  rw [buildM, BitVec.getLsbD_ofNat, Nat.testBit_eq_decide_div_mod_eq, hbit, decide_eq_true hi]
  cases h : f i <;> simp [b2n, h]

/-- R154: what the floating-point comparisons do. -/
theorem exec_vfcmpForms (c : BitVec 8) (d : BitVec 4) (va vb : BitVec 5) (rm : BitVec 3) (mk : BitVec 4) :
    ∀ f ∈ vfcmpForms c d va vb rm mk,
      (∃ quiet, vecBody f.1 = some (vcmp fpFormat (fcmp quiet f.2.2 f.2.1) (d.zeroExtend 5) va vb mk)) ∧
        ∀ s, exec f.1 s = .next (vecOp f.1 c s) := by
  have hle : (fun o : Ordering => o == .lt || o == .eq) = (· != .gt) := funext fun o => by cases o <;> rfl
  have hge : (fun o : Ordering => o == .gt || o == .eq) = (· != .lt) := funext fun o => by cases o <;> rfl
  simp only [vfcmpForms, hle, hge, List.forall_mem_cons]
  exact ⟨⟨⟨_, rfl⟩, fun _ => rfl⟩, ⟨⟨_, rfl⟩, fun _ => rfl⟩, ⟨⟨_, rfl⟩, fun _ => rfl⟩, ⟨⟨_, rfl⟩, fun _ => rfl⟩, ⟨⟨_, rfl⟩, fun _ => rfl⟩,
    ⟨⟨_, rfl⟩, fun _ => rfl⟩, ⟨⟨_, rfl⟩, fun _ => rfl⟩, fun f hf => absurd hf List.not_mem_nil⟩

/-- R154: whether a floating-point comparison holds. -/
theorem fcmp_fst (quiet onNan : Bool) (p : Ordering → Bool) (f : Fmt) (a b : Nat) : (fcmp quiet onNan p f a b).1 =
    if fIsNan (floatVal (fmtFloat f) a) || fIsNan (floatVal (fmtFloat f) b) then onNan
    else p (cmpVal (floatVal (fmtFloat f) a) (floatVal (fmtFloat f) b)) := by
  unfold fcmp cmpElem
  exact apply_ite Prod.fst _ _ _

/-- R154: an integer comparison on patterns, on their signed and their unsigned values. -/
def icmpBoth (p : Int → Int → Nat → Nat → Bool) (f : Fmt) (a b : Nat) : Bool × FFlags := (p (intVal f a) (intVal f b) a b, noFlags)

/-- R154: what the integer comparisons do. -/
theorem exec_vicmpForms (c : BitVec 8) (d : BitVec 4) (va vb : BitVec 5) (rm : BitVec 3) (mk : BitVec 4) :
    ∀ f ∈ vicmpForms c d va vb rm mk, vecBody f.1 = some (vcmp intFormat (icmpBoth f.2) (d.zeroExtend 5) va vb mk) ∧
      ∀ s, exec f.1 s = .next (vecOp f.1 c s) := by
  simp only [vicmpForms, List.forall_mem_cons]
  exact ⟨⟨rfl, fun _ => rfl⟩, ⟨rfl, fun _ => rfl⟩, ⟨rfl, fun _ => rfl⟩, ⟨rfl, fun _ => rfl⟩, ⟨rfl, fun _ => rfl⟩, ⟨rfl, fun _ => rfl⟩,
    fun f hf => absurd hf List.not_mem_nil⟩

theorem truncate_zeroExtend_mask (d : BitVec 4) : (d.zeroExtend 5).truncate 4 = d := by simp

/-- R113: a mask register's number leaves the reserved bit zero. -/
theorem getLsbD_zeroExtend_mask (d : BitVec 4) : (d.zeroExtend 5).getLsbD 4 = false := by simp

section
variable {ok : Fmt → Bool} {f : Fmt → Nat → Nat → Bool × FFlags} {d : BitVec 4} {va vb : BitVec 5} {mk : BitVec 4}

theorem vcmp_dst : (vcmp ok f (d.zeroExtend 5) va vb mk).dst = maskReg d := congrArg maskReg (truncate_zeroExtend_mask d)

/-- R154: what a comparison computes in a format of its own. -/
theorem vcmp_run (x : Thread) (s : State) (hf : ok (vfmtOf x) = true) : (vcmp ok f (d.zeroExtend 5) va vb mk).run x s =
      let w := fmtBits (vfmtOf x)
      let r (i : Nat) := f (vfmtOf x) (elemAt (getV x va) w i) (elemAt (getV x vb) w i)
      some (.m d (buildM fun i => activeAt (getM x mk) x.vl i && (r i).1), allFlags ((actives (getM x mk) x.vl).map fun i => (r i).2)) := by
  simp only [vcmp, hf, getLsbD_zeroExtend_mask, truncate_zeroExtend_mask, Bool.not_true, Bool.or_self, Bool.false_eq_true, if_false]

/-- R154, R156: a comparison in a format of its own is handed off. -/
theorem joinsQueue_of_vcmp {c : BitVec 8} {s : State} {t : Nat} {i : Instr}
    (hbody : vecBody i = some (vcmp ok f (d.zeroExtend 5) va vb mk)) (hexec : exec i s = .next (vecOp i c s))
    (hissue : CanIssue s c t 4#18 ([.v va, .v vb] ++ maskReg mk ++ maskReg d)) (hroom : (coreOf s c.toNat).vq.length < 4)
    (hf : ok (vfmtOf (thOf s c.toNat t)) = true) : JoinsQueue s c t i (maskReg d) := by
  have hjoin := joinsQueue_of_vecOp s c t i _ hexec hbody (by rw [vcmp_dst]; exact hissue) hroom (by rw [vcmp_run _ _ hf]; rfl)
  rwa [vcmp_dst] at hjoin

end

/-- R154: an integer comparison raises no flag. -/
theorem vicmp_run (p : Int → Int → Nat → Nat → Bool) (d : BitVec 4) (va vb : BitVec 5) (mk : BitVec 4) (x : Thread) (s : State)
    (hf : intFormat (vfmtOf x) = true) : (vcmp intFormat (icmpBoth p) (d.zeroExtend 5) va vb mk).run x s =
      let fm := vfmtOf x
      let pa (i : Nat) := elemAt (getV x va) (fmtBits fm) i
      let pb (i : Nat) := elemAt (getV x vb) (fmtBits fm) i
      some (.m d (buildM fun i => activeAt (getM x mk) x.vl i && p (intVal fm (pa i)) (intVal fm (pb i)) (pa i) (pb i)), noFlags) := by
  rw [vcmp_run x s hf, ← allFlags_none (actives (getM x mk) x.vl)]
  rfl

theorem vectorComparisons : VectorComparisons := by
  intro c d va vb rm mk s
  refine ⟨fun t hissue hroom => ⟨fun hfmt f hf => ?_, fun hfmt f hf => ?_⟩,
    fun e rest => ⟨fun hfmt hn f hf hhead => ?_, fun hfmt f hf hhead => ?_⟩⟩
  · obtain ⟨⟨quiet, hbody⟩, hexec⟩ := exec_vfcmpForms c d va vb rm mk f hf
    exact joinsQueue_of_vcmp hbody (hexec s) hissue hroom hfmt
  · obtain ⟨hbody, hexec⟩ := exec_vicmpForms c d va vb rm mk f hf
    exact joinsQueue_of_vcmp hbody (hexec s) hissue hroom hfmt
  · obtain ⟨⟨quiet, hbody⟩, -⟩ := exec_vfcmpForms c d va vb rm mk f hf
    refine ⟨_, _, passGives_of_body hhead hbody (fun s' _ => vcmp_run _ s' hfmt) (noTrap_of_all hn _), fun i hi => ?_⟩
    exact (getLsbD_buildM _ i hi).trans (congrArg (_ && ·) (fcmp_fst ..))
  · obtain ⟨hbody, -⟩ := exec_vicmpForms c d va vb rm mk f hf
    exact ⟨_, passGives_of_body hhead hbody (fun s' _ => vicmp_run _ _ _ _ _ _ s' hfmt) (noTrap_none e), getLsbD_buildM _⟩

end Sys2Proof.Machine

open Sys2Proof Sys2Proof.Machine

/-- Settles O20: each integer form is an operation on words (`exec_vintForms`), each comparison a relation (`exec_vfcmpForms`,
`exec_vicmpForms`), and a pass gives what its instruction's body computes (`passGives_of_body`). -/
theorem vectorIntegerAndComparisons : Obligations.VectorIntegerAndComparisons := ⟨vectorIntegerForms, vectorComparisons⟩

end

section
/-!
SUPPORT. Widening forms, fused multiply-add and conversions (O21): what each computes, and the sums of the integer forms.
-/

namespace Sys2Proof.Machine

/-- R166: what the widening floating-point forms do. -/
theorem exec_widenForms (c : BitVec 8) (vd va vb : BitVec 5) (rm : BitVec 3) (mk : BitVec 4) (accf : Bool) :
    ∀ f ∈ widenForms c vd va vb rm mk accf, vecBody f.1 = some (vwdot f.2 vd va vb rm mk accf) ∧
      (∀ s, exec f.1 s = .next (vecOp f.1 c s)) ∧ fmtIsInt f.2.dst = false := by
  simp only [widenForms, List.forall_mem_cons]
  exact ⟨⟨rfl, fun _ => rfl, rfl⟩, ⟨rfl, fun _ => rfl, rfl⟩, ⟨rfl, fun _ => rfl, rfl⟩, ⟨rfl, fun _ => rfl, rfl⟩, ⟨rfl, fun _ => rfl, rfl⟩,
    fun f hf => absurd hf List.not_mem_nil⟩

/-- R166, R169: form k sums, into words of 32 bits, groups of g products of numbers of format `fm` and width w, n of them. -/
def SumsInts (k : Widen) (fm : Fmt) (w g : Nat) (n : Nat → Nat) : Prop :=
  k.src fm = true ∧ k.dst = .int32 ∧ k.g = g ∧ k.n = n ∧ fmtBits fm = w ∧ ∀ b, intVal fm b = sint w b

/-- R166, R169: what the widening integer forms do. -/
theorem exec_widenIntForms (c : BitVec 8) (vd va vb : BitVec 5) (rm : BitVec 3) (mk : BitVec 4) (accf : Bool) :
    ∀ f ∈ widenIntForms c vd va vb rm mk accf,
      (∃ k, SumsInts k f.2.1 f.2.2.1 f.2.2.2.1 f.2.2.2.2 ∧ vecBody f.1 = some (vwdot k vd va vb rm mk accf)) ∧
        ∀ s, exec f.1 s = .next (vecOp f.1 c s) := by
  simp only [widenIntForms, List.forall_mem_cons]
  exact ⟨⟨⟨wMulH, ⟨rfl, rfl, rfl, rfl, rfl, fun _ => rfl⟩, rfl⟩, fun _ => rfl⟩,
    ⟨⟨wDotI8, ⟨rfl, rfl, rfl, rfl, rfl, fun _ => rfl⟩, rfl⟩, fun _ => rfl⟩, fun f hf => absurd hf List.not_mem_nil⟩

section
variable {k : Widen} {vd va vb : BitVec 5} {rm : BitVec 3} {mk : BitVec 4} {accf : Bool}

theorem vwdot_run_isSome (x : Thread) (s : State) (hsrc : k.src (vfmtOf x) = true) :
    ((vwdot k vd va vb rm mk accf).run x s).isSome = true := by
  simp only [vwdot, hsrc, Bool.not_true, Bool.false_eq_true, if_false, Option.isSome_some]

/-- R166 to R168: what a widening floating-point form computes. -/
theorem vwdot_run_float (x : Thread) (s : State) {seed : Word} (hseed : seedOf s x = seed) (hsrc : k.src (vfmtOf x) = true)
    (hdst : fmtIsInt k.dst = false) :
    (vwdot k vd va vb rm mk accf).run x s =
      let fm := vfmtOf x
      let w := fmtBits k.dst
      let one (i : Nat) := dotElem (fmtFloat k.dst) (vecRound x seed rm x.sat i)
        ((List.range k.g).map fun j => (vecVal fm (getV x va) (k.g * i + j), vecVal fm (getV x vb) (k.g * i + j)))
        (if accf then some (floatVal (fmtFloat k.dst) (elemAt (getV x vd) w i)) else none)
        (fmtIsMx fm && (scaleAt (getV x va) (k.g * i / 32) == 255 || scaleAt (getV x vb) (k.g * i / 32) == 255))
      some (.v vd (buildV (getV x vd) w fun i => if activeAt (getM x mk) (k.n x.vl) i then some (one i).1 else none),
        allFlags ((actives (getM x mk) (k.n x.vl)).map fun i => (one i).2)) := by
  simp only [vwdot, vecResult, hseed, hsrc, hdst, Bool.not_true, Bool.false_eq_true, if_false]

/-- R169: the wrapped sum of a group's products and of the old element where it is accumulated. -/
def dotInt (x : Thread) (vd va vb : BitVec 5) (accf : Bool) (w g i : Nat) : Nat :=
  ((((List.range g).map fun j => sint w (elemAt (getV x va) w (g * i + j)) * sint w (elemAt (getV x vb) w (g * i + j))).sum
    + if accf then sint 32 (elemAt (getV x vd) 32 i) else 0) % 2 ^ 32).toNat

theorem foldl_add_eq (l : List Int) (a : Int) : l.foldl (· + ·) a = l.sum + a := List.foldl_eq_apply_foldr.trans (Int.add_comm _ _)

/-- R166, R169: what a widening integer form computes. -/
theorem vwdot_run_int {fm : Fmt} {w g : Nat} {n : Nat → Nat} (x : Thread) (s : State) (hk : SumsInts k fm w g n) (hfm : vfmtOf x = fm) :
    (vwdot k vd va vb rm mk accf).run x s =
      some (.v vd (buildV (getV x vd) 32 fun i => if activeAt (getM x mk) (n x.vl) i then some (dotInt x vd va vb accf w g i) else none),
        noFlags) := by
  obtain ⟨hsrc, hdst, rfl, rfl, rfl, hval⟩ := hk
  subst hfm
  simp only [vwdot, vecResult, hsrc, hdst, hval, Bool.not_true, Bool.false_eq_true, if_false, fmtIsInt, if_true, allFlags_none]
  simp only [foldl_add_eq, wrapInt, dotInt, fmtBits]

end

theorem vectorWideningForms : VectorWideningForms := by
  intro c vd va vb rm mk accf s
  refine ⟨fun t hissue hroom => ⟨fun f hf hsrc => ?_, fun f hf hfm => ?_⟩,
    fun e rest => ⟨fun f hf hhead hsrc hn => ?_, fun f hf hhead hfm => ?_⟩⟩
  · obtain ⟨hbody, hexec, -⟩ := exec_widenForms c vd va vb rm mk accf f hf
    exact joinsQueue_of_vecOp s c t f.1 _ (hexec s) hbody hissue hroom (vwdot_run_isSome _ s hsrc)
  · obtain ⟨⟨k, ⟨hsrc, -⟩, hbody⟩, hexec⟩ := exec_widenIntForms c vd va vb rm mk accf f hf
    exact joinsQueue_of_vecOp s c t f.1 _ (hexec s) hbody hissue hroom (vwdot_run_isSome _ s (by rw [hfm]; exact hsrc))
  · obtain ⟨hbody, -, hdst⟩ := exec_widenForms c vd va vb rm mk accf f hf
    exact ⟨_, _, passGives_of_body hhead hbody (fun s' hseed => vwdot_run_float _ s' hseed hsrc hdst) (noTrap_of_all hn _),
      elemsBy_buildV _ _ _ _ _⟩
  · obtain ⟨⟨k, hk, hbody⟩, -⟩ := exec_widenIntForms c vd va vb rm mk accf f hf
    exact ⟨_, passGives_of_body hhead hbody (fun s' _ => vwdot_run_int _ s' hk hfm) (noTrap_none e), elemsBy_buildV _ _ _ _ _⟩

/-- R160: what a fused multiply-add gives for one element. -/
def fmaElem (ff : FloatFmt) (rc : RoundCtx) (negp negc : Bool) (a b d : FVal) : Nat × FFlags :=
  let p := (mulVal a b).1
  let sum := if (mulVal a b).2.nnv then (defaultNan, flagNv) else addVal rc.rm (if negp then negVal p else p) (if negc then negVal d else d)
  let v := withNans [a, b, d] sum
  ((toFloat ff rc true v.1).1, flagsOr v.2 (toFloat ff rc true v.1).2)

/-- R160: what VFMA computes in a floating-point format. -/
theorem vfma_run (vd va vb : BitVec 5) (rm : BitVec 3) (mk : BitVec 4) (negp negc : Bool) (x : Thread) (s : State)
    {seed : Word} (hseed : seedOf s x = seed) (hf : fpFormat (vfmtOf x) = true) : (vfma vd va vb rm mk negp negc 0#2).run x s =
      let w := fmtBits (vfmtOf x)
      let val (r : BitVec 5) (i : Nat) := floatVal (fmtFloat (vfmtOf x)) (elemAt (getV x r) w i)
      let one (i : Nat) := fmaElem (fmtFloat (vfmtOf x)) (vecRound x seed rm x.sat i) negp negc (val va i) (val vb i) (val vd i)
      some (.v vd (buildV (getV x vd) w fun i => if activeAt (getM x mk) x.vl i then some (one i).1 else none),
        allFlags ((actives (getM x mk) x.vl).map fun i => (one i).2)) := by
  simp only [vfma, vecResult, fmaElem, hseed, hf, Bool.not_true, bne_self_eq_false, Bool.or_self, Bool.false_eq_true, if_false]

theorem vfma_run_isSome (vd va vb : BitVec 5) (rm : BitVec 3) (mk : BitVec 4) (negp negc : Bool) (x : Thread) (s : State)
    (hf : fpFormat (vfmtOf x) = true) : ((vfma vd va vb rm mk negp negc 0#2).run x s).isSome = true := by
  rw [vfma_run _ _ _ _ _ _ _ _ s rfl hf]
  rfl

section
variable {vd va : BitVec 5} {code : BitVec 4} {sat : Bool} {rm : BitVec 3} {mk : BitVec 4} {dst : Fmt}

theorem vcvt_run_isSome (x : Thread) (s : State) (hcode : fmtOfCode code.toNat = some dst) (hdst : dst ≠ .e8m0)
    (hsrc : vfmtOf x ≠ .e8m0) : ((vcvt vd va code sat rm mk 0#4).run x s).isSome = true := by
  simp only [vcvt, hcode, hdst, hsrc, decide_false, Bool.or_self, bne_self_eq_false, Bool.false_eq_true, if_false]
  cases fmtIsMx dst <;> rfl

/-- R170: what VCVT to a format that is no MX format computes. -/
theorem vcvt_run (x : Thread) (s : State) {seed : Word} (hseed : seedOf s x = seed) (hcode : fmtOfCode code.toNat = some dst)
    (hmx : fmtIsMx dst = false) (hdst : dst ≠ .e8m0) (hsrc : vfmtOf x ≠ .e8m0) : (vcvt vd va code sat rm mk 0#4).run x s =
      let n := min x.vl (vlMax dst)
      let one (i : Nat) := toElem dst (vecRound x seed rm sat i) true (vecVal (vfmtOf x) (getV x va) i)
      some (.v vd (buildV (getV x vd) (fmtBits dst) fun i => if activeAt (getM x mk) n i then some (one i).1 else none),
        allFlags ((actives (getM x mk) n).map fun i => (one i).2)) := by
  simp only [vcvt, vecResult, hseed, hcode, hdst, hsrc, hmx, decide_false, Bool.or_self, bne_self_eq_false, Bool.false_eq_true, if_false]

end

theorem vectorFmaAndConvert : VectorFmaAndConvert := by
  intro c vd va vb rm mk s
  refine ⟨fun t hissue hroom => ⟨fun negp negc hf => ?_, fun code sat dst hcode hdst hsrc => ?_⟩,
    fun e rest hn => ⟨fun negp negc hhead hf => ?_, fun code sat dst hhead hcode hmx hdst hsrc => ?_⟩⟩
  · exact joinsQueue_of_vecOp s c t _ (vfma vd va vb rm mk negp negc 0#2) rfl rfl hissue hroom (vfma_run_isSome _ _ _ _ _ _ _ _ s hf)
  · refine joinsQueue_of_vecOp s c t _ (vcvt vd va code sat rm mk 0#4) rfl rfl (canIssue_of_subset hissue ?_) hroom
      (vcvt_run_isSome _ s hcode hdst hsrc)
    simp [vcvt]
  · exact ⟨_, _, passGives_of_body hhead rfl (fun s' hseed => vfma_run _ _ _ _ _ _ _ _ s' hseed hf) (noTrap_of_all hn _),
      elemsBy_buildV _ _ _ _ _⟩
  · exact ⟨_, _, passGives_of_body hhead rfl (fun s' hseed => vcvt_run _ s' hseed hcode hmx hdst hsrc) (noTrap_of_all hn _),
      elemsBy_buildV _ _ _ _ _⟩

end Sys2Proof.Machine

open Sys2Proof Sys2Proof.Machine

/-- Settles O21: the widening forms by what `vwdot` computes for floating-point and for integer destinations, VFMA and VCVT by what their
bodies compute. -/
theorem vectorWideningAndConversions : Obligations.VectorWideningAndConversions := ⟨vectorWideningForms, vectorFmaAndConvert⟩

end

section
/-!
SUPPORT. Permutes (O22): the places that a permute reads, and a register whose elements a permute gives.
-/

namespace Sys2Proof.Machine

/-- R152: the active elements are the places below the count whose mask bits are 1. -/
theorem actives_eq (m : BitVec 1024) (n : Nat) : actives m n = (List.range n).filter fun j => m.getLsbD j := by
  unfold actives activeAt
  refine List.filter_congr fun j hj => ?_
  rw [decide_eq_true (List.mem_range.1 hj), Bool.true_and]

/-- R113, R171: SEL alone in the rounding field leaves its upper bits zero. -/
theorem sel_zeroExtend (sel : BitVec 1) : (sel.zeroExtend 3).getLsbD 0 = decide (sel = 1#1) ∧ (sel.zeroExtend 3).getLsbD 1 = false ∧
    (sel.zeroExtend 3).getLsbD 2 = false := by
  rcases BitVec.eq_zero_or_eq_one sel with rfl | rfl <;> decide

/-- R171: what the permutes do. -/
theorem exec_permForms (c : BitVec 8) (vd va vb : BitVec 5) (sel : BitVec 1) (mk : BitVec 4) :
    ∀ f ∈ permForms c vd va vb sel mk,
      (∃ readsB g, (∀ w n m a b i, g (decide (sel = 1#1)) w n m a b i = f.2 w n m a b i) ∧
        vecBody f.1 = some (vperm readsB g vd va vb (sel.zeroExtend 3) mk)) ∧ ∀ s, exec f.1 s = .next (vecOp f.1 c s) := by
  simp only [permForms, List.forall_mem_cons, ← actives_eq]
  refine ⟨⟨⟨_, _, ?_, rfl⟩, fun _ => rfl⟩, ⟨⟨_, _, ?_, rfl⟩, fun _ => rfl⟩, ⟨⟨_, _, ?_, rfl⟩, fun _ => rfl⟩, ⟨⟨_, _, ?_, rfl⟩, fun _ => rfl⟩,
    ⟨⟨_, _, ?_, rfl⟩, fun _ => rfl⟩, ⟨⟨_, _, ?_, rfl⟩, fun _ => rfl⟩, fun f hf => absurd hf List.not_mem_nil⟩
  case refine_3 => intro w n m a b i; simp only [decide_eq_true_eq]
  case refine_4 => intro w n m a b i; simp only [b2n, decide_eq_true_eq]
  all_goals exact fun _ _ _ _ _ _ => rfl

section
variable {readsB : Bool} {g : Bool → Nat → Nat → BitVec 1024 → (Nat → Nat) → (Nat → Nat) → Nat → Option Nat}
variable {vd va vb : BitVec 5} {sel : BitVec 1} {mk : BitVec 4}

/-- The registers that a permute reads and writes. -/
theorem vperm_regs_subset {rm : BitVec 3} : (vperm readsB g vd va vb rm mk).regs ++ (vperm readsB g vd va vb rm mk).dst ⊆
    [.v va] ++ [.v vb] ++ maskReg mk ++ [.v vd] := by
  unfold vperm
  cases readsB <;> simp

/-- R171: what a permute computes in a format that is no MX format. -/
theorem vperm_run (x : Thread) (s : State) (hf : fmtIsMx (vfmtOf x) = false) : (vperm readsB g vd va vb (sel.zeroExtend 3) mk).run x s =
      let w := fmtBits (vfmtOf x)
      let l := (List.range (8192 / w)).map (g (decide (sel = 1#1)) w x.vl (getM x mk) (elemAt (getV x va) w) (elemAt (getV x vb) w))
      some (.v vd (buildV (getV x vd) w fun i => l.getD i none), noFlags) := by
  obtain ⟨h0, h1, h2⟩ := sel_zeroExtend sel
  simp only [vperm, permFormat, hf, h0, h1, h2, Bool.not_false, Bool.not_true, Bool.or_self, Bool.false_eq_true, if_false]

end

/-- R153: an element of a register built from a list of patterns. -/
theorem elemAt_buildV_list (old : BitVec 8192) (w i : Nat) (g : Nat → Option Nat) (hi : i < 8192 / w) :
    elemAt (buildV old w fun i => ((List.range (8192 / w)).map g).getD i none) w i = ((g i).map (· % 2 ^ w)).getD (elemAt old w i) := by
  rw [elemAt_buildV _ _ _ _ hi, List.getD_eq_getElem?_getD, List.getElem?_map, List.getElem?_range hi]
  cases h : g i with
  | none => simp [h, Nat.mod_eq_of_lt (elemAt_lt old w i)]
  | some v => simp [h]

theorem vectorPermutes : VectorPermutes := by
  intro c vd va vb sel mk f hf s
  obtain ⟨⟨readsB, g, hg, hbody⟩, hexec⟩ := exec_permForms c vd va vb sel mk f hf
  refine ⟨fun t hissue hroom hfmt => ?_, fun e rest hhead hfmt => ?_⟩
  · exact joinsQueue_of_vecOp s c t f.1 _ (hexec s) hbody (canIssue_of_subset hissue vperm_regs_subset) hroom
      (by rw [vperm_run _ _ hfmt]; rfl)
  · refine ⟨_, passGives_of_body hhead hbody (fun s' _ => vperm_run _ s' hfmt) (noTrap_none e), fun i hi => ?_⟩
    rw [← hg]
    exact elemAt_buildV_list _ _ _ _ hi

end Sys2Proof.Machine
end

section
/-!
SUPPORT. Reductions (O22): what a reduction gives into element 0, and the place that VRSUM.HO takes in the reduction unit's order.
-/

namespace Sys2Proof.Machine

/-- R145: element 0 written. -/
theorem elemAt_setElem0 (old : BitVec 8192) (w v j : Nat) (hj : j < 8192 / w) :
    elemAt (setElem0 old w v) w j = if j = 0 then v % 2 ^ w else elemAt old w j := by
  rw [setElem0, elemAt_buildV _ _ _ _ hj]
  split
  · rfl
  · exact Nat.mod_eq_of_lt (elemAt_lt old w j)

/-- R32, R165: an integer format of the vector unit is signed. -/
theorem intVal_of_intFormat {f : Fmt} (h : intFormat f = true) (b : Nat) : intVal f b = sint (fmtBits f) b := by
  have hne : f ≠ .uint8 := fun hf => absurd h (by rw [hf]; decide)
  unfold intVal
  split
  · contradiction
  · rfl

theorem intFormat_of_fpFormat {f : Fmt} (h : fpFormat f = true) : intFormat f = false := by
  revert h
  cases f <;> decide

theorem foldInts_add (l : List Int) : foldInts (· + ·) l = l.sum := by
  cases l with
  | nil => rfl
  | cons a l => rw [foldInts, foldl_add_eq, List.sum_cons, Int.add_comm]

theorem foldInts_min {l : List Int} {m : Int} (h : l.min? = some m) : foldInts min l = m := by
  cases l with
  | nil => exact absurd h nofun
  | cons a l => exact Option.some.inj h

theorem foldInts_max {l : List Int} {m : Int} (h : l.max? = some m) : foldInts max l = m := by
  cases l with
  | nil => exact absurd h nofun
  | cons a l => exact Option.some.inj h

section
variable {fl : Fmt → RoundCtx → List FVal → Nat × FFlags} {it : List Int → Int} {vd va : BitVec 5} {rm : BitVec 3} {mk : BitVec 4}

/-- R172, R173: what a reduction of integers computes. -/
theorem vred_run_int (x : Thread) (s : State) (hf : intFormat (vfmtOf x) = true) : (vred fl it vd va rm mk).run x s =
      let w := fmtBits (vfmtOf x)
      some (.v vd (setElem0 (getV x vd) w (it (((List.range x.vl).filter fun i => (getM x mk).getLsbD i).map fun i =>
        sint w (elemAt (getV x va) w i)) % 2 ^ w).toNat), noFlags) := by
  simp only [vred, redFormat, hf, Bool.or_true, Bool.not_true, Bool.false_eq_true, if_false, if_true, intVal_of_intFormat hf, actives_eq,
    wrapInt]

/-- R172, R173: what a reduction of numbers computes. -/
theorem vred_run_float (x : Thread) (s : State) {seed : Word} (hseed : seedOf s x = seed) (hf : fpFormat (vfmtOf x) = true) :
    (vred fl it vd va rm mk).run x s =
      let w := fmtBits (vfmtOf x)
      let r := fl (vfmtOf x) (vecRound x seed rm x.sat 0) (((List.range x.vl).filter fun i => (getM x mk).getLsbD i).map fun i =>
        floatVal (fmtFloat (vfmtOf x)) (elemAt (getV x va) w i))
      some (.v vd (setElem0 (getV x vd) w r.1), r.2) := by
  simp only [vred, redFormat, hseed, hf, intFormat_of_fpFormat hf, Bool.true_or, Bool.not_true, Bool.false_eq_true, if_false, actives_eq]

theorem vred_run_isSome (x : Thread) (s : State) (hf : fpFormat (vfmtOf x) = true ∨ intFormat (vfmtOf x) = true) :
    ((vred fl it vd va rm mk).run x s).isSome = true := by
  rcases hf with hf | hf
  · rw [vred_run_float x s rfl hf]
    rfl
  · rw [vred_run_int x s hf]
    rfl

variable {s : State} {c : BitVec 8} {e : VEnt} {rest : List VEnt} {i : Instr}

/-- R145, R172: the pass of the head of the queue gives Fd with element 0 replaced. -/
def GivesElem0 (s : State) (c : BitVec 8) (e : VEnt) (rest : List VEnt) (vd : BitVec 5) (v : Nat) : Prop :=
  ∃ r g, PassGives s c e rest (.v vd r) g ∧ ∀ j, j < 8192 / fmtBits (entFmt e) →
    elemAt r (fmtBits (entFmt e)) j = if j = 0 then v % 2 ^ fmtBits (entFmt e)
      else elemAt (getV (thOf s c.toNat e.t) vd) (fmtBits (entFmt e)) j

/-- R172, R173: the pass of a reduction of integers. -/
theorem givesElem0_int (hhead : AtHead s c e rest i [.v vd]) (hbody : vecBody i = some (vred fl it vd va rm mk))
    (hf : intFormat (entFmt e) = true) : GivesElem0 s c e rest vd
      (it (((List.range e.vl).filter fun i => (getM (thOf s c.toNat e.t) mk).getLsbD i).map fun i =>
        sint (fmtBits (entFmt e)) (elemAt (getV (thOf s c.toNat e.t) va) (fmtBits (entFmt e)) i)) % 2 ^ fmtBits (entFmt e)).toNat :=
  ⟨_, _, passGives_of_body hhead hbody (fun s' _ => vred_run_int _ s' hf) (noTrap_none e), elemAt_setElem0 _ _ _⟩

/-- R172, R173: the pass of a reduction of numbers. -/
theorem givesElem0_float (hhead : AtHead s c e rest i [.v vd]) (hbody : vecBody i = some (vred fl it vd va rm mk))
    (hf : fpFormat (entFmt e) = true) (hn : NoTrap e 31#5) : GivesElem0 s c e rest vd
      (fl (entFmt e) (entRound e rm e.sat 0) (((List.range e.vl).filter fun i => (getM (thOf s c.toNat e.t) mk).getLsbD i).map fun i =>
        floatVal (fmtFloat (entFmt e)) (elemAt (getV (thOf s c.toNat e.t) va) (fmtBits (entFmt e)) i))).1 :=
  ⟨_, _, passGives_of_body hhead hbody (fun s' hseed => vred_run_float _ s' hseed hf) (noTrap_of_all hn _), elemAt_setElem0 _ _ _⟩

end

/-- R156: the reductions into Fd are handed off. -/
theorem joinsQueue_reductions {c : BitVec 8} {vd va accn : BitVec 5} {rm : BitVec 3} {mk : BitVec 4} {s : State} {t : Nat}
    (hissue : CanIssue s c t 4#18 ([.v va] ++ maskReg mk ++ [.v vd])) (hroom : (coreOf s c.toNat).vq.length < 4)
    (hf : fpFormat (vfmtOf (thOf s c.toNat t)) = true ∨ intFormat (vfmtOf (thOf s c.toNat t)) = true) :
    ∀ i ∈ [.vrsum c vd va accn rm mk, .vrmin c vd va accn rm mk, .vrmax c vd va accn rm mk], JoinsQueue s c t i [.v vd] := by
  have hjoin {fl it i} (hbody : vecBody i = some (vred fl it vd va rm mk)) (hexec : exec i s = .next (vecOp i c s)) :
      JoinsQueue s c t i [.v vd] := joinsQueue_of_vecOp s c t i _ hexec hbody hissue hroom (vred_run_isSome _ s hf)
  simp only [List.forall_mem_cons]
  exact ⟨hjoin rfl rfl, hjoin rfl rfl, hjoin rfl rfl, fun i hi => absurd hi List.not_mem_nil⟩

/-- R156: a hand-off from a state that agrees with `s` on what a hand-off reads and keeps is one from `s`. -/
theorem HandedOff.of_before {s s1 s' : State} {c : BitVec 8} {t : Nat} {i : Instr} {dst : List Reg} {k : VKind} {late : Nat}
    (h : HandedOff s1 s' c t i dst k late) (hx : thOf s1 c.toNat t = thOf s c.toNat t)
    (hq : (coreOf s1 c.toNat).vq = (coreOf s c.toNat).vq) (hclk : (coreOf s1 c.toNat).clk = (coreOf s c.toNat).clk)
    (hseed : ∀ n, (ctxOf s1 n).seed = (ctxOf s n).seed) (hmem : SameMemory s s1)
    (hother : ∀ c', c' ≠ c.toNat → coreOf s1 c' = coreOf s c') : HandedOff s s' c t i dst k late := by
  obtain ⟨hvq, hth, hend, hmem', hother'⟩ := h
  rw [hx, hq, hclk, hseed] at hvq
  rw [hx] at hth
  rw [hclk] at hend
  exact ⟨hvq, hth, hend, sameMemory_trans hmem hmem', fun c' hc => (hother' c' hc).trans (hother c' hc)⟩

@[simp] theorem catchUp_ru (s : State) (c : Nat) : (coreOf (catchUp s c) c).ru = (coreOf s c).ru := by
  obtain ⟨-, -, mx, se, hcore⟩ := onlyUnits_catchUp s c
  rw [hcore]

/-- R156: a hand-off to the vector queue leaves the reduction unit as it is. -/
theorem handVec_ru (s : State) (c t : Nat) (x : Thread) (dst : List Reg) (i : Instr) (e : VEnt) (late : Nat)
    (hroom : (coreOf s c).vq.length < 4) : (coreOf (handVec s c t x dst i e late) c).ru = (coreOf s c).ru := by
  have hr : vecRoom (coreOf s c) = true := decide_eq_true hroom
  unfold handVec
  simp only [hr, Bool.not_true, Bool.false_eq_true, if_false]
  obtain ⟨s', hret, -, -, -, _, _, _, _, _, _, _, _, hcore⟩ := onlyThread_retire
    (setCore s c { coreOf s c with vq := (coreOf s c).vq ++ [latchVec s c x i e] }) c t (dst.foldl markBusy x) (x.pc + 4#18) (2 + late)
  rw [hret, catchUp_ru, hcore, coreOf_setCore]

section
variable {s : State} {c : BitVec 8} {t : Nat} {va accn : BitVec 5} {rm : BitVec 3} {mk : BitVec 4} {hi : BitVec 1}

/-- R174: the state with VRSUM.HO's place in the reduction unit's order. -/
def hoPlaced (s : State) (c t : Nat) : State :=
  setRu s c { (coreOf s c).ru with q := (coreOf s c).ru.q ++ [{ t := t, op := .ho }] }

theorem coreOf_hoPlaced (s : State) (c t : Nat) : coreOf (hoPlaced s c t) c =
    { coreOf s c with ru := { (coreOf s c).ru with q := (coreOf s c).ru.q ++ [{ t := t, op := .ho }] } } := coreOf_setCore ..

theorem thOf_hoPlaced (s : State) (c t t' : Nat) : thOf (hoPlaced s c t) c t' = thOf s c t' := by
  unfold thOf threadOf
  rw [coreOf_hoPlaced]

/-- R125, R174: VRSUM.HO to an accumulator of the kind of its format. -/
theorem exec_vrsumHo (hissue : CanIssue s c t 4#18 ([.v va] ++ maskReg mk)) (hroom : (coreOf s c.toNat).vq.length < 4)
    (hf : fpFormat (vfmtOf (thOf s c.toNat t)) = true ∨ intFormat (vfmtOf (thOf s c.toNat t)) = true)
    (hworld : (coreOf s c.toNat).ru.world = worldOf (coreOf s c.toNat) t)
    (hkind : (coreOf s c.toNat).ru.hkind = decide (vfmtOf (thOf s c.toNat t) = .fp64 ∨ vfmtOf (thOf s c.toNat t) = .int64))
    (hacc : hi.toNat * 32 + accn.toNat < ruCount (coreOf s c.toNat).ru.hkind) :
    exec (.vrsumHo c (hi.zeroExtend 5) va accn rm mk) s =
      .next (handVec (hoPlaced s c.toNat t) c.toNat t (thOf s c.toNat t) [] (.vrsumHo c (hi.zeroExtend 5) va accn rm mk)
        { t := t, pc := (thOf s c.toNat t).pc,
          kind := .ho (hi.toNat * 32 + accn.toNat) (coreOf s c.toNat).ru.hkind (hoVals (thOf s c.toNat t) va mk), flags := 0#5 } 0) := by
  have hhi : (hi.zeroExtend 5).toNat = hi.toNat := BitVec.toNat_setWidth_of_le (by decide)
  have hlt : hi.toNat < 2 := hi.isLt
  have hred : redFormat (vfmtOf (thOf s c.toNat t)) = true := (Bool.or_eq_true _ _).mpr hf
  have hwide : (decide (vfmtOf (thOf s c.toNat t) = .fp64) || decide (vfmtOf (thOf s c.toNat t) = .int64)) = (coreOf s c.toNat).ru.hkind := by
    rw [hkind, Bool.decide_or]
  have hsame : ((coreOf s c.toNat).ru.world != worldOf (coreOf s c.toNat) t) = false := by rw [hworld, bne_self_eq_false]
  have hr : vecRoom (coreOf s c.toNat) = true := decide_eq_true hroom
  show execVrsumHo c (hi.zeroExtend 5) va accn rm mk s = _
  unfold execVrsumHo
  rw [issue_of_canIssue c 4#18 _ _ s t hissue]
  dsimp only
  rw [hhi, Nat.mod_eq_of_lt hlt, hred, hwide, hsame, decide_eq_false (Nat.not_le.2 hacc), decide_eq_false (Nat.not_le.2 hlt), hr]
  simp only [bne_self_eq_false, Bool.not_true, Bool.or_self, Bool.false_eq_true, if_false]
  rfl

/-- R174: VRSUM.HO takes its place in the reduction unit's order and in the vector queue. -/
theorem vrsumHo_handsOff (hissue : CanIssue s c t 4#18 ([.v va] ++ maskReg mk)) (hroom : (coreOf s c.toNat).vq.length < 4)
    (hf : fpFormat (vfmtOf (thOf s c.toNat t)) = true ∨ intFormat (vfmtOf (thOf s c.toNat t)) = true)
    (hworld : (coreOf s c.toNat).ru.world = worldOf (coreOf s c.toNat) t)
    (hkind : (coreOf s c.toNat).ru.hkind = decide (vfmtOf (thOf s c.toNat t) = .fp64 ∨ vfmtOf (thOf s c.toNat t) = .int64))
    (hacc : hi.toNat * 32 + accn.toNat < ruCount (coreOf s c.toNat).ru.hkind) :
    ∃ s', exec (.vrsumHo c (hi.zeroExtend 5) va accn rm mk) s = .next (catchUp s' c.toNat) ∧
      HandedOff s s' c t (.vrsumHo c (hi.zeroExtend 5) va accn rm mk) []
        (.ho (hi.toNat * 32 + accn.toNat) (coreOf s c.toNat).ru.hkind (hoVals (thOf s c.toNat t) va mk)) ∧
      (coreOf s' c.toNat).ru = { (coreOf s c.toNat).ru with q := (coreOf s c.toNat).ru.q ++ [{ t := t, op := .ho }] } := by
  have hroom1 : (coreOf (hoPlaced s c.toNat t) c.toNat).vq.length < 4 := by rw [coreOf_hoPlaced]; exact hroom
  obtain ⟨s', hhand, hoff⟩ := handVec_handsOff (hoPlaced s c.toNat t) c t [] (.vrsumHo c (hi.zeroExtend 5) va accn rm mk)
    (.ho (hi.toNat * 32 + accn.toNat) (coreOf s c.toNat).ru.hkind (hoVals (thOf s c.toNat t) va mk)) 0 hroom1
  have hru := handVec_ru (hoPlaced s c.toNat t) c.toNat t (thOf (hoPlaced s c.toNat t) c.toNat t) [] (.vrsumHo c (hi.zeroExtend 5) va accn rm mk)
    { t := t, pc := (thOf (hoPlaced s c.toNat t) c.toNat t).pc,
      kind := .ho (hi.toNat * 32 + accn.toNat) (coreOf s c.toNat).ru.hkind (hoVals (thOf s c.toNat t) va mk), flags := 0#5 } 0 hroom1
  rw [hhand, catchUp_ru, coreOf_hoPlaced] at hru
  rw [thOf_hoPlaced] at hhand
  refine ⟨s', by rw [exec_vrsumHo hissue hroom hf hworld hkind hacc, hhand], ?_, hru⟩
  exact hoff.of_before (thOf_hoPlaced ..) (by rw [coreOf_hoPlaced]) (by rw [coreOf_hoPlaced]) (fun _ => rfl) (sameMemory_rfl s)
    fun c' hc => coreOf_setCore_ne _ _ _ _ hc

end

theorem vectorReductions : VectorReductions := by
  intro c vd va accn rm mk s forms
  constructor
  · intro t hissue x k f hroom hf
    refine ⟨joinsQueue_reductions hissue hroom hf, fun hi hworld hkind hacc => ?_⟩
    have hoff := vrsumHo_handsOff (rm := rm) (canIssue_of_subset hissue (List.subset_append_left _ _)) hroom hf hworld hkind hacc
    rwa [hoVals, actives_eq] at hoff
  · intro e rest i _ hhead x f w act ints nums rc gives
    refine ⟨fun hf => ⟨?_, fun m hm => ?_, fun m hm => ?_⟩, fun hf hn => ⟨?_, ?_, ?_⟩⟩
    · rintro rfl
      exact foldInts_add ints ▸ givesElem0_int hhead rfl hf
    · rintro rfl
      exact foldInts_min hm ▸ givesElem0_int hhead rfl hf
    · rintro rfl
      exact foldInts_max hm ▸ givesElem0_int hhead rfl hf
    · rintro rfl
      exact givesElem0_float hhead rfl hf hn
    · rintro rfl
      exact givesElem0_float hhead rfl hf hn
    · rintro rfl
      exact givesElem0_float hhead rfl hf hn

end Sys2Proof.Machine

open Sys2Proof Sys2Proof.Machine

/-- Settles O22: each permute gives its patterns (`exec_permForms`), each reduction element 0 (`givesElem0_int`, `givesElem0_float`), and
VRSUM.HO is handed off by `vrsumHo_handsOff`. -/
theorem vectorPermutesAndReductions : Obligations.VectorPermutesAndReductions := ⟨vectorPermutes, vectorReductions⟩

end

section
/-!
SUPPORT. Lengths, formats and masks (O23): VSETVL and VSETFMT as they complete, and what the mask operations give.
-/

namespace Sys2Proof.Machine

section
variable {c : BitVec 8} {s : State} {t : Nat}

/-- R148: VSETVL completes. -/
theorem exec_vsetvl {d a : BitVec 5} (hissue : CanIssue s c t 4#18 [.s d, .s a]) :
    let x := thOf s c.toNat t
    let n := min (getS x a).toNat (vlMax (vfmtOf x))
    ∃ s' st w, exec (.vsetvl c d a) s = .next (catchUp s' c.toNat) ∧ thOf s' c.toNat t =
        { putS { x with vl := n } d (BitVec.ofNat 64 n) with pc := x.pc + 4#18, icount := x.icount + 1, st := st, wait := w } ∧
      OnlyThread s s' c.toNat t ∧ (coreOf s' c.toNat).clk = (coreOf s c.toNat).clk + 3 := by
  intro x n
  obtain ⟨s', st, w, hret, hth, honly, hclk⟩ :=
    retire_spec s c.toNat t (putS { x with vl := n } d (BitVec.ofNat 64 n)) (x.pc + 4#18) 3
  refine ⟨s', st, w, ?_, ?_, honly, hclk⟩
  · rw [← hret]
    exact congrArg Host.Outcome.next (issue_of_canIssue c 4#18 _ _ s t hissue)
  · obtain ⟨l, hl⟩ := putS_eq { x with vl := n } d (BitVec.ofNat 64 n)
    rw [hth, hl]

/-- R148: VSETFMT of a format's code completes. -/
theorem exec_vsetfmt {a : BitVec 5} {f : Fmt} (hissue : CanIssue s c t 4#18 [.s a]) :
    let x := thOf s c.toNat t
    let code : BitVec 4 := (getS x a).truncate 4
    code ≠ 0xF#4 → fmtOfCode code.toNat = some f → ∃ s' st w, exec (.vsetfmt c a) s = .next (catchUp s' c.toNat) ∧ thOf s' c.toNat t =
        { x with vfmt := code, vl := min x.vl (vlMax f), pc := x.pc + 4#18, icount := x.icount + 1, st := st, wait := w } ∧
      OnlyThread s s' c.toNat t := by
  intro x code hcode hf
  obtain ⟨s', st, w, hret, hth, honly, -⟩ := retire_spec s c.toNat t (setVfmt x code) (x.pc + 4#18) 3
  have hset : setVfmt x code = { x with vfmt := code, vl := min x.vl (vlMax f) } := by
    simp only [setVfmt, vfmtOf, hf, Option.getD_some]
  refine ⟨s', st, w, ?_, ?_, honly⟩
  · rw [← hret]
    refine congrArg Host.Outcome.next ((issue_of_canIssue c 4#18 _ _ s t hissue).trans ?_)
    exact if_neg hcode
  · rw [hth, hset]

end

section
variable {f : BitVec 1024 → BitVec 1024 → BitVec 1024} {md ma mb : BitVec 4}

/-- R125: the mask operation on the masks that the low four bits of the fields name. -/
theorem maskOp_zeroExtend : maskOp f (md.zeroExtend 5) (ma.zeroExtend 5) (mb.zeroExtend 5) =
    ⟨maskReg ma ++ maskReg mb, maskReg md, fun x _ => some (.m md (f (getM x ma) (getM x mb)), noFlags)⟩ := by
  simp only [maskOp, truncate_zeroExtend_mask]

/-- R155: MCOUNT on the mask that the low four bits of its field name. -/
theorem mcount_zeroExtend (d : BitVec 5) : mcount d (ma.zeroExtend 5) = ⟨maskReg ma, [.s d], fun x _ =>
    some (.s d (BitVec.ofNat 64 ((List.range x.vl).filter fun i => (getM x ma).getLsbD i).length), noFlags)⟩ := by
  simp only [mcount, truncate_zeroExtend_mask, actives_eq]

variable {c : BitVec 8} {s : State} {i : Instr}

/-- R155, R156: a mask operation is handed off. -/
theorem joinsQueue_of_maskOp {t : Nat} (hbody : vecBody i = some (maskOp f (md.zeroExtend 5) (ma.zeroExtend 5) (mb.zeroExtend 5)))
    (hexec : exec i s = .next (vecOp i c s)) (hissue : CanIssue s c t 4#18 (maskReg ma ++ maskReg mb ++ maskReg md))
    (hroom : (coreOf s c.toNat).vq.length < 4) : JoinsQueue s c t i (maskReg md) := by
  rw [maskOp_zeroExtend] at hbody
  exact joinsQueue_of_vecOp s c t i _ hexec hbody hissue hroom rfl

/-- R155: the pass of a mask operation gives it on all 1,024 bits. -/
theorem passGives_maskOp {e : VEnt} {rest : List VEnt} (hhead : AtHead s c e rest i (maskReg md))
    (hbody : vecBody i = some (maskOp f (md.zeroExtend 5) (ma.zeroExtend 5) (mb.zeroExtend 5))) :
    PassGives s c e rest (.m md (f (getM (thOf s c.toNat e.t) ma) (getM (thOf s c.toNat e.t) mb))) 0#5 := by
  rw [maskOp_zeroExtend] at hbody
  exact passGives_of_body hhead hbody (fun _ _ => rfl) (noTrap_none e)

end

end Sys2Proof.Machine

open Sys2Proof Sys2Proof.Machine

/-- Settles O23: VSETVL and VSETFMT complete by `exec_vsetvl` and `exec_vsetfmt`; the mask operations and MCOUNT do what their bodies do. -/
theorem vectorLengthsAndMasks : Obligations.VectorLengthsAndMasks := by
  intro c d a md ma mb s two forms
  have hcount : vecBody (.mcount c d (ma.zeroExtend 5)) = some _ := congrArg some (mcount_zeroExtend d)
  constructor
  · intro t hissue x n code
    have hmasks : CanIssue s c t 4#18 (maskReg ma ++ maskReg mb ++ maskReg md) := canIssue_of_subset hissue (by simp)
    refine ⟨exec_vsetvl (canIssue_of_subset hissue (by simp)), fun hcode f hf => exec_vsetfmt (canIssue_of_subset hissue (by simp)) hcode hf,
      fun hroom => ⟨?_, ?_⟩⟩
    · simp only [forms, List.forall_mem_cons]
      exact ⟨joinsQueue_of_maskOp rfl rfl hmasks hroom, joinsQueue_of_maskOp rfl rfl hmasks hroom,
        joinsQueue_of_maskOp rfl rfl hmasks hroom, joinsQueue_of_maskOp rfl rfl hmasks hroom, fun f hf => absurd hf List.not_mem_nil⟩
    · exact joinsQueue_of_vecOp s c t _ _ rfl hcount (canIssue_of_subset hissue (by simp [maskReg])) hroom rfl
  · intro e rest x
    constructor
    · simp only [forms, List.forall_mem_cons]
      exact ⟨fun hhead => passGives_maskOp hhead rfl, fun hhead => passGives_maskOp hhead rfl, fun hhead => passGives_maskOp hhead rfl,
        fun hhead => passGives_maskOp hhead rfl, fun f hf => absurd hf List.not_mem_nil⟩
    · exact fun hhead => passGives_of_body hhead hcount (fun _ _ => rfl) (noTrap_none e)

end

section
/-!
SUPPORT. Vector memory instructions (O24): what the checks of their elements leave of the state, and their hand-off within the own
scratchpad.
-/

namespace Sys2Proof.Machine

/-- R45: every context's seed is as before. -/
def SeedsKept (s s1 : State) : Prop := ∀ n, (ctxOf s1 n).seed = (ctxOf s n).seed

theorem seedsKept_rfl (s : State) : SeedsKept s s := fun _ => rfl

theorem seedsKept_trans {a b d : State} (h : SeedsKept a b) (g : SeedsKept b d) : SeedsKept a d := fun n => (g n).trans (h n)

theorem seedsKept_bumpMulti (s : State) (cx : Nat) : SeedsKept s (bumpMulti s cx) := by
  intro n
  unfold bumpMulti ctxOf setCtx
  rw [tabGet_tabSet]
  split
  · next h => rw [h]
  · rfl

theorem seedsKept_countCapRef (s : State) (w : World) : SeedsKept s (countCapRef s w) := by cases w <;> exact seedsKept_rfl s

/-- R297, R299: translation counts a multiple match in a context and changes nothing else of it. -/
theorem seedsKept_translate (s : State) (eng cx va : Nat) (need : List Nat) (l : Bool) : SeedsKept s (translate s eng cx va need l).2 := by
  unfold translate
  split
  · exact seedsKept_rfl s
  · next n g more _ =>
    have htouched : SeedsKept s (touchBuf (if !more.isEmpty then bumpMulti s cx else s) eng cx n g) := by
      cases more with
      | nil => exact seedsKept_rfl s
      | cons _ _ => exact seedsKept_bumpMulti s cx
    simp only [apply_ite Prod.snd, ite_self]
    exact htouched

theorem seedsKept_checkPart (s : State) (eng cx : Nat) (w : World) (l : Bool) (need : List Nat) (hint : BitVec 4) (kind : AccKindOf)
    (word8 : Bool) (va len : Nat) : SeedsKept s (checkPart s eng cx w l need hint kind word8 va len).2 := by
  have htrans := seedsKept_translate s eng cx va need l
  unfold checkPart
  split
  · next h => rwa [h] at htrans
  · next h =>
    rw [h] at htrans
    dsimp only
    split
    · exact htrans
    · exact seedsKept_trans htrans (seedsKept_countCapRef _ w)

theorem seedsKept_checkParts (eng cx : Nat) (w : World) (l : Bool) (need : List Nat) (hint : BitVec 4) (kind : AccKindOf) (word8 : Bool)
    (ps : List (Nat × Nat)) : ∀ s : State, SeedsKept s (checkParts s eng cx w l need hint kind word8 ps).2 := by
  induction ps with
  | nil => exact seedsKept_rfl
  | cons p ps ih => exact fun s => seedsKept_trans (seedsKept_checkPart s eng cx w l need hint kind word8 p.1 p.2) (ih _)

section
variable (c t : Nat) (x : Thread) (need : List Nat) (hint : BitVec 4) (kind : AccKindOf)

/-- R104, R298: the checks of elements change what checks may, and no seed; and each element's parts are those that were checked. -/
theorem checkElems_spec (ps : List PreElem) : ∀ s : State,
    let r := checkElems s c t x need hint kind ps
    ChecksOnly s r.2 ∧ SeedsKept s r.2 ∧ ∀ q ∈ r.1, q.1.halves = q.2.map (·.half) := by
  induction ps with
  | nil => exact fun s => ⟨checksOnly_rfl s, seedsKept_rfl s, nofun⟩
  | cons p ps ih =>
    intro s
    obtain ⟨hchecks, -, -⟩ := checkParts_spec c x.cx.toNat (worldOf (coreOf s c) t) (isS x) need hint kind
      (p.len == 8 && p.va % 8 == 0) (splitAccess p.va p.len) s
    have hseeds := seedsKept_checkParts c x.cx.toNat (worldOf (coreOf s c) t) (isS x) need hint kind
      (p.len == 8 && p.va % 8 == 0) (splitAccess p.va p.len) s
    obtain ⟨hchecks', hseeds', hhalves⟩ := ih (checkParts s c x.cx.toNat (worldOf (coreOf s c) t) (isS x) need hint kind
      (p.len == 8 && p.va % 8 == 0) (splitAccess p.va p.len)).2
    refine ⟨checksOnly_trans hchecks hchecks', seedsKept_trans hseeds hseeds', fun q hq => ?_⟩
    rcases List.mem_cons.1 hq with rfl | hq
    · rfl
    · exact hhalves q hq

end

section
variable {rs : List (VElem × List Checked)}

/-- R179: elements that pass raise no fault. -/
theorem firstElemFault_of_passes (h : ∀ q ∈ rs, Passes q.2) (s : State) (sb : List SBuf) (rd : Bool) :
    firstElemFault s sb rd rs = none := by
  have hnone : (rs.find? fun q => (firstFault q.2 false).isSome) = none :=
    List.find?_eq_none.2 fun q hq => by rw [firstFault_of_passes (h q hq)]; exact Bool.false_ne_true
  unfold firstElemFault
  rw [hnone]

/-- R94, R179: elements that pass have no masked outcome. -/
theorem elemDrops_of_passes (h : ∀ q ∈ rs, Passes q.2) (mx4 : Bool) :
    (rs.map fun q => elemDrops mx4 q.1 q.2).foldl (· + ·) 0 = 0 := by
  rw [← List.sum_eq_foldl]
  refine List.sum_eq_zero fun n hn => ?_
  obtain ⟨q, hq, rfl⟩ := List.mem_map.1 hn
  rw [elemDrops, dropCount_of_passes (h q hq), Nat.zero_mul]

/-- R76: elements whose parts lie in the own scratchpad. -/
theorem elemHalves_own {s s1 : State} {c : Nat} (h : ∀ q ∈ rs, AllOwn s c q.2) (hhalves : ∀ q ∈ rs, q.1.halves = q.2.map (·.half))
    (hchecks : ChecksOnly s s1) : ((elemHalves (rs.map (·.1))).filter fun h => !h.bad).all (inOwnSpad s1 c) = true := by
  rw [List.all_eq_true]
  intro z hz
  have hmem := List.mem_of_mem_filter hz
  rw [elemHalves, List.map_map, List.mem_flatten] at hmem
  obtain ⟨l, hl, hzl⟩ := hmem
  obtain ⟨q, hq, rfl⟩ := List.mem_map.1 hl
  rw [Function.comp_apply, hhalves q hq] at hzl
  exact List.all_eq_true.1 (all_own (h q hq) hchecks.part hchecks.fab) z hzl

end

/-- R156, R176 to R179: a vector memory instruction whose elements all pass in the own scratchpad is handed off. -/
theorem vecMem_handsOff {f : VmemForm} {c : BitVec 8} {regs : List Reg} {hint : BitVec 4} {elems : Thread → Option (List PreElem)}
    {kind : Thread → List VElem → VKind} {s : State} {t : Nat}
    (hexec : exec f.instr s = .next (vecMem f.instr c regs f.dst f.need f.kind hint elems kind s))
    (hissue : CanIssue s c t 4#18 (regs ++ f.dst)) (hroom : (coreOf s c.toNat).vq.length < 4)
    (helems : elems (thOf s c.toNat t) = some f.elems) (hkind : ∀ es, kind (thOf s c.toNat t) es = f.entry es) :
    let chk := (checkElems s c.toNat t (thOf s c.toNat t) f.need hint f.kind f.elems).1
    (∀ q ∈ chk, Passes q.2 ∧ AllOwn s c.toNat q.2) →
    ∃ s', exec f.instr s = .next (catchUp s' c.toNat) ∧
      HandedOff s s' c t f.instr f.dst (f.entry (chk.map (·.1))) (missClocks ((chk.map (·.2)).flatten)) := by
  obtain ⟨hchecks, hseeds, hhalves⟩ := checkElems_spec c.toNat t (thOf s c.toNat t) f.need hint f.kind f.elems s
  generalize hchk : checkElems s c.toNat t (thOf s c.toNat t) f.need hint f.kind f.elems = r at hchecks hseeds hhalves ⊢
  obtain ⟨rs, s1⟩ := r
  dsimp only at hchecks hseeds hhalves ⊢
  intro hgood
  have hpass : ∀ q ∈ rs, Passes q.2 := fun q hq => (hgood q hq).1
  have hown := elemHalves_own (fun q hq => (hgood q hq).2) hhalves hchecks
  have hcore := coreOf_of_cores hchecks.cores
  have hth := thOf_of_cores hchecks.cores c.toNat t
  have hroom1 : (coreOf s1 c.toNat).vq.length < 4 := by rw [hcore]; exact hroom
  have hr : vecRoom (coreOf s1 c.toNat) = true := decide_eq_true hroom1
  obtain ⟨s', hhand, hoff⟩ := handVec_handsOff s1 c t f.dst f.instr (f.entry (rs.map (·.1))) (missClocks ((rs.map (·.2)).flatten)) hroom1
  refine ⟨s', ?_, hoff.of_before hth (by rw [hcore]) (by rw [hcore]) hseeds hchecks.sameMemory fun c' _ => hcore c'⟩
  rw [hexec, ← hhand, hth]
  unfold vecMem
  rw [issue_of_canIssue c 4#18 _ _ s t hissue, helems]
  simp only [hchk, hkind, firstElemFault_of_passes hpass, elemDrops_of_passes hpass, hown, hr, countDrops, ite_self, if_true,
    Bool.not_true, Bool.false_eq_true, if_false]

section
variable {a b vb : BitVec 5} {mk : BitVec 4} {idx64 : Bool} {x : Thread}

/-- R175: the elements of a strided access in a format that is no MX format. -/
theorem vmemElems_eq (h : fmtIsMx (vfmtOf x) = false) : vmemElems a b mk x = stridedElems (fmtBits (vfmtOf x)) (actives (getM x mk) x.vl)
    (getS x a) (if b = 0#5 then BitVec.ofNat 64 (fmtBits (vfmtOf x) / 8) else getS x b) := by
  simp only [vmemElems, h, Bool.false_eq_true, if_false]

/-- R151, R176: the elements of a gather or scatter within the offsets that Vb holds. -/
theorem vgsElems_eq (h : fmtIsMx (vfmtOf x) = false) (hvl : x.vl ≤ (if idx64 then 128 else 256)) : vgsElems a vb mk idx64 false x =
    some (gatherElems (fmtBits (vfmtOf x)) (actives (getM x mk) x.vl) (getS x a) (getV x vb) idx64) := by
  simp only [vgsElems, permFormat, h, Nat.not_lt.2 hvl, decide_false, Bool.not_false, Bool.not_true, Bool.or_self, Bool.false_eq_true,
    if_false]

end

end Sys2Proof.Machine

open Sys2Proof Sys2Proof.Machine

/-- Settles O24: each form is handed off with the elements that its checks gave (`vecMem_handsOff`). -/
theorem vectorMemoryHandOff : Obligations.VectorMemoryHandOff := by
  intro c vd a b vb hint mk idx64 s t hissue x hroom hmx hvl
  have hstrided : some (vmemElems a b mk x) = some _ := congrArg some (vmemElems_eq hmx)
  have hindexed := vgsElems_eq (a := a) (vb := vb) (mk := mk) hmx hvl
  have hregs {l : List Reg} (hl : l ⊆ [.s a, .s b, .v vb, .m mk, .v vd]) : CanIssue s c t 4#18 l := canIssue_of_subset hissue hl
  refine List.forall_mem_cons.2 ⟨?_, List.forall_mem_cons.2 ⟨?_, List.forall_mem_cons.2 ⟨?_, List.forall_mem_cons.2 ⟨?_,
    fun f hf => absurd hf List.not_mem_nil⟩⟩⟩⟩
  · refine vecMem_handsOff rfl (hregs (by simp [maskReg])) hroom hstrided fun es => ?_
    have hx : fmtIsMx (vfmtOf (thOf s c.toNat t)) = false := hmx
    simp only [hx, Bool.false_and, Bool.false_eq_true, if_false]
  · exact vecMem_handsOff rfl (hregs (by simp [maskReg])) hroom hstrided fun _ => rfl
  · exact vecMem_handsOff rfl (hregs (by simp [maskReg])) hroom hindexed fun _ => rfl
  · exact vecMem_handsOff rfl (hregs (by simp [maskReg])) hroom hindexed fun _ => rfl

end

section
/-!
SUPPORT. The management bus (O52): PLDM requests while the monitor answers and while it does not, and the readings of the sensors.
-/

namespace Sys2Proof.Machine

/-- R474: the monitor's silence before event 4 and while its outputs are disabled. -/
theorem pldmOn_eq_false {s : State} (h : booted s = false ∨ outputsOn s = false) : pldmOn s = false := Bool.and_eq_false_iff.2 h

theorem pldmOn_eq_true {s : State} (hb : booted s = true) (ho : outputsOn s = true) : pldmOn s = true := Bool.and_eq_true_iff.2 ⟨hb, ho⟩

/-- R474: with the monitor silent no PLDM or maintenance request changes anything. -/
theorem managementRequests_silent {n : BitVec 8} {arg : Word} {s : State} (h : pldmOn s = false) : ∀ i ∈ [Instr.baseDiscovery n,
    .getSensorReading n, .evidenceRead, .errlogRead, .devkeyRead, .maintReq n arg, .maintRsp], exec i s = .next s := by
  have hexec : exec (.baseDiscovery n) s = execBaseDiscovery n s ∧ exec (.getSensorReading n) s = execGetSensorReading n s ∧
      exec .evidenceRead s = execEvidenceRead s ∧ exec .errlogRead s = execErrlogRead s ∧ exec .devkeyRead s = execDevkeyRead s ∧
      exec (.maintReq n arg) s = execMaintReq n arg s ∧ exec .maintRsp s = execMaintRsp s := ⟨rfl, rfl, rfl, rfl, rfl, rfl, rfl⟩
  simp [hexec, execBaseDiscovery, execGetSensorReading, execEvidenceRead, execErrlogRead, execDevkeyRead, execMaintReq, execMaintRsp, h]

section
variable {n : BitVec 8} {s : State} (h : pldmOn s = true)
include h

theorem not_silent : ¬ (!(pldmOn s)) = true := by simp [h]

/-- R475: BASE_DISCOVERY answered, by its command number. -/
theorem exec_baseDiscovery : exec (.baseDiscovery n) s = .next (pldmAnswer s 0
    (if n = 2#8 then [s.board.tid.toNat] else if n = 4#8 then [0, 2, 5, 7] else Config.pldmBase n.toNat)) := by
  have hexec : exec (.baseDiscovery n) s = execBaseDiscovery n s := rfl
  rw [hexec, execBaseDiscovery, if_neg (not_silent h)]
  split_ifs <;> rfl

theorem exec_getSensorReading_known {v : Nat} (hv : sensorReading s n.toNat = some v) :
    exec (.getSensorReading n) s = .next (pldmAnswer { s with draws := s.draws + 1 } 0 [v]) := by
  have hexec : exec (.getSensorReading n) s = execGetSensorReading n s := rfl
  rw [hexec, execGetSensorReading, if_neg (not_silent h), hv]
  rfl

theorem exec_getSensorReading_unknown (hn : 20 ≤ n.toNat) : exec (.getSensorReading n) s = .next (pldmAnswer s 1 []) := by
  have hexec : exec (.getSensorReading n) s = execGetSensorReading n s := rfl
  have hnone : sensorReading s n.toNat = none := by
    unfold sensorReading
    rw [if_neg (by omega), if_neg (by omega)]
    split
    iterate 6 omega
    rfl
  rw [hexec, execGetSensorReading, if_neg (not_silent h), hnone]
  rfl

/-- R475: the reads of the error log, the device key and the latest maintenance response. -/
theorem exec_recordReads : exec .errlogRead s = .next (pldmAnswer s 0
      ((aonBoot s).toNat :: (s.memsys.errlog.map fun e => [e.1, e.2]).flatten)) ∧
    exec .devkeyRead s = .next (pldmAnswer s 0 (Config.publicKey s.boot.devKey)) ∧
    exec .maintRsp s = .next (pldmAnswer s 0 s.board.maintRsp) :=
  ⟨congrArg _ (if_neg (not_silent h)), congrArg _ (if_pos h), congrArg _ (if_pos h)⟩

/-- R432, R475: the evidence record begins with the device's identity. -/
theorem exec_evidenceRead : ∃ d, exec .evidenceRead s =
    .next (pldmAnswer s 0 ([partCode s.part, 0xB0, s.boot.serial, Config.lot, s.boot.image.version] ++ d)) := by
  have hexec : exec .evidenceRead s = execEvidenceRead s := rfl
  refine ⟨[Config.powerHours s.time, s.power.minA.getD 0, s.power.minB.getD 0] ++ ((s.steep.counts.map fun e => [e.1, e.2]).flatten ++
    (s.steep.ring.map eventNums).flatten), ?_⟩
  rw [hexec, execEvidenceRead, if_neg (not_silent h)]
  rfl

/-- R286: the maintenance reads, by their command numbers. -/
theorem exec_maintReq_reads (arg : Word) : exec (.maintReq 0#8 arg) s = .next (maintAnswer s (repairList s)) ∧
    exec (.maintReq 1#8 arg) s = .next (maintAnswer s (laneMap s)) ∧
    exec (.maintReq 3#8 arg) s = .next (maintAnswer s (stackTemps s)) :=
  ⟨congrArg _ (if_neg (not_silent h)), congrArg _ (if_neg (not_silent h)), congrArg _ (if_neg (not_silent h))⟩

theorem exec_maintReq_schedule (arg : Word) : exec (.maintReq 2#8 arg) s =
    .next (maintAnswer (recordRow s (field arg.toNat 32 3) (field arg.toNat 0 32)) []) := congrArg _ (if_neg (not_silent h))

theorem exec_maintReq_unknown (arg : Word) (hn : 4 ≤ n.toNat) : exec (.maintReq n arg) s = .next s := by
  have hexec : exec (.maintReq n arg) s = execMaintReq n arg s := rfl
  rw [hexec, execMaintReq, if_neg (not_silent h)]
  split
  iterate 4 omega
  rfl

end

theorem sensorReading_die {s : State} {k : Nat} (h : k < 6) : sensorReading s k = some (tempByte (tabGet 0 s.power.temps k)) := if_pos h

theorem sensorReading_stack {s : State} {k : Nat} (h6 : 6 ≤ k) (h : k < 14) :
    sensorReading s k = some (tempByte (tabGet 0 s.memsys.temps (k - 6))) := (if_neg (Nat.not_lt.2 h6)).trans (if_pos h)

/-- R475: the device state as the manual numbers it, in one formula. -/
theorem deviceState_eq (s : State) : deviceState s = if s.steep.lost.contains s.fab.devnum then 4 else if s.steep.halted || s.fab.recov
    then 3 else if devBit s 12 || devBit s 13 then 2 else if s.boot.phase = .loader then 1 else 0 := by
  unfold deviceState jobOn
  cases s.boot.phase <;> rfl

/-- R475: every sensor below 20 has a reading, by its number. -/
theorem sensorReading_known {s : State} {k : Nat} (h : k < 20) : ∃ v, sensorReading s k = some v ∧
    (k < 6 → v = tempByte (tabGet 0 s.power.temps k)) ∧ (6 ≤ k → k < 14 → v = tempByte (tabGet 0 s.memsys.temps (k - 6))) ∧
    (k = 14 → v = s.power.vina.toNat) ∧ (k = 15 → v = s.power.vinb.toNat) ∧ (k = 17 → v = deviceState s) ∧
    (k = 18 → v = s.steep.holder.toNat) ∧ (k = 19 → v = b2n s.power.inuseB) := by
  by_cases h6 : k < 6
  · exact ⟨_, sensorReading_die h6, fun _ => rfl, by omega, by omega, by omega, by omega, by omega, by omega⟩
  by_cases h14 : k < 14
  · exact ⟨_, sensorReading_stack (by omega) h14, by omega, fun _ _ => rfl, by omega, by omega, by omega, by omega, by omega⟩
  have hk : k = 14 ∨ k = 15 ∨ k = 16 ∨ k = 17 ∨ k = 18 ∨ k = 19 := by omega
  rcases hk with rfl | rfl | rfl | rfl | rfl | rfl <;> exact ⟨_, rfl, by simp⟩

/-- R286: a row recorded for repair is in the list, with every row recorded before; memory stays. -/
theorem recordRow_spec (s : State) (stack row : Nat) : (stack, row) ∈ (recordRow s stack row).memsys.repair ∧
    (∀ e ∈ s.memsys.repair, e ∈ (recordRow s stack row).memsys.repair) ∧ SameMemory s (recordRow s stack row) := by
  unfold recordRow
  split_ifs with h
  · exact ⟨List.contains_iff_mem.1 h, fun _ he => he, sameMemory_rfl s⟩
  · exact ⟨List.mem_append_right _ (List.mem_singleton.2 rfl), fun _ he => List.mem_append_left _ he, sameMemory_rfl s⟩

end Sys2Proof.Machine

open Sys2Proof Sys2Proof.Machine

/-- Settles O52: silence by `managementRequests_silent`, and each request answered by its own lemma. -/
theorem managementBus : Obligations.ManagementBus := by
  intro n eid arg da s answers
  refine ⟨rfl, rfl, fun h => managementRequests_silent (pldmOn_eq_false h), fun hb ho => ?_⟩
  have hon := pldmOn_eq_true hb ho
  obtain ⟨herrlog, hdevkey, hrsp⟩ := exec_recordReads hon
  obtain ⟨hlist, hmap, htemps⟩ := exec_maintReq_reads hon arg
  refine ⟨exec_baseDiscovery hon, exec_baseDiscovery hon, fun _ _ => ⟨_, exec_baseDiscovery hon⟩, fun hn => ?_,
    exec_getSensorReading_unknown hon, exec_evidenceRead hon, herrlog, hdevkey, hrsp, fun m => exec_maintReq_unknown hon arg, ?_, ?_⟩
  · obtain ⟨v, hv, hdie, hstack, ha, hb, hstate, hholder, hsupply⟩ := sensorReading_known (s := s) hn
    exact ⟨v, exec_getSensorReading_known hon hv, hdie, hstack, fun e => ha (by rw [e]; rfl), fun e => hb (by rw [e]; rfl),
      fun e => (hstate (by rw [e]; rfl)).trans (deviceState_eq s), fun e => hholder (by rw [e]; rfl), fun e => hsupply (by rw [e]; rfl)⟩
  · simp only [List.forall_mem_cons]
    exact ⟨hlist, hmap, htemps, fun e he => absurd he List.not_mem_nil⟩
  · obtain ⟨hrow, hkept, hmem⟩ := recordRow_spec s (field arg.toNat 32 3) (field arg.toNat 0 32)
    exact ⟨_, exec_maintReq_schedule hon arg, rfl, hmem, hrow, hkept⟩

end

section
/-!
SUPPORT. The tags of the last-level cache (O40): what requests to the channel controllers leave alone, how a line is found again in its
set, that a fill finds a way, and one sector's request that hits, fills a line or goes to HBM.
-/

namespace Sys2Proof.Machine

/-- Of the state only the channel controllers differ. -/
def ChansOnly (s s' : State) : Prop := s' = { s with memsys := { s.memsys with chans := s'.memsys.chans } }

theorem chansOnly_rfl (s : State) : ChansOnly s s := rfl

theorem chansOnly_trans {a b c : State} (h : ChansOnly a b) (g : ChansOnly b c) : ChansOnly a c := by
  unfold ChansOnly at *
  rw [g, h]

theorem chansOnly_foldl {α : Type} {f : State → α → State} (hf : ∀ s a, ChansOnly s (f s a)) (l : List α) :
    ∀ s, ChansOnly s (l.foldl f s) := by
  induction l with
  | nil => exact chansOnly_rfl
  | cons a l ih => exact fun s => chansOnly_trans (hf s a) (ih (f s a))

theorem ChansOnly.sameMemory {s s' : State} (h : ChansOnly s s') : SameMemory s s' := by rw [h]; exact ⟨rfl, rfl⟩

theorem ChansOnly.llc {s s' : State} (h : ChansOnly s s') : s'.memsys.llc = s.memsys.llc := by rw [h]

theorem chansOnly_setChan (s : State) (stack ch : Nat) (k : Chan) : ChansOnly s (setChan s stack ch k) := rfl

theorem chansOnly_hbmPush (s : State) (pa : Nat) (write urgent : Bool) (user : Option MemUser) :
    ChansOnly s (hbmPush s pa write urgent user) := chansOnly_setChan s _ _ _

theorem chansOnly_hbmSector (s : State) (pa : Nat) (write urgent : Bool) (user : Option MemUser) :
    ChansOnly s (hbmSector s pa write urgent user) := chansOnly_trans (chansOnly_hbmPush s _ _ _ _) (chansOnly_hbmPush _ _ _ _ _)

/-- R259: the write-backs of an evicted line are requests to its stack. -/
theorem chansOnly_writeBack (s : State) (l : LlcLine) : ChansOnly s (writeBack s l) :=
  chansOnly_foldl (fun s i => by split_ifs; exacts [chansOnly_hbmSector s _ _ _ _, chansOnly_rfl s]) _ s

/-- R273: an access that goes by the cache is requests to its stack. -/
theorem chansOnly_bypassMiss (s : State) (r : SectorReq) : ChansOnly s (bypassMiss s r) :=
  chansOnly_foldl (fun s i => by
    dsimp only
    split_ifs
    · exact chansOnly_trans (chansOnly_hbmPush s _ _ _ _) (chansOnly_hbmPush _ _ _ _ _)
    · exact chansOnly_hbmPush s _ _ _ _) _ s

/-- A value put where the first entry sought stands, or anywhere where no entry is sought, is the first sought one. -/
theorem tabFind_tabSet {α : Type} {t : Tab α} {p : Nat → α → Bool} {k : Nat} {v : α} (hp : p k v = true)
    (h : ∀ e, tabFind t p = some e → e.1 = k) : tabFind (tabSet t k v) p = some (k, v) := by
  induction t with
  | nil => exact List.find?_cons_of_pos hp
  | cons e t ih =>
    simp only [tabSet]
    split_ifs with hk hlt
    · exact List.find?_cons_of_pos hp
    · exact List.find?_cons_of_pos hp
    · have he : ¬ p e.1 e.2 = true := fun hpe => hk (h e (List.find?_cons_of_pos hpe)).symm
      have hskip (l : Tab α) : tabFind (e :: l) p = tabFind l p := List.find?_cons_of_neg he
      rw [hskip] at h
      exact (hskip _).trans (ih h)

theorem tabFind_tabErase_none {α : Type} {t : Tab α} {p : Nat → α → Bool} (k : Nat) (h : tabFind t p = none) :
    tabFind (tabErase t k) p = none :=
  List.find?_eq_none.2 fun e he => List.find?_eq_none.1 h e (List.mem_filter.1 he).1

theorem insertSorted_ne_nil {α : Type} (le : α → α → Bool) (x : α) (l : List α) : insertSorted le x l ≠ [] := by
  cases l with
  | nil => exact List.cons_ne_nil _ _
  | cons y l => unfold insertSorted; split_ifs <;> exact List.cons_ne_nil _ _

theorem sortRising_ne_nil {α : Type} (le : α → α → Bool) {l : List α} (h : l ≠ []) : sortRising le l ≠ [] := by
  cases l with
  | nil => exact absurd rfl h
  | cons x l => exact insertSorted_ne_nil le x _

/-- R262: both worlds may use a way of each set. -/
theorem waysFor_ne_nil (tways : BitVec 4) (w : World) : waysFor tways.toNat w ≠ [] := by
  revert tways
  cases w <;> decide

/-- R261: a fill finds a way where no line is PIN. -/
theorem victim_of_no_pin {x : LlcSet} {ways : List Nat} (hways : ways ≠ []) (hpin : ∀ e ∈ x.ways, e.2.cls ≠ clsPin) :
    ∃ way, victim x ways = some way := by
  unfold victim
  dsimp only
  split
  · exact ⟨_, rfl⟩
  · rename_i hused
    obtain ⟨i, hi⟩ := List.exists_mem_of_ne_nil ways hways
    have hsome := List.find?_eq_none.1 hused i hi
    obtain ⟨e, he⟩ : ∃ e, x.ways.find? (fun e => e.1 == i) = some e := by
      cases hf : x.ways.find? (fun e => e.1 == i) with
      | none => rw [hf] at hsome; exact absurd rfl hsome
      | some e => exact ⟨e, rfl⟩
    refine Option.isSome_iff_exists.1 ?_
    rw [Option.isSome_map, List.isSome_head?, ← List.isEmpty_eq_false_iff]
    refine List.isEmpty_eq_false_iff.2 (sortRising_ne_nil _ (List.ne_nil_of_mem (a := (i, e.2)) (List.mem_filter.2 ⟨?_, ?_⟩)))
    · exact List.mem_filterMap.2 ⟨i, hi, by rw [he]; rfl⟩
    · exact bne_iff_ne.2 (hpin e (List.mem_of_find?_eq_some he))

/-- The state with a set of the LLC replaced reads back that set. -/
theorem llcSetOf_setLlc (s : State) (h n : Nat) (x : LlcSet) : llcSetOf (setLlc s h n x) h n = x := tabGet_tabSet_same _ _ _ _

theorem ChansOnly.llcSetOf {s s' : State} (h : ChansOnly s s') (half n : Nat) :
    Machine.llcSetOf s' half n = Machine.llcSetOf s half n := by rw [Machine.llcSetOf, Machine.llcSetOf, h.llc]

/-- R258: the line of a set that holds the address `a`. -/
def lineFor (x : LlcSet) (a : Nat) : Option (Nat × LlcLine) := tabFind x.ways fun _ l => l.tag == a / 256

section
variable {s : State} {r : SectorReq}

/-- R260: an access of a class from 1 to 9 has the class it names. -/
theorem accessClass_of_hint (s : State) (cx pa : Nat) {hint : Nat} (h1 : 1 ≤ hint) (h9 : hint ≤ 9) : accessClass s cx pa hint = hint := by
  unfold accessClass
  rw [if_pos (by simp; omega)]

/-- R273: a narrow access that misses leaves the LLC as it is. -/
theorem sectorRequest_narrow_miss (hmiss : lineFor (llcSetOf s (dramOf s r.pa).stack (llcIndex s r.pa)) r.pa = none)
    (hnarrow : r.narrow = true) : sectorRequest s r = bypassMiss s r := by
  unfold lineFor at hmiss
  unfold sectorRequest
  simp only [hmiss, hnarrow, Bool.true_or, if_true]

/-- The line that a fill of no PIN class takes. -/
def filledLine (s : State) (r : SectorReq) (x : LlcSet) : LlcLine :=
  let bit : BitVec 4 := 1#4 <<< (r.pa / 64 % 4)
  let whole := r.write && r.len == 64
  { tag := r.pa / 256, valid := if whole then bit else 0#4, dirty := if r.write then bit else 0#4, fill := if whole then 0#4 else bit,
    cls := r.cls, world := (ctxOf s r.cx).world, cx := r.cx, stamp := x.fills + 1, used := x.clock }

/-- R259, R261, R262: a fill of no PIN class, in a set without PIN lines, replaces a line, whose dirty sectors go to the stack, and asks
the stack for a sector that it does not write as a whole. -/
theorem sectorFill_eq (h n : Nat) {x : LlcSet} (hpin : ∀ e ∈ x.ways, e.2.cls ≠ clsPin) (hcls : r.cls < clsPin) :
    ∃ way s1, ChansOnly s s1 ∧
      let s2 := setLlc s1 h n { x with
        ways := tabSet (tabErase x.ways way) way (filledLine s r x), fills := x.fills + 1, clock := x.clock + 1 }
      sectorFill s h n x r = if r.write && r.len == 64 then s2 else hbmSector s2 r.pa false r.urgent (some r.user) := by
  obtain ⟨way, hway⟩ := victim_of_no_pin (waysFor_ne_nil s.memsys.tways (ctxOf s r.cx).world) hpin
  unfold sectorFill
  simp only [hway, if_neg (Nat.ne_of_lt hcls)]
  cases x.ways.find? fun e => e.1 == way with
  | none => exact ⟨way, s, chansOnly_rfl s, rfl⟩
  | some e => exact ⟨way, writeBack s e.2, chansOnly_writeBack s e.2, rfl⟩

/-- R259, R261, R262: an access that misses takes a line in its set. -/
theorem sectorRequest_miss {h n : Nat} (hh : (dramOf s r.pa).stack = h) (hn : llcIndex s r.pa = n)
    (hmiss : lineFor (llcSetOf s h n) r.pa = none) (hpin : ∀ e ∈ (llcSetOf s h n).ways, e.2.cls ≠ clsPin)
    (hnarrow : r.narrow = false) (hcls : r.cls < clsPin) :
    ∃ way, lineFor (llcSetOf (sectorRequest s r) h n) r.pa = some (way, filledLine s r (llcSetOf s h n)) ∧
      SameMemory s (sectorRequest s r) := by
  have hmiss' : tabFind (llcSetOf s h n).ways (fun _ l => l.tag == r.pa / 256) = none := hmiss
  have hbypass : (r.cls == clsBypass) = false := beq_eq_false_iff_ne.2 (by unfold clsPin at hcls; unfold clsBypass; omega)
  have hreq : sectorRequest s r = sectorFill s h n (llcSetOf s h n) r := by
    unfold sectorRequest
    simp only [hh, hn, hmiss', hnarrow, hbypass, Bool.or_false, Bool.false_eq_true, if_false]
  obtain ⟨way, s1, hs1, hfill⟩ := sectorFill_eq (s := s) (r := r) h n hpin hcls
  rw [hreq, hfill]
  generalize hs2 : setLlc s1 h n _ = s2
  have hmem : SameMemory s s2 := hs2 ▸ hs1.sameMemory
  have hfound : lineFor (llcSetOf s2 h n) r.pa = some (way, filledLine s r (llcSetOf s h n)) := by
    rw [← hs2, llcSetOf_setLlc]
    exact tabFind_tabSet (beq_self_eq_true _) fun e he => by rw [tabFind_tabErase_none way hmiss'] at he; contradiction
  split_ifs
  · exact ⟨way, hfound, hmem⟩
  · have hpush := chansOnly_hbmSector s2 r.pa false r.urgent (some r.user)
    exact ⟨way, by rw [hpush.llcSetOf]; exact hfound, sameMemory_trans hmem hpush.sameMemory⟩

/-- R259, R261: an access that finds its sector valid and free of errors changes the line's class, order and dirty bit. -/
theorem sectorRequest_hit {h n way : Nat} {l : LlcLine} (hh : (dramOf s r.pa).stack = h) (hn : llcIndex s r.pa = n)
    (hline : lineFor (llcSetOf s h n) r.pa = some (way, l)) (hvalid : l.valid.getLsbD (r.pa / 64 % 4) = true)
    (hclean : r.finding = .clean) (hcls : r.cls < clsPin) : ∃ l', lineFor (llcSetOf (sectorRequest s r) h n) r.pa = some (way, l') ∧
      l'.cls = r.cls ∧ l'.valid = l.valid ∧ l'.dirty = (if r.write then l.dirty ||| 1#4 <<< (r.pa / 64 % 4) else l.dirty) ∧
      SameMemory s (sectorRequest s r) := by
  have hline' : tabFind (llcSetOf s h n).ways (fun _ l => l.tag == r.pa / 256) = some (way, l) := hline
  have htag : (l.tag == r.pa / 256) = true := List.find?_some (p := fun e : Nat × LlcLine => e.2.tag == r.pa / 256) hline'
  have hreq : sectorRequest s r = sectorHit s h n (llcSetOf s h n) way l r := by
    unfold sectorRequest
    simp only [hh, hn, hline', hvalid, Bool.not_true, Bool.and_false, Bool.false_and, Bool.false_eq_true, if_false]
  have htouch : touchLine s h (llcSetOf s h n) way l r = { l with cls := r.cls, used := (llcSetOf s h n).clock, stamp := (llcSetOf s h n).fills } := by
    have hb : r.cls ≠ clsBypass := by unfold clsPin at hcls; unfold clsBypass; omega
    unfold touchLine
    simp only [if_neg hb, if_neg (Nat.ne_of_lt hcls)]
  rw [hreq]
  unfold sectorHit
  simp only [hvalid, if_true, hclean, htouch]
  refine ⟨_, by
    rw [llcSetOf_setLlc]
    exact tabFind_tabSet (by split_ifs <;> exact htag) fun e he => by rw [hline'] at he; cases he; rfl, ?_, ?_, ?_, sameMemory_rfl s⟩
  all_goals split_ifs <;> rfl

end

section
variable {cx : BitVec 6} {wr : Bool} {la : BitVec 48} {len : BitVec 12} {cls : BitVec 4} {ask : LlcAsk} {f : Finding} {s : State}

/-- The request for the one sector that an access touches. -/
def oneSector (cx : BitVec 6) (wr : Bool) (la : BitVec 48) (len : BitVec 12) (cls : Nat) (ask : LlcAsk) (f : Finding) : SectorReq where
  cx := cx.toNat
  write := wr
  pa := la.toNat
  len := len.toNat
  cls := cls
  urgent := ask.urgent
  narrow := ask.elem || (cls == clsBypass && decide (len.toNat ≤ 32))
  user := ask.user
  finding := f

theorem lt_hbmTop {p : Part} {a : Nat} (h : regionOf p a = .hbm) : a < hbmTop p := by
  unfold regionOf at h
  split_ifs at h
  assumption

/-- R258, R271, R289: an access outside the map, and one of one sector of HBM, which asks its half for that sector where its user may have
one more request in flight. The function stands as a variable, so that the kernel unfolds it with no address to look up. -/
theorem llcRequest_cases {F : BitVec 6 → Bool → BitVec 48 → BitVec 12 → BitVec 4 → LlcAsk → Finding → State → Out}
    (hF : F = execLlcRequest) : (regionOf s.part la.toNat = .void → F cx wr la len cls ask f s = .fault (.voidAddress la.toNat)) ∧
    (regionOf s.part la.toNat = .hbm → 0 < len.toNat → la.toNat % 64 + len.toNat ≤ 64 →
      F cx wr la len cls ask f s = .next (if userCap ask.user < userFlight s ask.user + 1 then s
        else sectorRequest s (oneSector cx wr la len (accessClass s cx.toNat la.toNat cls.toNat) ask f))) := by
  delta execLlcRequest at hF
  rw [hF]
  beta_reduce
  refine ⟨fun hvoid => by rw [hvoid], fun hreg hpos hfit => ?_⟩
  have hlen : len ≠ 0#12 := fun e => by rw [e] at hpos; exact absurd hpos (Nat.lt_irrefl 0)
  have hcount : (la.toNat + len.toNat - 1) / 64 + 1 - la.toNat / 64 = 1 := by omega
  have hlo : max la.toNat ((la.toNat / 64 + 0) * 64) = la.toNat := by omega
  have hhi : min (la.toNat + len.toNat) ((la.toNat / 64 + 0 + 1) * 64) - la.toNat = len.toNat := by omega
  rw [hreg]
  simp only [if_neg hlen, hcount, List.range_one, List.foldl_cons, List.foldl_nil, hlo, hhi, if_pos (lt_hbmTop hreg)]
  rfl

theorem exec_llcRequest_void (hvoid : regionOf s.part la.toNat = .void) :
    exec (.llcRequest cx wr la len cls ask f) s = .fault (.voidAddress la.toNat) := (llcRequest_cases rfl).1 hvoid

theorem exec_llcRequest_sector (hreg : regionOf s.part la.toNat = .hbm) (hpos : 0 < len.toNat) (hfit : la.toNat % 64 + len.toNat ≤ 64) :
    exec (.llcRequest cx wr la len cls ask f) s = .next (if userCap ask.user < userFlight s ask.user + 1 then s
      else sectorRequest s (oneSector cx wr la len (accessClass s cx.toNat la.toNat cls.toNat) ask f)) :=
  (llcRequest_cases rfl).2 hreg hpos hfit

end

/-- R259: LLC_FILL completes the fill of a sector under way. -/
theorem exec_llcFill_filling {half : BitVec 3} {sset : BitVec 14} {way : BitVec 4} {sector : BitVec 2} {s : State} {l : LlcLine}
    (hline : tabFind (llcSetOf s half.toNat sset.toNat).ways (fun i _ => i == way.toNat) = some (way.toNat, l))
    (hfill : l.fill.getLsbD sector.toNat = true) :
    let l1 := { l with fill := l.fill &&& ~~~(1#4 <<< sector.toNat), valid := l.valid ||| 1#4 <<< sector.toNat }
    let x := llcSetOf s half.toNat sset.toNat
    exec (.llcFill half sset way sector) s =
      .next (setLlc s half.toNat sset.toNat { x with ways := tabSet x.ways way.toNat l1 }) := by
  have hexec : exec (.llcFill half sset way sector) s = execLlcFill half sset way sector s := rfl
  have hline' : (llcSetOf s half.toNat sset.toNat).ways.find? (fun e => e.1 == way.toNat) = some (way.toNat, l) := hline
  rw [hexec, execLlcFill]
  simp only [hline', hfill, if_true]

/-- R262: a change of TWAYS changes lines of the LLC. -/
theorem retuneWays_eq (s : State) : ∃ llc, retuneWays s = { s with memsys := { s.memsys with llc := llc } } := by
  unfold retuneWays
  dsimp only
  split_ifs <;> exact ⟨_, rfl⟩

theorem exec_memCfgWrite_refused {who : Agent} {v : Word} {s : State} (h : who ≠ .monitor ∨ s.boot.devEn.getLsbD 11 = true) :
    exec (.memCfgWrite who v) s = .next s := by
  refine congrArg Host.Outcome.next (if_pos ?_)
  rcases h with h | h
  · rw [beq_eq_false_iff_ne.2 h]; rfl
  · rw [h, Bool.or_true]

/-- R263: what the monitor's write of MEM_CFG leaves in its fields, while CLASS_EN is clear. -/
theorem exec_memCfgWrite_monitor {v : Word} {s : State} (h : s.boot.devEn.getLsbD 11 = false) :
    ∃ llc, exec (.memCfgWrite .monitor v) s = .next { s with memsys := { s.memsys with
      eccmode := v.truncate 2, scrubh := (v >>> 2).truncate 8, llc := llc,
      tways := if (field v.toNat 16 4 == 0 || (decide (4 ≤ field v.toNat 16 4) && decide (field v.toNat 16 4 ≤ 8))) = true then
        BitVec.ofNat 4 (field v.toNat 16 4) else s.memsys.tways } } := by
  have hexec : exec (.memCfgWrite .monitor v) s = .next (retuneWays _) :=
    congrArg Host.Outcome.next (if_neg (by rw [h]; decide))
  obtain ⟨llc, hllc⟩ := retuneWays_eq _
  exact ⟨llc, hexec.trans (congrArg _ hllc)⟩

theorem toNat_truncate_shift (v : Word) : ((v >>> 2).truncate 8 : BitVec 8).toNat = v.toNat / 4 % 256 := by
  simp [BitVec.toNat_setWidth, Nat.shiftRight_eq_div_pow]

end Sys2Proof.Machine

open Sys2Proof Sys2Proof.Machine

/-- Settles O40: a request of one sector by `exec_llcRequest_sector`, and what it leaves by the `sectorRequest` lemmas. -/
theorem cacheRequests : Obligations.CacheRequests := by
  intro cx wr urg la len cls user f v s a h n bit found
  refine ⟨fun elem => exec_llcRequest_void, fun hreg hpos hfit hfull elem => ?_, fun hreg hpos hfit hroom h1 h9 => ?_,
    fun half sset way sector l => ?_, fun who => exec_memCfgWrite_refused, fun hen => ?_⟩
  · rw [exec_llcRequest_sector hreg hpos hfit, if_pos hfull]
  · have hclass : accessClass s cx.toNat la.toNat cls.toNat = cls.toNat := accessClass_of_hint s _ _ h1 h9
    have hcls : cls.toNat < clsPin := Nat.lt_succ_of_le h9
    have hbypass : (cls.toNat == clsBypass) = false := beq_eq_false_iff_ne.2 (by unfold clsBypass; omega)
    have hexec (elem : Bool) : exec (.llcRequest cx wr la len cls ⟨user, elem, urg⟩ f) s =
        .next (sectorRequest s (oneSector cx wr la len cls.toNat ⟨user, elem, urg⟩ f)) := by
      rw [exec_llcRequest_sector hreg hpos hfit, if_neg (Nat.not_lt.2 hroom), hclass]
    refine ⟨fun hmiss hpin => ?_, fun hmiss => ?_, fun way l hline hvalid hclean elem => ?_⟩
    · obtain ⟨way, hline, hmem⟩ := sectorRequest_miss (r := oneSector cx wr la len cls.toNat ⟨user, false, urg⟩ f) rfl rfl hmiss hpin
        (by simp [oneSector, hbypass]) hcls
      refine ⟨_, way, _, hexec false, hline, rfl, rfl, hmem, fun hw hl => ?_, fun hw => ?_⟩
      · subst hw hl
        exact ⟨rfl, rfl, rfl⟩
      · subst hw
        exact ⟨rfl, rfl, rfl⟩
    · have hnarrow := sectorRequest_narrow_miss (r := oneSector cx wr la len cls.toNat ⟨user, true, urg⟩ f) hmiss rfl
      have hchans := chansOnly_bypassMiss s (oneSector cx wr la len cls.toNat ⟨user, true, urg⟩ f)
      exact ⟨_, (hexec true).trans (congrArg _ hnarrow), hchans.llc, hchans.sameMemory⟩
    · obtain ⟨l', hline', hl'⟩ := sectorRequest_hit (r := oneSector cx wr la len cls.toNat ⟨user, elem, urg⟩ f) rfl rfl hline hvalid
        hclean hcls
      exact ⟨_, l', hexec elem, hline', hl'⟩
  · intro at_ hline hfill
    refine ⟨_, exec_llcFill_filling hline hfill, ?_, sameMemory_rfl s⟩
    change tabFind (llcSetOf (setLlc s _ _ _) _ _).ways _ = _
    rw [llcSetOf_setLlc]
    exact tabFind_tabSet_same _ _ _
  · obtain ⟨llc, hexec⟩ := exec_memCfgWrite_monitor (v := v) hen
    have hfield : field v.toNat 16 4 = v.toNat / 65536 % 16 := rfl
    refine ⟨_, hexec, rfl, toNat_truncate_shift v, rfl, sameMemory_rfl s, fun hok => ?_, fun h0 hbad => ?_⟩
    · have hgood : (field v.toNat 16 4 == 0 || (decide (4 ≤ field v.toNat 16 4) && decide (field v.toNat 16 4 ≤ 8))) = true := by
        rw [hfield]; simpa using hok
      dsimp only
      rw [if_pos hgood, hfield, BitVec.toNat_ofNat]
      exact Nat.mod_mod _ _
    · refine if_neg ?_
      rw [hfield]
      simp only [Bool.or_eq_true, beq_iff_eq, Bool.and_eq_true, decide_eq_true_eq, not_or, not_and]
      omega

end

section
/-!
SUPPORT. Counts and poison of memory words (O41): what counting, logging and recording an error leaves alone, and what the decoding of a
word of a stack does by what the controller makes of it.
-/

namespace Sys2Proof.Machine

/-- Of the state only the error counts, the error log with its flash areas, and the records of rows differ. -/
def Tallied (s s' : State) : Prop := s' = { s with memsys := { s.memsys with
  ecntP := s'.memsys.ecntP, ecntT := s'.memsys.ecntT, errlog := s'.memsys.errlog, logA := s'.memsys.logA, logB := s'.memsys.logB,
  corrAt := s'.memsys.corrAt, repair := s'.memsys.repair } }

theorem tallied_rfl (s : State) : Tallied s s := rfl

theorem tallied_trans {a b c : State} (h : Tallied a b) (g : Tallied b c) : Tallied a c := by
  unfold Tallied at *
  rw [g, h]

theorem tallied_notify (s : State) (kind wher : Nat) : Tallied s (notify s kind wher) := rfl

theorem tallied_countAt (s : State) (a lo : Nat) : Tallied s (countAt s a lo) := by
  unfold countAt countMem
  split
  · split <;> rfl
  · exact tallied_notify s _ a

theorem tallied_recordRow (s : State) (stack row : Nat) : Tallied s (recordRow s stack row) := by
  unfold recordRow
  split_ifs <;> rfl

theorem tallied_rowCorrected (s : State) (stack row : Nat) : Tallied s (rowCorrected s stack row) := by
  unfold rowCorrected
  dsimp only
  split_ifs
  · exact tallied_trans (b := { s with memsys := { s.memsys with corrAt := _ } }) rfl (tallied_recordRow _ stack row)
  · rfl

section
variable {s s' : State} (h : Tallied s s')
include h

theorem Tallied.sameMemory : SameMemory s s' := by rw [h]; exact ⟨rfl, rfl⟩
theorem Tallied.part : s'.part = s.part := by rw [h]
theorem Tallied.steep : s'.steep = s.steep := by rw [h]
theorem Tallied.fab : s'.fab = s.fab := by rw [h]
theorem Tallied.ctxs : s'.ctxs = s.ctxs := by rw [h]
theorem Tallied.cores : s'.cores = s.cores := by rw [h]
theorem Tallied.chans : s'.memsys.chans = s.memsys.chans := by rw [h]
theorem Tallied.writebacks : s'.memsys.writebacks = s.memsys.writebacks := by rw [h]
theorem Tallied.eccNow : s'.memsys.eccNow = s.memsys.eccNow := by rw [h]
theorem Tallied.patrol : s'.memsys.patrol = s.memsys.patrol := by rw [h]
theorem Tallied.upsets : s'.flaws = s.flaws ∧ s'.unseen = s.unseen := by rw [h]; exact ⟨rfl, rfl⟩

theorem Tallied.isPoisoned (a : Nat) : Machine.isPoisoned s' a = Machine.isPoisoned s a := isPoisoned_congr h.sameMemory h.part a

end

theorem chanOf_congr {s s' : State} (h : s'.memsys.chans = s.memsys.chans) (stack ch : Nat) : chanOf s' stack ch = chanOf s stack ch := by
  rw [chanOf, chanOf, h]

theorem chanOf_setChan (s : State) (stack ch : Nat) (k : Chan) : chanOf (setChan s stack ch k) stack ch = k := tabGet_tabSet_same _ _ _ _

/-- R281: a word marked poisoned is poisoned. -/
theorem isPoisoned_poisonAdd (s : State) (a : Nat) : isPoisoned (poisonAdd s a) a = true := by
  unfold poisonAdd isPoisoned
  split_ifs with h
  · exact h
  · exact List.contains_iff_mem.2 List.mem_cons_self

theorem poisonAdd_memsys (s : State) (a : Nat) : (poisonAdd s a).memsys = s.memsys := by unfold poisonAdd; split_ifs <;> rfl

/-- R281 steps 1 and 2: an uncorrectable word is poisoned, counted and logged; no byte changes. -/
theorem tallied_poisonFound (s : State) (a : Nat) : Tallied (poisonAdd s a) (poisonFound s a) :=
  tallied_trans (tallied_countAt _ a 16) (tallied_notify _ 5 a)

theorem isPoisoned_poisonFound (s : State) (a : Nat) : isPoisoned (poisonFound s a) a = true := by
  rw [(tallied_poisonFound s a).isPoisoned, isPoisoned_poisonAdd]

theorem poisonFound_mem (s : State) (a : Nat) : (poisonFound s a).mem = s.mem := by
  rw [(tallied_poisonFound s a).sameMemory.1, poisonAdd_mem]

theorem poisonFound_part (s : State) (a : Nat) : (poisonFound s a).part = s.part := by
  rw [(tallied_poisonFound s a).part, (memOnly_poisonAdd s a).part]

theorem poisonFound_chans (s : State) (a : Nat) : (poisonFound s a).memsys.chans = s.memsys.chans := by
  rw [(tallied_poisonFound s a).chans, poisonAdd_memsys]

/-- R281, R402: whether a word can be rebuilt, and whether it is free, is told by the segments and the steep's records. -/
theorem policiesAt_congr {s s' : State} (hc : s'.ctxs = s.ctxs) (hf : s'.fab = s.fab) (a : Nat) : policiesAt s' a = policiesAt s a := by
  simp only [policiesAt, segOver, hc, hf]

theorem rebuildable_congr {s s' : State} (hc : s'.ctxs = s.ctxs) (hs : s'.steep = s.steep) (hf : s'.fab = s.fab) (a : Nat) :
    rebuildable s' a = rebuildable s a := by
  simp only [rebuildable, policyAt, policiesAt_congr hc hf, writtenSinceFull, hs]

theorem parityBase_congr {s s' : State} (hp : s'.part = s.part) (hs : s'.steep = s.steep) : parityBase s' = parityBase s := by
  rw [parityBase, parityBase, jobGiB, jobGiB, undoGiB, undoGiB, hp, hs]

theorem isFree_congr {s s' : State} (hp : s'.part = s.part) (hc : s'.ctxs = s.ctxs) (hs : s'.steep = s.steep) (hf : s'.fab = s.fab)
    (a : Nat) : isFree s' a = isFree s a := by
  rw [isFree, isFree, policiesAt_congr hc hf, parityBase_congr hp hs]

theorem wordFinding_congr {s s' : State} (h : s'.memsys.eccNow = s.memsys.eccNow) (e : WordErr) : wordFinding s' e = wordFinding s e := by
  rw [wordFinding, wordFinding, h]

/-- R276: under ECCMODE 2 and 3 a symbol in error is corrected, and two or three are detected. -/
theorem wordFinding_of_symbols {s : State} {e : WordErr} (h : s.memsys.eccNow.getLsbD 1 = true) :
    (e.symbols.dedup.length = 1 → wordFinding s e = .corrected) ∧
    (e.symbols.dedup.length = 2 ∨ e.symbols.dedup.length = 3 → wordFinding s e = .uncorrectable) := by
  unfold wordFinding
  rw [if_pos h]
  generalize e.symbols.dedup.length = n
  exact ⟨fun h1 => by subst h1; rfl, fun h23 => by rcases h23 with rfl | rfl <;> rfl⟩

section
variable (s : State) (a : Nat) (d : Dram) (e : WordErr) (scrub : Bool)

/-- R276, R282: a word that is clean or corrected changes no byte and no poison, and a corrected one is to be written back. -/
theorem wordDecoded_readable (h : wordFinding s e ≠ .uncorrectable) : SameMemory s (wordDecoded s a d e scrub) ∧
    (wordDecoded s a d e scrub).memsys.chans = s.memsys.chans ∧
    (wordFinding s e = .corrected → a / 32 * 32 ∈ (wordDecoded s a d e scrub).memsys.writebacks) := by
  unfold wordDecoded
  dsimp only
  generalize hs0 : (if e.internal = .corrected then rowCorrected (countAt s a 0) d.stack (rowNumber d.ch d.pc d.bank d.row) else s) = s0
  have h0 : Tallied s s0 := by
    rw [← hs0]
    split_ifs
    · exact tallied_trans (tallied_countAt s a 0) (tallied_rowCorrected _ _ _)
    · exact tallied_rfl s
  cases hf : wordFinding s e with
  | clean => exact ⟨h0.sameMemory, h0.chans, nofun⟩
  | uncorrectable => exact absurd hf h
  | corrected =>
    have h1 := tallied_trans h0 (tallied_countAt s0 a 0)
    dsimp only
    generalize hs2 : ({ countAt s0 a 0 with memsys := { (countAt s0 a 0).memsys with
      writebacks := (countAt s0 a 0).memsys.writebacks ++ [a / 32 * 32] } } : State) = s2
    have hmem : SameMemory s s2 := by rw [← hs2]; exact h1.sameMemory
    have hchans : s2.memsys.chans = s.memsys.chans := by rw [← hs2]; exact h1.chans
    have h2 := tallied_rowCorrected s2 d.stack (rowNumber d.ch d.pc d.bank d.row)
    refine ⟨sameMemory_trans hmem h2.sameMemory, h2.chans.trans hchans, fun _ => ?_⟩
    rw [h2.writebacks, ← hs2]
    exact List.mem_append_right _ (List.mem_singleton.2 rfl)

/-- R281, R286: an uncorrectable word is poisoned, or zeroed where the scrubber finds it in free memory, and its row recorded. -/
theorem wordDecoded_uncorrectable (h : wordFinding s e = .uncorrectable) : ∃ s0, Tallied s s0 ∧
    Tallied (wordUncorrectable s0 a scrub) (wordDecoded s a d e scrub) := by
  unfold wordDecoded
  simp only [h]
  refine ⟨_, ?_, tallied_recordRow _ _ _⟩
  split_ifs
  · exact tallied_trans (tallied_countAt s a 0) (tallied_rowCorrected _ _ _)
  · exact tallied_rfl s

end

/-- R281: an uncorrectable word that the scrubber does not zero is poisoned, with its bytes as they were. -/
theorem wordUncorrectable_poisons {s : State} {a : Nat} {scrub : Bool}
    (h : scrub = false ∨ rebuildable s a = true ∨ isFree s a = false) : wordUncorrectable s a scrub = poisonFound s a := by
  unfold wordUncorrectable
  refine if_neg ?_
  rcases h with h | h | h <;> simp [h]

/-- R281: the same of a word decoded by the controller. -/
theorem wordDecoded_poisons (s : State) (a : Nat) (d : Dram) {e : WordErr} {scrub : Bool} (h : wordFinding s e = .uncorrectable)
    (hkeep : scrub = false ∨ rebuildable s a = true ∨ isFree s a = false) : isPoisoned (wordDecoded s a d e scrub) a = true ∧
    (wordDecoded s a d e scrub).mem = s.mem ∧ (wordDecoded s a d e scrub).memsys.chans = s.memsys.chans := by
  obtain ⟨s0, h0, h1⟩ := wordDecoded_uncorrectable s a d e scrub h
  rw [wordUncorrectable_poisons (by rw [rebuildable_congr h0.ctxs h0.steep h0.fab, isFree_congr h0.part h0.ctxs h0.steep h0.fab]
                                    exact hkeep)] at h1
  rw [h1.isPoisoned, h1.sameMemory.1, h1.chans, isPoisoned_poisonFound, poisonFound_mem, poisonFound_chans, h0.sameMemory.1, h0.chans]
  exact ⟨rfl, rfl, rfl⟩

end Sys2Proof.Machine
end

section
/-!
SUPPORT. Channel controllers (O41): the request a scheduler takes where there is one, an attempt at it, a refresh, and the retraining after
four failed attempts.
-/

namespace Sys2Proof.Machine

/-- R272: of one request that holds a slot the scheduler takes that one, whatever it prefers. -/
theorem schedPick_one (s : State) {k : Chan} {r : HbmReq} {pc : Bool} (hreqs : k.reqs = [r]) (hslot : r.slot ≠ .none) (hpc : r.pc = pc) :
    schedPick s k pc = some (r, 0) := by
  have hheld : (k.reqs.zipIdx.filter fun e => e.1.slot != .none && e.1.pc == pc) = [(r, 0)] := by
    rw [hreqs]
    simp [hslot, hpc]
  have hfind (p : HbmReq × Nat → Bool) : [(r, 0)].find? p = if p (r, 0) then some (r, 0) else none := by
    rw [List.find?_cons]
    cases p (r, 0) <;> rfl
  unfold schedPick
  rw [hheld]
  simp only [hfind]
  split_ifs <;> rfl

theorem tabFind_tabErase_same {α : Type} (t : Tab α) (k : Nat) : tabFind (tabErase t k) (fun n _ => n == k) = none :=
  List.find?_eq_none.2 fun e he => by simpa using (List.mem_filter.1 he).2

section
variable {stack : BitVec 3} {ch : BitVec 5} {pc : Bool} {f : WordErr} {slot : Nat} {r : HbmReq} {s : State}

/-- R268: where the word of a request lies. -/
def reqDram (stack : BitVec 3) (ch : BitVec 5) (pc : Bool) (r : HbmReq) : Dram where
  stack := stack.toNat
  ch := ch.toNat
  pc := b2n pc
  col := r.col / 8
  bank := r.bank
  row := r.row

/-- R268: the LOCAL address of the word of a request. -/
def reqAddr (s : State) (slot : Nat) (stack : BitVec 3) (ch : BitVec 5) (pc : Bool) (r : HbmReq) : Nat :=
  dramAddr s slot (reqDram stack ch pc r) + r.col % 8 * 32

/-- R272: a controller whose one request has been served. -/
def chanServed (k : Chan) (pc : Bool) (r : HbmReq) : Chan :=
  { k with reqs := [], openRow := tabSet k.openRow (b2n pc * 64 + r.bank) r.row, tries := tabErase k.tries (b2n pc) }

theorem row_chanServed (k : Chan) (pc : Bool) (r : HbmReq) :
    (tabFind (chanServed k pc r).openRow fun i _ => i == b2n pc * 64 + r.bank) = some (b2n pc * 64 + r.bank, r.row) :=
  tabFind_tabSet_same _ _ _

theorem sameMemory_setChan {s s1 : State} (h : SameMemory s s1) (stack ch : Nat) (k : Chan) : SameMemory s (setChan s1 stack ch k) := h

section
variable (hslot : stackSlot s.part stack.toNat = some slot) (hreqs : (chanOf s stack.toNat ch.toNat).reqs = [r])
    (hheld : r.slot ≠ .none) (hpc : r.pc = pc)
include hslot hreqs hheld hpc

/-- R272: a good attempt serves the request; a read's word is decoded. -/
theorem exec_hbmColumnAccess_good (hin : (chanOf s stack.toNat ch.toNat).outOfService.getLsbD (b2n pc) = false)
    (htries : tabGet 0 (chanOf s stack.toNat ch.toNat).tries (b2n pc) < 4) : ∃ s1, Tallied s s1 ∧
    let s2 := setChan s1 stack.toNat ch.toNat (chanServed (chanOf s stack.toNat ch.toNat) pc r)
    exec (.hbmColumnAccess stack ch pc true f) s =
      .next (if r.write then s2 else wordDecoded s2 (reqAddr s slot stack ch pc r) (reqDram stack ch pc r) f false) := by
  have hexec : exec (.hbmColumnAccess stack ch pc true f) s = execHbmColumnAccess stack ch pc true f s := rfl
  have hpick := schedPick_one s hreqs hheld hpc
  rw [hexec]
  unfold execHbmColumnAccess
  simp only [hslot, hpick, hin, decide_eq_false (Nat.not_le.2 htries), Bool.or_self, Bool.false_eq_true, if_false, Bool.not_true,
    Bool.false_and, hreqs, List.eraseIdx_cons_zero]
  refine ⟨_, ?_, rfl⟩
  split_ifs
  · exact tallied_countAt s _ _
  · exact tallied_rfl s

/-- R275: an attempt with a parity error is counted, and the request is to be repeated. -/
theorem exec_hbmColumnAccess_parity (hin : (chanOf s stack.toNat ch.toNat).outOfService.getLsbD (b2n pc) = false)
    (htries : tabGet 0 (chanOf s stack.toNat ch.toNat).tries (b2n pc) < 4) (hecc : s.memsys.eccNow.getLsbD 0 = true) :
    ∃ s1, Tallied s s1 ∧ let k := chanOf s stack.toNat ch.toNat
    exec (.hbmColumnAccess stack ch pc false f) s = .next (setChan s1 stack.toNat ch.toNat
      { k with reqs := [{ r with again := true }], tries := tabSet k.tries (b2n pc) (tabGet 0 k.tries (b2n pc) + 1) }) := by
  have hexec : exec (.hbmColumnAccess stack ch pc false f) s = execHbmColumnAccess stack ch pc false f s := rfl
  have hpick := schedPick_one s hreqs hheld hpc
  rw [hexec]
  unfold execHbmColumnAccess
  simp only [hslot, hpick, hin, decide_eq_false (Nat.not_le.2 htries), Bool.or_self, Bool.false_eq_true, if_false, Bool.not_false,
    Bool.true_and, hecc, if_true, hreqs, List.set_cons_zero]
  refine ⟨_, ?_, rfl⟩
  split_ifs
  · exact tallied_countAt s _ _
  · exact tallied_rfl s

/-- R275: after four failed attempts the pseudo-channel retrains: the request is served, or the pseudo-channel goes out of service and the
device declares itself lost. -/
theorem exec_pcRetrain (ok : Bool) (htries : 4 ≤ tabGet 0 (chanOf s stack.toNat ch.toNat).tries (b2n pc)) : ∃ s1, Tallied s s1 ∧
    let k := chanOf s stack.toNat ch.toNat
    let k1 := { k with tries := tabErase k.tries (b2n pc), outOfService := k.outOfService ||| (1#2 <<< b2n pc) }
    exec (.pcRetrain stack ch pc ok) s = .next (if ok then setChan s1 stack.toNat ch.toNat (chanServed k pc r)
      else loseSelf (notify (setChan s1 stack.toNat ch.toNat k1) 6 (stack.toNat * 64 + ch.toNat * 2 + b2n pc))) := by
  have hexec : exec (.pcRetrain stack ch pc ok) s = execPcRetrain stack ch pc ok s := rfl
  have hpick := schedPick_one s hreqs hheld hpc
  rw [hexec]
  unfold execPcRetrain
  simp only [if_neg (Nat.not_lt.2 htries), hslot, hpick, hreqs, List.eraseIdx_cons_zero]
  exact ⟨_, tallied_countAt s _ 48, rfl⟩

end

theorem exec_pcRetrain_early (ok : Bool) (htries : tabGet 0 (chanOf s stack.toNat ch.toNat).tries (b2n pc) < 4) :
    exec (.pcRetrain stack ch pc ok) s = .next s := if_pos htries

end

/-- R415: a device that loses itself halts where it had not been lost before, with its links down and its memory as it was. -/
theorem loseSelf_halts (s : State) : (s.fab.devnum ∉ s.steep.lost → (loseSelf s).steep.halted = true) ∧
    (∀ e ∈ (loseSelf s).fab.links, e.2.st = .down) ∧ (loseSelf s).memsys = s.memsys ∧ SameMemory s (loseSelf s) := by
  have hdown (s : State) : ∀ e ∈ (fenceLinks s).fab.links, e.2.st = .down := by
    intro e he
    obtain ⟨e0, _, rfl⟩ := List.mem_map.1 he
    rfl
  unfold loseSelf loseDevice
  split_ifs with h
  · exact ⟨fun hn => absurd (List.contains_iff_mem.1 h) hn, hdown s, rfl, sameMemory_rfl s⟩
  · exact ⟨fun _ => rfl, hdown _, rfl, ⟨rfl, rfl⟩⟩

theorem getLsbD_setPc (m : BitVec 2) (pc : Bool) : (m ||| 1#2 <<< b2n pc).getLsbD (b2n pc) = true := by
  revert m pc
  decide

theorem channelController_holds : ChannelController := by
  intro stack ch pc f slot r s k tries after row a hslot hreqs hheld hpc
  refine ⟨fun hin htries => ⟨?_, fun hecc => ?_⟩, ⟨_, rfl, sameMemory_rfl s, ?_, fun hbank => ?_⟩, fun htries ok => exec_pcRetrain_early ok htries,
    fun htries => ⟨?_, ?_⟩⟩
  · obtain ⟨s1, h1, hexec⟩ := exec_hbmColumnAccess_good (f := f) hslot hreqs hheld hpc hin htries
    have hmem := sameMemory_setChan h1.sameMemory stack.toNat ch.toNat (chanServed k pc r)
    have hchan := chanOf_setChan s1 stack.toNat ch.toNat (chanServed k pc r)
    have hfind : wordFinding (setChan s1 stack.toNat ch.toNat (chanServed k pc r)) f = wordFinding s f := wordFinding_congr h1.eccNow f
    have hsym := wordFinding_of_symbols (s := s) (e := f)
    generalize setChan s1 stack.toNat ch.toNat (chanServed k pc r) = s2 at hexec hmem hchan hfind
    refine ⟨_, hexec, ?_⟩
    have hrow := row_chanServed k pc r
    cases hw : r.write with
    | true =>
      have hserved : after s2 = chanServed k pc r := hchan
      rw [if_pos rfl, hserved]
      exact ⟨rfl, hrow, nofun, fun _ => hmem, nofun⟩
    | false =>
      rw [if_neg Bool.false_ne_true]
      by_cases hu : wordFinding s f = .uncorrectable
      · obtain ⟨hpoison, _, hchans⟩ := wordDecoded_poisons s2 a (reqDram stack ch pc r) (scrub := false) (hfind.trans hu) (Or.inl rfl)
        have hserved : after (wordDecoded s2 a (reqDram stack ch pc r) f false) = chanServed k pc r :=
          (chanOf_congr hchans _ _).trans hchan
        rw [show reqAddr s slot stack ch pc r = a from rfl, hserved]
        exact ⟨rfl, hrow, fun _ _ => hpoison, fun h => absurd hu (h.resolve_left Bool.false_ne_true),
          fun _ hecc => ⟨fun h1 => absurd hu (by rw [(hsym hecc).1 h1]; nofun), fun _ => hpoison⟩⟩
      · obtain ⟨hsame, hchans, hback⟩ := wordDecoded_readable s2 a (reqDram stack ch pc r) f false (by rw [hfind]; exact hu)
        have hserved : after (wordDecoded s2 a (reqDram stack ch pc r) f false) = chanServed k pc r :=
          (chanOf_congr hchans _ _).trans hchan
        rw [show reqAddr s slot stack ch pc r = a from rfl, hserved]
        exact ⟨rfl, hrow, fun _ h => absurd h hu, fun _ => sameMemory_trans hmem hsame,
          fun _ hecc => ⟨fun h1 => hback (by rw [hfind, (hsym hecc).1 h1]), fun h23 => absurd ((hsym hecc).2 h23) hu⟩⟩
  · obtain ⟨s1, h1, hexec⟩ := exec_hbmColumnAccess_parity (f := f) hslot hreqs hheld hpc hin htries hecc
    refine ⟨_, hexec, ?_, ?_, h1.sameMemory⟩
    · exact congrArg Chan.reqs (chanOf_setChan _ _ _ _)
    · exact (congrArg (fun k : Chan => tabGet 0 k.tries (b2n pc)) (chanOf_setChan _ _ _ _)).trans (tabGet_tabSet_same _ _ _ _)
  · exact (congrArg Chan.reqs (chanOf_setChan s _ _ _)).trans rfl
  · have hkey : (BitVec.ofNat 6 r.bank).toNat = r.bank := by rw [BitVec.toNat_ofNat, Nat.mod_eq_of_lt hbank]
    refine (congrArg (fun k : Chan => tabFind k.openRow fun i _ => i == b2n pc * 64 + r.bank) (chanOf_setChan _ _ _ _)).trans ?_
    dsimp only
    rw [hkey]
    exact tabFind_tabErase_same _ _
  · obtain ⟨s1, h1, hexec⟩ := exec_pcRetrain hslot hreqs hheld hpc true htries
    exact ⟨_, hexec, congrArg Chan.reqs (chanOf_setChan _ _ _ _), congrArg Steep.halted h1.steep, h1.sameMemory⟩
  · obtain ⟨s1, h1, hexec⟩ := exec_pcRetrain hslot hreqs hheld hpc false htries
    dsimp only at hexec
    rw [if_neg Bool.false_ne_true] at hexec
    generalize hs2 : notify _ 6 _ = s2 at hexec
    have hfab : s2.fab = s.fab := by rw [← hs2]; exact h1.fab
    have hsteep : s2.steep = s.steep := by rw [← hs2]; exact h1.steep
    have hmem : SameMemory s s2 := by rw [← hs2]; exact h1.sameMemory
    obtain ⟨hlost, _, _, _⟩ := loseSelf_kept s2
    obtain ⟨hhalt, hdown, hmemsys, hsame⟩ := loseSelf_halts s2
    rw [hfab] at hlost
    rw [hfab, hsteep] at hhalt
    refine ⟨_, hexec, ?_, hlost, hhalt, hdown, sameMemory_trans hmem hsame⟩
    have hchan : after (loseSelf s2) = after s2 := chanOf_congr (congrArg MemSys.chans hmemsys) _ _
    rw [hchan, ← hs2]
    exact (congrArg (fun k : Chan => k.outOfService.getLsbD (b2n pc)) (chanOf_setChan s1 _ _ _)).trans (getLsbD_setPc _ pc)

end Sys2Proof.Machine
end

section
/-!
SUPPORT. Scrubbing and recovery of words (O41): the scrubber, the patrol, an instruction memory's reload, and a word rebuilt.
-/

namespace Sys2Proof.Machine

theorem hbmTop_dvd (p : Part) : 32 ∣ hbmTop p := by cases p <;> decide

/-- R278: the words of HBM are of 32 bytes. -/
theorem poisonBase_hbm {p : Part} {a i : Nat} (hreg : regionOf p a = .hbm) (ha : a % 32 = 0) (hi : i < 32) :
    poisonWord p (a + i) = 32 ∧ poisonBase p (a + i) = a := by
  obtain ⟨k, hk⟩ := hbmTop_dvd p
  have hlt := lt_hbmTop hreg
  have hword : poisonWord p (a + i) = 32 := by rw [poisonWord_eq, if_pos (by omega)]
  refine ⟨hword, ?_⟩
  rw [poisonBase, hword]
  omega

/-- R278: the first byte of a word of HBM lies in HBM, on a boundary of 32 bytes. -/
theorem regionOf_poisonBase {p : Part} {a : Nat} (hreg : regionOf p a = .hbm) :
    regionOf p (poisonBase p a) = .hbm ∧ poisonBase p a % 32 = 0 := by
  have hlt := lt_hbmTop hreg
  have hword : poisonWord p a = 32 := by rw [poisonWord_eq, if_pos hlt]
  have hbase : poisonBase p a = a - a % 32 := by rw [poisonBase, hword]
  exact ⟨regionOf_hbm p _ (by omega), by omega⟩

/-- R278: a whole word of HBM stored: its poison is cleared, it holds the bytes, and no other byte changes. -/
theorem storeBytes_word {s : State} {a : Nat} {bs : List Byte} (hwf : memWf s.mem = true) (hreg : regionOf s.part a = .hbm)
    (ha : a % 32 = 0) (hlen : bs.length = 32) : isPoisoned (storeBytes s a bs) a = false ∧
    (∀ i, i < 32 → readByte (storeBytes s a bs).mem (a + i) = bs.getD i 0#8) ∧
    ∀ z, z < a ∨ a + 32 ≤ z → readByte (storeBytes s a bs).mem z = readByte s.mem z := by
  have hcovers (i : Nat) (hi : i < 32) : coversWord s.part a bs.length (a + i) = true := by
    obtain ⟨hword, hbase⟩ := poisonBase_hbm hreg ha hi
    simp [coversWord, hword, hbase, hlen]
  refine ⟨?_, fun i hi => ?_, fun z hz => ?_⟩
  · have hbase : poisonBase s.part a = a := (poisonBase_hbm (i := 0) hreg ha (by omega)).2
    rw [← Bool.not_eq_true]
    intro hp
    have hmem := (List.mem_filter.1 (List.contains_iff_mem.1 hp)).2
    have hself : coversWord s.part a bs.length a = true := hcovers 0 (by omega)
    change (!(coversWord s.part a bs.length (poisonBase s.part a))) = true at hmem
    rw [hbase, hself] at hmem
    contradiction
  · exact readByte_writeOk_inside _ bs s.mem a i hwf (by omega) (by rw [hcovers i hi, Bool.or_true])
  · exact readByte_writeOk_outside _ bs s.mem a z hwf (by omega)

/-- R281 step 4: an uncorrectable word of free memory that the scrubber finds is zeroed. -/
theorem wordDecoded_zeroes {s : State} {a : Nat} (d : Dram) {e : WordErr} (h : wordFinding s e = .uncorrectable)
    (hreb : rebuildable s a = false) (hfree : isFree s a = true) (hreg : regionOf s.part a = .hbm) (ha : a % 32 = 0)
    (hwf : memWf s.mem = true) : isPoisoned (wordDecoded s a d e true) a = false ∧
    (∀ i, i < 32 → readByte (wordDecoded s a d e true).mem (a + i) = 0#8) ∧
    ∀ z, z < a ∨ a + 32 ≤ z → readByte (wordDecoded s a d e true).mem z = readByte s.mem z := by
  obtain ⟨s0, h0, h1⟩ := wordDecoded_uncorrectable s a d e true h
  have hbase : poisonBase s0.part a = a := by rw [h0.part]; exact (poisonBase_hbm (i := 0) hreg ha (by omega)).2
  have hzero : wordUncorrectable s0 a true = storeBytes (poisonFound s0 a) a (List.replicate 32 0#8) := by
    unfold wordUncorrectable
    simp only [rebuildable_congr h0.ctxs h0.steep h0.fab, isFree_congr h0.part h0.ctxs h0.steep h0.fab, hreb, hfree, hbase,
      Bool.not_false, Bool.and_self, if_true]
  have hmem : (poisonFound s0 a).mem = s.mem := (poisonFound_mem s0 a).trans h0.sameMemory.1
  obtain ⟨hclear, hbytes, hrest⟩ := storeBytes_word (s := poisonFound s0 a) (a := a) (bs := List.replicate 32 0#8) (by rw [hmem]; exact hwf)
    (by rw [poisonFound_part, h0.part]; exact hreg) ha List.length_replicate
  rw [h1.isPoisoned, h1.sameMemory.1, hzero]
  refine ⟨hclear, fun i hi => (hbytes i hi).trans ?_, fun z hz => by rw [hrest z hz, hmem]⟩
  rw [List.getD_eq_getElem?_getD, List.getElem?_replicate, if_pos hi]
  rfl

/-- R280: what the scrubber leaves of a controller as it goes on. -/
def scrubNext (k : Chan) (pc : Bool) : Chan :=
  if pc then { k with scrub1 := (k.scrub1 + 1) % pcWords } else { k with scrub0 := (k.scrub0 + 1) % pcWords }

/-- R280: the scrubber's place in a pseudo-channel. -/
def scrubAt (k : Chan) (pc : Bool) : Nat := if pc then k.scrub1 else k.scrub0

/-- R268, R280: where the scrubber's next word lies. -/
def scrubDram (stack : BitVec 3) (ch : BitVec 5) (pc : Bool) (n : Nat) : Dram where
  stack := stack.toNat
  ch := ch.toNat
  pc := b2n pc
  col := n / 8 % 4
  bank := n / 32 % 64
  row := n / 2048

theorem scrubAt_scrubNext (k : Chan) (pc : Bool) : scrubAt (scrubNext k pc) pc = (scrubAt k pc + 1) % 2 ^ 25 := by cases pc <;> rfl

theorem count_general (l : List HbmReq) :
    ((l.filter fun q => q.slot != .none).filter fun q => q.slot == .general) = l.filter fun q => q.slot == .general := by
  rw [List.filter_filter]
  refine List.filter_congr fun q _ => ?_
  cases q.slot <;> rfl

/-- R270: a request that is not urgent finds no slot beside 248 general ones, and a general one beside fewer than 32. -/
theorem slotFor_general {l : List HbmReq} {r : HbmReq} (h : r.urgent = false) :
    (248 ≤ (l.filter fun q => q.slot == .general).length → slotFor (l.filter fun q => q.slot != .none) r = .none) ∧
    ((l.filter fun q => q.slot == .general).length < 32 → slotFor (l.filter fun q => q.slot != .none) r = .general) := by
  unfold slotFor
  simp only [count_general, h, Bool.false_and, Bool.false_eq_true, if_false]
  refine ⟨fun hfull => if_neg ?_, fun hfew => if_pos ?_⟩
  · rw [decide_eq_false (Nat.not_lt.2 hfull)]
    exact Bool.false_ne_true
  · have hbank := List.length_filter_le (fun q : HbmReq => q.pc == r.pc && q.bank == r.bank) (l.filter fun q => q.slot == .general)
    rw [decide_eq_true (by omega), decide_eq_true (by omega)]
    rfl

section
variable {stack : BitVec 3} {ch : BitVec 5} {pc : Bool} {e : WordErr} {slot : Nat} {s : State}

theorem exec_hbmScrubRead_waits (hslot : stackSlot s.part stack.toNat = some slot)
    (h : s.power.domOn.getLsbD (if stack.toNat < 4 then 15 else 16) = false ∨
      248 ≤ ((chanOf s stack.toNat ch.toNat).reqs.filter fun q => q.slot == .general).length) :
    exec (.hbmScrubRead stack ch pc e) s = .next s := by
  have hexec : exec (.hbmScrubRead stack ch pc e) s = execHbmScrubRead stack ch pc e s := rfl
  rw [hexec]
  unfold execHbmScrubRead
  simp only [hslot]
  refine congrArg Host.Outcome.next (if_pos ?_)
  rcases h with h | h
  · rw [h]; rfl
  · rw [(slotFor_general rfl).1 h, beq_self_eq_true, Bool.or_true]

theorem exec_hbmScrubRead_goes (hslot : stackSlot s.part stack.toNat = some slot)
    (hawake : s.power.domOn.getLsbD (if stack.toNat < 4 then 15 else 16) = true)
    (hfew : ((chanOf s stack.toNat ch.toNat).reqs.filter fun q => q.slot == .general).length < 32) :
    let k := chanOf s stack.toNat ch.toNat
    let d := scrubDram stack ch pc (scrubAt k pc)
    exec (.hbmScrubRead stack ch pc e) s = .next (wordDecoded (setChan s stack.toNat ch.toNat (scrubNext k pc))
      (dramAddr s slot d + scrubAt k pc % 8 * 32) d e true) := by
  have hexec : exec (.hbmScrubRead stack ch pc e) s = execHbmScrubRead stack ch pc e s := rfl
  rw [hexec]
  unfold execHbmScrubRead
  simp only [hslot]
  refine congrArg Host.Outcome.next ((if_neg ?_).trans ?_)
  · rw [hawake, (slotFor_general rfl).2 hfew]
    decide
  · cases pc <;> rfl

end

/-- R252: a word decoded holds no error any more, and no other word's errors change. -/
theorem decodeWord_upsets (s : State) (a : Nat) : (decodeWord s a).flaws = s.flaws.filter (· != a) ∧
    (decodeWord s a).unseen = s.unseen.filter (· != a) := by
  have hkeep {l : List Nat} (h : ¬ l.contains a = true) : l = l.filter (· != a) :=
    (List.filter_eq_self.2 fun x hx => bne_iff_ne.2 fun (e : x = a) => h (List.contains_iff_mem.2 (e ▸ hx))).symm
  have hcounted (s : State) (lo : Nat) := (tallied_countAt s a lo).upsets
  have hfirst : ∃ s1, (if s.flaws.contains a then countAt { s with flaws := s.flaws.filter (· != a) } a 0 else s) = s1 ∧
      s1.flaws = s.flaws.filter (· != a) ∧ s1.unseen = s.unseen := by
    split_ifs with h
    · exact ⟨_, rfl, (hcounted _ 0).1, (hcounted _ 0).2⟩
    · exact ⟨_, rfl, hkeep h, rfl⟩
  obtain ⟨s1, hs1, hflaws, hunseen⟩ := hfirst
  unfold decodeWord
  rw [hs1]
  dsimp only
  split_ifs with h
  · have hlogged := (tallied_notify (countAt { s1 with unseen := s1.unseen.filter (· != a) } a 16) 5 a).upsets
    rw [hlogged.1, hlogged.2, (hcounted _ 16).1, (hcounted _ 16).2]
    exact ⟨hflaws, by rw [← hunseen]⟩
  · exact ⟨hflaws, hunseen.trans (hkeep h)⟩

theorem mem_upsets_decodeWords (l : List Nat) : ∀ (s : State) (x : Nat),
    x ∈ (l.foldl decodeWord s).flaws ++ (l.foldl decodeWord s).unseen → x ∈ s.flaws ++ s.unseen ∧ x ∉ l := by
  induction l with
  | nil => exact fun s x hx => ⟨hx, List.not_mem_nil⟩
  | cons a l ih =>
    intro s x hx
    obtain ⟨hin, hnot⟩ := ih (decodeWord s a) x hx
    obtain ⟨hflaws, hunseen⟩ := decodeWord_upsets s a
    rw [hflaws, hunseen, ← List.filter_append] at hin
    obtain ⟨hmem, hne⟩ := List.mem_filter.1 hin
    exact ⟨hmem, List.not_mem_cons_of_ne_of_not_mem (bne_iff_ne.1 hne) hnot⟩

/-- R252: after a read no error stands in the words that it touched. -/
theorem upsets_decodeRead {s : State} {a n x : Nat} (hx : x ∈ (decodeRead s a n).flaws ++ (decodeRead s a n).unseen) :
    x < a ∨ a + n ≤ x := by
  obtain ⟨hin, hnot⟩ := mem_upsets_decodeWords _ s x hx
  have hpos := poisonWord_pos s.part x
  by_contra hc
  refine hnot (List.mem_filter.2 ⟨hin, ?_⟩)
  rw [Bool.and_eq_true, decide_eq_true_eq, decide_eq_true_eq]
  omega

/-- R252, R253: the patrol's read of its next granule. -/
theorem exec_scratchpadPatrol_elsewhere {c : BitVec 8} {g : BitVec 16} {f : Finding} {s : State}
    (h : tabGet 0 s.memsys.patrol c.toNat ≠ g.toNat) : exec (.scratchpadPatrol c g f) s = .next s := if_pos (bne_iff_ne.2 h)

/-- R253: the state in which the patrol has read granule g of core c's scratchpad and gone on. -/
def patrolled (s : State) (c : BitVec 8) (g : BitVec 16) : State :=
  let s0 := decodeRead s (spadBase c.toNat + g.toNat * 64) 64
  { s0 with memsys := { s0.memsys with patrol := tabSet s0.memsys.patrol c.toNat ((g.toNat + 1) % 65536) } }

theorem patrolled_spec (s : State) (c : BitVec 8) (g : BitVec 16) : SameMemory s (patrolled s c g) ∧
    tabGet 0 (patrolled s c g).memsys.patrol c.toNat = (g.toNat + 1) % 65536 ∧
    ∀ x ∈ (patrolled s c g).flaws ++ (patrolled s c g).unseen, x < spadBase c.toNat + g.toNat * 64 ∨
      spadBase c.toNat + g.toNat * 64 + 64 ≤ x :=
  ⟨⟨decodeRead_mem s _ _, decodeRead_poison s _ _⟩, tabGet_tabSet_same _ _ _ _, fun _ hx => upsets_decodeRead hx⟩

theorem poisonAdd_upsets (s : State) (a : Nat) : (poisonAdd s a).flaws = s.flaws ∧ (poisonAdd s a).unseen = s.unseen := by
  unfold poisonAdd
  split_ifs <;> exact ⟨rfl, rfl⟩

/-- R253: what the patrol leaves, by what it finds. -/
theorem patrol_spec {c : BitVec 8} {g : BitVec 16} (f : Finding) {s : State} (h : tabGet 0 s.memsys.patrol c.toNat = g.toNat) :
    let a := spadBase c.toNat + g.toNat * 64
    ∃ s', exec (.scratchpadPatrol c g f) s = .next s' ∧ s'.mem = s.mem ∧
      tabGet 0 s'.memsys.patrol c.toNat = (g.toNat + 1) % 65536 ∧
      (f = .uncorrectable → ∃ i, i < 8 ∧ isPoisoned s' (a + i * 8) = true) ∧ (f ≠ .uncorrectable → s'.poison = s.poison) ∧
      ∀ x ∈ s'.flaws ++ s'.unseen, x < a ∨ a + 64 ≤ x := by
  intro a
  obtain ⟨hmem, hpatrol, hupsets⟩ := patrolled_spec s c g
  have hhere : ¬ (tabGet 0 s.memsys.patrol c.toNat != g.toNat) = true := by rw [h, bne_self_eq_false]; exact Bool.false_ne_true
  cases f with
  | clean => exact ⟨_, if_neg hhere, hmem.1, hpatrol, nofun, fun _ => hmem.2, hupsets⟩
  | corrected =>
    have hcount := tallied_countAt (patrolled s c g) a 0
    refine ⟨_, if_neg hhere, hcount.sameMemory.1.trans hmem.1, ?_, nofun, fun _ => hcount.sameMemory.2.trans hmem.2, ?_⟩
    · exact (congrArg (tabGet 0 · c.toNat) hcount.patrol).trans hpatrol
    · change ∀ x ∈ (countAt (patrolled s c g) a 0).flaws ++ (countAt (patrolled s c g) a 0).unseen, _
      rw [hcount.upsets.1, hcount.upsets.2]
      exact hupsets
  | uncorrectable =>
    let s1 : State := { patrolled s c g with draws := (patrolled s c g).draws + 1 }
    let i := (Config.patrolWord (patrolled s c g).draws).toNat
    have hfound := tallied_poisonFound s1 (a + i * 8)
    have hadd := poisonAdd_upsets s1 (a + i * 8)
    refine ⟨poisonFound s1 (a + i * 8), if_neg hhere, (poisonFound_mem s1 _).trans hmem.1, ?_,
      fun _ => ⟨i, BitVec.isLt _, isPoisoned_poisonFound s1 _⟩, fun hne => absurd rfl hne, ?_⟩
    · rw [hfound.patrol, poisonAdd_memsys]
      exact hpatrol
    · rw [hfound.upsets.1, hfound.upsets.2, hadd.1, hadd.2]
      exact hupsets

end Sys2Proof.Machine
end

section
/-!
SUPPORT. Memory put back (O41): an instruction memory reloaded from the job's code image, a word rebuilt from the shares of the full steep,
and what the threads and units that waited for it leave of memory.
-/

namespace Sys2Proof.Machine

theorem readByte_filter (q : Nat → Bool) (m : List Host.Cell) (z : Nat) :
    readByte (m.filter fun e => q e.1) z = if q z then readByte m z else unlisted := by
  induction m with
  | nil => exact (ite_self _).symm
  | cons e m ih =>
    rw [List.filter_cons]
    by_cases hz : e.1 = z
    · subst hz
      cases hq : q e.1 with
      | true => simp [readByte]
      | false => simpa [hq] using ih
    · cases hq : q e.1 with
      | true => simp [readByte, hz, ih]
      | false => simp [readByte, hz, ih]

/-- Cells written one after another leave every other address as it was. -/
theorem readByte_writeCells_ne (l : List Host.Cell) (z : Nat) (h : ∀ e ∈ l, e.1 ≠ z) : ∀ m : List Host.Cell,
    readByte (l.foldl (fun m e => writeByte m e.1 e.2) m) z = readByte m z := by
  induction l with
  | nil => exact fun _ => rfl
  | cons e l ih =>
    intro m
    obtain ⟨hne, hrest⟩ := List.forall_mem_cons.1 h
    exact (ih hrest _).trans (readByte_writeByte_ne m e.1 z e.2 hne.symm)

/-- Cells written where nothing is listed read back as they are. -/
theorem readByte_writeCells (l : List Host.Cell) (z : Nat) (hl : memWf l = true) : ∀ m : List Host.Cell, readByte m z = unlisted →
    readByte (l.foldl (fun m e => writeByte m e.1 e.2) m) z = readByte l z := by
  induction l with
  | nil => exact fun _ h => h
  | cons e l ih =>
    obtain ⟨a, b⟩ := e
    obtain ⟨_, hlt, hwf⟩ := (memWf_cons a b l).1 hl
    intro m hm
    by_cases hz : a = z
    · subst hz
      rw [List.foldl_cons, readByte_writeCells_ne l a (fun e he => Nat.ne_of_gt (hlt e he)), readByte_writeByte_same]
      simp [readByte]
    · rw [List.foldl_cons, ih hwf _ ((readByte_writeByte_ne m a z b (Ne.symm hz)).trans hm)]
      simp [readByte, hz]

/-- A range put back reads as the cells say, without poison; every other byte is as before. -/
theorem restoreCells_spec (s : State) {l : List Host.Cell} (lo hi : Nat) (hl : memWf l = true) :
    (∀ z, lo ≤ z → z < hi → readByte (restoreCells s l lo hi).mem z = readByte l z ∧ z ∉ (restoreCells s l lo hi).poison) ∧
    ∀ z, z < lo ∨ hi ≤ z → readByte (restoreCells s l lo hi).mem z = readByte s.mem z := by
  have houter (q : Nat → Bool) (m : List Host.Cell) (z : Nat) (hq : q z = false) :
      readByte (m.filter fun e => q e.1) z = unlisted := by rw [readByte_filter, hq]; rfl
  refine ⟨fun z h1 h2 => ⟨?_, fun hp => ?_⟩, fun z hz => ?_⟩
  · have hin : (!(decide (lo ≤ z) && decide (z < hi))) = false := by rw [decide_eq_true h1, decide_eq_true h2]; rfl
    refine (readByte_writeCells _ z (memWf_filter _ _ hl) _ (houter (fun a => !(decide (lo ≤ a) && decide (a < hi))) s.mem z hin)).trans ?_
    rw [readByte_filter (fun a => !!(decide (lo ≤ a) && decide (a < hi))), hin]
    rfl
  · have hout := (List.mem_filter.1 hp).2
    rw [decide_eq_true h1, decide_eq_true h2] at hout
    contradiction
  · have hout : (!(decide (lo ≤ z) && decide (z < hi))) = true := by
      rw [Bool.not_eq_true', Bool.and_eq_false_iff, decide_eq_false_iff_not, decide_eq_false_iff_not]
      omega
    refine (readByte_writeCells_ne _ z (fun e he hez => ?_) _).trans ?_
    · have hin := (List.mem_filter.1 he).2
      dsimp only at hin
      rw [hez, hout] at hin
      contradiction
    · rw [readByte_filter (fun a => !(decide (lo ≤ a) && decide (a < hi))), hout]
      rfl

/-- R93, R256: an uncorrectable instruction word: the device is to roll back, and the core's instruction memory is the code image's. -/
theorem imemFault_spec (s : State) (c : Nat) : (imemFault s c).steep.rollback = true ∧
    (imemFault s c).memsys.errlog = (7, c) :: s.memsys.errlog ∧ (imemFault s c).cores = s.cores ∧
    (s.steep.code = [] → SameMemory s (imemFault s c)) ∧
    (s.steep.code ≠ [] → memWf s.steep.code = true →
      (∀ z, imemBase c ≤ z → z < imemBase c + 0x40000 →
        readByte (imemFault s c).mem z = readByte s.steep.code z ∧ z ∉ (imemFault s c).poison) ∧
      ∀ z, z < imemBase c ∨ imemBase c + 0x40000 ≤ z → readByte (imemFault s c).mem z = readByte s.mem z) := by
  have hreload : reloadImem (notify s 7 c) c = if s.steep.code.isEmpty then notify s 7 c
      else restoreCells (notify s 7 c) s.steep.code (imemBase c) (imemBase c + 0x40000) := rfl
  unfold imemFault
  rw [hreload]
  split_ifs with hcode
  · exact ⟨rfl, rfl, rfl, fun _ => ⟨rfl, rfl⟩, fun hne => absurd (List.isEmpty_iff.1 hcode) hne⟩
  · exact ⟨rfl, rfl, rfl, fun hnil => absurd (List.isEmpty_iff.2 hnil) hcode, fun _ => restoreCells_spec (notify s 7 c) _ _⟩

/-- R247: no reduction unit has an instruction in its queue. -/
def UnitsEmpty (s : State) : Prop := ∀ e ∈ s.cores, e.2.ru.q = []

theorem UnitsEmpty.coreOf {s : State} (h : UnitsEmpty s) (c : Nat) : (Machine.coreOf s c).ru.q = [] := by
  have hget (l : Tab Core) (hl : ∀ e ∈ l, e.2.ru.q = []) : (tabGet {} l c).ru.q = [] := by
    induction l with
    | nil => rfl
    | cons e l ih =>
      obtain ⟨he, hrest⟩ := List.forall_mem_cons.1 hl
      unfold tabGet
      split_ifs
      · exact he
      · exact ih hrest
  exact hget s.cores h

theorem mem_of_tabSet {α : Type} {l : Tab α} {k : Nat} {v : α} {e : Nat × α} (h : e ∈ tabSet l k v) : e = (k, v) ∨ e ∈ l := by
  induction l with
  | nil => exact Or.inl (List.mem_singleton.1 h)
  | cons x l ih =>
    unfold tabSet at h
    split_ifs at h
    · exact (List.mem_cons.1 h).imp id (List.mem_cons_of_mem _)
    · exact List.mem_cons.1 h
    · rcases List.mem_cons.1 h with rfl | h
      · exact Or.inr List.mem_cons_self
      · exact (ih h).imp id (List.mem_cons_of_mem _)

/-- R281: threads of a core that wait for a poisoned word try again; a unit with nothing in its queue does nothing. -/
theorem unitsEmpty_released {s : State} (h : UnitsEmpty s) (c : Nat) (th : Tab Thread) :
    let s' := ruDrain (setCore s c (settle { coreOf s c with th := th })) c
    UnitsEmpty s' ∧ SameMemory s s' ∧ s'.part = s.part := by
  obtain ⟨cur, ran, hsettle⟩ := settle_eq { coreOf s c with th := th }
  have hq : (settle { coreOf s c with th := th }).ru.q = [] := by rw [hsettle]; exact h.coreOf c
  intro s'
  have hs' : s' = setCore s c (settle { coreOf s c with th := th }) := ruDrain_of_empty _ c (by rw [coreOf_setCore]; exact hq)
  rw [hs']
  refine ⟨fun e he => ?_, sameMemory_setCore s c _, rfl⟩
  rcases mem_of_tabSet he with rfl | he
  · exact hq
  · exact h e he

/-- R281: with no instruction in a reduction unit, the release of those that wait for a word changes no memory. -/
theorem releasePoison_kept {s : State} (h : UnitsEmpty s) : SameMemory s (releasePoison s) ∧ (releasePoison s).part = s.part := by
  unfold releasePoison
  generalize s.cores = l
  induction l generalizing s with
  | nil => exact ⟨sameMemory_rfl s, rfl⟩
  | cons e l ih =>
    obtain ⟨hempty, hmem, hpart⟩ := unitsEmpty_released h e.1 _
    obtain ⟨hmem', hpart'⟩ := ih hempty
    exact ⟨sameMemory_trans hmem hmem', hpart'.trans hpart⟩

/-- R281, R282, R289: WORD_REBUILD of a word of HBM, and CORRECTED_WRITEBACK. The functions stand as variables, so that the kernel unfolds
them with no address to look up. -/
theorem wordRebuild_hbm {F : BitVec 48 → List Byte → State → Out} (hF : F = execWordRebuild) {la : BitVec 48} {bytes : List Byte} {s : State}
    (hreg : regionOf s.part la.toNat = .hbm) (hlen : bytes.length = 32) : let a := poisonBase s.part la.toNat
    F la bytes s = .next (if isPoisoned s a && rebuildable s a then releasePoison (countAt (storeBytes s a bytes) a 32) else s) := by
  delta execWordRebuild at hF
  rw [hF]
  beta_reduce
  rw [hreg, hlen]
  dsimp only
  rw [if_neg (by decide : ¬ (32 != 32) = true)]
  split_ifs <;> rfl

theorem correctedWriteback_cases {F : BitVec 48 → State → Out} (hF : F = execCorrectedWriteback) (la : BitVec 48) (s : State) :
    (regionOf s.part la.toNat = .void → F la s = .fault (.voidAddress la.toNat)) ∧
    (regionOf s.part la.toNat ≠ .void → F la s =
      .next { s with memsys := { s.memsys with writebacks := s.memsys.writebacks.erase (la.toNat / 32 * 32) } }) := by
  delta execCorrectedWriteback at hF
  rw [hF]
  beta_reduce
  generalize regionOf s.part la.toNat = reg
  cases reg with
  | void => exact ⟨fun _ => rfl, fun h => absurd rfl h⟩
  | hbm | spad c | imem c | so n | csr => exact ⟨nofun, fun _ => rfl⟩

theorem wordRebuild_spec {la : BitVec 48} {bytes : List Byte} {s : State} (hwf : memWf s.mem = true)
    (hreg : regionOf s.part la.toNat = .hbm) (hlen : bytes.length = 32) : let a := poisonBase s.part la.toNat
    (isPoisoned s a = false ∨ rebuildable s a = false → exec (.wordRebuild la bytes) s = .next s) ∧
    (isPoisoned s a = true → rebuildable s a = true → UnitsEmpty s → ∃ s', exec (.wordRebuild la bytes) s = .next s' ∧
      isPoisoned s' a = false ∧ (∀ i, i < 32 → readByte s'.mem (a + i) = bytes.getD i 0#8) ∧
      ∀ z, z < a ∨ a + 32 ≤ z → readByte s'.mem z = readByte s.mem z) := by
  intro a
  have hexec : exec (.wordRebuild la bytes) s = _ := wordRebuild_hbm rfl hreg hlen
  obtain ⟨hbase, hmod⟩ := regionOf_poisonBase hreg
  refine ⟨fun h => hexec.trans (congrArg _ (if_neg ?_)), fun hp hr hempty => ⟨_, hexec.trans (congrArg _ (if_pos ?_)), ?_⟩⟩
  · rw [Bool.and_eq_true]
    rintro ⟨hp, hr⟩
    rcases h with h | h
    · exact Bool.false_ne_true (h.symm.trans hp)
    · exact Bool.false_ne_true (h.symm.trans hr)
  · exact Bool.and_eq_true_iff.2 ⟨hp, hr⟩
  · have hcount := tallied_countAt (storeBytes s a bytes) a 32
    have hidle : UnitsEmpty (countAt (storeBytes s a bytes) a 32) := by
      unfold UnitsEmpty
      rw [hcount.cores]
      exact hempty
    obtain ⟨hmem, hpart⟩ := releasePoison_kept hidle
    have hsame := sameMemory_trans hcount.sameMemory hmem
    have hstore := storeBytes_word hwf hbase hmod hlen
    rw [isPoisoned_congr hsame (hpart.trans hcount.part), hsame.1]
    exact hstore

theorem scrubAndRebuild_holds : ScrubAndRebuild := by
  intro s hwf
  refine ⟨fun stack ch pc slot hslot => ?_, fun c g f => ⟨exec_scratchpadPatrol_elsewhere, patrol_spec f⟩,
    fun c => ⟨_, rfl, imemFault_spec s c.toNat⟩, fun la bytes => wordRebuild_spec hwf, fun la => ⟨(correctedWriteback_cases rfl la s).1,
    fun h => ⟨_, (correctedWriteback_cases rfl la s).2 h, sameMemory_rfl s, rfl⟩⟩⟩
  intro at_ n a k awake general
  refine ⟨fun e => exec_hbmScrubRead_waits hslot, fun e hawake hfew => ?_⟩
  have hexec := exec_hbmScrubRead_goes (pc := pc) (e := e) hslot hawake hfew
  have hchan : at_ (setChan s stack.toNat ch.toNat (scrubNext k pc)) = (n + 1) % 2 ^ 25 :=
    (congrArg (scrubAt · pc) (chanOf_setChan s _ _ _)).trans (scrubAt_scrubNext k pc)
  refine ⟨fun hok => ?_, fun hbad hreb hfree hreg hmod => ⟨_, hexec, wordDecoded_zeroes _ hbad hreb hfree hreg hmod hwf⟩,
    fun hbad hkeep => ?_⟩
  · obtain ⟨hmem, hchans, _⟩ := wordDecoded_readable (setChan s stack.toNat ch.toNat (scrubNext k pc)) a (scrubDram stack ch pc n) e true hok
    exact ⟨_, hexec, (congrArg (scrubAt · pc) (chanOf_congr hchans _ _)).trans hchan, hmem⟩
  · obtain ⟨hpoison, hmem, _⟩ := wordDecoded_poisons (setChan s stack.toNat ch.toNat (scrubNext k pc)) a (scrubDram stack ch pc n) hbad
      (Or.inr hkeep)
    exact ⟨_, hexec, hpoison, hmem⟩

end Sys2Proof.Machine
end

section
/-!
SUPPORT. Lanes, temperatures and repair (O41): when a lane may be retrained and what that leaves, and a temperature read.
-/

namespace Sys2Proof.Machine

section
variable {stack : BitVec 3} {ch : BitVec 5} {lane eye : BitVec 7} {busy75 : Bool} {s : State}

/-- R283 to R285: lane `lane` of a channel may be retrained now. -/
def LaneReady (s : State) (stack : BitVec 3) (ch : BitVec 5) (lane : BitVec 7) (busy75 : Bool) : Prop :=
  lane.toNat < 64 ∧ lane.toNat ∉ (chanOf s stack.toNat ch.toNat).retrained ∧
    (chanOf s stack.toNat ch.toNat).redundant < Config.redundantLanes ∧
    (tempMoved s stack.toNat = true ∨ (busy75 = true ∧ jobYoung s = true))

theorem laneReady_iff : LaneReady s stack ch lane busy75 ↔ (decide (64 ≤ lane.toNat) ||
    (chanOf s stack.toNat ch.toNat).retrained.contains lane.toNat || !(mayRotate (chanOf s stack.toNat ch.toNat)) ||
    !(tempMoved s stack.toNat || (busy75 && jobYoung s))) = false := by
  simp only [LaneReady, mayRotate, Bool.or_eq_false_iff, decide_eq_false_iff_not, Nat.not_le, Bool.not_eq_false', decide_eq_true_eq,
    Bool.or_eq_true, Bool.and_eq_true, and_assoc, List.contains_eq_mem]

/-- R283: a lane retrained: its eye width is measured, and it is not retrained again. -/
def laneMeasured (k : Chan) (lane eye : BitVec 7) (busy75 : Bool) : Chan :=
  let others := k.loaded.filter (· != lane.toNat)
  { k with eyes := tabSet k.eyes lane.toNat eye.toNat, retrained := lane.toNat :: k.retrained,
           loaded := if busy75 then lane.toNat :: others else others }

/-- R285: the records of a stack's training after a lane of it has been retrained: its temperature, where that was the last of its lanes,
and whether it still runs at 7.2 Gb/s. -/
theorem stackTrained_spec (s1 : State) (stack : Nat) (temps : Tab Int) : ∃ s',
    (let s2 := if stackRetrained s1 stack then { s1 with memsys := { s1.memsys with trainTemps := temps } } else s1
    if lanesAdmitted s2 stack then { s2 with memsys := { s2.memsys with slow := s2.memsys.slow.filter fun x => x != stack } } else s2) = s' ∧
    s'.memsys.chans = s1.memsys.chans ∧ SameMemory s1 s' ∧ ∀ x ∈ s'.memsys.slow, x ∈ s1.memsys.slow := by
  refine ⟨_, rfl, ?_⟩
  dsimp only
  split_ifs
  · exact ⟨rfl, ⟨rfl, rfl⟩, fun x hx => (List.mem_filter.1 hx).1⟩
  · exact ⟨rfl, ⟨rfl, rfl⟩, fun x hx => hx⟩
  · exact ⟨rfl, ⟨rfl, rfl⟩, fun x hx => (List.mem_filter.1 hx).1⟩
  · exact ⟨rfl, ⟨rfl, rfl⟩, fun x hx => hx⟩

/-- R283 to R285: a lane retrained. -/
theorem exec_laneRetrain_ready (h : LaneReady s stack ch lane busy75) : ∃ s', exec (.laneRetrain stack ch lane busy75 eye) s = .next s' ∧
    chanOf s' stack.toNat ch.toNat = laneMeasured (chanOf s stack.toNat ch.toNat) lane eye busy75 ∧ SameMemory s s' ∧
    (∀ x ∈ s'.memsys.slow, x ∈ s.memsys.slow) := by
  let s1 := setChan s stack.toNat ch.toNat (laneMeasured (chanOf s stack.toNat ch.toNat) lane eye busy75)
  obtain ⟨s', hs', hchans, hmem, hslow⟩ := stackTrained_spec s1 stack.toNat
    (tabSet s1.memsys.trainTemps stack.toNat (tabGet 0 s1.memsys.temps stack.toNat))
  refine ⟨s', (if_neg ?_).trans (congrArg Host.Outcome.next hs'), (chanOf_congr hchans _ _).trans (chanOf_setChan _ _ _ _), hmem, hslow⟩
  rw [laneReady_iff.1 h]
  exact Bool.false_ne_true

theorem exec_laneRetrain_notReady (h : ¬ LaneReady s stack ch lane busy75) :
    exec (.laneRetrain stack ch lane busy75 eye) s = .next s := by
  rw [laneReady_iff, Bool.not_eq_false] at h
  exact if_pos h

end

/-- R285: the state after a reading of a stack's temperature, before it is judged. -/
def tempTaken (s : State) (stack : BitVec 3) (temp : BitVec 8) : State :=
  { s with
    memsys := { s.memsys with temps := tabSet s.memsys.temps stack.toNat temp.toInt }
    steep := { s.steep with counts := tabMod 0 s.steep.counts 31 fun n => max n temp.toInt.toNat } }

theorem tempMoved_tempTaken (s : State) (stack : BitVec 3) (temp : BitVec 8) : tempMoved (tempTaken s stack temp) stack.toNat =
    decide (10 < (temp.toInt - tabGet 0 s.memsys.trainTemps stack.toNat).natAbs) := by
  unfold tempMoved
  rw [show tabGet 0 (tempTaken s stack temp).memsys.temps stack.toNat = temp.toInt from tabGet_tabSet_same _ _ _ _]
  rfl

/-- R285: a move of the temperature makes every lane of the stack due again. -/
theorem retrained_due (t : Tab Chan) (stack : BitVec 3) (ch : BitVec 5) :
    (tabGet {} (tabMap t fun n k => if n / 32 = stack.toNat then { k with retrained := [] } else k)
      (stack.toNat * 32 + ch.toNat)).retrained = [] := by
  have hstack : (stack.toNat * 32 + ch.toNat) / 32 = stack.toNat := by omega
  rw [tabGet_tabMap _ _ _ _ (by rw [if_pos hstack]), if_pos hstack]

theorem stackTempRead_spec (stack : BitVec 3) (ch : BitVec 5) (temp : BitVec 8) (s : State) :
    ∃ s', exec (.stackTempRead stack temp) s = .next s' ∧ tabGet 0 s'.memsys.temps stack.toNat = temp.toInt ∧ SameMemory s s' ∧
      (tempMoved s stack.toNat = false → 10 < (temp.toInt - tabGet 0 s.memsys.trainTemps stack.toNat).natAbs →
        (chanOf s' stack.toNat ch.toNat).retrained = []) ∧
      ((temp.toInt - tabGet 0 s.memsys.trainTemps stack.toNat).natAbs ≤ 10 → s'.memsys.chans = s.memsys.chans) := by
  have htemp : tabGet 0 (tempTaken s stack temp).memsys.temps stack.toNat = temp.toInt := tabGet_tabSet_same _ _ _ _
  by_cases h : (!(tempMoved s stack.toNat) && tempMoved (tempTaken s stack temp) stack.toNat) = true
  · refine ⟨_, if_pos h, htemp, ⟨rfl, rfl⟩, fun _ _ => retrained_due _ stack ch, fun hsmall => ?_⟩
    rw [tempMoved_tempTaken, decide_eq_false (Nat.not_lt.2 hsmall), Bool.and_false] at h
    contradiction
  · refine ⟨_, if_neg h, htemp, ⟨rfl, rfl⟩, fun hbefore hbig => ?_, fun _ => rfl⟩
    rw [tempMoved_tempTaken, hbefore, decide_eq_true hbig] at h
    exact absurd rfl h

theorem lanesAndRepair_holds : LanesAndRepair := by
  intro stack ch lane eye busy75 temp row s k due ready answers
  refine ⟨fun h => ?_, exec_laneRetrain_notReady, stackTempRead_spec stack ch temp s, rfl, rfl, rfl, ?_⟩
  · obtain ⟨s', hexec, hchan, hmem, hslow⟩ := exec_laneRetrain_ready (eye := eye) h
    exact ⟨s', hexec, hmem, by rw [hchan]; exact tabGet_tabSet_same _ _ _ _, by rw [hchan]; rfl, hslow⟩
  · obtain ⟨hrow, hkept, hmem⟩ := recordRow_spec s stack.toNat row.toNat
    exact ⟨_, rfl, hrow, hmem, hkept⟩

end Sys2Proof.Machine

open Sys2Proof Sys2Proof.Machine

/-- Settles O41: channel controllers, scrubbing and recovery, and lanes, one by one. -/
theorem hbmAndRepair : Obligations.HbmAndRepair := ⟨channelController_holds, scrubAndRebuild_holds, lanesAndRepair_holds⟩

end

section
/-!
SUPPORT. Answers to other devices (O42): a packet that leaves is on its way on a link, and the answer to a request with it.
-/

namespace Sys2Proof.Machine

/-- Of the state only the failure hiding, the fabric and the boot block differ. -/
def LogsOnly (s s' : State) : Prop := s' = { s with steep := s'.steep, fab := s'.fab, boot := s'.boot }

theorem logsOnly_rfl (s : State) : LogsOnly s s := rfl

theorem logsOnly_trans {a b c : State} (h : LogsOnly a b) (g : LogsOnly b c) : LogsOnly a c := by
  unfold LogsOnly at *
  rw [g, h]

section
variable {s s' : State} (h : LogsOnly s s')
include h

theorem LogsOnly.sameMemory : SameMemory s s' := by rw [h]; exact ⟨rfl, rfl⟩
theorem LogsOnly.cores : s'.cores = s.cores := by rw [h]
theorem LogsOnly.so : s'.so = s.so := by rw [h]

end

theorem countMultiRoute_kept (s : State) (p : Packet) : LogsOnly s (countMultiRoute s p) ∧ (countMultiRoute s p).fab = s.fab := by
  unfold countMultiRoute
  split_ifs <;> exact ⟨rfl, rfl⟩

theorem logMsg_kept (s : State) (op : Nat) (p : Packet) : LogsOnly s (logMsg s op p) ∧ (logMsg s op p).fab = s.fab := by
  unfold logMsg
  dsimp only
  split_ifs <;> exact ⟨rfl, rfl⟩

/-- R403: the outcome of an event leaves its record in the failure hiding alone. -/
theorem outcome_kept (s : State) (ty : Nat) (key : List Nat) (v : Word) :
    LogsOnly s (outcome s ty key v).2 ∧ (outcome s ty key v).2.fab = s.fab := by
  unfold outcome
  split
  · exact ⟨rfl, rfl⟩
  · split_ifs <;> exact ⟨rfl, rfl⟩

/-- R339: a packet handed to a link leaves, or waits behind the others. -/
theorem linkSend_cases (k : Link) (x : Sent) : (linkSend k x).waiting = k.waiting ++ [x] ∨
    (linkSend k x).unacked = k.unacked ++ [(k.txSeq, x)] := by
  unfold linkSend
  split_ifs
  · exact Or.inr rfl
  · exact Or.inl rfl

theorem linkOf_congr {s s' : State} (h : s'.fab = s.fab) (n : Nat) : linkOf s' n = linkOf s n := by rw [linkOf, linkOf, h]

theorem sentOn_linkSend {s s1 : State} (h : ∀ n, linkOf s1 n = linkOf s n) (l op : Nat) (q : Packet) :
    SentOn s (setLink s1 l (linkSend (linkOf s1 l) (op, q))) op q := by
  refine ⟨l, ?_⟩
  rw [linkOf_setLink, ← h]
  exact linkSend_cases _ _

theorem sentOn_waiting {s s1 : State} (h : ∀ n, linkOf s1 n = linkOf s n) (l op : Nat) (q : Packet) :
    SentOn s (setLink s1 l { linkOf s1 l with waiting := (linkOf s1 l).waiting ++ [(op, q)] }) op q := by
  refine ⟨l, Or.inl ?_⟩
  rw [linkOf_setLink, ← h]

/-- R348: what a hop may change of a packet. -/
def HopOf (p q : Packet) : Prop := q = { p with detour := q.detour, vc := q.vc, plane := q.plane }

/-- R339, R348: a packet that leaves is on one link, and nothing but the links, and the count of routes, changes. -/
theorem emit_sends (s : State) (inn : Option Nat) (op : Nat) (p : Packet) : LogsOnly s (emit s inn op p) ∧
    (∃ links, (emit s inn op p).fab = { s.fab with links := links }) ∧ ∃ q, SentOn s (emit s inn op p) op q ∧ HopOf p q := by
  obtain ⟨hlogs, hfab⟩ := countMultiRoute_kept s p
  unfold emit
  dsimp only
  generalize countMultiRoute s p = s1 at hlogs hfab ⊢
  have hlinks (n : Nat) (k : Link) : ∃ links, (setLink s1 n k).fab = { s.fab with links := links } := ⟨_, by rw [← hfab]; rfl⟩
  have hlink := linkOf_congr hfab
  split
  · rename_i l det _
    exact ⟨logsOnly_trans hlogs rfl, hlinks _ _, _, sentOn_linkSend hlink l op _, rfl⟩
  · exact ⟨logsOnly_trans hlogs rfl, hlinks _ _, p, sentOn_waiting hlink _ op p, rfl⟩

/-- An answer that leaves a state with these links is an answer from any state with the same links. -/
theorem Answered.of_links {s s1 s' : State} {op : Nat} {p : Packet} {st : BitVec 16} {v : Word} {data : List Byte}
    (hl : s1.fab.links = s.fab.links) (hd : s1.fab.devnum = s.fab.devnum) (h : Answered s1 s' op p st v data) :
    Answered s s' op p st v data := by
  obtain ⟨q, ⟨n, hsent⟩, hdest, hsrc, hq⟩ := h
  have hlink : linkOf s1 n = linkOf s n := by rw [linkOf, linkOf, hl]
  rw [hlink] at hsent
  exact ⟨q, ⟨n, hsent⟩, hdest, hsrc.trans hd, hq⟩

/-- R344: the response to a request leaves for its source. -/
theorem respond_answers (s : State) (op : Nat) (p : Packet) (st : BitVec 16) (v : Word) (data : List Byte) :
    let s' := respond s (replyOp op) p st v data
    LogsOnly s s' ∧ (∃ links, s'.fab = { s.fab with links := links }) ∧ Answered s s' op p st v data := by
  obtain ⟨hlogs, hfab⟩ := logMsg_kept s (replyOp op) (responseTo s p st v data)
  obtain ⟨hsent, hlinks, q, hq, hhop⟩ := emit_sends (logMsg s (replyOp op) (responseTo s p st v data)) none (replyOp op)
    (responseTo s p st v data)
  rw [hfab] at hlinks
  refine ⟨logsOnly_trans hlogs hsent, hlinks, Answered.of_links (s1 := logMsg s (replyOp op) (responseTo s p st v data)) (by rw [hfab])
    (by rw [hfab]) ⟨q, hq, ?_⟩⟩
  rw [hhop, hfab]
  exact ⟨rfl, rfl, rfl, rfl, rfl, rfl, rfl, rfl, rfl⟩

end Sys2Proof.Machine
end

section
/-!
SUPPORT. Requests at a fabric memory agent (O42): what is dropped and kept as a request comes, and what becomes of one that is performed, is
refused, must wait, or is a repeat.
-/

namespace Sys2Proof.Machine

/-- R344, R366: a packet for this device that may come in is taken. -/
theorem arrive_taken {s : State} {l : BitVec 3} {op : Nat} {p : Packet} (h : TakenHere s l op p) (f : State → State) :
    arrive l op p s f = .next (f s) := by
  obtain ⟨hfits, hup, hhops, ⟨hlevel, hclass⟩, hdest⟩ := h
  have hlvl : (p.level == s.fab.lvlN || p.level + 1#4 == s.fab.lvlN) = true := by simpa using hlevel
  unfold arrive
  simp only [hfits, hup, if_neg hhops, hlvl, hclass, hdest, Bool.not_true, Bool.or_self, Bool.false_eq_true, if_false, bne_self_eq_false]

/-- R359: the state in which a request is looked up: its agent's entries below its low-water mark are gone. -/
def atAgent (s : State) (p : Packet) : State := dropBelow s p.src.toNat p.agent.toNat p.lwm.toNat

/-- Of the state only the fabric memory agents' tables, of entries and of capabilities, differ. -/
def TablesOnly (s u : State) : Prop := u = { s with vercaps := u.vercaps, fab := { s.fab with dedup := u.fab.dedup } }

theorem tablesOnly_atAgent (s : State) (p : Packet) : TablesOnly s (atAgent s p) := rfl

theorem tablesOnly_capHeld {s u : State} (h : TablesOnly s u) (p : Packet) : TablesOnly s (capHeld u p) := by
  unfold TablesOnly at *
  rw [capHeld, h]

section
variable {s u : State} (h : TablesOnly s u)
include h

theorem TablesOnly.sameMemory : SameMemory s u := by rw [h]; exact ⟨rfl, rfl⟩
theorem TablesOnly.part : u.part = s.part := by rw [h]
theorem TablesOnly.cores : u.cores = s.cores := by rw [h]
theorem TablesOnly.so : u.so = s.so := by rw [h]
theorem TablesOnly.objs : u.objs = s.objs := by rw [h]
theorem TablesOnly.steep : u.steep = s.steep := by rw [h]
theorem TablesOnly.boot : u.boot = s.boot := by rw [h]
theorem TablesOnly.links : u.fab.links = s.fab.links := by rw [h]
theorem TablesOnly.devnum : u.fab.devnum = s.fab.devnum := by rw [h]
theorem TablesOnly.held : u.fab.held = s.fab.held := by rw [h]

end

/-- R360: a request without an entry has none when older ones are dropped. -/
theorem dedupOf_atAgent_none {s : State} {p : Packet} (h : dedupOf s p = none) : dedupOf (atAgent s p) p = none :=
  List.find?_eq_none.2 fun e he => List.find?_eq_none.1 h e (List.mem_filter.1 he).1

/-- R360: the entry of a request that its low-water mark does not lie above stays. -/
theorem dedupOf_atAgent_some {s : State} {p : Packet} {q : Dedup} (hlwm : seqBelow p.seq.toNat p.lwm.toNat = false)
    (h : dedupOf s p = some q) : dedupOf (atAgent s p) p = some q := by
  have hkept (e : Dedup) (he : (e.src == p.src.toNat && e.agent == p.agent.toNat && e.seq == p.seq.toNat) = true) :
      (!(e.src == p.src.toNat && e.agent == p.agent.toNat && seqBelow e.seq p.lwm.toNat)) = true := by
    rw [Bool.and_eq_true, beq_iff_eq (a := e.seq)] at he
    rw [he.2, hlwm, Bool.and_false]
    rfl
  unfold dedupOf atAgent dropBelow at *
  refine Eq.trans ?_ h
  dsimp only
  rw [List.find?_filter]
  refine congrArg (List.find? · s.fab.dedup) (funext fun e => ?_)
  rw [Bool.eq_iff_iff, decide_eq_true_eq]
  exact ⟨fun he => he.2, fun he => ⟨hkept e he, he⟩⟩

/-- R360: fewer entries fill no table. -/
theorem dedupFull_atAgent {s : State} {p : Packet} (h : dedupFull s p = false) : dedupFull (atAgent s p) p = false := by
  unfold dedupFull at *
  rw [decide_eq_false_iff_not, Nat.not_le] at *
  refine Nat.lt_of_le_of_lt (List.Sublist.length_le ?_) h
  exact List.Sublist.filter _ List.filter_sublist

/-- R401, R408: a new request is looked at: it has no entry and waits nowhere, and the device neither rolls back nor halts nor replays;
for an RD the message log has room. -/
def LookedAt (s : State) (op : Nat) (p : Packet) : Prop :=
  dedupOf s p = none ∧ stillWaits s p = false ∧ s.steep.rollback = false ∧ deviceHalted s = false ∧ s.steep.replay = [] ∧
    s.fab.held = [] ∧ (op = opRd → steepEn s = false ∨ msgUsed s < msgCap s)

theorem LookedAt.held {s : State} {op : Nat} {p : Packet} (h : LookedAt s op p) : s.fab.held = [] := by
  obtain ⟨-, -, -, -, -, hheld, -⟩ := h
  exact hheld

theorem inTurn_of_no_replay {s : State} (h : s.steep.replay = []) (op : Nat) (p : Packet) : inTurn s op p = true := by
  unfold inTurn
  rw [h]
  exact Bool.or_true _

/-- R360: the state that an applied request leaves before its answer. -/
def noted (u : State) (op : Nat) (p : Packet) (st : BitVec 16) (v : Word) : State :=
  let s2 := if st = stOk then
      if ordered op p then (outcome u 8 [b2n (agentDie u p.src.toNat)] (inRec p)).2 else u
    else u
  if op != opRd && st == stOk then dedupAdd s2 p st v else s2

/-- R360, R403: what becomes of a new request, by what performing it gives. -/
def concluded (op : Nat) (p : Packet) : Served → Option State
  | .hold => none
  | .later u => some (if ordered op p then (outcome u 8 [b2n (agentDie u p.src.toNat)] (inRec p)).2 else u)
  | .done st v data u => some (respond (noted u op p st v) (replyOp op) p st v data)

theorem noted_kept (u : State) (op : Nat) (p : Packet) (st : BitVec 16) (v : Word) : LogsOnly u (noted u op p st v) ∧
    (∃ dedup, (noted u op p st v).fab = { u.fab with dedup := dedup }) ∧
    (op ≠ opRd → st = stOk → (dedupOf (noted u op p st v) p).isSome = true) := by
  obtain ⟨hlogs, hfab⟩ := outcome_kept u 8 [b2n (agentDie u p.src.toNat)] (inRec p)
  unfold noted
  generalize hs2 : (if st = stOk then if ordered op p then (outcome u 8 [b2n (agentDie u p.src.toNat)] (inRec p)).2 else u else u) = s2
  have h2 : LogsOnly u s2 ∧ s2.fab = u.fab := by
    rw [← hs2]
    split_ifs
    · exact ⟨hlogs, hfab⟩
    · exact ⟨logsOnly_rfl u, rfl⟩
    · exact ⟨logsOnly_rfl u, rfl⟩
  obtain ⟨hlogs2, hfab2⟩ := h2
  dsimp only
  split_ifs with hadd
  · refine ⟨logsOnly_trans hlogs2 rfl, ⟨_, by rw [← hfab2]; rfl⟩, fun _ _ => ?_⟩
    exact List.find?_isSome.2 ⟨_, List.mem_append_right _ (List.mem_singleton.2 rfl), by simp⟩
  · refine ⟨hlogs2, ⟨_, hfab2⟩, fun hop hst => absurd ?_ hadd⟩
    rw [hst, bne_iff_ne.2 hop]
    rfl

section
variable {s u : State} {l : BitVec 3} {op : Nat} {p : Packet} {st : BitVec 16} {v : Word} {data : List Byte}

/-- R360, R401, R403: a new request is served. -/
theorem applyReq_new (h : LookedAt s op p) : applyReq (atAgent s p) op p = concluded op p (serve (atAgent s p) op p) := by
  obtain ⟨hnew, hwait, hroll, hhalt, hreplay, _, hroom⟩ := h
  have hfirst : (if op = opRd then none else dedupOf (atAgent s p) p) = none := by rw [dedupOf_atAgent_none hnew, ite_self]
  have hstill : (op != opRd && stillWaits (atAgent s p) p) = false := by
    rw [show stillWaits (atAgent s p) p = stillWaits s p from rfl, hwait, Bool.and_false]
  have hgo : ((atAgent s p).steep.rollback || deviceHalted (atAgent s p) || !(inTurn (atAgent s p) op p)) = false := by
    rw [show (atAgent s p).steep.rollback = s.steep.rollback from rfl, show deviceHalted (atAgent s p) = deviceHalted s from rfl, hroll,
      hhalt, inTurn_of_no_replay (s := atAgent s p) hreplay]
    rfl
  have hlog : ¬ (decide (op = opRd) && steepEn (atAgent s p) && decide (msgCap (atAgent s p) ≤ msgUsed (atAgent s p))) = true := by
    rw [show steepEn (atAgent s p) = steepEn s from rfl, show msgCap (atAgent s p) = msgCap s from rfl,
      show msgUsed (atAgent s p) = msgUsed s from rfl, Bool.and_eq_true, Bool.and_eq_true, decide_eq_true_eq, decide_eq_true_eq]
    rintro ⟨⟨hop, hen⟩, hfull⟩
    rcases hroom hop with hoff | hlt
    · exact Bool.false_ne_true (hoff.symm.trans hen)
    · omega
  unfold applyReq
  simp only [hfirst, hstill, hgo, if_neg hlog, Bool.false_eq_true, if_false]
  cases serve (atAgent s p) op p <;> rfl

theorem takeReq_applied {s1 : State} (h : applyReq (atAgent s p) op p = some s1) (hheld : s1.fab.held = []) : takeReq l op p s = s1 := by
  have hrelease : releaseHeld s1 = s1 := by rw [releaseHeld, hheld]; rfl
  unfold takeReq
  dsimp only
  rw [show dropBelow s p.src.toNat p.agent.toNat p.lwm.toNat = atAgent s p from rfl, h]
  exact hrelease

theorem takeReq_waits (h : applyReq (atAgent s p) op p = none) (hheld : s.fab.held = []) :
    takeReq l op p s = { atAgent s p with fab := { (atAgent s p).fab with held := [(l.toNat, (op, p))] } } := by
  unfold takeReq
  dsimp only
  rw [show dropBelow s p.src.toNat p.agent.toNat p.lwm.toNat = atAgent s p from rfl, h]
  dsimp only
  rw [show (atAgent s p).fab.held = s.fab.held from rfl, hheld]
  rfl

/-- R344, R360: a new request that is served is answered at once, and one that succeeds has its entry. -/
theorem takeReq_done (hgo : LookedAt s op p) (hserve : serve (atAgent s p) op p = .done st v data u)
    (hfab : ∃ dedup, u.fab = { s.fab with dedup := dedup }) :
    Answered s (takeReq l op p s) op p st v data ∧ LogsOnly u (takeReq l op p s) ∧
      (op ≠ opRd → st = stOk → (dedupOf (takeReq l op p s) p).isSome = true) := by
  have happly := applyReq_new hgo
  rw [hserve, concluded] at happly
  obtain ⟨hlogs, ⟨dedup1, hfab1⟩, hentry⟩ := noted_kept u op p st v
  obtain ⟨dedup0, hfab0⟩ := hfab
  obtain ⟨hlogs2, ⟨links, hfab2⟩, hanswer⟩ := respond_answers (noted u op p st v) op p st v data
  generalize noted u op p st v = s3 at happly hlogs hfab1 hentry hlogs2 hfab2 hanswer
  generalize respond s3 (replyOp op) p st v data = s4 at happly hlogs2 hfab2 hanswer
  have hheld : s4.fab.held = [] := by rw [hfab2, hfab1, hfab0]; exact hgo.held
  rw [takeReq_applied happly hheld]
  refine ⟨hanswer.of_links (by rw [hfab1, hfab0]) (by rw [hfab1, hfab0]), logsOnly_trans hlogs hlogs2, fun hop hst => ?_⟩
  rw [dedupOf, hfab2]
  exact hentry hop hst

/-- R250, R408: a new request that must wait is held in the fabric agent, and changes nothing else. -/
theorem takeReq_hold (hgo : LookedAt s op p) (hserve : serve (atAgent s p) op p = .hold) :
    takeReq l op p s = { atAgent s p with fab := { (atAgent s p).fab with held := [(l.toNat, (op, p))] } } := by
  have happly := applyReq_new hgo
  rw [hserve] at happly
  exact takeReq_waits happly hgo.held

/-- R360, R362: a repeat of an applied request is answered from its entry. -/
theorem takeReq_repeat {q : Dedup} (hop : op ≠ opRd) (hheld : s.fab.held = []) (hlwm : seqBelow p.seq.toNat p.lwm.toNat = false)
    (hentry : dedupOf s p = some q) : Answered s (takeReq l op p s) op p q.status q.operand [] ∧ SameMemory s (takeReq l op p s) ∧
    (takeReq l op p s).so = s.so ∧ (takeReq l op p s).cores = s.cores := by
  have hfirst : (if op = opRd then none else dedupOf (atAgent s p) p) = some q := by rw [if_neg hop, dedupOf_atAgent_some hlwm hentry]
  have happly : applyReq (atAgent s p) op p = some (respond (atAgent s p) (replyOp op) p q.status q.operand []) := by
    unfold applyReq
    simp only [hfirst]
  obtain ⟨hlogs, ⟨links, hfab⟩, hanswer⟩ := respond_answers (atAgent s p) op p q.status q.operand []
  generalize respond (atAgent s p) (replyOp op) p q.status q.operand [] = s4 at happly hlogs hfab hanswer
  rw [takeReq_applied happly (by rw [hfab]; exact hheld)]
  exact ⟨hanswer.of_links rfl rfl, hlogs.sameMemory, hlogs.so, hlogs.cores⟩

end

end Sys2Proof.Machine
end

section
/-!
SUPPORT. What serving a request comes to (O42): the checks look at what the agents' tables leave alone, and what each operation answers and
leaves. (The definitions that turn on the region of an address are unfolded as `inboundAt` is, and for the same reason.)
-/

namespace Sys2Proof.Machine

section
variable {s u : State}

theorem capCheck_congr (hb : u.boot = s.boot) (ho : u.objs = s.objs) (hf : u.fab.devnum = s.fab.devnum) (k : BitVec 256) (w : World)
    (need : List Nat) (l : Bool) (la n : Nat) : capCheck u k w need l la n = capCheck s k w need l la n := by
  unfold capCheck sealOk
  rw [hb, ho, hf]

theorem reqNeed_congr (hp : u.part = s.part) (op : Nat) (p : Packet) : reqNeed u op p = reqNeed s op p := by
  have hdef : reqNeed = reqNeed := rfl
  conv at hdef => rhs; delta reqNeed
  rw [hdef]
  beta_reduce
  rw [hp]

theorem imemWriteOk_congr (hp : u.part = s.part) (hc : u.cores = s.cores) (w : World) (r : BitVec 16) (la : Nat) :
    imemWriteOk u w r la = imemWriteOk s w r la := by
  have hdef : imemWriteOk = imemWriteOk := rfl
  conv at hdef => rhs; delta imemWriteOk
  rw [hdef]
  beta_reduce
  rw [hp]
  simp only [coreOf_of_cores hc]

theorem reqRegion_congr (hp : u.part = s.part) (hc : u.cores = s.cores) (op : Nat) (p : Packet) : reqRegion u op p = reqRegion s op p := by
  have hdef : reqRegion = reqRegion := rfl
  conv at hdef => rhs; delta reqRegion
  rw [hdef]
  beta_reduce
  rw [hp, imemWriteOk_congr hp hc]

theorem reqAligned_congr (hp : u.part = s.part) (op : Nat) (p : Packet) : reqAligned u op p = reqAligned s op p := by
  have hdef : reqAligned = reqAligned := rfl
  conv at hdef => rhs; delta reqAligned
  rw [hdef]
  beta_reduce
  rw [hp]

/-- R9, R371: plain memory holds no register. -/
theorem regRead_of_plain {la : Nat} (v : Viewer) (h : PlainAt u la) : regRead u v la = none := by
  have hdef : regRead = regRead := rfl
  conv at hdef => rhs; delta regRead
  rw [hdef]
  beta_reduce
  clear hdef
  unfold PlainAt at h
  generalize regionOf u.part la = g at h ⊢
  rcases h with rfl | ⟨k, rfl⟩ <;> rfl

theorem regWrite_of_plain {la : Nat} (v : Viewer) (w : Word) (h : PlainAt u la) : regWrite u v la w = none := by
  have hdef : regWrite = regWrite := rfl
  conv at hdef => rhs; delta regWrite
  rw [hdef]
  beta_reduce
  clear hdef
  unfold PlainAt at h
  generalize regionOf u.part la = g at h ⊢
  rcases h with rfl | ⟨k, rfl⟩ <;> rfl

/-- R250: room in an inbound buffer is told by the part and the cores. -/
theorem inboundAt_isSome_of_cores (hp : u.part = s.part) (hc : u.cores = s.cores) (la n : Nat) (wr : Bool) :
    (inboundAt u la wr n).isSome = (inboundAt s la wr n).isSome := by
  by_cases hreg : ∃ c, regionOf s.part la = .spad c
  · obtain ⟨c, hreg⟩ := hreg
    rw [inboundAt_spad wr n hreg, inboundAt_spad wr n (hp ▸ hreg), coreOf_of_cores hc]
    split
    · rfl
    · generalize (if wr then (coreOf s c).inWr else (coreOf s c).inRd) = b
      split <;> rfl
  · rw [inboundAt_else wr n (not_exists.1 hreg), inboundAt_else wr n (hp ▸ not_exists.1 hreg)]
    rfl

end

/-- R308, R310: the state in which a request that passes its checks is performed. -/
def admitted (s : State) (p : Packet) : State := capHeld (atAgent s p) p

theorem tablesOnly_admitted (s : State) (p : Packet) : TablesOnly s (admitted s p) := tablesOnly_capHeld (tablesOnly_atAgent s p) p

section
variable {s : State} {op : Nat} {p : Packet}

/-- R308, R360, R361: a request that passes its checks is performed. -/
theorem serve_performs (h : Performs s op p) : serve (atAgent s p) op p =
    if op = opRd then serveRd (admitted s p) p else if op = opWr then serveWr (admitted s p) p
    else if op = opAtom then serveAtom (admitted s p) p else serveSync (admitted s p) p := by
  obtain ⟨-, -, -, -, -, -, hcap, hregion, haligned, hfull⟩ := h
  have ht := tablesOnly_atAgent s p
  have hcap' : capCheck (atAgent s p) p.cap p.world (reqNeed (atAgent s p) op p) p.lvlS p.addr.toNat (reqBytes op p) = 0 := by
    rw [capCheck_congr ht.boot ht.objs ht.devnum, reqNeed_congr ht.part, hcap]
  have hregion' : reqRegion (atAgent s p) op p = true := by rw [reqRegion_congr ht.part ht.cores, hregion]
  have haligned' : reqAligned (atAgent s p) op p = true := by rw [reqAligned_congr ht.part, haligned]
  have hfull' : dedupFull (admitted s p) p = false := dedupFull_atAgent hfull
  unfold serve
  dsimp only
  rw [hcap', hregion', show capHeld (atAgent s p) p = admitted s p from rfl, haligned', hfull', Bool.and_false]
  simp only [bne_self_eq_false, Bool.not_true, Bool.or_self, Bool.false_eq_true, if_false]

/-- R309: a request whose capability fails is refused, and counted. -/
theorem serve_refused (h : capCheck s p.cap p.world (reqNeed s op p) p.lvlS p.addr.toNat (reqBytes op p) ≠ 0) :
    serve (atAgent s p) op p = .done stCapf 0#64 [] (countCapRef (atAgent s p) p.world) := by
  have ht := tablesOnly_atAgent s p
  unfold serve
  rw [capCheck_congr ht.boot ht.objs ht.devnum, reqNeed_congr ht.part, bne_iff_ne.2 h, Bool.true_or]
  rfl

end

section
variable {u u1 : State} {p : Packet}

/-- R250, R345, R421: what a read of plain memory gives, by what became of it at the inbound buffer. -/
def readServed (p : Packet) : Option State → Served
  | none => .hold
  | some s1 =>
    let s := decodeRead s1 p.addr.toNat p.bytes.toNat
    if !(anyPoison s p.addr.toNat p.bytes.toNat) then .done stOk 0#64 (loadBytes s p.addr.toNat p.bytes.toNat) s
    else if steepEn s then .hold
    else .done stPoison 0#64 (List.replicate p.bytes.toNat 0#8) s

/-- R345: an RD of plain memory. -/
theorem serveRd_plain (hplain : PlainAt u p.addr.toNat) (hreplay : p.replay = false) :
    serveRd u p = readServed p (inboundAt u p.addr.toNat false p.bytes.toNat) := by
  have hdef : serveRd = serveRd := rfl
  conv at hdef => rhs; delta serveRd
  rw [hdef]
  beta_reduce
  clear hdef
  have hreg := regRead_of_plain (reqViewer p) hplain
  generalize regRead = read at hreg ⊢
  generalize inboundAt = inbound
  extract_lets a n logged
  have hlogged : (if p.replay = true then logged else none) = none := if_neg (hreplay ▸ Bool.false_ne_true)
  generalize (if p.replay = true then logged else none) = found at hlogged ⊢
  generalize hvalue : read u (reqViewer p) a = value
  obtain rfl := hvalue.symm.trans hreg
  subst hlogged
  change _ = readServed p (inbound u a false n)
  generalize inbound u a false n = q
  cases q <;> rfl

/-- R345: an RD of memory without poison that finds room in the inbound buffer. -/
theorem readServed_some (harr : ArrivalOnly u u1) (hpoison : anyPoison u p.addr.toNat p.bytes.toNat = false) : readServed p (some u1) =
    .done stOk 0#64 (loadBytes u p.addr.toNat p.bytes.toNat) (decodeRead u1 p.addr.toNat p.bytes.toNat) := by
  have hmem : SameMemory u (decodeRead u1 p.addr.toNat p.bytes.toNat) :=
    sameMemory_trans harr.sameMemory ⟨decodeRead_mem _ _ _, decodeRead_poison _ _ _⟩
  have hpart := (memOnly_decodeRead u1 p.addr.toNat p.bytes.toNat).part.trans harr.part
  unfold readServed
  dsimp only
  rw [anyPoison_congr hmem hpart, hpoison, loadBytes_congr hmem]
  rfl

/-- R345: a WR of plain memory that finds room in the undo log and in the inbound buffer. -/
theorem serveWr_plain (hplain : PlainAt u p.addr.toNat) (hundo : undoFull u p.addr.toNat = false)
    (hin : inboundAt u p.addr.toNat true p.data.length = some u1) :
    serveWr u p = .done stOk 0#64 [] (memStore u1 p.addr.toNat p.data) := by
  have hdef : serveWr = serveWr := rfl
  conv at hdef => rhs; delta serveWr
  rw [hdef]
  beta_reduce
  clear hdef
  rw [regWrite_of_plain _ _ hplain, hundo, hin]
  rfl

/-- R250: a WR that finds no room in the inbound buffer waits. -/
theorem serveWr_hold (hplain : PlainAt u p.addr.toNat) (hin : inboundAt u p.addr.toNat true p.data.length = none) :
    serveWr u p = .hold := by
  have hdef : serveWr = serveWr := rfl
  conv at hdef => rhs; delta serveWr
  rw [hdef]
  beta_reduce
  clear hdef
  rw [regWrite_of_plain _ _ hplain, hin]
  exact ite_self _

/-- R119, R345: an ATOM of bytes without poison that finds room in the undo log and in the inbound buffer. -/
theorem serveAtom_eq {size : Nat} {old : Word} {u2 : State} (hsize : 2 ^ field p.fn.toNat 4 2 = size)
    (hundo : undoFull u p.addr.toNat = false) (hin : inboundAt u p.addr.toNat true size = some u1)
    (hpoison : anyPoison (decodeRead u1 p.addr.toNat size) p.addr.toNat size = false)
    (hatom : doAtom (decodeRead u1 p.addr.toNat size) (atomOfFn (field p.fn.toNat 0 4)) size p.addr.toNat p.operand
      (BitVec.ofNat 64 (leNat p.data)) = (old, u2)) : serveAtom u p = .done stOk old [] u2 := by
  have hdef : serveAtom = serveAtom := rfl
  conv at hdef => rhs; delta serveAtom
  rw [hdef]
  beta_reduce
  clear hdef
  generalize inboundAt = inbound at hin ⊢
  generalize doAtom = atom at hatom ⊢
  subst hsize
  extract_lets a size
  generalize hfull : undoFull u a = full
  obtain rfl := hfull.symm.trans hundo
  generalize hroom : inbound u a true size = q
  obtain rfl := hroom.symm.trans hin
  change (if anyPoison (decodeRead u1 a size) a size then _ else
    match atom (decodeRead u1 a size) (atomOfFn (field p.fn.toNat 0 4)) size a p.operand (BitVec.ofNat 64 (leNat p.data)) with
    | (old, s1) => Served.done stOk old [] s1) = _
  rw [if_neg (hpoison ▸ Bool.false_ne_true), hatom]

/-- R373: a SIGNAL. -/
theorem serveSync_signal {n : Nat} {u2 : State} {v : Word} (hreg : regionOf u.part p.addr.toNat = .so n) (hfn : p.fn = 0#16)
    (hsignal : doSignal u n p.operand = (v, u2)) : serveSync u p = .done stOk v [] u2 := by
  have hdef : serveSync = serveSync := rfl
  conv at hdef => rhs; delta serveSync
  rw [hdef]
  beta_reduce
  clear hdef
  rw [hreg, hfn]
  change (match doSignal u n p.operand with | (r, s1) => Served.done stOk r [] s1) = _
  rw [hsignal]

end

/-- R378: an update of an object that is no barrier and for which nothing waits sends nothing. -/
theorem soUpdate_fab_of_alone (s : State) (n : Nat) (o : SyncObj) (hty : o.ty ≠ 2#2) (hwaiters : o.waiters = []) :
    (soUpdate s n o).fab = s.fab := by
  rw [soUpdate_of_not_barrier _ _ _ hty, releaseWaiters]
  simp only [soOf_setSo, hwaiters, List.filter_nil, List.foldl_nil]
  rfl

/-- R373: a SIGNAL on an object that is no barrier and for which nothing waits changes its value, and no packet leaves. -/
theorem doSignal_alone (s : State) (n : Nat) (v : Word) (hty : (soOf s n).ty ≠ 2#2) (hwaiters : (soOf s n).waiters = []) :
    ∃ s2, doSignal s n v = (0#64, s2) ∧ (soOf s2 n).val = signalled (soOf s n).ty (soOf s n).val v ∧ SameMemory s s2 ∧
      s2.fab = s.fab := by
  rw [doSignal, soSignal_eq _ v hty]
  refine ⟨_, rfl, soUpdate_val _ _ _ hty, sameMemory_soUpdate _ _ _, ?_⟩
  exact soUpdate_fab_of_alone _ _ _ hty hwaiters

/-- R403: an atomic sends nothing. -/
theorem doAtom_fab (s : State) (op : AtomOp) (n a : Nat) (b prior : Word) : (doAtom s op n a b prior).2.fab = s.fab :=
  (memOnly_memStore _ a _).fab.trans (outcome_kept s 4 [a / 8] (BitVec.ofNat 64 (leNat (loadBytes s a n)))).2

end Sys2Proof.Machine
end

section
/-!
SUPPORT. What becomes of each request (O42): reads, writes, atomics and signals that are performed, refusals and repeats, and the traffic that
an inbound buffer holds.
-/

namespace Sys2Proof.Machine

theorem TablesOnly.fab {s u : State} (h : TablesOnly s u) : ∃ dedup, u.fab = { s.fab with dedup := dedup } := ⟨u.fab.dedup, by rw [h]⟩

theorem plainAt_of_part {s u : State} (h : u.part = s.part) {la : Nat} (hplain : PlainAt s la) : PlainAt u la := by
  unfold PlainAt at *
  rw [h]
  exact hplain

theorem undoFull_of_part {s u : State} (h : TablesOnly s u) (la : Nat) : undoFull u la = undoFull s la := by
  unfold undoFull steepEn undoCap undoGiB undoUsed
  rw [h.boot, h.part, h.steep]

/-- R401: a write finds room in the undo log, or needs none. -/
theorem undoFull_of_room {s : State} (h : steepEn s = false ∨ undoUsed s < undoCap s) (la : Nat) : undoFull s la = false := by
  unfold undoFull
  rcases h with h | h
  · rw [h, Bool.false_and, Bool.false_and]
  · rw [decide_eq_false (Nat.not_le.2 h), Bool.and_false]

/-- R289, R401: a scratchpad has no undo log. -/
theorem undoFull_spad {s : State} {la c : Nat} (h : regionOf s.part la = .spad c) : undoFull s la = false := by
  have hbeyond : ¬ la < hbmTop s.part := fun hlt => Region.noConfusion ((regionOf_hbm _ _ hlt).symm.trans h)
  rw [undoFull, decide_eq_false hbeyond, Bool.and_false, Bool.false_and]

section
variable {l : BitVec 3} {p : Packet} {s : State}

theorem Performs.looked {op : Nat} (h : Performs s op p) (hroom : op = opRd → steepEn s = false ∨ msgUsed s < msgCap s) :
    LookedAt s op p := by
  obtain ⟨hnew, hwait, hroll, hhalt, hreplay, hheld, -⟩ := h
  exact ⟨hnew, hwait, hroll, hhalt, hreplay, hheld, hroom⟩

theorem Performs.replay {op : Nat} (h : Performs s op p) : s.steep.replay = [] := by
  obtain ⟨-, -, -, -, hreplay, -⟩ := h
  exact hreplay

theorem Performs.looked_of_ne {op : Nat} (h : Performs s op p) (hop : op ≠ opRd) : LookedAt s op p :=
  h.looked fun hrd => absurd hrd hop

/-- R250: where an access finds room in the inbound buffer, it finds it at the agent too. -/
theorem admitted_port {la n : Nat} {wr : Bool} (h : (inboundAt s la wr n).isSome = true) :
    ∃ u1, inboundAt (admitted s p) la wr n = some u1 ∧ ArrivalOnly (admitted s p) u1 := by
  have ht := tablesOnly_admitted s p
  rw [← inboundAt_isSome_of_cores ht.part ht.cores, Option.isSome_iff_exists] at h
  exact h.imp fun u1 h => ⟨h, arrivalOnly_inboundAt h⟩

/-- R252, R278: the decode of what a request reads keeps memory, the part, the failure hiding's state and, but for the table of entries,
the fabric's. -/
theorem decodeRead_kept {u1 : State} (harr : ArrivalOnly (admitted s p) u1) (a n : Nat) : let d := decodeRead u1 a n
    SameMemory s d ∧ d.part = s.part ∧ d.steep = s.steep ∧ ∃ dedup, d.fab = { s.fab with dedup := dedup } := by
  have ht := tablesOnly_admitted s p
  have hread := memOnly_decodeRead u1 a n
  refine ⟨sameMemory_trans (sameMemory_trans ht.sameMemory harr.sameMemory) ⟨decodeRead_mem _ _ _, decodeRead_poison _ _ _⟩,
    hread.part.trans (harr.part.trans ht.part), ?_, ?_⟩
  · rw [decodeRead, foldl_steep _ decodeWord_steep, harr.steep, ht.steep]
  · rw [hread.fab, harr.fab]
    exact ht.fab

theorem rd_served (htaken : TakenHere s l opRd p) (hgo : Performs s opRd p) (hplain : PlainAt s p.addr.toNat)
    (hport : (inboundAt s p.addr.toNat false p.bytes.toNat).isSome = true) (hpoison : anyPoison s p.addr.toNat p.bytes.toNat = false)
    (hfirst : p.replay = false) (hroom : steepEn s = false ∨ msgUsed s < msgCap s) : ∃ s', exec (.rd l p) s = .next s' ∧
      SameMemory s s' ∧ (∀ c t, thOf s' c t = thOf s c t) ∧
      Answered s s' opRd p 0#16 0#64 (loadBytes s p.addr.toNat p.bytes.toNat) := by
  have ht := tablesOnly_admitted s p
  obtain ⟨u1, hin, harr⟩ := admitted_port (p := p) hport
  have hclean : anyPoison (admitted s p) p.addr.toNat p.bytes.toNat = false := by rw [anyPoison_congr ht.sameMemory ht.part, hpoison]
  have hserve := serve_performs hgo
  rw [if_pos rfl, serveRd_plain (plainAt_of_part ht.part hplain) hfirst, hin, readServed_some harr hclean,
    loadBytes_congr ht.sameMemory] at hserve
  obtain ⟨hmem, -, -, hfab⟩ := decodeRead_kept harr p.addr.toNat p.bytes.toNat
  obtain ⟨hanswer, hlogs, -⟩ := takeReq_done (l := l) (hgo.looked fun _ => hroom) hserve hfab
  refine ⟨_, arrive_taken htaken _, sameMemory_trans hmem hlogs.sameMemory, fun c t => ?_, hanswer⟩
  rw [thOf_of_cores hlogs.cores, thOf_of_cores (memOnly_decodeRead u1 _ _).cores, harr.thOf, thOf_of_cores ht.cores]

theorem wr_served (htaken : TakenHere s l opWr p) (hgo : Performs s opWr p) (hplain : PlainAt s p.addr.toNat)
    (hport : (inboundAt s p.addr.toNat true p.data.length).isSome = true) (hroom : undoFull s p.addr.toNat = false) :
    ∃ s' u1, exec (.wr l p) s = .next s' ∧ inboundAt (admitted s p) p.addr.toNat true p.data.length = some u1 ∧
      s'.cores = u1.cores ∧ Answered s s' opWr p 0#16 0#64 [] ∧
      (∀ z, z < p.addr.toNat ∨ p.addr.toNat + p.data.length ≤ z → readByte s'.mem z = readByte s.mem z) ∧
      (∀ i, i < p.data.length → isPoisoned s (p.addr.toNat + i) = false → readByte s'.mem (p.addr.toNat + i) = p.data.getD i 0#8) ∧
      (dedupOf s' p).isSome = true := by
  have ht := tablesOnly_admitted s p
  obtain ⟨u1, hin, harr⟩ := admitted_port (p := p) hport
  have hserve := serve_performs hgo
  rw [if_neg (by decide), if_pos rfl,
    serveWr_plain (plainAt_of_part ht.part hplain) ((undoFull_of_part ht _).trans hroom) hin] at hserve
  have hstore := memOnly_memStore u1 p.addr.toNat p.data
  have hmem := sameMemory_trans ht.sameMemory harr.sameMemory
  obtain ⟨hanswer, hlogs, hentry⟩ := takeReq_done (l := l) (hgo.looked_of_ne (by decide)) hserve (by rw [hstore.fab, harr.fab]; exact ht.fab)
  refine ⟨_, u1, arrive_taken htaken _, hin, hlogs.cores.trans hstore.cores, hanswer, fun z hz => ?_, fun i hi hp => ?_,
    hentry (by decide) rfl⟩
  · rw [hlogs.sameMemory.1, readByte_memStore_beyond u1 _ z _ hz, hmem.1]
  · rw [hlogs.sameMemory.1, readByte_memStore_at u1 _ i _ hi]
    rw [isPoisoned_congr hmem (harr.part.trans ht.part), hp]

theorem atom_served (hwf : Memory.wf s = true) (htaken : TakenHere s l opAtom p) (hgo : Performs s opAtom p)
    (hport : (inboundAt s p.addr.toNat true 8).isSome = true) (hroom : undoFull s p.addr.toNat = false)
    (hsize : p.fn.toNat / 16 % 4 = 3) (hpoison : anyPoison s p.addr.toNat 8 = false) :
    let old := leNat (loadBytes s p.addr.toNat 8)
    ∃ s', exec (.atom l p) s = .next s' ∧ Answered s s' opAtom p 0#16 (BitVec.ofNat 64 old) [] ∧
      leNat (loadBytes s' p.addr.toNat 8) =
        atomNew (atomOfFn (p.fn.toNat % 16)) 64 old p.operand.toNat (leNat p.data % 2 ^ 64) ∧
      (∀ z, z < p.addr.toNat ∨ p.addr.toNat + 8 ≤ z → readByte s'.mem z = readByte s.mem z) ∧ (dedupOf s' p).isSome = true := by
  have ht := tablesOnly_admitted s p
  obtain ⟨u1, hin, harr⟩ := admitted_port (p := p) hport
  obtain ⟨hmem, hpart, hsteep, hfab⟩ := decodeRead_kept harr p.addr.toNat 8
  have hreplay : (decodeRead u1 p.addr.toNat 8).steep.replay = [] := (congrArg Steep.replay hsteep).trans hgo.replay
  have hclean : anyPoison (decodeRead u1 p.addr.toNat 8) p.addr.toNat 8 = false := by rw [anyPoison_congr hmem hpart, hpoison]
  have hserved := fun old u2 => serveAtom_eq (p := p) (old := old) (u2 := u2) (size := 8) (congrArg (2 ^ ·) hsize)
    ((undoFull_of_part ht _).trans hroom) hin hclean
  generalize decodeRead u1 p.addr.toNat 8 = d at *
  obtain ⟨u2, hatom, -, hnew, hbeyond⟩ := doAtom_spec d (atomOfFn (field p.fn.toNat 0 4)) 8 p.addr.toNat p.operand
    (BitVec.ofNat 64 (leNat p.data)) (by decide) hreplay (by rw [hmem.1]; exact hwf) hclean
  have hkept : u2.fab = d.fab := by
    rw [← doAtom_fab d (atomOfFn (field p.fn.toNat 0 4)) 8 p.addr.toNat p.operand (BitVec.ofNat 64 (leNat p.data)), hatom]
  have hserve := serve_performs hgo
  rw [if_neg (by decide), if_neg (by decide), if_pos rfl, hserved _ _ hatom, loadBytes_congr hmem] at hserve
  obtain ⟨hanswer, hlogs, hentry⟩ := takeReq_done (l := l) (hgo.looked_of_ne (by decide)) hserve (by rw [hkept]; exact hfab)
  refine ⟨_, arrive_taken htaken _, hanswer, ?_, fun z hz => ?_, hentry (by decide) rfl⟩
  · rw [loadBytes_congr hlogs.sameMemory, hnew, loadBytes_congr hmem, BitVec.toNat_ofNat, Nat.mod_mod, field, Nat.pow_zero, Nat.div_one,
      Nat.mod_eq_of_lt p.operand.isLt]
    rfl
  · rw [hlogs.sameMemory.1, hbeyond z hz, hmem.1]

theorem sync_served {k : Nat} (htaken : TakenHere s l opSync p) (hgo : Performs s opSync p) (hreg : regionOf s.part p.addr.toNat = .so k)
    (hfn : p.fn = 0#16) (hty : (soOf s k).ty ≠ 2#2) (hwaiters : (soOf s k).waiters = []) : ∃ s', exec (.sync l p) s = .next s' ∧
      Answered s s' opSync p 0#16 0#64 [] ∧ SameMemory s s' ∧
      (soOf s' k).val = signalled (soOf s k).ty (soOf s k).val p.operand ∧ (dedupOf s' p).isSome = true := by
  have ht := tablesOnly_admitted s p
  have hso := soOf_of_so ht.so k
  obtain ⟨u2, hsignal, hval, hmem, hfab⟩ := doSignal_alone (admitted s p) k p.operand (by rw [hso]; exact hty) (by rw [hso]; exact hwaiters)
  rw [hso] at hval
  have hserve := serve_performs hgo
  rw [if_neg (by decide), if_neg (by decide), if_neg (by decide),
    serveSync_signal ((congrArg (regionOf · p.addr.toNat) ht.part).trans hreg) hfn hsignal] at hserve
  obtain ⟨hanswer, hlogs, hentry⟩ := takeReq_done (l := l) (hgo.looked_of_ne (by decide)) hserve (by rw [hfab]; exact ht.fab)
  refine ⟨_, arrive_taken htaken _, hanswer, ?_, ?_, hentry (by decide) rfl⟩
  · exact sameMemory_trans (sameMemory_trans ht.sameMemory hmem) hlogs.sameMemory
  · rw [soOf_of_so hlogs.so, hval]

theorem takeReq_refused {op : Nat} (hgo : LookedAt s op p)
    (hcap : capCheck s p.cap p.world (reqNeed s op p) p.lvlS p.addr.toNat (reqBytes op p) ≠ 0) :
    Answered s (takeReq l op p s) op p 1#16 0#64 [] ∧ SameMemory s (takeReq l op p s) ∧ (takeReq l op p s).so = s.so ∧
      (takeReq l op p s).cores = s.cores := by
  have ht := tablesOnly_atAgent s p
  have hcount := checksOnly_countCapRef (atAgent s p) p.world
  obtain ⟨hanswer, hlogs, -⟩ := takeReq_done (l := l) hgo (serve_refused hcap) (by rw [hcount.fab]; exact ht.fab)
  exact ⟨hanswer, sameMemory_trans (sameMemory_trans ht.sameMemory hcount.sameMemory) hlogs.sameMemory,
    hlogs.so.trans (hcount.so.trans ht.so), hlogs.cores.trans (hcount.cores.trans ht.cores)⟩

/-- R360: a request with no entry of its sender, agent and number has none. -/
theorem dedupOf_of_absent (h : ∀ q ∈ s.fab.dedup, ¬ (q.src = p.src.toNat ∧ q.agent = p.agent.toNat ∧ q.seq = p.seq.toNat)) :
    dedupOf s p = none :=
  List.find?_eq_none.2 fun q hq hfound => h q hq (by simpa [and_assoc] using hfound)

end

theorem servedRequests : ServedRequests := by
  intro l p s hwf a n room port
  refine ⟨fun htaken hgo hplain hport hclean hfirst hroom => rd_served htaken hgo hplain hport hclean hfirst hroom,
    fun htaken hgo hplain hport hroom => ?_, fun htaken hgo _ hport hroom hsize hclean =>
      atom_served hwf htaken hgo hport (undoFull_of_room hroom a) hsize hclean,
    fun k htaken hgo hreg hfn hty hwaiters => sync_served htaken hgo hreg hfn hty hwaiters,
    fun e he htaken hroll hhalt hreplay hheld hwait hroom habsent hcap => ?_, fun e he htaken hheld hlwm q hq => ?_⟩
  · obtain ⟨s', u1, hexec, -, -, hanswer, hbeyond, hat, hentry⟩ := wr_served htaken hgo hplain hport (undoFull_of_room hroom a)
    exact ⟨s', hexec, hanswer, hbeyond, hat, hentry⟩
  · have hgo : LookedAt s e.1 p := ⟨dedupOf_of_absent habsent, hwait, hroll, hhalt, hreplay, hheld, fun _ => hroom⟩
    have hexec : exec e.2 s = arrive l e.1 p s (takeReq l e.1 p) := by fin_cases he <;> rfl
    exact ⟨_, hexec.trans (arrive_taken htaken _), takeReq_refused hgo hcap⟩
  · have hexec : exec e.2 s = arrive l e.1 p s (takeReq l e.1 p) := by fin_cases he <;> rfl
    have hop : e.1 ≠ opRd := by fin_cases he <;> exact Nat.ne_of_beq_eq_false rfl
    exact ⟨_, hexec.trans (arrive_taken htaken _), takeReq_repeat hop hheld hlwm hq⟩

/-- R250: a request that finds no room in the inbound buffer is held in the fabric agent, and changes no memory and no core. -/
theorem takeReq_full {l : BitVec 3} {op : Nat} {p : Packet} {s : State} (hgo : LookedAt s op p)
    (hserve : serve (atAgent s p) op p = .hold) : SameMemory s (takeReq l op p s) ∧ (takeReq l op p s).cores = s.cores ∧
      (takeReq l op p s).fab.held = [(l.toNat, (op, p))] ∧ dedupOf (takeReq l op p s) p = none := by
  rw [takeReq_hold hgo hserve]
  exact ⟨(tablesOnly_atAgent s p).sameMemory, (tablesOnly_atAgent s p).cores, rfl, dedupOf_atAgent_none hgo.1⟩

/-- R250: an access at taken ports, by the room in the core's inbound buffer. -/
theorem inboundAt_taken {s : State} {la c : Nat} (wr : Bool) (n : Nat) (hreg : regionOf s.part la = .spad c)
    (hports : portsTaken (coreOf s c) wr = true) : inboundAt s la wr n =
    if 4096 < (if wr then (coreOf s c).inWr else (coreOf s c).inRd) + n then none
    else some (setCore s c (if wr then { coreOf s c with inWr := (if wr then (coreOf s c).inWr else (coreOf s c).inRd) + n }
      else { coreOf s c with inRd := (if wr then (coreOf s c).inWr else (coreOf s c).inRd) + n })) := by
  rw [inboundAt_spad wr n hreg, hports, Bool.not_true, if_neg Bool.false_ne_true]

theorem inboundAt_free {s : State} {la c : Nat} (wr : Bool) (n : Nat) (hreg : regionOf s.part la = .spad c)
    (hports : portsTaken (coreOf s c) wr = false) : inboundAt s la wr n = some s := by
  rw [inboundAt_spad wr n hreg, hports, Bool.not_false, if_pos rfl]

theorem inboundBuffer : InboundBuffer := by
  intro l p c s hreg k
  have ht := tablesOnly_admitted s p
  have hreg' : regionOf (admitted s p).part p.addr.toNat = .spad c := (congrArg (regionOf · p.addr.toNat) ht.part).trans hreg
  have hcore : coreOf (admitted s p) c = coreOf s c := coreOf_of_cores ht.cores c
  refine ⟨inboundAt_free true _ hreg, inboundAt_free false _ hreg, fun htaken hgo hports => ⟨fun hroom => ?_, fun hfull => ?_⟩,
    fun htaken hgo hports hfirst hlog hfull => ?_⟩
  · have hport := inboundAt_taken true p.data.length hreg hports
    have hport' := inboundAt_taken true p.data.length hreg' (by rw [hcore]; exact hports)
    rw [if_pos rfl, if_neg (Nat.not_lt.2 hroom)] at hport
    rw [hcore, if_pos rfl, if_neg (Nat.not_lt.2 hroom)] at hport'
    obtain ⟨s', u1, hexec, hin, hcores, -⟩ := wr_served htaken hgo (Or.inr ⟨c, hreg⟩) (by rw [hport]; rfl) (undoFull_spad hreg)
    rw [hport', Option.some.injEq] at hin
    refine ⟨s', hexec, ?_⟩
    rw [coreOf_of_cores hcores, ← hin, coreOf_setCore]
    rfl
  · have hserve := serve_performs hgo
    have hport := inboundAt_taken true p.data.length hreg' (by rw [hcore]; exact hports)
    rw [hcore, if_pos rfl, if_pos hfull] at hport
    rw [if_neg (by decide), if_pos rfl, serveWr_hold (Or.inr ⟨c, hreg'⟩) hport] at hserve
    exact ⟨_, arrive_taken htaken _, takeReq_full (hgo.looked_of_ne (by decide)) hserve⟩
  · have hserve := serve_performs hgo
    have hport := inboundAt_taken false p.bytes.toNat hreg' (by rw [hcore]; exact hports)
    rw [hcore, if_neg Bool.false_ne_true, if_pos hfull] at hport
    rw [if_pos rfl, serveRd_plain (Or.inr ⟨c, hreg'⟩) hfirst, hport] at hserve
    obtain ⟨hmem, hcores, hheld, -⟩ := takeReq_full (l := l) (hgo.looked fun _ => hlog) hserve
    exact ⟨_, arrive_taken htaken _, hmem, hcores, hheld⟩

end Sys2Proof.Machine

open Sys2Proof Sys2Proof.Machine

/-- Settles O42: a request that passes its checks is served with its agent's tables alone changed before it, so that each operation acts on
the memory, the objects and the cores as they were; its answer leaves on a link; where the inbound buffer has no room it is held. -/
theorem fabricRequests : Obligations.FabricRequests := ⟨servedRequests, inboundBuffer⟩

end
